-- ==== Sys2Proof/Word.lean ====
section
/-! DEFINITION. The trit, the 27-trit word and the 81-trit mask of the KT-243 (R3, R4, R9, R10, R26), with their
plainest arithmetic. A word is kept as the integer it denotes: R26 makes the two the same thing. -/

namespace Sys2Proof

/-- A trit (R3). -/
inductive Trit where
  | minus | zero | plus
deriving DecidableEq, Repr, Inhabited

/-- The number a trit stands for (R3). -/
def Trit.val : Trit → Int
  | .minus => -1
  | .zero => 0
  | .plus => 1

/-- The sign of an integer as a trit. -/
def Trit.sgn (x : Int) : Trit :=
  if x < 0 then .minus else if x = 0 then .zero else .plus

/-- Negation inverts a trit (R27). -/
def Trit.neg : Trit → Trit
  | .minus => .plus
  | .zero => .zero
  | .plus => .minus

/-- The largest integer of `n` trits, (3^n − 1)/2 (R26). -/
def maxTrits (n : Nat) : Int := (3 ^ n - 1) / 2

/-- The largest integer of 27 trits (R26, R30). -/
def wordMax : Int := 3812798742493

/-- `wrap(x, n)` of R11: `x` modulo 3^n, in the balanced range of `n` trits. -/
def wrap (x : Int) (n : Nat) : Int := (x + maxTrits n) % 3 ^ n - maxTrits n

/-- `sat(x, n)` of R11: `x` clamped to the balanced range of `n` trits. -/
def sat (x : Int) (n : Nat) : Int := max (-maxTrits n) (min x (maxTrits n))

/-- A word of 27 trits (R9), held as the integer it denotes (R26). The range comes with the number, so no other value
can be built. -/
structure Word where
  val : Int
  ok : -3812798742493 ≤ val ∧ val ≤ 3812798742493
deriving DecidableEq, Repr

theorem wrap27_range (x : Int) : -3812798742493 ≤ wrap x 27 ∧ wrap x 27 ≤ 3812798742493 := by
  have h3 : (3 : Int) ^ 27 = 7625597484987 := by norm_num
  have hm : maxTrits 27 = 3812798742493 := by unfold maxTrits; norm_num
  unfold wrap
  rw [h3, hm]
  omega

/-- The word whose value is `x` reduced into 27 trits. -/
def Word.ofInt (x : Int) : Word := ⟨wrap x 27, wrap27_range x⟩

/-- The word of 27 zero trits. -/
def Word.zero : Word := ⟨0, by decide⟩

/-- The word of 27 plus trits. -/
def Word.ones : Word := ⟨3812798742493, by decide⟩

/-- The word of a count or an index. -/
def Word.ofNat (n : Nat) : Word := Word.ofInt (Int.ofNat n)

/-- The word +1, 0 or −1 of a trit. -/
def Word.ofTrit (t : Trit) : Word := Word.ofInt t.val

theorem Word.ext_val {a b : Word} (h : a.val = b.val) : a = b := by
  cases a; cases b; simp_all

/-- One word for each of the 81 lanes of a gust (R10). -/
structure Lanes where
  data : List Word
  len : data.length = 81
deriving DecidableEq, Repr

/-- The vector whose lane `l` holds `f l`. -/
def Lanes.tab (f : Nat → Word) : Lanes := ⟨(List.range 81).map f, by simp⟩

/-- Lane `l` of a vector; lanes run from 0 to 80. -/
def Lanes.get (v : Lanes) (l : Nat) : Word := v.data.getD l Word.zero

/-- The vector that holds `w` in every lane. -/
def Lanes.splat (w : Word) : Lanes := ⟨List.replicate 81 w, by simp⟩

theorem Lanes.get_tab (f : Nat → Word) (l : Nat) (h : l < 81) : (Lanes.tab f).get l = f l := by
  simp [Lanes.get, Lanes.tab, List.getD, h]

theorem Lanes.get_splat (w : Word) (l : Nat) (h : l < 81) : (Lanes.splat w).get l = w := by
  unfold Lanes.get Lanes.splat
  rw [List.getD_replicate _ h]

/-- 81 trits as three words: trit `l mod 27` of word `l / 27` belongs to lane `l` (R10, R185). -/
structure Mask where
  b0 : Word
  b1 : Word
  b2 : Word
deriving DecidableEq, Repr

/-- The mask of 81 zero trits. -/
def Mask.zero : Mask := ⟨Word.zero, Word.zero, Word.zero⟩

/-- The mask of 81 plus trits. -/
def Mask.ones : Mask := ⟨Word.ones, Word.ones, Word.ones⟩

end Sys2Proof
end

