-- ==== Sys2Proof/Machine/Trits.lean ====
section
/-! DEFINITION. Trits and trit fields of integers (R5, R26 to R28, R30): dropping trits, reading and writing a field,
and the packed elements of a word. -/

namespace Sys2Proof

/-- 3^n as an integer. -/
def pow3 (n : Nat) : Int := Int.ofNat (3 ^ n)

/-- The largest integer of `n` trits (R26). -/
def maxT (n : Nat) : Int := Int.ofNat ((3 ^ n - 1) / 2)

/-- `x` with its `k` lowest trits dropped: the integer nearest to x / 3^k (R28). -/
def dropT (x : Int) (k : Nat) : Int := (x + maxT k) / pow3 k

/-- `x` reduced into `n` trits (R11). -/
def wrapT (x : Int) (n : Nat) : Int := (x + maxT n) % pow3 n - maxT n

/-- `x` clamped to `n` trits (R11). -/
def satT (x : Int) (n : Nat) : Int := max (-(maxT n)) (min x (maxT n))

/-- Whether `x` is an integer of `n` trits. -/
def fitsT (x : Int) (n : Nat) : Bool := decide (-(maxT n) ≤ x ∧ x ≤ maxT n)

/-- Trit `i` of `x`, as −1, 0 or +1. -/
def tritI (x : Int) (i : Nat) : Int := wrapT (dropT x i) 1

/-- Trit `i` of `x`. -/
def tritAt (x : Int) (i : Nat) : Trit := Trit.sgn (tritI x i)

/-- The value of trits hi..lo of `x`. -/
def fld (x : Int) (hi lo : Nat) : Int := wrapT (dropT x lo) (hi + 1 - lo)

/-- `x` with trits hi..lo set to `v`. -/
def setFld (x : Int) (hi lo : Nat) (v : Int) : Int := x + (v - fld x hi lo) * pow3 lo

/-- The `n` lowest trits of `x`, lowest first. -/
def tritsOf (x : Int) : Nat → List Int
  | 0 => []
  | n + 1 => wrapT x 1 :: tritsOf (dropT x 1) n

/-- The number whose trits are listed, lowest first. -/
def ofTrits : List Int → Int
  | [] => 0
  | t :: ts => t + 3 * ofTrits ts

/-- The sign of an integer. -/
def sgnI (x : Int) : Int := if x < 0 then -1 else if x = 0 then 0 else 1

/-- The `n` elements of `w` trits each of a word, lowest first (R30). -/
def elems (x : Int) (w : Nat) : Nat → List Int
  | 0 => []
  | n + 1 => wrapT x w :: elems (dropT x w) w n

/-- The word that packs elements of `w` trits, lowest first (R30). -/
def packElems (w : Nat) : List Int → Int
  | [] => 0
  | x :: xs => x + pow3 w * packElems w xs

/-- The integer nearest to a / b for positive b; a tie goes toward zero (R29, R142). -/
def nearestDiv (a b : Int) : Int :=
  if a ≥ 0 then (2 * a + b - 1) / (2 * b) else -((2 * (-a) + b - 1) / (2 * b))

/-- The word whose trits are those of a field of trits. -/
def Word.tritAt (w : Word) (i : Nat) : Trit := Sys2Proof.tritAt w.val i

/-- Trit `l` of a mask (R10, R95). -/
def Mask.get (m : Mask) (l : Nat) : Trit :=
  if l < 27 then m.b0.tritAt l else if l < 54 then m.b1.tritAt (l - 27) else m.b2.tritAt (l - 54)

/-- The 27 trits of a word as a list, lowest first. -/
def Word.trits (w : Word) : List Int := tritsOf w.val 27

/-- The 81 trits of a mask, lane 0 first. -/
def Mask.trits (m : Mask) : List Int := m.b0.trits ++ m.b1.trits ++ m.b2.trits

/-- The mask whose trit `l` is `f l`. -/
def Mask.tab (f : Nat → Trit) : Mask :=
  let beat := fun k => Word.ofInt (ofTrits ((List.range 27).map fun i => (f (27 * k + i)).val))
  ⟨beat 0, beat 1, beat 2⟩

/-- Word `k` of a mask. -/
def Mask.word (m : Mask) (k : Nat) : Word :=
  match k with
  | 0 => m.b0
  | 1 => m.b1
  | _ => m.b2

/-- A mask with word `k` replaced. -/
def Mask.setWord (m : Mask) (k : Nat) (w : Word) : Mask :=
  match k with
  | 0 => { m with b0 := w }
  | 1 => { m with b1 := w }
  | _ => { m with b2 := w }

end Sys2Proof
end

