-- ==== Sys2Proof/Config.lean ====
section
/-! DEFINITION. What is fixed for one machine: the rated figures the rules quote (R12, R15, R419 and others), and the
FREE VALUES, constants without a body, for what the manual leaves open. Nothing can be proved about a free value but
what holds for every value of it. -/

namespace Sys2Proof.Config

/-- DESIGN CHOICE (log entry 3): which of the agents that can act acts next, and the device's other "either … or"
choices (R8, R18, R227, R292, R302, R366, R391). Applied to a counter that the choice advances. -/
opaque freeChoice : Nat → Nat

/-- DESIGN CHOICE (log entry 6): the trits of an unspecified value (R8), applied to a counter that each use advances. -/
opaque freeValue : Nat → Int

/-- DESIGN CHOICE (log entry 8): which of the two allowed neighbours an F27 special function returns (R161); a function
of the form and the operand, since R153 makes every form deterministic. -/
opaque freeNeighbour : Nat → Int → Bool

/-- DESIGN CHOICE (log entry 9): a byte of flash storage that no PGOUT has written. -/
opaque storageByte : Nat → BitVec 8

/-- DESIGN CHOICE (log entry 9): a byte of host memory that nothing has written. -/
opaque hostByte : Nat → BitVec 8

/-- DESIGN CHOICE (log entry 10): whether a firmware image carries a valid Falcon-1024 signature (R459). -/
opaque signatureOk : List (BitVec 8) → Bool

/-- DESIGN CHOICE (log entry 10): the signature the firmware returns for an attestation (R461). -/
opaque attestationSignature : List (BitVec 8) → List (BitVec 8) → List (BitVec 8) → List (BitVec 8)

/-- DESIGN CHOICE (log entry 31): the settings a configuration block holds (R460), as device number, storage controllers and
power limit, if it sets one: the spec gives the block no layout. -/
opaque configSettings : List (Nat × BitVec 8) → Nat × List Nat × Option Nat

/-- DESIGN CHOICE (log entry 24): the device numbers that no route of the Zargen system reaches at first (R423, R425). -/
opaque unreached : List Nat

/-- Cores of the package: 9 dies of 27 (R15). -/
def cores : Nat := 243
/-- Cores of a cluster; cores 24..26 are L-cores (R15). -/
def coresPerDie : Nat := 27
/-- Contexts (R20). -/
def contexts : Nat := 27
/-- Physical lines of device HBM4 (R296). -/
def deviceLines : Nat := 3000000000
/-- Scratchpad words of a core (R175). -/
def scratchWords : Nat := 531441
/-- Accumulator tiles, named barriers and D-core vector registers of a core (R15). -/
def tilesPerCore : Nat := 2187
/-- Operand slots of a core (R15). -/
def slotsPerCore : Nat := 81
/-- Instructions of a core's instruction scratchpad (R15). -/
def codePerCore : Nat := 19683
/-- Depth of the copy, codec, matrix and fill queues (R222, R319). -/
def queueDepth : Nat := 27
/-- Depth of the paging queue (R319). -/
def pagingDepth : Nat := 243
/-- Live fronts the device holds (R355). -/
def maxFronts : Nat := 19683
/-- Queue heads and waiter entries of a home slice (R258). -/
def queueHeads : Nat := 27
def waiterEntries : Nat := 243
/-- Ticks of the latch hand-off lease (R262). -/
def latchLease : Nat := 27000
/-- Ticks between deadlock probes (R265). -/
def probeInterval : Nat := 729000
/-- Ticks after which a waiting lane is retranslated (R311). -/
def retranslateTicks : Nat := 729000
/-- Ticks after which a shutter save is forced (R409). -/
def forcedTicks : Nat := 9000
/-- Ticks of an inter-die request timeout (R414) and of a remote or host one (R425). -/
def requestTicks : Nat := 243000
def zargenTicks : Nat := 2187000
/-- Entries of the core TLB, the walk-ahead TLB and the walk cache (R305). -/
def tlbEntries : Nat := 729
def walkAheadEntries : Nat := 81
def walkCacheEntries : Nat := 243

end Sys2Proof.Config
end

