-- ==== Sys2Proof/Fields.lean ====
section
/-! DEFINITION. The alternatives an instruction's fields can hold (R58 to R63, R72, R113, R203, R213, R217, R225, R234,
R254, R343), and the data the steps of the other agents carry. -/

namespace Sys2Proof

/-- Element types of layout T (R58). -/
inductive ETy where
  | i27 | i9 | t3 | w1 | f27 | f9 | bw | b3
deriving DecidableEq, Repr

/-- Operand shapes of layout T (R59): vector; scalar; vector with scalar b; vector with immediate b; scalar with
immediate b. -/
inductive Shape where
  | vv | ss | vs | vi | si
deriving DecidableEq, Repr

/-- Ordering codes (R61). -/
inductive Order where
  | rlx | acq | rel | ar | sc
deriving DecidableEq, Repr

/-- Scope codes (R62). -/
inductive Scope where
  | gu | sq | cl | dv | sy
deriving DecidableEq, Repr

/-- Address spaces (R72): global, window, scratchpad. -/
inductive Space where
  | g | w | p
deriving DecidableEq, Repr

/-- Base class of a memory operand (R72). -/
inductive BaseCls where
  | scalar | vector | none
deriving DecidableEq, Repr

/-- Register classes (R70). -/
inductive Cls where
  | v | s | p | q | o | a | b
deriving DecidableEq, Repr

/-- The guard (R65) and the hint field (R68) every instruction carries. -/
structure Ctl where
  guard : Int
  hint : Int
deriving DecidableEq, Repr

/-- The operands of a form of mod layout T: type, shape, variant, the register indices and the immediate word. A field
the shape does not use holds 0. -/
structure TOps where
  ty : ETy
  sh : Shape
  var : Trit
  d : Nat
  a : Nat
  b : Nat
  imm : Int
deriving DecidableEq, Repr

/-- The operands of a form of mod layout M with a memory operand (R57, R72). -/
structure MOps where
  ord : Order
  scope : Scope
  ev : Int
  bc : BaseCls
  space : Space
  d : Nat
  a : Nat
  b : Nat
  off : Int
deriving DecidableEq, Repr

/-- The operations of AMOP and ATOM (R203). -/
inductive Rmw where
  | swap | add | adds | min | max | and | or | cas | fadd
deriving DecidableEq, Repr

/-- The compare field of CAS (R254). -/
inductive CasField where
  | word | t0 | t1 | t2
deriving DecidableEq, Repr

/-- The mode of BRP (R113). -/
inductive BrpMode where
  | any | all | none | unk
deriving DecidableEq, Repr

/-- MMA formats (R223, R234). -/
inductive MFmt where
  | i9 | f9 | f27 | w1i9 | w1f9
deriving DecidableEq, Repr

/-- Sources of OFILL (R213). -/
inductive FillSrc where
  | regs
  | loc (sp : Space) (off : Int)
  | frame
deriving DecidableEq, Repr

/-- Sources of ALD (R225). -/
inductive AldSrc where
  | regs
  | loc (sp : Space) (off : Int) (ev : Int)
deriving DecidableEq, Repr

/-- Destination kinds of THAW (R343). -/
inductive ThawKind where
  | glob (sp : Space)
  | ring
  | slots
deriving DecidableEq, Repr

/-- A number operand given at once or in a scalar (BWAIT, PRIO: R330, R375). -/
inductive NumSrc where
  | imm (n : Int)
  | reg (a : Nat)
deriving DecidableEq, Repr

/-- Names one gust: front number, linear squall index, gust index (R257, R353). -/
structure GustRef where
  front : Nat
  lin : Nat
  gust : Nat
deriving DecidableEq, Repr

/-- Names one squall. -/
structure SqRef where
  front : Nat
  lin : Nat
deriving DecidableEq, Repr

/-- Where a line lies after translation (R299, R304): device HBM4, host memory, another device, or, for a window word,
the core whose window holds it (R184). -/
inductive Loc where
  | dev (line : Nat)
  | host (line : Nat)
  | remote (device : Nat) (line : Nat)
  | win (core : Nat)
deriving DecidableEq, Repr

/-- An engine queue (R319). -/
inductive EngQ where
  | copy (core : Nat)
  | codec (core : Nat)
  | paging
deriving DecidableEq, Repr

/-- A write on its way to its unit: a home slice, a rim port, another core's store, or the L1 slice of its own die (`narrow`,
R239, R274). It holds the sending die 0..11, its stamp (R281), the word and its value, the gust whose unacknowledged writes count
it (R276) with its context, the eviction code, the tick at which the translation it used ends (R306), the fault record of the
instruction that made it, for a machine check where it applies (R397, R414), and the tick at which it was sent (R414). -/
structure WriteMsg where
  die : Nat
  stamp : List Nat
  loc : Loc
  word : Nat
  val : Word
  src : Option GustRef
  ctx : Nat
  ev : Int
  lease : Nat
  narrow : Bool := false
  words : List Word := []
  sentAt : Nat := 0
deriving DecidableEq, Repr

/-- A latch request on its way from an L1 slice of a die to the home slice (R257, R270), with the tick at which the translation it
used ends (R306), the fault record of its instruction (R397) and the tick at which it was sent (R414). -/
structure LatchReq where
  who : GustRef
  ctx : Nat
  die : Nat
  line : Nat
  first : Nat
  cnt : Nat
  timed : Bool
  deadline : Nat
  vaddr : Int
  ev : Int
  lease : Nat := 3 ^ 60
  words : List Word := []
  sentAt : Nat := 0
deriving DecidableEq, Repr

/-- A latch release on its way from an L1 slice of a die to the home slice (R260, R271), with the die's clock (R281, R288). -/
structure LatchRel where
  who : GustRef
  die : Nat
  stamp : List Nat
  line : Nat
  first : Nat
  cnt : Nat
  sus : Bool
deriving DecidableEq, Repr

/-- A grant, or another end of a latch request, on its way to the gust (R260, R261): a grant carries the span's words as they
stood at the home, and the clock of its sectors (R281). -/
structure LatchGrant where
  who : GustRef
  line : Nat
  first : Nat
  cnt : Nat
  status : Int
  ev : Int
  words : List Word
  clk : List Nat
deriving DecidableEq, Repr

/-- A deadlock probe: the waiters on its path, origin first, each with its line and the entry's state stamp (R265). -/
structure Probe where
  path : List (GustRef × Nat × Nat)
deriving DecidableEq, Repr

/-- A Zargen packet (R424): the device it goes to, the sending device, a word of a line, a value, the comparand
of a compare-and-swap, its number, and whether its data arrives poisoned (R425). -/
structure ZPacket where
  dest : Nat
  src : Nat
  line : Nat
  word : Nat
  val : Word
  cmp : Word
  op : Rmw
  ty : ETy
  seq : Nat
  bad : Bool := false
deriving DecidableEq, Repr

/-- What a lost or poisoned flit carried (R422); a link between two dies that does not retrain (R422); a flit that replay recovers at
a die (R421); a Zargen packet replayed at a rim die (R425). -/
inductive FlitKind where
  | data (ctx : Nat)
  | write (line : Nat) (sectors : List Nat)
  | directory (line : Nat) (sectors : List Nat)
  | request (ctx : Nat)
  | link (a b : Nat)
  | recovered (die : Nat)
  | packet (rim : Nat)
deriving DecidableEq, Repr

/-- A request between dies that no answer came to (R414): one of a context's, or directory traffic of some sectors of a line. -/
inductive TimedOut where
  | ctx (ctx : Nat)
  | directory (line : Nat) (sectors : List Nat)
deriving DecidableEq, Repr

/-- What a machine check names (R397): the failing physical word address, or 0, and the fault record of the instruction whose access
fails, empty where none does. -/
structure CheckAt where
  addr : Int
  words : List Word := []
deriving DecidableEq, Repr

/-- The word a soft error strikes (R53). -/
inductive SoftPlace where
  | core (core : Nat) (u : Nat)
  | l1 (die : Nat) (loc : Loc) (word : Nat)
  | near (die : Nat) (line : Nat) (word : Nat)
  | home (line : Nat) (word : Nat)
deriving DecidableEq, Repr

/-- The function a host access comes through (R428). -/
inductive HostFn where
  | pf
  | vf (k : Nat)
deriving DecidableEq, Repr

/-- What the driver decides about the state-mapping table of a MIGR point in one direction (R381, R383): whether it builds one, and the
kinds and indices of the registers that the table carries, everything where none are named. -/
structure MapPick where
  point : Nat
  toD : Bool
  made : Bool
  regs : Option (List (Int × Nat))
deriving DecidableEq, Repr

/-- A module load (R452): the context it is for, the function the host's driver comes through and whether it asks for privilege
(R394), the lines of the container in shell form (R48, R446), the first word address of the part of the context's space g that the
driver has set aside for it, and what the driver decides about state-mapping tables. -/
structure ModuleLoad where
  ctx : Nat
  fn : HostFn
  priv : Bool
  code : List (List (BitVec 8))
  base : Int
  maps : List MapPick
deriving DecidableEq, Repr

/-- What firmware puts into a bind record (R362). -/
structure BindChoice where
  die : Nat
  front : Nat
  policy : Trit
  coreSet : Word
  quantum : Nat
deriving DecidableEq, Repr

end Sys2Proof
end

