-- ==== Sys2Proof/Syntax.lean ====
section
/-! DEFINITION. `Instr`: one constructor per row of spec/opcode_table.json. The first 138 are the instruction forms (R92,
with CPY's frame form as its own row); the rest are the steps of the machine's other agents. -/

namespace Sys2Proof

/-- The instruction forms and the steps of the machine. Registers are given by index (R69); a step's arguments say what
it is about. -/
inductive Instr where
  -- control (R113)
  | nop (c : Ctl)
  | bra (c : Ctl) (off : Int)
  | brp (c : Ctl) (mode : BrpMode) (p : Nat) (off : Int)
  | btri (c : Ctl) (a : Nat) (plus : Int) (minus : Int)
  | split (c : Ctl) (p : Nat) (join : Int) (els : Int)
  | join (c : Ctl)
  | breakOut (c : Ctl) (n : Nat)
  | call (c : Ctl) (d : Nat) (off : Int)
  | calli (c : Ctl) (d : Nat) (a : Nat)
  | ret (c : Ctl) (a : Nat)
  | exit (c : Ctl)
  | yield (c : Ctl) (n : Nat)
  | yieldExpiry (r : GustRef)
  -- integer (R138)
  | add (c : Ctl) (o : TOps)
  | sub (c : Ctl) (o : TOps)
  | neg (c : Ctl) (o : TOps)
  | mul (c : Ctl) (o : TOps)
  | mulh (c : Ctl) (o : TOps)
  | mad (c : Ctl) (o : TOps)
  | div (c : Ctl) (o : TOps)
  | mod (c : Ctl) (o : TOps)
  | sht (c : Ctl) (o : TOps)
  | abs (c : Ctl) (o : TOps)
  | sgn (c : Ctl) (o : TOps)
  | min (c : Ctl) (o : TOps)
  | max (c : Ctl) (o : TOps)
  | clamp (c : Ctl) (o : TOps)
  | cmp (c : Ctl) (o : TOps)
  -- trit-wise
  | tand (c : Ctl) (o : TOps)
  | tor (c : Ctl) (o : TOps)
  | tsum (c : Ctl) (o : TOps)
  | tmul (c : Ctl) (o : TOps)
  | tcon (c : Ctl) (o : TOps)
  | trot (c : Ctl) (o : TOps)
  | tcnt (c : Ctl) (o : TOps)
  | text (c : Ctl) (o : TOps)
  | tins (c : Ctl) (o : TOps)
  | pack3 (c : Ctl) (o : TOps)
  | unpk3 (c : Ctl) (o : TOps)
  -- moves and predicates
  | mov (c : Ctl) (o : TOps)
  | movi (c : Ctl) (o : TOps)
  | pset (c : Ctl) (o : TOps)
  | pand (c : Ctl) (d a b : Nat)
  | por (c : Ctl) (d a b : Nat)
  | pnot (c : Ctl) (d a : Nat)
  -- floating (R151)
  | fadd (c : Ctl) (o : TOps)
  | fsub (c : Ctl) (o : TOps)
  | fmul (c : Ctl) (o : TOps)
  | fma (c : Ctl) (o : TOps)
  | fmin (c : Ctl) (o : TOps)
  | fmax (c : Ctl) (o : TOps)
  | fcmp (c : Ctl) (o : TOps)
  | fcls (c : Ctl) (o : TOps)
  | cvt (c : Ctl) (o : TOps)
  | frnd (c : Ctl) (o : TOps)
  -- special functions
  | frcp (c : Ctl) (o : TOps)
  | frsq (c : Ctl) (o : TOps)
  | fsqt (c : Ctl) (o : TOps)
  | fexp (c : Ctl) (o : TOps)
  | flog (c : Ctl) (o : TOps)
  | ftanh (c : Ctl) (o : TOps)
  | fsigm (c : Ctl) (o : TOps)
  | fsin (c : Ctl) (o : TOps)
  -- cross-lane
  | shfl (c : Ctl) (o : TOps)
  | bcast (c : Ctl) (o : TOps)
  | red (c : Ctl) (o : TOps)
  | scan (c : Ctl) (o : TOps)
  | sort (c : Ctl) (o : TOps)
  | vtriad (c : Ctl) (o : TOps)
  | qnt (c : Ctl) (o : TOps)
  | dqnt (c : Ctl) (o : TOps)
  | rand (c : Ctl) (o : TOps)
  | rseed (c : Ctl) (a b : Nat)
  -- scratchpad (R201)
  | ldp (c : Ctl) (m : MOps)
  | stp (c : Ctl) (m : MOps)
  | ldps (c : Ctl) (m : MOps)
  | stps (c : Ctl) (m : MOps)
  | amop (c : Ctl) (op : Rmw) (ty : ETy) (m : MOps)
  -- barriers (R193)
  | barinit (c : Ctl) (b : Nat) (n : Nat)
  | bararr (c : Ctl) (d b p : Nat) (n : Nat)
  | barwait (c : Ctl) (b : Nat) (t : Nat)
  | barsync (c : Ctl) (b : Nat)
  | bardrop (c : Ctl) (b p : Nat) (n : Nat)
  | barqry (c : Ctl) (d b : Nat)
  -- matrix (R233)
  | gang (c : Ctl) (rows : Nat) (map : Int)
  | oclaim (c : Ctl) (o n : Nat)
  | orlse (c : Ctl) (o n : Nat)
  | ofill (c : Ctl) (o a b : Nat) (src : FillSrc)
  | ofence (c : Ctl) (o n : Nat)
  | mma (c : Ctl) (fmt : MFmt) (t a b : Nat) (third : Nat)
  | aclaim (c : Ctl) (t n : Nat)
  | arlse (c : Ctl) (t n : Nat)
  | claimReleaseEffect (q : SqRef)
  | azero (c : Ctl) (t n : Nat)
  | ald (c : Ctl) (t a b : Nat) (src : AldSrc)
  | ast (c : Ctl) (d t : Nat) (status : Bool)
  | drain (c : Ctl) (t a b : Nat) (sp : Space) (off : Int) (scope : Scope) (ev : Int) (addTy : Option ETy) (count : Nat)
  | rwait (c : Ctl) (a : Nat) (sp : Space) (off : Int) (scope : Scope) (clr : Bool)
  | ppoint (c : Ctl) (t n o m : Nat)
  -- global memory (R250)
  | ld (c : Ctl) (m : MOps)
  | st (c : Ctl) (m : MOps)
  | lds (c : Ctl) (m : MOps)
  | sts (c : Ctl) (m : MOps)
  | atom (c : Ctl) (op : Rmw) (ty : ETy) (scalar : Bool) (m : MOps)
  | cas (c : Ctl) (f : CasField) (scalar : Bool) (m : MOps)
  | pref (c : Ctl) (line : Bool) (m : MOps)
  | demote (c : Ctl) (m : MOps)
  -- latches and fences (R267, R289)
  | latch (c : Ctl) (ev : Int) (bc : BaseCls) (d a n : Nat) (off : Int)
  | latcht (c : Ctl) (ev : Int) (bc : BaseCls) (d a b n : Nat) (off : Int)
  | unlatch (c : Ctl) (sus : Bool) (bc : BaseCls) (a n : Nat) (off : Int)
  | latq (c : Ctl) (bc : BaseCls) (d a : Nat) (off : Int)
  | fence (c : Ctl) (ord : Order) (scope : Scope)
  | ifence (c : Ctl)
  -- translation and migration (R316, R387)
  | probe (c : Ctl) (bc : BaseCls) (d a : Nat) (start : Bool) (off : Int)
  | fref (c : Ctl) (d a b : Nat) (warm : Bool)
  | migr (c : Ctl) (d n : Nat)
  | mpoint (c : Ctl) (n : Nat)
  -- engines (R330)
  | cpy (c : Ctl) (conv : Int) (ssp dsp : Space) (d a b : Nat) (h : Int)
  | cpyFrame (c : Ctl) (d a b : Nat) (h : Int)
  | mcast (c : Ctl) (ssp : Space) (d a b : Nat) (h : Int)
  | ovl (c : Ctl) (d a b e : Nat) (h : Int)
  | thaw (c : Ctl) (ty : ETy) (kind : ThawKind) (d a b n : Nat) (h : Int)
  | freeze (c : Ctl) (ty : ETy) (ssp : Space) (tab : Bool) (d a b m : Nat) (h : Int)
  | pgin (c : Ctl) (a : Nat) (h : Int)
  | pgout (c : Ctl) (a : Nat) (h : Int)
  | bclose (c : Ctl) (d : Nat)
  | bwait (c : Ctl) (src : NumSrc)
  | bqry (c : Ctl) (d : Nat)
  | gset (c : Ctl) (q : Nat) (v : Int)
  | gclr (c : Ctl) (q : Nat)
  -- launch and system (R375, R405)
  | launch (c : Ctl) (d a : Nat)
  | launchReply (r : GustRef)
  | lwait (c : Ctl) (d a : Nat)
  | lqry (c : Ctl) (d a : Nat)
  | prio (c : Ctl) (d : Nat) (src : NumSrc)
  | bindRecordRewrite (die front : Nat)
  | trap (c : Ctl) (n : Nat)
  | eret (c : Ctl)
  | rdsr (c : Ctl) (d : Nat) (r : Nat)
  | wrsr (c : Ctl) (r : Nat) (a : Nat)
  | snap (c : Ctl)
  | brk (c : Ctl) (n : Nat)
  -- issue, traps, scoreboard
  | issueChoice (core : Nat)
  | trapEntry (r : GustRef) (cause : Int) (detail : Int)
  | gustRetire (r : GustRef)
  | loadSectorReturn (r : GustRef) (n : Nat)
  | registerWindowWrite (core u : Nat) (w : Word)
  -- commands
  | commandAccept (core : Nat)
  | matrixCommandRun (core : Nat)
  | matrixCommandComplete (core : Nat)
  | fillComplete (core : Nat)
  | drainApply (core : Nat)
  | engineCommandStart (q : EngQ)
  | thawRingPoll (core : Nat)
  | engineCommandComplete (q : EngQ)
  | batchComplete (r : GustRef)
  -- caches
  | homeFill (line : Nat)
  | l1Fill (die : Nat) (loc : Loc) (first n : Nat) (ev : Int)
  | l1WriteBack (die : Nat) (loc : Loc) (sector : Nat)
  | homeApplyWrite (m : WriteMsg)
  | invalidation (die line sector : Nat) (stamp : List Nat)
  | dirtyNotice (die line sector : Nat)
  | forcedPublish (die line sector : Nat)
  | homeRecall (line : Nat)
  | atomicApply (r : GustRef)
  -- latch queues
  | latchRequest (m : LatchReq)
  | latchRelease (m : LatchRel)
  | latchGrant (m : LatchGrant)
  | latchLeaseLapse (line : Nat) (who : GustRef)
  | latchtDeadline (line : Nat) (who : GustRef)
  | deadlockProbeSend (line : Nat) (who : GustRef)
  | deadlockProbe (m : Probe)
  -- translation and paging
  | pageWalk (core ctx : Nat) (x : Int)
  | laneRetranslate (r : GustRef)
  | tlbLeaseExpiry (core : Nat)
  | pageIn (n : Nat)
  | pageOut (n : Nat)
  -- fronts and scheduling
  | launchListConsume (ctx : Nat)
  | rangeDistribute (front die : Nat)
  | bindRecordWrite (b : BindChoice)
  | squallBind (front core : Nat)
  | frontRetire (front : Nat)
  | graphNodeAct (g node : Nat)
  | graphComplete (g : Nat)
  | shutterRequest (q : SqRef)
  | forcedSave (q : SqRef)
  | shutterSave (q : SqRef)
  | shutterRestore (q : SqRef) (core : Nat)
  | migrationTransfer (q : SqRef)
  | migrationComplete (q : SqRef)
  | machineCheck (ctx : Nat) (cause : Int) (addr : CheckAt)
  | frontEnd (front : Nat) (cause : Int)
  -- time and links
  | ptimeTick
  | packageTimeStopped (die : Nat)
  | requestTimeout (r : TimedOut)
  | zargenTimeout (seq : Nat)
  | ucieFlitLost (f : FlitKind)
  | zargenWrite (m : ZPacket)
  | zargenRead (m : ZPacket)
  | zargenAtomic (m : ZPacket)
  | zargenAck (seq : Nat)
  | hostRead (fn : HostFn) (off n : Nat)
  | hostWrite (fn : HostFn) (off : Nat) (bytes : List (BitVec 8))
  | hostCompletion (ctx die line : Nat) (good : Bool)
  -- observation
  | snapinEdge
  | snapshotTriggerWrite
  | snapshotCapture
  | debugStop (r : GustRef)
  | debugResume (r : GustRef)
  | debugHold (r : GustRef)
  | debugRelease (r : GustRef)
  -- bring-up, power, loading, errors
  | reset
  | bootgo (v : Nat)
  | firmwareCheck
  | attestation (nonce : List (BitVec 8))
  | d3hotRequest
  | d3hotEnter
  | d0Return
  | moduleLoad (l : ModuleLoad)
  | moduleUnload (image : Nat)
  | softError (p : SoftPlace) (trits : Nat)
  | bringUpComplete
  | d3coldEntry
deriving DecidableEq, Repr

end Sys2Proof
end

