-- ==== Sys2Proof/Machine/Forms.lean ====
section
/-! DEFINITION. The tables of the instruction encodings: codes of the sub-fields (R58 to R63, R72), the forms of mod
layout T with their types, shapes and variants (R138, R139, R151, R152, R160), and the registers an instruction names
(R69, R70, R79). -/

namespace Sys2Proof

/-- Codes of the element types (R58). -/
def ETy.code : ETy → Int
  | .i27 => 0 | .i9 => 1 | .t3 => 2 | .w1 => 3 | .f27 => -1 | .f9 => -2 | .bw => -3 | .b3 => -4

/-- The type with a code (R58). -/
def ETy.ofCode (c : Int) : Option ETy :=
  [ETy.i27, .i9, .t3, .w1, .f27, .f9, .bw, .b3].find? fun t => t.code == c

/-- Width of an element in trits (R30): n of R140. -/
def ETy.width : ETy → Nat
  | .i27 | .f27 => 27
  | .i9 | .f9 => 9
  | .t3 | .b3 => 3
  | .w1 | .bw => 1

/-- Elements of a word (R30): E of R140. -/
def ETy.count (t : ETy) : Nat := 27 / t.width

/-- Codes of the shapes (R59). -/
def Shape.code : Shape → Int
  | .vv => 0 | .ss => 1 | .vs => -1 | .vi => 2 | .si => -2

/-- The shape with a code (R59). -/
def Shape.ofCode (c : Int) : Option Shape := [Shape.vv, .ss, .vs, .vi, .si].find? fun t => t.code == c

/-- A shape whose destination is a vector makes a lane instruction (R67). -/
def Shape.isVec : Shape → Bool
  | .vv | .vs | .vi => true
  | .ss | .si => false

/-- A shape whose b operand is the immediate word (R59, R71). -/
def Shape.isImm : Shape → Bool
  | .vi | .si => true
  | _ => false

/-- Codes of the orderings (R61). -/
def Order.code : Order → Int
  | .rlx => 0 | .acq => 1 | .rel => -1 | .ar => 2 | .sc => 3

/-- The ordering with a code (R61). -/
def Order.ofCode (c : Int) : Option Order := [Order.rlx, .acq, .rel, .ar, .sc].find? fun t => t.code == c

/-- Codes of the scopes (R62). -/
def Scope.code : Scope → Int
  | .gu => -3 | .sq => -2 | .cl => -1 | .dv => 0 | .sy => 1

/-- The scope with a code (R62). -/
def Scope.ofCode (c : Int) : Option Scope := [Scope.gu, .sq, .cl, .dv, .sy].find? fun t => t.code == c

/-- Codes of the spaces (R72). -/
def Space.code : Space → Int
  | .g => 1 | .p => 0 | .w => -1

/-- The space with a code (R72). -/
def Space.ofCode (c : Int) : Option Space := [Space.g, .p, .w].find? fun t => t.code == c

/-- Codes of the base classes (R72). -/
def BaseCls.code : BaseCls → Int
  | .scalar => 0 | .vector => 1 | .none => -1

/-- The base class with a code (R72). -/
def BaseCls.ofCode (c : Int) : Option BaseCls :=
  [BaseCls.scalar, .vector, .none].find? fun t => t.code == c

/-- The code of a trit. -/
def Trit.ofInt (c : Int) : Option Trit := if c = 0 then some .zero else if c = 1 then some .plus else
  if c = -1 then some .minus else none

/-- Codes of the operations of AMOP and ATOM (R203). -/
def Rmw.code : Rmw → Int
  | .swap => 0 | .add => 1 | .adds => 2 | .min => 3 | .max => 4 | .and => 5 | .or => 6 | .cas => 7 | .fadd => 8

/-- The operation with a code (R203). -/
def Rmw.ofCode (c : Int) : Option Rmw :=
  [Rmw.swap, .add, .adds, .min, .max, .and, .or, .cas, .fadd].find? fun t => t.code == c

/-- The types an operation takes (R203). -/
def Rmw.takes : Rmw → ETy → Bool
  | .swap, .i27 | .and, .i27 | .or, .i27 | .cas, .i27 => true
  | .add, .i27 | .adds, .i27 | .min, .i27 | .max, .i27 => true
  | .add, .i9 | .adds, .i9 | .min, .i9 | .max, .i9 => true
  | .add, .t3 | .adds, .t3 | .min, .t3 | .max, .t3 => true
  | .fadd, .f27 | .fadd, .f9 => true
  | _, _ => false

/-- Codes of the compare fields of CAS (R254). -/
def CasField.code : CasField → Int
  | .word => 0 | .t0 => 1 | .t1 => 2 | .t2 => 3

/-- The compare field with a code (R254). -/
def CasField.ofCode (c : Int) : Option CasField :=
  [CasField.word, .t0, .t1, .t2].find? fun t => t.code == c

/-- Codes of the modes of BRP (R113). -/
def BrpMode.code : BrpMode → Int
  | .any => 0 | .all => 1 | .none => -1 | .unk => 2

/-- The mode with a code (R113). -/
def BrpMode.ofCode (c : Int) : Option BrpMode :=
  [BrpMode.any, .all, .none, .unk].find? fun t => t.code == c

/-- Codes of the MMA formats (R234). -/
def MFmt.code : MFmt → Int
  | .i9 => 1 | .f9 => -2 | .f27 => -1 | .w1i9 => 3 | .w1f9 => -3

/-- The format with a code (R234). -/
def MFmt.ofCode (c : Int) : Option MFmt :=
  [MFmt.i9, .f9, .f27, .w1i9, .w1f9].find? fun t => t.code == c

/-- The W1 formats read three B slots and a third (R212, R233). -/
def MFmt.isW1 : MFmt → Bool
  | .w1i9 | .w1f9 => true
  | _ => false

/-- What R138 and R151 say of a form of mod layout T: types, shapes, the variants per type, the shapes in which fields a
and b name a register, whether d is a predicate, and whether variant − is .cy (R135). -/
structure TSpec where
  op : Int
  types : List ETy
  shapes : List Shape
  vars : List Trit
  aIn : List Shape
  bIn : List Shape
  dPred : Bool
  cy : Bool
deriving DecidableEq, Repr

/-- The five shapes. -/
def allShapes : List Shape := [.vv, .ss, .vs, .vi, .si]
/-- The three trits. -/
def allTrits : List Trit := [.zero, .plus, .minus]
/-- The integer types of R138. -/
def intTypes : List ETy := [.i27, .i9, .t3]
/-- The floating types. -/
def fTypes : List ETy := [.f27, .f9]

/-- A form with two sources in all five shapes. -/
def TSpec.binary (op : Int) (types : List ETy) (vars : List Trit) (cy : Bool) : TSpec :=
  { op, types, shapes := allShapes, vars, aIn := allShapes, bIn := [.vv, .ss, .vs], dPred := false, cy }

/-- A form with the one source a, in shapes 0 and +1. -/
def TSpec.unary (op : Int) (types : List ETy) (vars : List Trit) (cy : Bool) : TSpec :=
  { op, types, shapes := [.vv, .ss], vars, aIn := [.vv, .ss], bIn := [], dPred := false, cy }

/-- The integer (R138) forms of mod layout T. -/
def tSpecsInt : List TSpec :=
  [ .binary 28 intTypes allTrits true, .binary 29 intTypes allTrits true,
    .unary 30 [.i27, .i9, .t3, .w1, .f27, .f9] [.zero] false,
    .binary 31 intTypes allTrits true, .binary 32 intTypes [.zero] false, .binary 33 intTypes allTrits true,
    .binary 34 intTypes [.zero, .minus] true, .binary 35 intTypes [.zero, .minus] true,
    .binary 36 intTypes allTrits true, .unary 37 intTypes [.zero] false, .unary 38 intTypes [.zero] false,
    .binary 39 intTypes [.zero] false, .binary 40 intTypes [.zero] false, .binary 26 intTypes [.zero] false,
    .binary 25 intTypes [.zero] false ]

/-- The trit-wise (R138) forms of mod layout T. -/
def tSpecsTrit : List TSpec :=
  [ .binary 55 [.i27, .i9, .t3, .w1] [.zero] false, .binary 56 [.i27, .i9, .t3, .w1] [.zero] false,
    .binary 57 [.i27, .i9, .t3, .w1] [.zero] false, .binary 58 [.i27, .i9, .t3, .w1] [.zero] false,
    .binary 59 [.i27, .i9, .t3, .w1] [.zero] false, .binary 60 intTypes [.zero] false,
    .unary 61 intTypes allTrits false, .binary 62 [.i27, .i9] [.zero] false, .binary 63 [.i27, .i9] [.zero] false,
    .unary 64 [.i9, .t3] allTrits true, .unary 65 [.i9, .t3] [.zero] false ]

/-- The move and predicate (R138) forms of mod layout T. -/
def tSpecsMov : List TSpec :=
  [ { op := 82, types := [.i27], shapes := [.vv, .ss, .vs], vars := [.zero], aIn := [.vv, .ss], bIn := [.vs],
      dPred := false, cy := false },
    { op := 83, types := [.i27, .i9, .t3, .w1, .f27, .f9], shapes := [.vi, .si], vars := [.zero], aIn := [], bIn := [],
      dPred := false, cy := false },
    { op := 84, types := [.i27, .i9, .t3, .w1], shapes := [.vv, .vs, .vi], vars := allTrits, aIn := [.vv, .vs, .vi],
      bIn := [.vv, .vs], dPred := true, cy := false } ]

/-- The floating (R151) forms of mod layout T. -/
def tSpecsFloat : List TSpec :=
  [ .binary 109 fTypes [.zero] false, .binary 110 fTypes [.zero] false, .binary 111 fTypes [.zero] false,
    .binary 112 fTypes [.zero] false, .binary 113 fTypes [.zero] false, .binary 114 fTypes [.zero] false,
    { op := 115, types := fTypes, shapes := [.vv, .vs, .vi], vars := allTrits, aIn := [.vv, .vs, .vi],
      bIn := [.vv, .vs], dPred := true, cy := false },
    .unary 116 fTypes [.zero] false, .unary 117 [.i27, .i9, .f27, .f9] allTrits false,
    .unary 118 fTypes allTrits false ]

/-- The special-function (R151) forms of mod layout T. -/
def tSpecsSpecial : List TSpec :=
  [ .unary 136 fTypes [.zero] false, .unary 137 fTypes [.zero] false, .unary 138 fTypes [.zero] false,
    .unary 139 fTypes [.zero] false, .unary 140 fTypes [.zero] false, .unary 141 fTypes [.zero] false,
    .unary 142 fTypes [.zero] false, .unary 143 fTypes [.zero] false ]

/-- The cross-lane (R151) forms of mod layout T. -/
def tSpecsCross : List TSpec :=
  [ { op := 163, types := [.i27], shapes := [.vv, .vs, .vi], vars := allTrits, aIn := [.vv, .vs, .vi],
      bIn := [.vv, .vs], dPred := false, cy := false },
    { op := 164, types := [.i27], shapes := [.vs, .vi], vars := [.zero], aIn := [.vs, .vi], bIn := [.vs],
      dPred := false, cy := false },
    { op := 165, types := [.i27, .i9, .t3, .f27, .f9], shapes := [.vs], vars := allTrits, aIn := [.vs], bIn := [.vs],
      dPred := false, cy := false },
    { op := 166, types := [.i27, .i9, .t3, .f27, .f9], shapes := [.vs], vars := allTrits, aIn := [.vs], bIn := [.vs],
      dPred := false, cy := false },
    { op := 167, types := [.i27, .f27], shapes := [.vv], vars := [.zero, .plus], aIn := [.vv], bIn := [],
      dPred := false, cy := false },
    { op := 168, types := [.i27, .i9], shapes := [.vv], vars := [.zero, .minus], aIn := [.vv], bIn := [],
      dPred := false, cy := true },
    { op := 169, types := [.bw, .b3], shapes := [.vi], vars := [.zero], aIn := [.vi], bIn := [],
      dPred := false, cy := false },
    { op := 170, types := [.bw, .b3], shapes := [.vi], vars := [.zero], aIn := [.vi], bIn := [],
      dPred := false, cy := false },
    { op := 171, types := [.i27, .f27, .f9], shapes := [.vv], vars := [.zero], aIn := [], bIn := [],
      dPred := false, cy := false } ]

/-- The forms of mod layout T (R138, R151). -/
def tSpecs : List TSpec := tSpecsInt ++ tSpecsTrit ++ tSpecsMov ++ tSpecsFloat ++ tSpecsSpecial ++ tSpecsCross

/-- The row of a form of mod layout T. -/
def tSpec (op : Int) : Option TSpec := tSpecs.find? fun s => s.op == op

/-- CVT takes variant + only where the destination is floating (R160). -/
def tVarOk (s : TSpec) (ty : ETy) (v : Trit) : Bool :=
  s.vars.contains v && !(s.op == 117 && v == .plus && (ty == .i27 || ty == .i9))

/-- The mod check of a form of mod layout T (step 3 of R79). -/
def TSpec.modOk (s : TSpec) (ty : ETy) (sh : Shape) (v : Trit) : Bool :=
  s.types.contains ty && s.shapes.contains sh && tVarOk s ty v

/-- How many consecutive registers fields d, a and b of a T form name (R146, R153, R160, R165, R167, R169, R170). -/
def tGroups (op : Int) (ty : ETy) (v : Trit) : Nat × Nat × Nat :=
  if op = 64 then (1, 3, 1)
  else if op = 65 then (3, 1, 1)
  else if op = 117 then
    (if (ty = .f27 ∧ v ≠ .plus) ∨ (ty = .i27 ∧ v = .minus) then (3, 1, 1)
     else if (ty = .f9 ∧ v ≠ .plus) ∨ (ty = .i9 ∧ v = .minus) then (1, 3, 1)
     else (1, 1, 1))
  else if op = 165 ∨ op = 166 then (1, 1, 2)
  else if op = 167 then (2, 1, 1)
  else if op = 169 ∧ ty = .b3 then (2, 1, 1)
  else if op = 170 ∧ ty = .b3 then (1, 2, 1)
  else (1, 1, 1)

/-- The largest index of a register class (R70). -/
def Cls.max : Cls → Nat
  | .v | .a | .b => 2186
  | .s | .o => 80
  | .p | .q => 26

/-- A run of registers an instruction names: class, first index, count. -/
structure RegUse where
  cls : Cls
  first : Nat
  count : Nat
deriving DecidableEq, Repr

/-- No member of the run lies above the architectural range (step 5 of R79). -/
def RegUse.ok (u : RegUse) : Bool := decide (u.first + u.count ≤ u.cls.max + 1)

/-- The class of field d, a or b of a T form (R59). -/
def tCls (sh : Shape) : Cls := if sh.isVec then .v else .s

/-- The registers a T form names (R59, R135, R138, R151). -/
def tUses (s : TSpec) (o : TOps) : List RegUse :=
  let g := tGroups s.op o.ty o.var
  [⟨if s.dPred then .p else tCls o.sh, o.d, g.1⟩] ++
  (if s.aIn.contains o.sh then [⟨tCls o.sh, o.a, g.2.1⟩] else []) ++
  (if s.bIn.contains o.sh then [⟨if o.sh = .vv then .v else .s, o.b, g.2.2⟩] else []) ++
  (if s.cy && o.var == .minus then [⟨.p, 26, 1⟩] else [])

/-- The op value and the operands of the constructors of mod layout T (R138, R151). -/
def Instr.tView : Instr → Option (Int × Ctl × TOps)
  | .add c o => some (28, c, o) | .sub c o => some (29, c, o) | .neg c o => some (30, c, o)
  | .mul c o => some (31, c, o) | .mulh c o => some (32, c, o) | .mad c o => some (33, c, o)
  | .div c o => some (34, c, o) | .mod c o => some (35, c, o) | .sht c o => some (36, c, o)
  | .abs c o => some (37, c, o) | .sgn c o => some (38, c, o) | .min c o => some (39, c, o)
  | .max c o => some (40, c, o) | .clamp c o => some (26, c, o) | .cmp c o => some (25, c, o)
  | .tand c o => some (55, c, o) | .tor c o => some (56, c, o) | .tsum c o => some (57, c, o)
  | .tmul c o => some (58, c, o) | .tcon c o => some (59, c, o) | .trot c o => some (60, c, o)
  | .tcnt c o => some (61, c, o) | .text c o => some (62, c, o) | .tins c o => some (63, c, o)
  | .pack3 c o => some (64, c, o) | .unpk3 c o => some (65, c, o)
  | .mov c o => some (82, c, o) | .movi c o => some (83, c, o) | .pset c o => some (84, c, o)
  | .fadd c o => some (109, c, o) | .fsub c o => some (110, c, o) | .fmul c o => some (111, c, o)
  | .fma c o => some (112, c, o) | .fmin c o => some (113, c, o) | .fmax c o => some (114, c, o)
  | .fcmp c o => some (115, c, o) | .fcls c o => some (116, c, o) | .cvt c o => some (117, c, o)
  | .frnd c o => some (118, c, o)
  | .frcp c o => some (136, c, o) | .frsq c o => some (137, c, o) | .fsqt c o => some (138, c, o)
  | .fexp c o => some (139, c, o) | .flog c o => some (140, c, o) | .ftanh c o => some (141, c, o)
  | .fsigm c o => some (142, c, o) | .fsin c o => some (143, c, o)
  | .shfl c o => some (163, c, o) | .bcast c o => some (164, c, o) | .red c o => some (165, c, o)
  | .scan c o => some (166, c, o) | .sort c o => some (167, c, o) | .vtriad c o => some (168, c, o)
  | .qnt c o => some (169, c, o) | .dqnt c o => some (170, c, o) | .rand c o => some (171, c, o)
  | _ => none

/-- The constructor of mod layout T with an op value (R138, R151). -/
def tBuild (op : Int) (c : Ctl) (o : TOps) : Option Instr :=
  match op with
  | 28 => some (.add c o) | 29 => some (.sub c o) | 30 => some (.neg c o)
  | 31 => some (.mul c o) | 32 => some (.mulh c o) | 33 => some (.mad c o)
  | 34 => some (.div c o) | 35 => some (.mod c o) | 36 => some (.sht c o)
  | 37 => some (.abs c o) | 38 => some (.sgn c o) | 39 => some (.min c o)
  | 40 => some (.max c o) | 26 => some (.clamp c o) | 25 => some (.cmp c o)
  | 55 => some (.tand c o) | 56 => some (.tor c o) | 57 => some (.tsum c o)
  | 58 => some (.tmul c o) | 59 => some (.tcon c o) | 60 => some (.trot c o)
  | 61 => some (.tcnt c o) | 62 => some (.text c o) | 63 => some (.tins c o)
  | 64 => some (.pack3 c o) | 65 => some (.unpk3 c o)
  | 82 => some (.mov c o) | 83 => some (.movi c o) | 84 => some (.pset c o)
  | 109 => some (.fadd c o) | 110 => some (.fsub c o) | 111 => some (.fmul c o)
  | 112 => some (.fma c o) | 113 => some (.fmin c o) | 114 => some (.fmax c o)
  | 115 => some (.fcmp c o) | 116 => some (.fcls c o) | 117 => some (.cvt c o)
  | 118 => some (.frnd c o)
  | 136 => some (.frcp c o) | 137 => some (.frsq c o) | 138 => some (.fsqt c o)
  | 139 => some (.fexp c o) | 140 => some (.flog c o) | 141 => some (.ftanh c o)
  | 142 => some (.fsigm c o) | 143 => some (.fsin c o)
  | 163 => some (.shfl c o) | 164 => some (.bcast c o) | 165 => some (.red c o)
  | 166 => some (.scan c o) | 167 => some (.sort c o) | 168 => some (.vtriad c o)
  | 169 => some (.qnt c o) | 170 => some (.dqnt c o) | 171 => some (.rand c o)
  | _ => none

/-- The op value of the other instruction forms (R113, R138, R151, R193, R201, R233, R250, R267, R289, R316, R330, R375,
R387, R405). The steps of the other agents have none. -/
def Instr.opOther : Instr → Option Int
  | .nop .. => some 0 | .bra .. => some 1 | .brp .. => some 2 | .btri .. => some 3 | .split .. => some 4
  | .join .. => some 5 | .breakOut .. => some 6 | .call .. => some 7 | .calli .. => some 8 | .ret .. => some 9
  | .exit .. => some 10 | .yield .. => some 11
  | .pand .. => some 85 | .por .. => some 86 | .pnot .. => some 87 | .rseed .. => some 172
  | .ldp .. => some 190 | .stp .. => some 191 | .ldps .. => some 192 | .stps .. => some 193 | .amop .. => some 194
  | .barinit .. => some 217 | .bararr .. => some 218 | .barwait .. => some 219 | .barsync .. => some 220
  | .bardrop .. => some 221 | .barqry .. => some 222
  | .gang .. => some 244 | .oclaim .. => some 245 | .orlse .. => some 246 | .ofill .. => some 247
  | .ofence .. => some 248 | .mma .. => some 249 | .aclaim .. => some 250 | .arlse .. => some 251
  | .azero .. => some 252 | .ald .. => some 253 | .ast .. => some 254 | .drain .. => some 255
  | .rwait .. => some 256 | .ppoint .. => some 242
  | .ld .. => some 271 | .st .. => some 272 | .lds .. => some 273 | .sts .. => some 274 | .atom .. => some 275
  | .cas .. => some 276 | .pref .. => some 277 | .demote .. => some 278
  | .latch .. => some 298 | .latcht .. => some 299 | .unlatch .. => some 300 | .latq .. => some 301
  | .fence .. => some 302 | .ifence .. => some 303
  | .probe .. => some 325 | .fref .. => some 326 | .migr .. => some 327 | .mpoint .. => some 328
  | .cpy .. => some 352 | .cpyFrame .. => some 352 | .mcast .. => some 353 | .ovl .. => some 354
  | .thaw .. => some 355 | .freeze .. => some 356 | .pgin .. => some 357 | .pgout .. => some 358
  | .bclose .. => some 359 | .bwait .. => some 360 | .bqry .. => some 361 | .gset .. => some 362
  | .gclr .. => some 363
  | .launch .. => some (-26) | .lwait .. => some (-25) | .lqry .. => some (-24) | .prio .. => some (-23)
  | .trap .. => some (-22) | .eret .. => some (-21) | .rdsr .. => some (-20) | .wrsr .. => some (-19)
  | .snap .. => some (-18) | .brk .. => some (-17)
  | _ => none

/-- The op value of an instruction form (R56, R92). -/
def Instr.op (i : Instr) : Option Int :=
  match i.tView with
  | some v => some v.1
  | none => i.opOther

/-- Whether a constructor is an instruction form and not a step of another agent. -/
def Instr.isForm (i : Instr) : Bool := i.op.isSome

/-- The guard and hint of an instruction form. -/
def Instr.ctl (i : Instr) : Ctl :=
  match i.tView with
  | some v => v.2.1
  | none => match i with
    | .nop c | .bra c .. | .brp c .. | .btri c .. | .split c .. | .join c | .breakOut c .. | .call c .. | .calli c ..
    | .ret c .. | .exit c | .yield c .. | .pand c .. | .por c .. | .pnot c .. | .rseed c ..
    | .ldp c .. | .stp c .. | .ldps c .. | .stps c .. | .amop c ..
    | .barinit c .. | .bararr c .. | .barwait c .. | .barsync c .. | .bardrop c .. | .barqry c ..
    | .gang c .. | .oclaim c .. | .orlse c .. | .ofill c .. | .ofence c .. | .mma c .. | .aclaim c .. | .arlse c ..
    | .azero c .. | .ald c .. | .ast c .. | .drain c .. | .rwait c .. | .ppoint c ..
    | .ld c .. | .st c .. | .lds c .. | .sts c .. | .atom c .. | .cas c .. | .pref c .. | .demote c ..
    | .latch c .. | .latcht c .. | .unlatch c .. | .latq c .. | .fence c .. | .ifence c
    | .probe c .. | .fref c .. | .migr c .. | .mpoint c ..
    | .cpy c .. | .cpyFrame c .. | .mcast c .. | .ovl c .. | .thaw c .. | .freeze c .. | .pgin c .. | .pgout c ..
    | .bclose c .. | .bwait c .. | .bqry c .. | .gset c .. | .gclr c ..
    | .launch c .. | .lwait c .. | .lqry c .. | .prio c .. | .trap c .. | .eret c | .rdsr c .. | .wrsr c ..
    | .snap c | .brk c .. => c
    | _ => ⟨0, 0⟩

/-- The registers a memory operand's base names (R72). -/
def baseUse (bc : BaseCls) (a : Nat) : List RegUse :=
  match bc with
  | .scalar => [⟨.s, a, 1⟩]
  | .vector => [⟨.v, a, 1⟩]
  | .none => []

/-- The slot guard a command names (R327): field value ±(k + 1) names q(k). -/
def guardSlotUse (h : Int) : List RegUse := if h = 0 then [] else [⟨.q, h.natAbs - 1, 1⟩]

/-- The operands of the forms outside mod layout T (R113, R149, R174, R193, R201, R233, R250, R267, R316, R330, R375,
R387, R405). -/
def otherUses : Instr → List RegUse
  | .brp _ _ p _ => [⟨.p, p, 1⟩]
  | .btri _ a _ _ => [⟨.s, a, 1⟩]
  | .split _ p _ _ => [⟨.p, p, 1⟩]
  | .call _ d _ => [⟨.s, d, 1⟩]
  | .calli _ d a => [⟨.s, d, 1⟩, ⟨.s, a, 1⟩]
  | .ret _ a => [⟨.s, a, 1⟩]
  | .pand _ d a b | .por _ d a b => [⟨.p, d, 1⟩, ⟨.p, a, 1⟩, ⟨.p, b, 1⟩]
  | .pnot _ d a => [⟨.p, d, 1⟩, ⟨.p, a, 1⟩]
  | .rseed _ a b => [⟨.s, a, 1⟩, ⟨.s, b, 1⟩]
  | .ldp _ m | .ld _ m => ⟨.v, m.d, 1⟩ :: baseUse m.bc m.a
  | .stp _ m | .st _ m => baseUse m.bc m.a ++ [⟨.v, m.b, 1⟩]
  | .ldps _ m | .lds _ m => ⟨.s, m.d, 1⟩ :: baseUse m.bc m.a
  | .stps _ m | .sts _ m => baseUse m.bc m.a ++ [⟨.s, m.b, 1⟩]
  | .amop _ _ _ m => ⟨.v, m.d, 1⟩ :: baseUse m.bc m.a ++ [⟨.v, m.b, 1⟩]
  | .atom _ _ _ sc m | .cas _ _ sc m =>
      let c := if sc then Cls.s else .v
      ⟨c, m.d, 1⟩ :: baseUse m.bc m.a ++ [⟨c, m.b, 1⟩]
  | .pref _ _ m | .demote _ m => baseUse m.bc m.a
  | .barinit _ b _ | .barsync _ b => [⟨.b, b, 1⟩]
  | .bararr _ d b p _ => [⟨.s, d, 1⟩, ⟨.b, b, 1⟩, ⟨.p, p, 1⟩]
  | .barwait _ b t => [⟨.b, b, 1⟩, ⟨.s, t, 1⟩]
  | .bardrop _ b p _ => [⟨.b, b, 1⟩, ⟨.p, p, 1⟩]
  | .barqry _ d b => [⟨.s, d, 2⟩, ⟨.b, b, 1⟩]
  | .oclaim _ o n | .orlse _ o n | .ofence _ o n => [⟨.o, o, n⟩]
  | .ofill _ o a b src => match src with
      | .regs => [⟨.o, o, 1⟩, ⟨.v, a, 3⟩]
      | .loc _ _ => [⟨.o, o, 1⟩, ⟨.s, a, 1⟩]
      | .frame => [⟨.o, o, 1⟩, ⟨.s, a, 1⟩, ⟨.s, b, 1⟩]
  | .mma _ f t a b _ => [⟨.a, t, 1⟩, ⟨.o, a, 1⟩, ⟨.o, b, if f.isW1 then 3 else 1⟩]
  | .aclaim _ t n | .arlse _ t n | .azero _ t n => [⟨.a, t, n⟩]
  | .ald _ t a b src => match src with
      | .regs => [⟨.a, t, 1⟩, ⟨.v, a, 9⟩]
      | .loc _ _ _ => [⟨.a, t, 1⟩, ⟨.s, a, 1⟩, ⟨.s, b, 1⟩]
  | .ast _ d t st => [if st then ⟨.s, d, 1⟩ else ⟨.v, d, 9⟩, ⟨.a, t, 1⟩]
  | .drain _ t a b _ _ _ _ _ _ => [⟨.a, t, 1⟩, ⟨.s, a, 1⟩, ⟨.s, b, 1⟩]
  | .rwait _ a _ _ _ _ => [⟨.s, a, 1⟩]
  | .ppoint _ t n o m => (if n = 0 then [] else [⟨.a, t, n⟩]) ++ (if m = 0 then [] else [⟨.o, o, m⟩])
  | .latch _ _ bc d a _ _ => ⟨.s, d, 1⟩ :: baseUse bc a
  | .latcht _ _ bc d a b _ _ => ⟨.s, d, 1⟩ :: baseUse bc a ++ [⟨.s, b, 1⟩]
  | .unlatch _ _ bc a _ _ => baseUse bc a
  | .latq _ bc d a _ => ⟨.s, d, 2⟩ :: baseUse bc a
  | .probe _ bc d a _ _ => ⟨.s, d, 2⟩ :: baseUse bc a
  | .fref _ d a b _ => [⟨.s, d, 2⟩, ⟨.s, a, 1⟩, ⟨.s, b, 1⟩]
  | .migr _ d _ => [⟨.s, d, 1⟩]
  | .cpy _ _ _ _ d a b h | .cpyFrame _ d a b h | .mcast _ _ d a b h | .ovl _ d a b _ h =>
      [⟨.s, d, 2⟩, ⟨.s, a, 1⟩, ⟨.s, b, 1⟩] ++ guardSlotUse h
  | .thaw _ _ k d a b n h => (match k with
      | .slots => [⟨.o, d, n⟩, ⟨.s, a, 1⟩]
      | _ => [⟨.s, a, 1⟩, ⟨.s, b, 1⟩]) ++ guardSlotUse h
  | .freeze _ _ _ _ d a b _ h => [⟨.s, d, 2⟩, ⟨.s, a, 1⟩, ⟨.s, b, 1⟩] ++ guardSlotUse h
  | .pgin _ a h | .pgout _ a h => ⟨.s, a, 1⟩ :: guardSlotUse h
  | .bclose _ d => [⟨.s, d, 1⟩]
  | .bwait _ (.reg a) => [⟨.s, a, 1⟩]
  | .bqry _ d => [⟨.s, d, 3⟩]
  | .gset _ q _ | .gclr _ q => [⟨.q, q, 1⟩]
  | .launch _ d a | .lwait _ d a => [⟨.s, d, 1⟩, ⟨.s, a, 1⟩]
  | .lqry _ d a => [⟨.s, d, 2⟩, ⟨.s, a, 1⟩]
  | .prio _ d (.imm _) => [⟨.s, d, 1⟩]
  | .prio _ d (.reg a) => [⟨.s, d, 1⟩, ⟨.s, a, 1⟩]
  | .rdsr _ d _ => [⟨.s, d, 1⟩]
  | .wrsr _ _ a => [⟨.s, a, 1⟩]
  | _ => []

/-- The predicate the guard names (R65, R70). -/
def guardUse (g : Int) : List RegUse := if g = 0 then [] else [⟨.p, g.natAbs - 1, 1⟩]

/-- Every register an instruction names, the guard's predicate included (R70, R79). -/
def Instr.uses (i : Instr) : List RegUse :=
  guardUse i.ctl.guard ++
  match i.tView with
  | some v => (match tSpec v.1 with
    | some s => tUses s v.2.2
    | none => [])
  | none => otherUses i

/-- The forms that stand only in slot 2 of a D-layout packet (R78). -/
def Instr.slot2Only : Instr → Bool
  | .bra .. | .brp .. | .btri .. | .split .. | .join .. | .breakOut .. | .call .. | .calli .. | .ret .. | .exit ..
  | .yield .. | .trap .. | .eret .. | .brk .. | .migr .. => true
  | _ => false

/-- The forms that stand only in slot 0 of a D-layout packet (R78). -/
def Instr.slot0Only : Instr → Bool
  | .mpoint .. | .ppoint .. => true
  | _ => false

/-- Step 6 of R79: whether R78 allows the form at this PC of a D-layout image. -/
def Instr.slotOk (i : Instr) (isD : Bool) (pc : Int) : Bool :=
  !isD || ((!i.slot2Only || pc % 3 == 2) && (!i.slot0Only || pc % 3 == 0))

/-- The numbers RDSR reads (R395). -/
def rdsrOk (r : Int) : Bool :=
  decide ((0 ≤ r ∧ r ≤ 9) ∨ (27 ≤ r ∧ r ≤ 35) ∨ (81 ≤ r ∧ r ≤ 814) ∨ (19683 ≤ r ∧ r ≤ 59048))

/-- The numbers WRSR writes (R395). -/
def wrsrOk (r : Int) : Bool := decide ((5 ≤ r ∧ r ≤ 9) ∨ (810 ≤ r ∧ r ≤ 814))

/-- The map of GANG: trits 0 or + only, 1..9 members, and r divides their number (R217, R233). -/
def gangOk (r : Int) (map : Int) : Bool :=
  let ts := tritsOf map 27
  let k := (ts.filter (· == 1)).length
  ts.all (· != -1) && decide (1 ≤ r ∧ r ≤ 9 ∧ 1 ≤ k ∧ k ≤ 9) && decide (Int.ofNat k % r = 0)

/-- A slot guard code (R327). -/
def slotGuardOk (h : Int) : Bool := decide (-27 ≤ h ∧ h ≤ 27)

/-- The types of thaw blocks (R340). -/
def blockTypes : List ETy := [.w1, .bw, .b3, .i9, .f9]

/-- The count operands of R193. -/
def barCountOk (n : Int) : Bool := decide (1 ≤ n ∧ n ≤ 729)

end Sys2Proof
end

