-- ==== Sys2Proof/Machine/Flags.lean ====
section
/-! DEFINITION. Narrowing and status trits (R31, R140): the one flag computation of the integer forms. A form's f gives, for
elements x, y of the sources and z of the old destination, the element of the result and its status. -/

namespace Sys2Proof

/-- What a form computes for one element: result and status trit (R140). -/
abbrev ElemFn := Int → Int → Int → Int × Int

/-- `narrow` of R31 and R140: the result and the status trit, under a variant: plus saturates, the others wrap. -/
def narrow (x : Int) (n : Nat) (v : Trit) : Int × Int :=
  let res := if v = .plus then satT x n else wrapT x n
  (res, sgnI (x - res))

/-- The lowest element with a nonzero status gives the status of the word (R140). -/
def firstStatus : List Int → Int
  | [] => 0
  | s :: ss => if s = 0 then firstStatus ss else s

/-- `words_op` of R140: the elements of three words combined, and the status. -/
def wordsOp (ty : ETy) (f : ElemFn) (a b d : Word) : Word × Trit :=
  let e := fun (w : Word) => elems w.val ty.width ty.count
  let rs := List.zipWith (fun (x : Int) (p : Int × Int) => f x p.1 p.2) (e a) (List.zip (e b) (e d))
  (Word.ofInt (packElems ty.width (rs.map (·.1))), Trit.sgn (firstStatus (rs.map (·.2))))

/-- Whether a narrowing form reports its status (R139). -/
def TOps.isCy (o : TOps) : Bool := o.var == .minus

end Sys2Proof
end

