-- ==== Sys2Proof/Machine/Sparse.lean ====
section
/-! DEFINITION. Finite maps from numbers as lists in one canonical form: keys strictly rising, and, for a map with
default contents, no entry equal to what an unlisted key reads as. -/

namespace Sys2Proof.Machine

/-- The entry of key `k`. -/
def lookupAt {α : Type} (m : List (Nat × α)) (k : Nat) : Option α :=
  match m with
  | [] => none
  | (a, v) :: t => if a = k then some v else lookupAt t k

/-- The map with `k` bound to `v`, in rising order of keys. -/
def insertAt {α : Type} (m : List (Nat × α)) (k : Nat) (v : α) : List (Nat × α) :=
  match m with
  | [] => [(k, v)]
  | (a, b) :: t => if k < a then (k, v) :: (a, b) :: t else if a = k then (k, v) :: t else (a, b) :: insertAt t k v

/-- The map without key `k`. -/
def eraseAt {α : Type} (m : List (Nat × α)) (k : Nat) : List (Nat × α) :=
  match m with
  | [] => []
  | (a, b) :: t => if a = k then t else (a, b) :: eraseAt t k

/-- What key `k` reads as when unlisted keys read as `d` gives. -/
def readAt {α : Type} (d : Nat → α) (m : List (Nat × α)) (k : Nat) : α := (lookupAt m k).getD (d k)

/-- The map after a write of `v` at `k`: a value equal to what an unlisted key reads as is not listed. -/
def writeAt {α : Type} [DecidableEq α] (d : Nat → α) (m : List (Nat × α)) (k : Nat) (v : α) : List (Nat × α) :=
  if v = d k then eraseAt m k else insertAt m k v

/-- Keys strictly rise. -/
def rising {α : Type} : List (Nat × α) → Bool
  | [] => true
  | [_] => true
  | (a, _) :: (b, w) :: t => decide (a < b) && rising ((b, w) :: t)

/-- The canonical form: keys strictly rise and no entry equals what an unlisted key reads as. -/
def canonical {α : Type} [DecidableEq α] (d : Nat → α) (m : List (Nat × α)) : Bool :=
  rising m && m.all fun e => decide (e.2 ≠ d e.1)

end Sys2Proof.Machine
end

