-- ==== Sys2Proof/WellFormed.lean ====
section
/-! DEFINITION. When an instruction term is one that an instruction word can stand for: every sub-field within what its
form accepts (steps 2 to 5 of R79), and every field that the form leaves unused at its one canonical value 0. -/

namespace Sys2Proof

/-- The guard is one R65 allows and the hint fits its five trits (R68). -/
def Ctl.ok (c : Ctl) : Bool := decide (-27 ≤ c.guard ∧ c.guard ≤ 27) && fitsT c.hint 5

/-- A guard field that must be 0 (R113, R233, R387). -/
def Ctl.unguarded (c : Ctl) : Bool := c.ok && c.guard == 0

/-- The retention or bypass code (R63). -/
def evOk (e : Int) : Bool := fitsT e 2

/-- A T form's operands (R138, R151). -/
def TOps.ok (s : TSpec) (o : TOps) : Bool :=
  s.modOk o.ty o.sh o.var &&
  (if o.sh.isImm then (if s.op == 169 || s.op == 170 then decide (0 ≤ o.imm ∧ o.imm ≤ 2) else fitsT o.imm 27)
   else o.imm == 0) &&
  (s.aIn.contains o.sh || o.a == 0) && (s.bIn.contains o.sh || o.b == 0)

/-- What R64, R72, R201 and R250 let a memory form's operand hold. -/
structure MSpec where
  ords : List Order
  scopeAny : Bool
  evAny : Bool
  spaces : List Space
  bases : List BaseCls
  dIn : Bool
  bIn : Bool
deriving DecidableEq, Repr

/-- A memory operand within its form's row. -/
def MOps.ok (s : MSpec) (m : MOps) : Bool :=
  s.ords.contains m.ord && (s.scopeAny || m.scope == .dv) && (if s.evAny then evOk m.ev else m.ev == 0) &&
  s.spaces.contains m.space && s.bases.contains m.bc && (m.bc != .none || m.a == 0) &&
  (s.dIn || m.d == 0) && (s.bIn || m.b == 0) && fitsT m.off 27

/-- All base classes. -/
def allBases : List BaseCls := [.scalar, .vector, .none]
/-- The base classes of a scalar access. -/
def scalarBases : List BaseCls := [.scalar, .none]
/-- All orderings (R64). -/
def allOrders : List Order := [.rlx, .acq, .rel, .ar, .sc]
/-- The orderings of a load (R64). -/
def loadOrders : List Order := [.rlx, .acq, .sc]
/-- The orderings of a store (R64). -/
def storeOrders : List Order := [.rlx, .rel, .sc]

/-- The row of each memory form (R64, R72, R201, R203, R250, R253, R254). -/
def mSpec (op : Int) (scalar : Bool) : Option MSpec :=
  if op = 190 then some ⟨loadOrders, true, false, [.p], allBases, true, false⟩
  else if op = 191 then some ⟨storeOrders, true, false, [.p], allBases, false, true⟩
  else if op = 192 then some ⟨loadOrders, true, false, [.p], scalarBases, true, false⟩
  else if op = 193 then some ⟨storeOrders, true, false, [.p], scalarBases, false, true⟩
  else if op = 194 then some ⟨allOrders, true, false, [.p], allBases, true, true⟩
  else if op = 271 then some ⟨loadOrders, true, true, [.g, .w], allBases, true, false⟩
  else if op = 272 then some ⟨storeOrders, true, true, [.g, .w], allBases, false, true⟩
  else if op = 273 then some ⟨loadOrders, true, true, [.g, .w], scalarBases, true, false⟩
  else if op = 274 then some ⟨storeOrders, true, true, [.g, .w], scalarBases, false, true⟩
  else if op = 275 ∨ op = 276 then
    some ⟨allOrders, true, true, [.g, .w], if scalar then scalarBases else allBases, true, true⟩
  else if op = 277 ∨ op = 278 then some ⟨[.rlx], false, true, [.g, .w], allBases, false, false⟩
  else none

/-- The memory operand of a form with op value `op` is within its row. -/
def mOk (op : Int) (scalar : Bool) (m : MOps) : Bool :=
  match mSpec op scalar with
  | some s => m.ok s
  | none => false

/-- A base field and offset of the X and N forms of R72. -/
def baseOk (bases : List BaseCls) (bc : BaseCls) (a : Nat) (off : Int) : Bool :=
  bases.contains bc && (bc != .none || a == 0) && fitsT off 27

/-- A call or MIGR may not write its status into m0..m2 (R113, R387). -/
def notMask (d : Nat) : Bool := !(d == 78 || d == 79 || d == 80)

/-- The conversion and spaces of a word or converting CPY (R331, R332). -/
def cpyOk (conv : Int) (ssp dsp : Space) : Bool :=
  decide (-11 ≤ conv ∧ conv ≤ 11) && (decide (conv ≤ 0) || ssp == .g) && (decide (0 ≤ conv) || dsp == .g)

/-- What the fill, load and drain locations of R235 let space and eviction hold: eviction only in space g. -/
def locEvOk (sp : Space) (ev : Int) : Bool := if sp == .g then evOk ev else ev == 0

/-- The sub-fields of the forms outside mod layout T (R113, R193, R233 to R235, R250 to R255, R267, R268, R289, R316,
R330, R375, R387, R405). Register ranges are checked apart, on `Instr.uses`. -/
def otherOk : Instr → Bool
  | .nop c | .exit c | .eret c | .snap c | .ifence c => c.ok
  | .bra c off => c.ok && fitsT off 39
  | .brp c _ _ off => c.ok && fitsT off 39
  | .btri c _ plus minus => c.ok && fitsT plus 20 && fitsT minus 19
  | .split c _ join els => c.unguarded && fitsT join 20 && decide (1 ≤ join) && fitsT els 19
  | .join c => c.unguarded
  | .breakOut c n => c.ok && decide (1 ≤ n ∧ n ≤ 27)
  | .call c d off => c.ok && notMask d && fitsT off 39
  | .calli c d _ => c.ok && notMask d
  | .ret c _ => c.ok
  | .yield c n => c.ok && decide (n ≤ 729)
  | .pand c _ _ _ | .por c _ _ _ => c.ok
  | .pnot c _ _ | .rseed c _ _ => c.ok
  | .ldp c m => c.ok && mOk 190 false m
  | .stp c m => c.ok && mOk 191 false m
  | .ldps c m => c.ok && mOk 192 false m
  | .stps c m => c.ok && mOk 193 false m
  | .amop c op ty m => c.ok && op.takes ty && mOk 194 false m
  | .barinit c _ n => c.ok && barCountOk n
  | .bararr c _ _ _ n => c.ok && barCountOk n
  | .bardrop c _ _ n => c.ok && barCountOk n
  | .barwait c _ _ | .barqry c _ _ => c.ok
  | .barsync c _ => c.ok
  | .gang c r map => c.ok && fitsT map 27 && gangOk r map
  | .oclaim c _ n | .orlse c _ n | .ofence c _ n => c.ok && decide (1 ≤ n ∧ n ≤ 81)
  | .ofill c _ _ b src => c.ok && (match src with
      | .regs => b == 0
      | .loc sp off => b == 0 && sp != .g && fitsT off 27
      | .frame => true)
  | .mma c f _ _ _ t => c.unguarded && (if f.isW1 then decide (t ≤ 2) else t == 0)
  | .aclaim c _ n | .arlse c _ n | .azero c _ n => c.ok && decide (1 ≤ n ∧ n ≤ 729)
  | .ald c _ _ b src => c.ok && (match src with
      | .regs => b == 0
      | .loc sp off ev => locEvOk sp ev && fitsT off 27)
  | .ast c _ _ _ => c.ok
  | .drain c _ _ _ sp off _ ev addTy count => c.ok && locEvOk sp ev && fitsT off 27 && decide (count ≤ 729) &&
      (addTy == none || addTy == some .i27 || addTy == some .f27)
  | .rwait c _ sp off scope _ => c.ok && fitsT off 27 && (sp == .g || scope == .dv)
  | .ppoint c t n o m => c.unguarded && decide (n ≤ 2187 ∧ m ≤ 81) && (n != 0 || t == 0) && (m != 0 || o == 0)
  | .ld c m => c.ok && mOk 271 false m
  | .st c m => c.ok && mOk 272 false m
  | .lds c m => c.ok && mOk 273 false m
  | .sts c m => c.ok && mOk 274 false m
  | .atom c op ty sc m => c.ok && op.takes ty && op != .cas && mOk 275 sc m
  | .cas c _ sc m => c.ok && mOk 276 sc m
  | .pref c _ m => c.ok && mOk 277 false m
  | .demote c m => c.ok && mOk 278 false m
  | .latch c ev bc _ a n off => c.ok && evOk ev && decide (n ≤ 9) && baseOk allBases bc a off
  | .latcht c ev bc _ a _ n off => c.ok && evOk ev && decide (n ≤ 9) && baseOk allBases bc a off
  | .unlatch c _ bc a n off => c.ok && decide (n ≤ 9) && baseOk allBases bc a off
  | .latq c bc _ a off => c.ok && baseOk scalarBases bc a off
  | .fence c ord _ => c.ok && ord != .rlx
  | .probe c bc _ a _ off => c.ok && baseOk scalarBases bc a off
  | .fref c _ _ _ _ => c.ok
  | .migr c d n => c.unguarded && notMask d && decide (n ≤ 19682)
  | .mpoint c n => c.unguarded && decide (n ≤ 19682)
  | .cpy c conv ssp dsp _ _ _ h => c.ok && cpyOk conv ssp dsp && slotGuardOk h
  | .cpyFrame c _ _ _ h => c.ok && slotGuardOk h
  | .mcast c _ _ _ _ h => c.ok && slotGuardOk h
  | .ovl c _ _ _ e h => c.ok && decide (e ≤ 26) && slotGuardOk h
  | .thaw c ty kind d _ b n h => c.ok && blockTypes.contains ty && slotGuardOk h && (match kind with
      | .glob sp => sp != .p && d == 0 && n == 0
      | .ring => d == 0 && n == 0
      | .slots => b == 0 && decide (1 ≤ n ∧ n ≤ 81))
  | .freeze c ty _ _ _ _ _ m h => c.ok && blockTypes.contains ty && decide (1 ≤ m ∧ m ≤ 1594323) && slotGuardOk h
  | .pgin c _ h | .pgout c _ h => c.ok && slotGuardOk h
  | .bclose c _ | .bqry c _ | .gclr c _ => c.ok
  | .bwait c src => c.ok && (match src with
      | .imm n => fitsT n 27
      | .reg _ => true)
  | .gset c _ v => c.ok && (v == 1 || v == -1)
  | .launch c _ _ | .lwait c _ _ => c.ok
  | .lqry c d _ => c.ok && d != 80
  | .prio c _ src => c.ok && (match src with
      | .imm v => decide (-1 ≤ v ∧ v ≤ 1)
      | .reg _ => true)
  | .trap c n | .brk c n => c.ok && decide (n ≤ 9841)
  | .rdsr c _ r => c.ok && rdsrOk (Int.ofNat r)
  | .wrsr c r _ => c.ok && wrsrOk (Int.ofNat r)
  | _ => false

/-- Steps 2 to 4 of R79 hold of the term. -/
def Instr.fieldsOk (i : Instr) : Bool :=
  match i.tView with
  | some v => v.2.1.ok && (match tSpec v.1 with
    | some s => v.2.2.ok s
    | none => false)
  | none => otherOk i

/-- A well-formed instruction: one that an instruction word can stand for (steps 1 to 5 of R79). A step of another agent
is none. -/
def Instr.wf (i : Instr) : Bool := i.fieldsOk && i.uses.all RegUse.ok

end Sys2Proof
end

