-- ==== Sys2Proof/Decode.lean ====
section
/-! DEFINITION. The instruction word (R54 to R79): its eight fields, the fields of each instruction, decoding with the
steps 1 to 5 of R79, encoding, and the bit numbering in which the host hands over a table word (log entry 1). -/

namespace Sys2Proof

/-- The fields of an instruction word (R55). -/
structure Fields where
  op : Int
  mod : Int
  guard : Int
  hint : Int
  d : Int
  a : Int
  b : Int
  imm : Int
deriving DecidableEq, Repr

/-- The integer of the 81 trits that the fields make up (R55). -/
def Fields.pack (f : Fields) : Int :=
  f.imm + pow3 39 * (f.b + pow3 7 * (f.a + pow3 7 * (f.d + pow3 7 * (f.hint + pow3 5 * (f.guard + pow3 4 *
    (f.mod + pow3 6 * f.op))))))

/-- The fields of the 81 trits of an instruction (R55). -/
def Fields.unpack (x : Int) : Fields :=
  { op := fld x 80 75, mod := fld x 74 69, guard := fld x 68 65, hint := fld x 64 60, d := fld x 59 53,
    a := fld x 52 46, b := fld x 45 39, imm := fld x 38 0 }

/-- An instruction word as its three syllables, the lowest first (R54). -/
structure Syllables where
  s0 : Word
  s1 : Word
  s2 : Word
deriving DecidableEq, Repr

/-- The syllables of 81 trits (R54). -/
def Syllables.ofInt (x : Int) : Syllables := ⟨Word.ofInt x, Word.ofInt (dropT x 27), Word.ofInt (dropT x 54)⟩

/-- The 81 trits of three syllables (R54). -/
def Syllables.toInt (s : Syllables) : Int := s.s0.val + pow3 27 * (s.s1.val + pow3 27 * s.s2.val)

/-- The field value that names register `n` (R69). -/
def regField (n : Nat) : Int := Int.ofNat n - 1093

/-- The index that a register field names (R69). -/
def regIndex (f : Int) : Nat := (f + 1093).toNat

/-- A base register field (R72): 0 when there is no base. -/
def baseField (bc : BaseCls) (a : Nat) : Int := if bc = .none then 0 else regField a

/-- The base register of a field (R72). -/
def baseIndex (bc : BaseCls) (f : Int) : Nat := if bc = .none then 0 else regIndex f

/-- The imm of a memory operand (R72): trits 36..27 are `mid`. -/
def memImm (bc : BaseCls) (sp : Space) (mid off : Int) : Int :=
  off + pow3 27 * (mid + pow3 10 * (sp.code + 3 * bc.code))

/-- The mod of a form of layout M (R57). -/
def mMod (o : Order) (s : Scope) (ev : Int) : Int := 81 * o.code + 9 * s.code + ev

/-- A Boolean as a trit code: plus for true. -/
def flag (b : Bool) : Int := if b then 1 else 0

/-- The fields of a T form (R57 to R60). -/
def tFields (s : TSpec) (c : Ctl) (o : TOps) : Fields :=
  { op := s.op, mod := 27 * o.ty.code + 3 * o.sh.code + o.var.val, guard := c.guard, hint := c.hint,
    d := regField o.d, a := if s.aIn.contains o.sh then regField o.a else 0,
    b := if s.bIn.contains o.sh then regField o.b else 0, imm := o.imm }

/-- The fields of a memory form (R57, R72). -/
def mFields (op : Int) (s : MSpec) (c : Ctl) (m : MOps) (mid : Int) : Fields :=
  { op, mod := mMod m.ord m.scope m.ev, guard := c.guard, hint := c.hint,
    d := if s.dIn then regField m.d else 0, a := baseField m.bc m.a,
    b := if s.bIn then regField m.b else 0, imm := memImm m.bc m.space mid m.off }

/-- The fields of a form of layout N or X whose guard and hint are `c`. -/
def xFields (op : Int) (c : Ctl) (mod d a b imm : Int) : Fields :=
  { op, mod, guard := c.guard, hint := c.hint, d, a, b, imm }

/-- The imm of OFILL, ALD, DRAIN and RWAIT (R235): trits 36..30 are `mid`, trit 29 is `t29`. -/
def locImm (sp : Space) (mid t29 off : Int) : Int := off + pow3 29 * (t29 + 3 * (mid + pow3 7 * sp.code))

/-- The imm of a command: slot guard in trits 38..35, space or 0 in trit 34 (R330). -/
def cmdImm (h sp low : Int) : Int := low + pow3 34 * (sp + 3 * h)

/-- The fields of a memory form of the table `mSpec`. -/
def mFieldsOf (op : Int) (scalar : Bool) (c : Ctl) (m : MOps) (mid : Int) : Option Fields :=
  (mSpec op scalar).map fun s => mFields op s c m mid

/-- The fields of the forms outside mod layout T (R113, R138, R151, R193, R201 to R203, R233 to R235, R250 to R255, R267,
R268, R289, R316, R330, R331, R344, R346, R375, R387, R405). -/
def otherFields : Instr → Option Fields
  | .nop c => some (xFields 0 c 0 0 0 0 0)
  | .bra c off => some (xFields 1 c 0 0 0 0 off)
  | .brp c m p off => some (xFields 2 c 0 m.code (regField p) 0 off)
  | .btri c a plus minus => some (xFields 3 c 0 0 (regField a) 0 (minus + pow3 19 * plus))
  | .split c p join els => some (xFields 4 c 0 0 (regField p) 0 (els + pow3 19 * join))
  | .join c => some (xFields 5 c 0 0 0 0 0)
  | .breakOut c n => some (xFields 6 c 0 0 0 0 (Int.ofNat n))
  | .call c d off => some (xFields 7 c 0 (regField d) 0 0 off)
  | .calli c d a => some (xFields 8 c 0 (regField d) (regField a) 0 0)
  | .ret c a => some (xFields 9 c 0 0 (regField a) 0 0)
  | .exit c => some (xFields 10 c 0 0 0 0 0)
  | .yield c n => some (xFields 11 c 0 0 0 0 (Int.ofNat n))
  | .pand c d a b => some (xFields 85 c 0 (regField d) (regField a) (regField b) 0)
  | .por c d a b => some (xFields 86 c 0 (regField d) (regField a) (regField b) 0)
  | .pnot c d a => some (xFields 87 c 0 (regField d) (regField a) 0 0)
  | .rseed c a b => some (xFields 172 c 0 0 (regField a) (regField b) 0)
  | .ldp c m => mFieldsOf 190 false c m 0
  | .stp c m => mFieldsOf 191 false c m 0
  | .ldps c m => mFieldsOf 192 false c m 0
  | .stps c m => mFieldsOf 193 false c m 0
  | .amop c op ty m => mFieldsOf 194 false c m (729 * op.code + 27 * ty.code)
  | .barinit c b n => some (xFields 217 c 0 0 (regField b) 0 (Int.ofNat n))
  | .bararr c d b p n => some (xFields 218 c 0 (regField d) (regField b) (regField p) (Int.ofNat n))
  | .barwait c b t => some (xFields 219 c 0 0 (regField b) (regField t) 0)
  | .barsync c b => some (xFields 220 c 0 0 (regField b) 0 0)
  | .bardrop c b p n => some (xFields 221 c 0 0 (regField b) (regField p) (Int.ofNat n))
  | .barqry c d b => some (xFields 222 c 0 (regField d) (regField b) 0 0)
  | .gang c r map => some (xFields 244 c 0 0 0 0 (map + pow3 27 * r))
  | .oclaim c o n => some (xFields 245 c 0 (regField o) 0 0 (Int.ofNat n))
  | .orlse c o n => some (xFields 246 c 0 (regField o) 0 0 (Int.ofNat n))
  | .ofill c o a b src => match src with
    | .regs => some (xFields 247 c 0 (regField o) (regField a) 0 0)
    | .loc sp off => some (xFields 247 c 81 (regField o) (regField a) 0 (locImm sp 0 0 off))
    | .frame => some (xFields 247 c (-81) (regField o) (regField a) (regField b) 0)
  | .ofence c o n => some (xFields 248 c 0 (regField o) 0 0 (Int.ofNat n))
  | .mma c f t a b third => some (xFields 249 c (27 * f.code) (regField t) (regField a) (regField b) (Int.ofNat third))
  | .aclaim c t n => some (xFields 250 c 0 (regField t) 0 0 (Int.ofNat n))
  | .arlse c t n => some (xFields 251 c 0 (regField t) 0 0 (Int.ofNat n))
  | .azero c t n => some (xFields 252 c 0 (regField t) 0 0 (Int.ofNat n))
  | .ald c t a b src => match src with
    | .regs => some (xFields 253 c 0 (regField t) (regField a) 0 0)
    | .loc sp off ev => some (xFields 253 c (243 + ev) (regField t) (regField a) (regField b) (locImm sp 0 0 off))
  | .ast c d t st => some (xFields 254 c (243 * flag st) (regField d) (regField t) 0 0)
  | .drain c t a b sp off scope ev addTy count =>
    some (xFields 255 c (243 * flag addTy.isSome + 81 * flag (count != 0) + 9 * scope.code + ev) (regField t)
      (regField a) (regField b)
      (locImm sp (Int.ofNat count) (if addTy = some .f27 then -1 else 0) off))
  | .rwait c a sp off scope clr =>
    some (xFields 256 c 0 0 (regField a) 0 (locImm sp (729 * flag clr + 81 * scope.code) 0 off))
  | .ppoint c t n o m =>
    some (xFields 242 c 0 (if n = 0 then 0 else regField t) (if m = 0 then 0 else regField o) 0
      (Int.ofNat m + 19683 * Int.ofNat n))
  | .ld c m => mFieldsOf 271 false c m 0
  | .st c m => mFieldsOf 272 false c m 0
  | .lds c m => mFieldsOf 273 false c m 0
  | .sts c m => mFieldsOf 274 false c m 0
  | .atom c op ty sc m => mFieldsOf 275 sc c m (729 * op.code + 27 * ty.code + 9 * flag sc)
  | .cas c f sc m => mFieldsOf 276 sc c m (2187 * f.code + 729 * flag sc)
  | .pref c line m => mFieldsOf 277 false c m (19683 * flag line)
  | .demote c m => mFieldsOf 278 false c m 0
  | .latch c ev bc d a n off =>
    some (xFields 298 c ev (regField d) (baseField bc a) 0 (memImm bc .g (729 * Int.ofNat n) off))
  | .latcht c ev bc d a b n off =>
    some (xFields 299 c ev (regField d) (baseField bc a) (regField b) (memImm bc .g (729 * Int.ofNat n) off))
  | .unlatch c sus bc a n off =>
    some (xFields 300 c (243 * flag sus) 0 (baseField bc a) 0 (memImm bc .g (729 * Int.ofNat n) off))
  | .latq c bc d a off => some (xFields 301 c 0 (regField d) (baseField bc a) 0 (memImm bc .g 0 off))
  | .fence c ord scope => some (xFields 302 c (mMod ord scope 0) 0 0 0 0)
  | .ifence c => some (xFields 303 c 0 0 0 0 0)
  | .probe c bc d a start off =>
    some (xFields 325 c 0 (regField d) (baseField bc a) 0 (memImm bc .g (19683 * flag start) off))
  | .fref c d a b warm => some (xFields 326 c 0 (regField d) (regField a) (regField b) (flag warm))
  | .migr c d n => some (xFields 327 c 0 (regField d) 0 0 (Int.ofNat n))
  | .mpoint c n => some (xFields 328 c 0 0 0 0 (Int.ofNat n))
  | .cpy c conv ssp dsp d a b h =>
    some (xFields 352 c (27 * conv + 9 * ssp.code + 3 * dsp.code) (regField d) (regField a) (regField b) (cmdImm h 0 0))
  | .cpyFrame c d a b h => some (xFields 352 c 13 (regField d) (regField a) (regField b) (cmdImm h 0 0))
  | .mcast c ssp d a b h =>
    some (xFields 353 c 0 (regField d) (regField a) (regField b) (cmdImm h ssp.code 0))
  | .ovl c d a b e h => some (xFields 354 c 0 (regField d) (regField a) (regField b) (cmdImm h 0 (Int.ofNat e)))
  | .thaw c ty kind d a b n h => match kind with
    | .glob sp => some (xFields 355 c (27 * ty.code) 0 (regField a) (regField b) (cmdImm h sp.code 0))
    | .ring => some (xFields 355 c (27 * ty.code + 3) 0 (regField a) (regField b) (cmdImm h 0 0))
    | .slots => some (xFields 355 c (27 * ty.code - 3) (regField d) (regField a) 0 (cmdImm h 0 (Int.ofNat n)))
  | .freeze c ty ssp tab d a b m h =>
    some (xFields 356 c (27 * ty.code + 3 * ssp.code + flag tab) (regField d) (regField a) (regField b)
      (cmdImm h 0 (Int.ofNat m)))
  | .pgin c a h => some (xFields 357 c 0 0 (regField a) 0 (cmdImm h 0 0))
  | .pgout c a h => some (xFields 358 c 0 0 (regField a) 0 (cmdImm h 0 0))
  | .bclose c d => some (xFields 359 c 0 (regField d) 0 0 0)
  | .bwait c src => match src with
    | .imm n => some (xFields 360 c 0 0 0 0 n)
    | .reg a => some (xFields 360 c 0 0 (regField a) 0 (pow3 38))
  | .bqry c d => some (xFields 361 c 0 (regField d) 0 0 0)
  | .gset c q v => some (xFields 362 c 0 (regField q) 0 0 v)
  | .gclr c q => some (xFields 363 c 0 (regField q) 0 0 0)
  | .launch c d a => some (xFields (-26) c 0 (regField d) (regField a) 0 0)
  | .lwait c d a => some (xFields (-25) c 0 (regField d) (regField a) 0 0)
  | .lqry c d a => some (xFields (-24) c 0 (regField d) (regField a) 0 0)
  | .prio c d src => match src with
    | .imm v => some (xFields (-23) c 0 (regField d) 0 0 v)
    | .reg a => some (xFields (-23) c 0 (regField d) (regField a) 0 (pow3 38))
  | .trap c n => some (xFields (-22) c 0 0 0 0 (Int.ofNat n))
  | .eret c => some (xFields (-21) c 0 0 0 0 0)
  | .rdsr c d r => some (xFields (-20) c 0 (regField d) 0 0 (Int.ofNat r))
  | .wrsr c r a => some (xFields (-19) c 0 0 (regField a) 0 (Int.ofNat r))
  | .snap c => some (xFields (-18) c 0 0 0 0 0)
  | .brk c n => some (xFields (-17) c 0 0 0 0 (Int.ofNat n))
  | _ => none

/-- The fields of an instruction form; none for a step of another agent. -/
def Instr.fields (i : Instr) : Option Fields :=
  match i.tView with
  | some v => (tSpec v.1).map fun s => tFields s v.2.1 v.2.2
  | none => otherFields i

/-- The words of an instruction, in the order they stand in memory (R54). -/
def encode (i : Instr) : Option Syllables := i.fields.map fun f => Syllables.ofInt f.pack

/-- The op values of the opcode map outside mod layout T (R92). -/
def otherOps : List Int :=
  [0, 1, 2, 3, 4, 5, 6, 7, 8, 9, 10, 11, 85, 86, 87, 172, 190, 191, 192, 193, 194, 217, 218, 219, 220, 221, 222, 242,
   244, 245, 246, 247, 248, 249, 250, 251, 252, 253, 254, 255, 256, 271, 272, 273, 274, 275, 276, 277, 278, 298, 299,
   300, 301, 302, 303, 325, 326, 327, 328, 352, 353, 354, 355, 356, 357, 358, 359, 360, 361, 362, 363, -26, -25, -24,
   -23, -22, -21, -20, -19, -18, -17]

/-- Step 1 of R79: the op value is assigned (R92). -/
def opAssigned (op : Int) : Bool := (tSpec op).isSome || otherOps.contains op

/-- The mod of layout M as its three codes (R57). -/
def mModView (mod : Int) : Option (Order × Scope × Int) := do
  let o ← Order.ofCode (fld mod 5 4)
  let s ← Scope.ofCode (fld mod 3 2)
  return (o, s, fld mod 1 0)

/-- Step 3 of R79 for a form of layout M (R64). -/
def mModOk (s : MSpec) (mod : Int) : Bool :=
  match mModView mod with
  | some (o, sc, ev) => s.ords.contains o && (s.scopeAny || sc == .dv) && (s.evAny || ev == 0)
  | none => false

/-- Step 3 of R79 for a form of layout T (R58 to R60). -/
def tModOk (s : TSpec) (mod : Int) : Bool :=
  match ETy.ofCode (fld mod 5 3), Shape.ofCode (fld mod 2 1) with
  | some ty, some sh => s.modOk ty sh (tritAt mod 0)
  | _, _ => false

/-- The space trit of a location (R235) is g. -/
def locIsG (imm : Int) : Bool := tritI imm 37 == 1

/-- Step 3 of R79 for the forms of layouts M, N and X (R57, R64, R234, R268, R289, R331, R344, R346). -/
def otherModOk (f : Fields) : Bool :=
  let m := f.mod
  if f.op = 247 then m == 0 || m == 81 || m == -81
  else if f.op = 249 then fld m 2 0 == 0 && (MFmt.ofCode (fld m 5 3)).isSome
  else if f.op = 253 then
    fld m 4 2 == 0 && ((fld m 5 5 == 0 && fld m 1 0 == 0) || (fld m 5 5 == 1 && (locIsG f.imm || fld m 1 0 == 0)))
  else if f.op = 254 then m == 0 || m == 243
  else if f.op = 255 then
    fld m 5 5 != -1 && fld m 4 4 != -1 && (Scope.ofCode (fld m 3 2)).isSome && (locIsG f.imm || fld m 1 0 == 0)
  else if f.op = 298 ∨ f.op = 299 then fld m 5 2 == 0
  else if f.op = 300 then m == 0 || m == 243
  else if f.op = 302 then fld m 1 0 == 0 && (match mModView m with
    | some (o, _, _) => o != .rlx
    | none => false)
  else if f.op = 352 then
    let conv := fld m 5 3
    let ssp := fld m 2 2
    let dsp := fld m 1 1
    fld m 0 0 != -1 && decide (-11 ≤ conv ∧ conv ≤ 11) && (decide (conv ≤ 0) || ssp == 1) &&
      (decide (0 ≤ conv) || dsp == 1) && (fld m 0 0 == 0 || (conv == 0 && ssp == 1 && dsp == 1))
  else if f.op = 355 then
    fld m 0 0 == 0 && (match ETy.ofCode (fld m 5 3) with
      | some ty => blockTypes.contains ty
      | none => false) && (fld m 2 1 == 0 || fld m 2 1 == 1 || fld m 2 1 == -1)
  else if f.op = 356 then
    fld m 0 0 != -1 && (match ETy.ofCode (fld m 5 3) with
      | some ty => blockTypes.contains ty
      | none => false) && (fld m 2 1 == 0 || fld m 2 1 == 1 || fld m 2 1 == -1)
  else match mSpec f.op true with
    | some s => mModOk s m
    | none => m == 0

/-- Step 3 of R79. -/
def modOk (f : Fields) : Bool :=
  match tSpec f.op with
  | some s => tModOk s f.mod
  | none => otherModOk f

/-- The T form whose fields these would be. -/
def tCandidate (s : TSpec) (c : Ctl) (f : Fields) : Option Instr := do
  let ty ← ETy.ofCode (fld f.mod 5 3)
  let sh ← Shape.ofCode (fld f.mod 2 1)
  tBuild f.op c { ty, sh, var := tritAt f.mod 0, d := regIndex f.d,
                  a := if s.aIn.contains sh then regIndex f.a else 0,
                  b := if s.bIn.contains sh then regIndex f.b else 0, imm := f.imm }

/-- The memory operand whose fields these would be. -/
def mCandidate (f : Fields) (scalar : Bool) : Option MOps := do
  let s ← mSpec f.op scalar
  let (ord, scope, ev) ← mModView f.mod
  let bc ← BaseCls.ofCode (tritI f.imm 38)
  let space ← Space.ofCode (tritI f.imm 37)
  return { ord, scope, ev, bc, space, d := if s.dIn then regIndex f.d else 0, a := baseIndex bc f.a,
           b := if s.bIn then regIndex f.b else 0, off := fld f.imm 26 0 }

/-- The base class, register and offset of a latch form, LATQ or PROBE. -/
def baseView (f : Fields) : Option (BaseCls × Nat × Int) := do
  let bc ← BaseCls.ofCode (tritI f.imm 38)
  return (bc, baseIndex bc f.a, fld f.imm 26 0)

/-- The control, predicate, barrier and scratchpad form whose fields these would be. -/
def candidateA (c : Ctl) (f : Fields) : Option Instr :=
  let d := regIndex f.d
  let a := regIndex f.a
  let b := regIndex f.b
  let n := f.imm.toNat
  match f.op with
  | 0 => some (.nop c)
  | 1 => some (.bra c f.imm)
  | 2 => (BrpMode.ofCode f.d).map fun m => .brp c m a f.imm
  | 3 => some (.btri c a (fld f.imm 38 19) (fld f.imm 18 0))
  | 4 => some (.split c a (fld f.imm 38 19) (fld f.imm 18 0))
  | 5 => some (.join c)
  | 6 => some (.breakOut c n)
  | 7 => some (.call c d f.imm)
  | 8 => some (.calli c d a)
  | 9 => some (.ret c a)
  | 10 => some (.exit c)
  | 11 => some (.yield c n)
  | 85 => some (.pand c d a b)
  | 86 => some (.por c d a b)
  | 87 => some (.pnot c d a)
  | 172 => some (.rseed c a b)
  | 190 => (mCandidate f false).map fun m => .ldp c m
  | 191 => (mCandidate f false).map fun m => .stp c m
  | 192 => (mCandidate f false).map fun m => .ldps c m
  | 193 => (mCandidate f false).map fun m => .stps c m
  | 194 => do
    let m ← mCandidate f false
    let op ← Rmw.ofCode (fld f.imm 36 33)
    let ty ← ETy.ofCode (fld f.imm 32 30)
    return .amop c op ty m
  | 217 => some (.barinit c a n)
  | 218 => some (.bararr c d a b n)
  | 219 => some (.barwait c a b)
  | 220 => some (.barsync c a)
  | 221 => some (.bardrop c a b n)
  | 222 => some (.barqry c d a)
  | _ => none

/-- The matrix form whose fields these would be. -/
def candidateB (c : Ctl) (f : Fields) : Option Instr :=
  let d := regIndex f.d
  let a := regIndex f.a
  let b := regIndex f.b
  let n := f.imm.toNat
  match f.op with
  | 242 =>
    let n := (fld f.imm 17 9).toNat
    let m := (fld f.imm 8 0).toNat
    some (.ppoint c (if n = 0 then 0 else d) n (if m = 0 then 0 else a) m)
  | 244 => some (.gang c (fld f.imm 30 27).toNat (fld f.imm 26 0))
  | 245 => some (.oclaim c d n)
  | 246 => some (.orlse c d n)
  | 247 =>
    if f.mod = 81 then (Space.ofCode (tritI f.imm 37)).map fun sp => .ofill c d a 0 (.loc sp (fld f.imm 26 0))
    else if f.mod = -81 then some (.ofill c d a b .frame)
    else some (.ofill c d a 0 .regs)
  | 248 => some (.ofence c d n)
  | 249 => (MFmt.ofCode (fld f.mod 5 3)).map fun m => .mma c m d a b n
  | 250 => some (.aclaim c d n)
  | 251 => some (.arlse c d n)
  | 252 => some (.azero c d n)
  | 253 =>
    if fld f.mod 5 5 = 1 then
      (Space.ofCode (tritI f.imm 37)).map fun sp => .ald c d a b (.loc sp (fld f.imm 26 0) (fld f.mod 1 0))
    else some (.ald c d a 0 .regs)
  | 254 => some (.ast c d a (f.mod == 243))
  | 255 => do
    let sp ← Space.ofCode (tritI f.imm 37)
    let scope ← Scope.ofCode (fld f.mod 3 2)
    return .drain c d a b sp (fld f.imm 26 0) scope (fld f.mod 1 0)
      (if fld f.mod 5 5 = 1 then (if tritI f.imm 29 = -1 then some .f27 else some .i27) else none)
      (fld f.imm 36 30).toNat
  | 256 => do
    let sp ← Space.ofCode (tritI f.imm 37)
    let scope ← Scope.ofCode (fld f.imm 35 34)
    return .rwait c a sp (fld f.imm 26 0) scope (tritI f.imm 36 == 1)
  | _ => none

/-- The memory, latch, fence, translation and migration form whose fields these would be. -/
def candidateC (c : Ctl) (f : Fields) : Option Instr :=
  let d := regIndex f.d
  let a := regIndex f.a
  let b := regIndex f.b
  match f.op with
  | 271 => (mCandidate f false).map fun m => .ld c m
  | 272 => (mCandidate f false).map fun m => .st c m
  | 273 => (mCandidate f false).map fun m => .lds c m
  | 274 => (mCandidate f false).map fun m => .sts c m
  | 275 => do
    let m ← mCandidate f false
    let op ← Rmw.ofCode (fld f.imm 36 33)
    let ty ← ETy.ofCode (fld f.imm 32 30)
    return .atom c op ty (tritI f.imm 29 == 1) m
  | 276 => do
    let m ← mCandidate f false
    let fl ← CasField.ofCode (fld f.imm 36 34)
    return .cas c fl (tritI f.imm 33 == 1) m
  | 277 => (mCandidate f false).map fun m => .pref c (tritI f.imm 36 == 1) m
  | 278 => (mCandidate f false).map fun m => .demote c m
  | 298 => (baseView f).map fun v => .latch c f.mod v.1 d v.2.1 (fld f.imm 36 33).toNat v.2.2
  | 299 => (baseView f).map fun v => .latcht c f.mod v.1 d v.2.1 b (fld f.imm 36 33).toNat v.2.2
  | 300 => (baseView f).map fun v => .unlatch c (f.mod == 243) v.1 v.2.1 (fld f.imm 36 33).toNat v.2.2
  | 301 => (baseView f).map fun v => .latq c v.1 d v.2.1 v.2.2
  | 302 => (mModView f.mod).map fun v => .fence c v.1 v.2.1
  | 303 => some (.ifence c)
  | 325 => (baseView f).map fun v => .probe c v.1 d v.2.1 (tritI f.imm 36 == 1) v.2.2
  | 326 => some (.fref c d a b (f.imm == 1))
  | 327 => some (.migr c d f.imm.toNat)
  | 328 => some (.mpoint c f.imm.toNat)
  | _ => none

/-- The engine, launch and system form whose fields these would be. -/
def candidateD (c : Ctl) (f : Fields) : Option Instr :=
  let d := regIndex f.d
  let a := regIndex f.a
  let b := regIndex f.b
  let h := fld f.imm 38 35
  let low := (fld f.imm 26 0).toNat
  match f.op with
  | 352 =>
    if fld f.mod 0 0 = 1 then some (.cpyFrame c d a b h)
    else do
      let ssp ← Space.ofCode (fld f.mod 2 2)
      let dsp ← Space.ofCode (fld f.mod 1 1)
      return .cpy c (fld f.mod 5 3) ssp dsp d a b h
  | 353 => (Space.ofCode (tritI f.imm 34)).map fun sp => .mcast c sp d a b h
  | 354 => some (.ovl c d a b low h)
  | 355 => do
    let ty ← ETy.ofCode (fld f.mod 5 3)
    if fld f.mod 2 1 = 1 then return .thaw c ty .ring 0 a b 0 h
    else if fld f.mod 2 1 = -1 then return .thaw c ty .slots d a 0 low h
    else
      let sp ← Space.ofCode (tritI f.imm 34)
      return .thaw c ty (.glob sp) 0 a b 0 h
  | 356 => do
    let ty ← ETy.ofCode (fld f.mod 5 3)
    let sp ← Space.ofCode (fld f.mod 2 1)
    return .freeze c ty sp (fld f.mod 0 0 == 1) d a b low h
  | 357 => some (.pgin c a h)
  | 358 => some (.pgout c a h)
  | 359 => some (.bclose c d)
  | 360 => some (.bwait c (if tritI f.imm 38 = 1 then .reg a else .imm f.imm))
  | 361 => some (.bqry c d)
  | 362 => some (.gset c d f.imm)
  | 363 => some (.gclr c d)
  | -26 => some (.launch c d a)
  | -25 => some (.lwait c d a)
  | -24 => some (.lqry c d a)
  | -23 => some (.prio c d (if tritI f.imm 38 = 1 then .reg a else .imm f.imm))
  | -22 => some (.trap c f.imm.toNat)
  | -21 => some (.eret c)
  | -20 => some (.rdsr c d f.imm.toNat)
  | -19 => some (.wrsr c f.imm.toNat a)
  | -18 => some (.snap c)
  | -17 => some (.brk c f.imm.toNat)
  | _ => none

/-- The instruction whose fields these would be, if its sub-fields hold codes at all. -/
def candidate (f : Fields) : Option Instr :=
  let c : Ctl := ⟨f.guard, f.hint⟩
  match tSpec f.op with
  | some s => tCandidate s c f
  | none =>
    if f.op < 0 then candidateD c f
    else if f.op < 240 then candidateA c f
    else if f.op < 270 then candidateB c f
    else if f.op < 350 then candidateC c f
    else candidateD c f

/-- What decoding gives: the instruction, or the number of the first step of R79 that fails. -/
inductive Decoded where
  | ok (i : Instr)
  | bad (step : Nat)
deriving DecidableEq, Repr

/-- Step 4 of R79: the candidate's sub-fields are ones its form accepts, and its fields are exactly the word's, so that
no unused field is nonzero. -/
def step4Ok (i : Instr) (f : Fields) : Bool := i.fieldsOk && i.fields == some f

/-- Decoding of the fields: steps 1 to 5 of R79 in order. -/
def decodeFields (f : Fields) : Decoded :=
  if !opAssigned f.op then .bad 1
  else if !decide (-27 ≤ f.guard ∧ f.guard ≤ 27) then .bad 2
  else if !modOk f then .bad 3
  else match candidate f with
    | none => .bad 4
    | some i =>
      if !step4Ok i f then .bad 4
      else if !i.uses.all RegUse.ok then .bad 5
      else .ok i

/-- Decoding of an instruction word (R54, R79). Total on any three words. -/
def decode (s : Syllables) : Decoded := decodeFields (Fields.unpack s.toInt)

/-- The instruction a word decodes to, if steps 1 to 5 of R79 pass. -/
def decode? (s : Syllables) : Option Instr :=
  match decode s with
  | .ok i => some i
  | .bad _ => none

/-- The trits of a bit string in the dual-rail numbering of log entry 1, lowest trit first: bits 2t and 2t + 1 are the
plus and the minus wire of trit t (R27); both set stand for no trit. -/
def railTrits (w : Nat) : Nat → Option Int
  | 0 => some 0
  | n + 1 => match w % 4, railTrits (w / 4) n with
    | 0, some x => some (3 * x)
    | 1, some x => some (3 * x + 1)
    | 2, some x => some (3 * x - 1)
    | _, _ => none

/-- The bit string of `n` trits in the dual-rail numbering of log entry 1. -/
def railBits (x : Int) : Nat → Nat
  | 0 => 0
  | n + 1 => (if wrapT x 1 = 1 then 1 else if wrapT x 1 = -1 then 2 else 0) + 4 * railBits (dropT x 1) n

/-- The syllables that the bits `w` of a table word stand for: 81 trits of two bits each, every bit above `nbits` zero
(log entry 1). -/
def tableSyllables (nbits w : Nat) : Option Syllables :=
  (railTrits (w % 2 ^ nbits) 81).map Syllables.ofInt

/-- The instruction the decoder reads from the bits of a table word (log entry 1). -/
def decodeTableWord (nbits w : Nat) : Option Instr :=
  match tableSyllables nbits w with
  | some s => decode? s
  | none => none

end Sys2Proof
end

