-- ==== Sys2Proof/Machine/State.lean ====
section
/-! DEFINITION. The whole state of the machine as plain data: gusts, squalls, cores, dies, caches, home slices, memory,
contexts, fronts, graphs, engines, links, observation, boot and power, and the model's own few fields; the reasons a step
can stop; and the state after reset. -/

namespace Sys2Proof.Machine

/-- Why a step stops with a fault. -/
inductive Fault where
  /-- A step names a core, die, context or unit that R13, R15 or R20 says does not exist. Raised by the steps of the other
  agents when executed with such a number. Safe: no such agent exists. -/
  | noSuchAgent
deriving DecidableEq, Repr

/-- Why a step has no answer. -/
inductive Refusal where
  /-- An instruction that is not modelled yet, by its mnemonic. Raised only by arms of exec. Safe. -/
  | notModelled (mnemonic : String)
  /-- An instruction form executed while no gust is issuing. Raised by every instruction form; a step never meets it,
  since it executes a form only for the gust it has just fetched for. Safe. -/
  | noGust
deriving DecidableEq, Repr

/-- Words by index, in the canonical form of Machine/Sparse.lean: indices strictly rising, no entry zero. -/
abbrev Sparse := List (Nat × Word)

/-- A word address in a line: where the line lies, and the word 0..44. -/
structure WLoc where
  loc : Loc
  word : Nat
deriving DecidableEq, Repr

/-- An entry of the divergence stack (R104), with the hold trit of R438. Kind plus is a reconvergence entry, minus a path
entry. -/
structure StackEntry where
  kind : Trit
  hold : Bool
  pc : Int
  mask : Mask
  rpc : Int
deriving DecidableEq, Repr

/-- What a waiting gust waits for (R96). Every wait but the ones ended by an event of their own is ended by its
instruction being issued again. -/
inductive Wait where
  /-- BARWAIT, BARSYNC (R196): barrier and token; the phase's completion ends it. -/
  | barrier (b : Nat) (token : Int)
  /-- OCLAIM or ACLAIM (R209): tiles or slots, the run; a release ends it. `since` orders the claims. -/
  | claim (tiles : Bool) (first n since : Nat)
  /-- OFENCE (R214). -/
  | fence (first n : Nat)
  /-- A ganged MMA at the rendezvous latch (R220), and that MMA. -/
  | gang (i : Instr)
  /-- A command waiting for room in its queue (R22, R222, R319). -/
  | accept
  /-- RWAIT (R230): the address that it names, and the counter's identity. -/
  | counter (x : Int) (key : List Nat)
  /-- LATCH or LATCHT queued at the home slice (R270): its first lane's address and the locations. -/
  | latch (x : Int) (n : Nat)
  /-- BCLOSE at the limit of 27 closed batches (R323). -/
  | batchRoom
  /-- BWAIT (R325), and the wait of MIGR before its arrival (R389): the batch number. -/
  | batch (n : Nat)
  /-- GCLR (R329): its slot, and identities of the commands that must leave their queue head. -/
  | guards (k : Nat) (ids : List Nat)
  /-- LWAIT (R377): the front. -/
  | front (n : Nat)
  /-- MIGR at the migration rendezvous (R390), and that MIGR. -/
  | migr (i : Instr)
  /-- Lanes awaiting replay (R308, R311). -/
  | replay
  /-- A gust-form access waiting on a page fill (R308). -/
  | page
  /-- A release waiting for the gust's loads and unacknowledged writes (R277). -/
  | quiet
  /-- The lanes of an acquiring atomic, or of one whose result is a mask word, at their apply units (R249, R274, R102). -/
  | atomic
  /-- The reply of a LAUNCH whose result is a mask word (R99, R102, R376). -/
  | reply
deriving DecidableEq, Repr

/-- The state of a resident gust (R96, R436). `halted` is a gust stopped for a shutter request (R409). Trap entry is one
act of the model, so no gust is seen inside it. -/
inductive Status where
  | running
  | waiting (op : Int) (w : Wait)
  | yielded (until_ : Nat)
  | stopped
  | retiring
  | retired
deriving DecidableEq, Repr

/-- The data of a fault record's words 0..8 (R397). -/
abbrev Rec := List Word

/-- A recorded command fault (R323, R324): the batch, the record, and the slot it belongs to when it is a fill's. -/
structure CmdFault where
  batch : Nat
  words : Rec
  slot : Option Nat
  serial : Nat
deriving DecidableEq, Repr

/-- A load with sectors or words still to land (R244, R183): destination register, whether it is a scalar, eviction code, the
lanes with the word each waits for and that word as the request found it, the tick at which the translations it used end (R306),
the fault record of the instruction, for a machine check when it lands (R397, R414), the tick of its requests, and whether they have
been lost on a link (R422). -/
structure PendLoad where
  d : Nat
  scalar : Bool
  ev : Int
  items : List (Nat × WLoc × Word)
  lease : Nat
  words : Rec := []
  sentAt : Nat := 0
  lost : Bool := false
deriving DecidableEq, Repr

/-- What an atomic does at its unit: an operation of R203 or a CAS field of R254. -/
inductive AtomKind where
  | rmw (op : Rmw) (ty : ETy)
  | cas (f : CasField)
deriving DecidableEq, Repr

/-- One lane of an atomic on its way to its apply unit: lane, word, comparand or old d, operand b, the word as the request found
it, and whether it has been applied already, to the word `seen` (a lane whose word's holder has left its core: log entry 62). -/
structure AtomItem where
  lane : Nat
  at_ : WLoc
  dOld : Word
  b : Word
  seen : Word
  took : Bool := false
deriving DecidableEq, Repr

/-- An atomic of a gust on its way (R204, R249, R253, R254): destination, class, ordering, scope, eviction code, the lanes not
yet applied in ascending order, the tick at which the translations it used end (R306), the fault record of the instruction, the tick
of its requests, and whether they have been lost on a link (R422). -/
structure PendAtom where
  kind : AtomKind
  d : Nat
  scalar : Bool
  ord : Order
  scope : Scope
  ev : Int
  items : List AtomItem
  lease : Nat
  words : Rec := []
  sentAt : Nat := 0
  lost : Bool := false
deriving DecidableEq, Repr

/-- Lanes of a memory instruction that await replay (R103, R308): the instruction, and each lane with the page-table entry
(physical word address) it waits on. -/
structure Replay where
  instr : Instr
  lanes : List (Nat × Nat)
deriving DecidableEq, Repr

/-- A gust (R10, R94 to R110, R124 to R137, R171, R217, R231, R276, R323, R382, R394, R395, R413). -/
structure Gust where
  ref : GustRef
  /-- Age stamp: a smaller stamp is older (R95, R366). -/
  age : Nat
  /-- Issue slot of its core (R94). -/
  slot : Nat
  status : Status
  /-- Stopped for a shutter request (R409). -/
  halted : Bool
  pc : Int
  /-- s0..s80; s78..s80 are the mask m0..m2 (R124, R133). -/
  sreg : List Word
  /-- p0..p26 (R124). -/
  preg : List Mask
  /-- The allotted vector registers (R124, R125) and the physical index of the first (R413). -/
  vreg : List Lanes
  vbase : Nat
  /-- Divergence stack, top first (R104). -/
  stack : List StackEntry
  /-- A path end has sent the gust to the JOIN of its packet with no plus trit in its mask (R106, R108). -/
  sent : Bool := false
  /-- The instruction being executed has written a mask word (R441). -/
  maskWrote : Bool := false
  /-- PTIME when its wait began, or when its waiting lanes were last retranslated (R311). -/
  since : Nat := 0
  priv : Bool
  trapActive : Bool
  stepBit : Bool
  tvec : Word
  tpc : Word
  tm : Mask
  /-- GFR0..GFR8 (R395). -/
  gfr : List Word
  /-- Lane fault records, by lane (R395, R397). -/
  laneRec : List (Nat × Rec)
  /-- The lanes that have faulted in the instruction being executed (R401). -/
  laneFaulted : List Nat
  /-- Latched PTIME trits 53..27 (R395). -/
  ptimeh : Word
  /-- Point state: n_last and k (R382). -/
  nlast : Option Nat
  kcount : Nat
  /-- Gang register: rows and map (R217). -/
  gangRows : Nat
  gangMap : Word
  /-- Generator key and draw counter, 54 trits (R171). -/
  key : Word
  ctr : Int
  /-- Recorded live set: first and count of tiles and of slots (R231). -/
  liveTiles : Nat × Nat
  liveSlots : Nat × Nat
  /-- Last closed batch, highest completed batch, counted unrecorded faults, recorded faults (R323, R324, R399). -/
  bnum : Nat
  doneUpto : Nat
  lost : Nat
  faults : List CmdFault
  /-- The lowest batch that holds a counted fault (R399), and the batches that wrote remote or host lines (R288). -/
  lostIn : Nat
  far : List Nat
  /-- The open batch holds a command (R389). -/
  opened : Bool
  /-- Highest batch the gust has waited for, and its accepted tile commands as (tile, batch) (R216). -/
  waited : Nat
  touched : List (Nat × Nat)
  /-- Count of unacknowledged writes (R276). -/
  unacked : Nat
  /-- Loads in flight (R244), atomics in flight (R249), oldest first, lanes awaiting replay (R308). -/
  loads : List PendLoad
  atoms : List PendAtom
  replay : Option Replay
  /-- The gust form's page-table entry waited on, and the entries and causes of failed fills not yet taken (R309). -/
  pageWait : Option Nat
  fillFaults : List (Nat × Int)
  /-- Scalars awaiting the replies of LAUNCH, with the record address each sent, oldest first (R376). -/
  reply : List (Nat × Word)
  /-- The instruction at pc has been counted in k already: it waits or has lanes in flight (R382). -/
  issued : Bool
  /-- A latch grant code that has arrived for the waiting LATCH (R261). -/
  latchCode : Option Int
  /-- Statuses to be written at restore: a latch entry removed while the gust was shuttered (R262). -/
  lateCode : Option Int
  /-- The fetched packet (R77): PC of slot 0 and its three words. -/
  packet : Option (Int × List Syllables)
  /-- Syllables replaced since the gust's last IFENCE: scratchpad word index and old word (R292). -/
  oldCode : List (Nat × Word)
  /-- Debug command word (R437). -/
  dbgCmd : Word
  /-- The next trace packet is a sync; packets since the last sync; a packet has been dropped, and the next written one is a sync
  (R440, R442). -/
  traceSync : Bool
  traceCount : Nat
  traceLost : Bool := false
deriving DecidableEq, Repr

/-- Fill state of a slot (R214). -/
inductive FillState where
  | ready | pending | unfenced | faulted
deriving DecidableEq, Repr

/-- A slot's owner and fill state (R208, R214): pending count, recorded fault, whether a release of it waits (R210), and the issue
number of the latest fill that has written it (R215). -/
structure SlotSt where
  owner : Option Nat
  fill : FillState
  count : Nat
  fault : Option CmdFault
  releasing : Bool
  wrote : Nat
deriving DecidableEq, Repr

/-- A tile's owner, status trit (R44, R208), and whether a release of it waits (R210). -/
structure TileSt where
  owner : Option Nat
  status : Trit
  releasing : Bool
deriving DecidableEq, Repr

/-- A squall's allotment (R126, R176, R188, R206, R352). -/
structure Alloc where
  v : Nat
  s : Nat
  p : Nat
  g : Nat
  scratch : Nat
  tiles : Nat
  slots : Nat
  bars : Nat
deriving DecidableEq, Repr

/-- First physical index of each run a squall holds on its core (R176, R188, R206). -/
structure Bases where
  scratch : Nat
  tile : Nat
  slot : Nat
  bar : Nat
deriving DecidableEq, Repr

/-- An accepted migration not yet complete (R391, R392): point, target core, its runs, each gust's new issue slot and
vector base, whether the state-mapping table has been read, and that table's words. -/
structure Migration where
  point : Nat
  target : Nat
  bases : Bases
  slots : List Nat
  vbases : List Nat
  moved : Bool
  table : List Word
deriving DecidableEq, Repr

/-- Where a squall of a command's context stood when the command was issued (R322): its core, its runs, and each gust's issue
slot and vector registers as (gust, slot, first, count). -/
structure Placed where
  q : SqRef
  core : Nat
  bases : Bases
  alloc : Alloc
  runs : List (Nat × Nat × Nat × Nat)
deriving DecidableEq, Repr

/-- A bound squall (R17, R21): its place, its core, its allotment and the stores it holds there. -/
structure Squall where
  q : SqRef
  ctx : Nat
  idx : Nat × Nat × Nat
  core : Nat
  isD : Bool
  image : Nat
  count : Nat
  alloc : Alloc
  bases : Bases
  /-- PTIME of the bind (R362, R364). -/
  boundAt : Nat
  /-- Local scratchpad words (R175, R176). -/
  scratch : Sparse
  /-- Tile words 729t + w and tile states; slot words 243o + w and slot states (R205 to R214). -/
  tileWords : Sparse
  tiles : List TileSt
  slotWords : Sparse
  slots : List SlotSt
  /-- Barrier records, two words each (R189). -/
  bars : List (Word × Word)
  /-- Guard slots (R136). -/
  guards : List Trit
  /-- Shutter request: PTIME and forced (R409). -/
  shutter : Option (Nat × Bool)
  migration : Option Migration
  /-- The address of the image that a save has taken (R410, R411). -/
  saveTo : Option Int := none
deriving DecidableEq, Repr

/-- The stage of a command in a queue (R214, R222, R320). -/
inductive Stage where
  | queued | started | ran
deriving DecidableEq, Repr

/-- One member of a joint MMA: gust, tile, A slot, B slot (R221). -/
structure MmaMember where
  who : GustRef
  tile : Nat
  a : Nat
  b : Nat
  batch : Nat
  /-- It touched a slot early (R216). -/
  early : Bool
deriving DecidableEq, Repr

/-- An entry of a core's segment table (R336, R338): image, first PC, count, scratchpad index; `pending` while an overlay
is in flight, with the old PC range and its index; `reserved` for a lazily bound segment. -/
structure Seg where
  image : Nat
  first : Int
  count : Nat
  index : Nat
  pending : Bool
  reserved : Bool
  oldFirst : Int
  oldCount : Nat
  oldIndex : Nat
deriving DecidableEq, Repr

/-- A queued command (R222, R319, R412): its instruction and syllables, the issuing gust, its batch, the PCs and count of
R324, the scalars and words read at issue, and its progress. -/
structure Cmd where
  id : Nat
  instr : Instr
  who : GustRef
  ctx : Nat
  core : Nat
  priv : Bool
  batch : Nat
  pcs : Word × Word × Word
  scal : List Int
  words : List Word
  targets : List (SqRef × Nat)
  members : List MmaMember
  stage : Stage
  /-- A fault found while running, as cause and detail (R321). -/
  fault : Option (Int × Int)
  /-- Its issue number among fills, and the states of the slots it fills as they stood then (R214). -/
  issuedAt : Nat
  prior : List FillState
  /-- Page-table entry waited on, the address whose access waits, and the cause of a failed fill (R309, R312). -/
  pageWait : Option Nat
  waitAt : Int
  fillFault : Option Int
  /-- Words written, whether its data has been read and decoded, the ring's produced count at the start of a THAW, the words it
  writes (R137, R342, R343), or the frame records it has read (R315). -/
  pos : Nat
  decoded : Bool
  p0 : Int
  raw : List Word
  /-- The order in which the words land, by their places in `raw` (R137). -/
  order : List Nat := []
  /-- Where the context's squalls stood at issue (R322), and the segment entry an OVL replaces (R338). -/
  snap : List Placed
  oldSeg : Option Seg
  /-- The queue of PGIN and PGOUT also holds the page-ins that walks start: the record's physical word address. -/
  record : Option Nat
deriving DecidableEq, Repr

/-- A cached page-table entry (R305, R306): context, level, first line it covers, lines it covers, the entry's words, and
the PTIME at which its lease ends. -/
structure TlbEntry where
  ctx : Nat
  level : Nat
  base : Nat
  lines : Nat
  w0 : Word
  w1 : Word
  expires : Nat
deriving DecidableEq, Repr

/-- A core (R15, R94, R124), with the cycles that it has counted since its die last saw a tick (R420): `free` holds the words of its
register files, scratchpad, tiles, slots, barrier records and slot states that no bound squall holds, by window offset (R185); then cycle
count, issue counters (R366), segment table and instruction scratchpad (R336), queues (R222, R319) with the commands waiting for room,
TLBs (R305), counters and snapshot registers (R431). -/
structure Core where
  free : Sparse
  cycle : Nat
  quiet : Nat := 0
  waitN : Nat
  waitB : Nat
  segs : List (Option Seg)
  isp : Sparse
  matrixQ : List Cmd
  fillQ : List Cmd
  copyQ : List Cmd
  codecQ : List Cmd
  acceptQ : List Cmd
  tlb : List TlbEntry
  ahead : List TlbEntry
  counters : List Nat
  snap : List Nat
deriving DecidableEq, Repr

/-- A word of an L1 line (R236, R239, R278): its value, the release epoch of its last write when it is dirty, the context that
wrote it, and whether a soft error has made it uncorrectable (R53). -/
structure CWord where
  val : Word
  dirty : Option Nat
  by_ : Nat
  bad : Bool := false
deriving DecidableEq, Repr

/-- A line of an L1 slice (R236, R240, R245): its words, its stale sectors, priority and last use. -/
structure L1Line where
  loc : Loc
  words : List (Nat × CWord)
  stale : List Nat
  prio : Int
  used : Nat
deriving DecidableEq, Repr

/-- A line of a near slice: clean sectors of five words (R236), and the words that are uncorrectable (R53). -/
structure NearLine where
  line : Nat
  sectors : List (Nat × List Word)
  bad : List Nat := []
  prio : Int
  used : Nat
deriving DecidableEq, Repr

/-- A line of a home slice with its directory entry (R236, R242): the 45 words, those of them that are uncorrectable (R53), the dies
that hold each sector, and the dies that have noted a dirty word. -/
structure HomeLine where
  line : Nat
  words : List Word
  bad : List Nat := []
  holders : List (Nat × Nat)
  noted : List (Nat × Nat)
  prio : Int
  used : Nat
deriving DecidableEq, Repr

/-- A latch holder (R258). -/
structure Holder where
  who : GustRef
  ctx : Nat
  first : Nat
  cnt : Nat
deriving DecidableEq, Repr

/-- State of a waiter entry (R258, R262). -/
inductive EntrySt where
  | queued | offered (at_ : Nat) | requeued
deriving DecidableEq, Repr

/-- A waiter entry (R258), with whether it has lost an offer (R261) and the address a deadlock record names (R266). -/
structure Waiter where
  who : GustRef
  ctx : Nat
  first : Nat
  cnt : Nat
  cls : Trit
  entered : Nat
  deadline : Option Nat
  st : EntrySt
  lost : Bool
  vaddr : Int
  ev : Int
  /-- PTIME at which the next deadlock probe is due, or while the entry is offered the ticks left until then (R265), and the version by which a probe sees that the entry has changed. -/
  probeAt : Nat
  ver : Nat
deriving DecidableEq, Repr

/-- A queue head (R258): line, holders, entries in arrival order of all three sub-queues, grant counters, suspect
sectors. -/
structure QHead where
  line : Nat
  holders : List Holder
  entries : List Waiter
  runN : Nat
  runB : Nat
  suspect : List Nat
deriving DecidableEq, Repr

/-- A contribution counter (R228): its identity (unit, place, scope), E, L, the scope of its drains, ready, and the creating
context. -/
structure Counter where
  key : List Nat
  scope : Scope
  expected : Nat
  landed : Nat
  ready : Bool
  ctx : Nat
deriving DecidableEq, Repr

/-- A bind record (R362): its place in the slot table, and its words. -/
structure BindRec where
  place : Nat
  front : Nat
  prio : Trit
  policy : Trit
  coreSet : Word
  quantum : Nat
  save : Int
deriving DecidableEq, Repr

/-- What a die's distributor holds of a front (R360, R361): sub-ranges per core as (core, first, count), and the pool. -/
structure Dist where
  front : Nat
  subs : List (Nat × Nat × Nat)
  pool : Nat × Nat
deriving DecidableEq, Repr

/-- A compute die (R13, R236, R278, R281, R286, R305, R362, R431). -/
structure Die where
  l1 : List L1Line
  near : List NearLine
  clock : List Nat
  epoch : Nat
  walks : List TlbEntry
  bindRecs : List BindRec
  dists : List Dist
  ticket : Nat
  counters : List Nat
  snap : List Nat
deriving DecidableEq, Repr

/-- A front record's fields (R352). -/
structure FrontRec where
  prefer : Trit
  prio : Trit
  dims : Nat
  gusts : Nat
  imgL : Nat
  imgD : Nat
  alloc : Alloc
  n0 : Nat
  n1 : Nat
  n2 : Nat
  ranges : List (Nat × Nat)
  args : Int
  save : Int
  done : Int
  msix : Int
deriving DecidableEq, Repr

/-- Who launched a front (R356, R373, R310). -/
inductive Launcher where
  | list
  | parent (front : Nat)
  | graph (g node : Nat)
  | regen (ctx : Nat) (entry : Nat)
deriving DecidableEq, Repr

/-- A live front (R355 to R357, R360). `sent` lists the dies whose distributor has its range; `ending` is the completion value of
a front that retires as soon as its completion word can be written (R357, R480). -/
structure Front where
  num : Nat
  ctx : Nat
  by_ : Launcher
  depth : Nat
  prio : Trit
  ceiling : Trit
  spec : FrontRec
  left : Nat
  sent : List Nat
  ending : Option Int
deriving DecidableEq, Repr

/-- A graph node (R372): type, word 0's join count, word 1, successors. -/
structure Node where
  ty : Int
  need : Nat
  arg : Int
  succ : List Int
deriving DecidableEq, Repr

/-- State of a node (R373): arrivals, ready, acting. -/
structure NodeSt where
  arrivals : Nat
  ready : Bool
  acting : Bool
deriving DecidableEq, Repr

/-- A resident task graph (R372 to R374); `ending` is the status of one that completes as soon as its status word can be written
(R374, R480). -/
structure Graph where
  id : Nat
  ctx : Nat
  nodes : List Node
  st : List NodeSt
  done : Int
  msix : Int
  failed : Int
  ending : Option Int
deriving DecidableEq, Repr

/-- A context (R20, R395): XROOT, XREGEN, XLIST, XFLOG, XDBG. -/
structure Context where
  xroot : Word
  xregen : Word
  xlist : Word
  xflog : Word
  xdbg : Word
deriving DecidableEq, Repr

/-- A loaded image (R336, R381, R452): number, context, layout, privilege, and its point directory's address. -/
structure Image where
  num : Nat
  ctx : Nat
  isD : Bool
  priv : Bool
  dir : Int
deriving DecidableEq, Repr

/-- A shuttered squall (R365, R410): its place, die, kind, allotment, when, and its image's address. What the image has no
place for stays here: each gust without its registers, stack and records, the slots and tiles with an accepted release, the
page entries its gusts wait on, its commands that had not started (R322), fills that failed meanwhile, as
(gust, entry, cause) (R309), and the faults of its slots in the order in which they came (R214). -/
structure Shuttered where
  q : SqRef
  ctx : Nat
  die : Nat
  isD : Bool
  image : Nat
  at_ : Nat
  area : Int
  count : Nat
  alloc : Alloc
  gs : List Gust
  releasing : List Nat × List Nat
  waitEntries : List (Nat × Nat)
  cmds : List Cmd
  fails : List (Nat × Nat × Int)
  slotFaults : List (Nat × CmdFault)
  slotWrote : List Nat
deriving DecidableEq, Repr

/-- A transaction on the Zargen fabric or the host port that has not been answered (R424, R425), with the fault record of the
instruction that made it (R397). -/
structure Outstanding where
  seq : Nat
  ctx : Nat
  who : Option GustRef
  at_ : Nat
  dest : Nat
  line : Nat
  words : Rec
deriving DecidableEq, Repr

/-- A request with no data that a link has lost (R422): its context, when it was sent, its instruction's fault record (R397) and the
physical word address that it names. -/
structure LostReq where
  ctx : Nat
  at_ : Nat
  words : Rec
  addr : Int
deriving DecidableEq, Repr

/-- Power states (R463). -/
inductive Power where
  | d0 | d3hotWanted | d3hot | d3cold
deriving DecidableEq, Repr

/-- Boot, configuration and power (R457 to R463). `rom` holds the image that BOOTGO has handed to the boot ROM, or that runs (R459,
R461). -/
structure Boot where
  bootst : Nat
  image : List (Nat × BitVec 8)
  rom : List (Nat × BitVec 8) := []
  config : List (Nat × BitVec 8)
  checking : Bool
  running : Bool
  device : Nat
  controllers : List Nat
  watts : Nat
  power : Power
deriving DecidableEq, Repr

/-- What the device has sent out (R357, R408, R420, R429, R461). A completed load (R450, R452, R455) gives the numbers of the L and D
images of each kernel (0 for none), the addresses of its data blocks and of its binding-record tables, and the completed cross-reference table. -/
inductive Out where
  | msix (ctx : Nat) (vector : Nat)
  | aer (fn : HostFn) (fatal : Bool)
  | readDone (fn : HostFn) (bytes : List (BitVec 8))
  | readUnsupported (fn : HostFn)
  | readPoisoned (fn : HostFn) (bytes : List (BitVec 8))
  | readLogged (cause addr : Int)
  | loaded (imgs : List (Nat × Nat)) (data : List Int) (tables : List Int) (xref : List Word)
  | loadRefused
  | unloadRefused
  | attested (sig : List (BitVec 8))
  | zargen (m : ZPacket)
  | powerDone
deriving DecidableEq, Repr

/-- An access of the hardware that waits on a page fill (R480): the entry, the access's context and address, the cause once the
fill has failed, and the name the access is made under. -/
structure SysWait where
  entry : Nat
  ctx : Nat
  addr : Int
  cause : Option Int
  who : List Nat := []
deriving DecidableEq, Repr

/-- A write of the hardware that waits on a page fill (R480): a word, a word of a shutter image, a record for the fault log, a
trace packet of a gust. -/
inductive Deferred where
  | word (ctx : Nat) (x : Int) (v : Word)
  | image (ctx : Nat) (x : Int) (v : Word)
  | log (ctx : Nat) (rec : List Word)
  | packet (ctx : Nat) (who : GustRef) (ws : List Word)
deriving DecidableEq, Repr

/-- The machine. -/
structure State where
  /-- PTIME (R417), and whether a die has seen its ticks stop (R420). -/
  ptime : Nat
  stopped : Bool
  gusts : List Gust
  squalls : List Squall
  cores : List Core
  dies : List Die
  /-- Clocks of the rim dies (R281) and their counters and snapshot registers (R431). -/
  rimClocks : List (List Nat)
  rimCounters : List (List Nat)
  rimSnaps : List (List Nat)
  /-- HBM4 (R48, R296): byte b of physical line P at 256P + b. -/
  hbm : List Host.Cell
  /-- Host memory by bus address (R299, R427). -/
  hostMem : List Host.Cell
  /-- The memories of the other devices of the Zargen system (R423): device, and byte b of its line P at 256P + b. -/
  peers : List (Nat × List Host.Cell)
  /-- The device numbers that no route of the Zargen system reaches (R423, R425). -/
  unreached : List Nat
  /-- Flash storage (R347): controller, namespace, and byte address. -/
  flash : List (Nat × Nat × List Host.Cell)
  homes : List HomeLine
  /-- Sector clocks (R281): that of sector q of line P at 9P + q; an unlisted one is zero. -/
  secClocks : List (Nat × List Nat)
  /-- Poison trits (R242): line and sector; and those that a rim port holds of remote and host lines (R414). -/
  poison : List (Nat × Nat)
  portPoison : List (Loc × Nat)
  heads : List QHead
  /-- Contribution counters (R228). -/
  counters : List Counter
  contexts : List Context
  fronts : List Front
  nextFront : Nat
  graphs : List Graph
  images : List Image
  /-- The paging queue, and the page-ins that wait for room in it (R319). -/
  paging : List Cmd
  pagingWait : List Cmd
  shuttered : List Shuttered
  outstanding : List Outstanding
  /-- Requests that links have lost and that no answer will come to, and pairs of dies whose link does not retrain (R422). -/
  lostReqs : List LostReq
  cuts : List (Nat × Nat)
  /-- Sequencers of R286: device and system tickets. -/
  ticketDevice : Nat
  ticketSystem : Nat
  /-- The snapshot tick T that has been set and not yet reached (R432). -/
  snapAt : Option Nat
  /-- The tick T of the last snapshot that was taken: a trigger that comes at it still joins (R432). -/
  snapped : Option Nat
  boot : Boot
  /-- Writes, with their identities, and accesses of the hardware that wait on a page fill (R480), oldest first. -/
  deferred : List (Nat × Deferred)
  sysWaits : List SysWait
  /-- What has left the device, oldest first. -/
  out : List Out
  /-- Messages between agents that have been sent and not yet taken (R22, R260, R276, R282). -/
  flight : List Instr
  /-- What the outside world does next (log entry 2), oldest first. -/
  inputs : List Instr
  /-- MODEL'S OWN. The gust that issues in this step and the op of its instruction. -/
  cur : Option GustRef
  /-- MODEL'S OWN. The instructions that the issuing gust may still issue in this cycle (R96). -/
  issueLeft : Nat
  op : Int
  /-- MODEL'S OWN. The name under which the hardware makes its accesses now (R480); empty between acts. -/
  hand : List Nat
  /-- MODEL'S OWN. Counters of the free choices and free values used (log entries 3 and 6), and of identities given. -/
  choice : Nat
  freeCtr : Nat
  serial : Nat
deriving DecidableEq, Repr

/-- A core with nothing on it (R457 step 5). -/
def Core.init : Core :=
  { free := [], cycle := 0, waitN := 0, waitB := 0, segs := List.replicate 27 none, isp := [], matrixQ := [], fillQ := [],
    copyQ := [], codecQ := [], acceptQ := [], tlb := [], ahead := [], counters := List.replicate 45 0,
    snap := List.replicate 45 0 }

/-- A compute die with nothing on it. -/
def Die.init : Die :=
  { l1 := [], near := [], clock := List.replicate 12 0, epoch := 0, walks := [], bindRecs := [], dists := [],
    ticket := 0, counters := List.replicate 9 0, snap := List.replicate 9 0 }

/-- A context register set at reset: XDBG is zero (R430, R457); the others are zero too (DESIGN CHOICE, log entry 12). -/
def Context.init : Context :=
  { xroot := Word.zero, xregen := Word.zero, xlist := Word.zero, xflog := Word.zero, xdbg := Word.zero }

/-- The machine right after reset: steps 1 and 2 of R457 have run. PTIME is 0, front numbers start at 1, XDBG and every
snapshot counter are 0, BOOTST is 1, and nothing is resident. -/
def State.reset : State :=
  { ptime := 0, stopped := false, gusts := [], squalls := [],
    cores := List.replicate 243 Core.init, dies := List.replicate 9 Die.init,
    rimClocks := List.replicate 3 (List.replicate 12 0), rimCounters := List.replicate 3 (List.replicate 9 0),
    rimSnaps := List.replicate 3 (List.replicate 9 0),
    hbm := [], hostMem := [], peers := [], unreached := Config.unreached, flash := [], homes := [], secClocks := [], poison := [], portPoison := [], heads := [], counters := [],
    contexts := List.replicate 27 Context.init, fronts := [], nextFront := 1, graphs := [], images := [], paging := [], pagingWait := [],
    shuttered := [], outstanding := [], lostReqs := [], cuts := [], ticketDevice := 0, ticketSystem := 0, snapAt := none, snapped := none,
    boot := { bootst := 1, image := [], config := [], checking := false, running := false, device := 0,
              controllers := [], watts := 2200, power := .d0 },
    deferred := [], sysWaits := [], out := [], flight := [], inputs := [], cur := none, issueLeft := 0, op := 0, hand := [], choice := 0, freeCtr := 0, serial := 0 }

end Sys2Proof.Machine
end

