-- ==== Sys2Proof/Machine/Access.lean ====
section
/-! DEFINITION. Reading and writing the parts of the state: gusts, squalls, cores, dies, registers and lanes; free choices
and free values (R8); fault records (R397). -/

namespace Sys2Proof

/-- The squall of a gust. -/
def GustRef.sq (r : GustRef) : SqRef := ⟨r.front, r.lin⟩

/-- Some trit of a mask is `t`. -/
def Mask.has (m : Mask) (t : Int) : Bool := m.trits.any (· == t)

/-- A vector with the lanes in `act` taken from `f`. -/
def Lanes.update (v : Lanes) (act : List Bool) (f : Nat → Word) : Lanes :=
  let new := List.zipWith (fun (l : Nat) (p : Bool × Word) => if p.1 then f l else p.2) (List.range 81)
    (List.zip act v.data)
  Lanes.tab fun l => new.getD l Word.zero

/-- A predicate with the lanes in `act` taken from `f`. -/
def Mask.update (m : Mask) (act : List Bool) (f : Nat → Trit) : Mask :=
  Mask.tab fun l => if act.getD l false then f l else m.get l

/-- A vector from a list of words. -/
def Lanes.ofList (ws : List Word) : Lanes := Lanes.tab fun l => ws.getD l Word.zero

end Sys2Proof

namespace Sys2Proof.Machine

/-- A number within limits. -/
def within (x lo hi : Int) : Bool := decide (lo ≤ x ∧ x ≤ hi)

/-- The outcome of a step of this machine. -/
abbrev Result := Host.Outcome State Fault Refusal

/-- The gust with a name. -/
def State.gust? (s : State) (r : GustRef) : Option Gust := s.gusts.find? fun g => g.ref == r

/-- The state with a gust's record replaced. -/
def State.setGust (s : State) (g : Gust) : State :=
  { s with gusts := s.gusts.map fun h => if h.ref == g.ref then g else h }

/-- The state with a function applied to one gust. -/
def State.onGust (s : State) (r : GustRef) (f : Gust → Gust) : State :=
  { s with gusts := s.gusts.map fun h => if h.ref == r then f h else h }

/-- The bound squall with a name. -/
def State.squall? (s : State) (q : SqRef) : Option Squall := s.squalls.find? fun x => x.q == q

/-- The state with a squall's record replaced. -/
def State.setSquall (s : State) (q : Squall) : State :=
  { s with squalls := s.squalls.map fun h => if h.q == q.q then q else h }

/-- The state with a function applied to one squall. -/
def State.onSquall (s : State) (q : SqRef) (f : Squall → Squall) : State :=
  { s with squalls := s.squalls.map fun h => if h.q == q then f h else h }

/-- Core `c` (R15). -/
def State.core (s : State) (c : Nat) : Core := s.cores.getD c Core.init

/-- The state with a function applied to one core. -/
def State.onCore (s : State) (c : Nat) (f : Core → Core) : State := { s with cores := s.cores.modify c f }

/-- Compute die `d` (R13). -/
def State.die (s : State) (d : Nat) : Die := s.dies.getD d Die.init

/-- The state with a function applied to one compute die. -/
def State.onDie (s : State) (d : Nat) (f : Die → Die) : State := { s with dies := s.dies.modify d f }

/-- Context `k` (R20). -/
def State.context (s : State) (k : Nat) : Context := s.contexts.getD k Context.init

/-- The live front with a number (R355). -/
def State.front? (s : State) (n : Nat) : Option Front := s.fronts.find? fun f => f.num == n

/-- The state with a function applied to one front. -/
def State.onFront (s : State) (n : Nat) (f : Front → Front) : State :=
  { s with fronts := s.fronts.map fun h => if h.num == n then f h else h }

/-- The loaded image with a number (R452). -/
def State.image? (s : State) (n : Nat) : Option Image := s.images.find? fun i => i.num == n

/-- The gusts of a squall, gust 0 first (R17). -/
def State.gustsOf (s : State) (q : SqRef) : List Gust := s.gusts.filter fun g => g.ref.sq == q

/-- The die of a core (R15). -/
def dieOf (core : Nat) : Nat := core / 27

/-- A core is a D-core (R15). -/
def coreIsD (core : Nat) : Bool := decide (core % 27 < 24)

/-- The state with a message in flight. -/
def State.send (s : State) (i : Instr) : State := { s with flight := s.flight ++ [i] }

/-- The state with something sent out of the device. -/
def State.emit (s : State) (o : Out) : State := { s with out := s.out ++ [o] }

/-- One of `n` alternatives that the device chooses and does not report (log entry 3). -/
def State.pick (s : State) (n : Nat) : Nat × State :=
  if n ≤ 1 then (0, s) else (Config.freeChoice s.choice % n, { s with choice := s.choice + 1 })

/-- A list in an order the device chooses (log entry 3). -/
def State.anyOrder {α : Type} (s : State) : Nat → List α → List α × State
  | 0, _ => ([], s)
  | n + 1, xs =>
    let (k, s) := s.pick xs.length
    let (ys, s) := s.anyOrder n (xs.eraseIdx k)
    ((xs[k]?).toList ++ ys, s)

/-- An unspecified value (R8, log entry 6). -/
def State.unspecified (s : State) : Word × State :=
  (Word.ofInt (Config.freeValue s.freeCtr), { s with freeCtr := s.freeCtr + 1 })

/-- A fresh identity. -/
def State.fresh (s : State) : Nat × State := (s.serial, { s with serial := s.serial + 1 })

/-- The word of trits 26..0 of PTIME (R395). -/
def State.ptimeLow (s : State) : Word := Word.ofNat s.ptime

/-- Scalar register `n` (R124). -/
def Gust.s (g : Gust) (n : Nat) : Word := g.sreg.getD n Word.zero

/-- Predicate `n` (R124). -/
def Gust.p (g : Gust) (n : Nat) : Mask := g.preg.getD n Mask.zero

/-- Vector register `n` (R124). -/
def Gust.v (g : Gust) (n : Nat) : Lanes := g.vreg.getD n (Lanes.splat Word.zero)

/-- The activity mask m0..m2 (R101, R133). -/
def Gust.mask (g : Gust) : Mask := ⟨g.s 78, g.s 79, g.s 80⟩

/-- The gust with its activity mask replaced, and nothing else. -/
def Gust.withMask (g : Gust) (m : Mask) : Gust :=
  { g with sreg := ((g.sreg.set 78 m.b0).set 79 m.b1).set 80 m.b2 }

/-- The gust with a predicate written. -/
def Gust.withP (g : Gust) (n : Nat) (m : Mask) : Gust := { g with preg := g.preg.set n m }

/-- The gust with a vector register written. -/
def Gust.withV (g : Gust) (n : Nat) (w : Lanes) : Gust := { g with vreg := g.vreg.set n w }

/-- A lane's value written into its destination lane. -/
def Gust.putLane (g : Gust) (d : Nat) (e : Nat × Word) : Gust :=
  g.withV d (Lanes.tab fun k => if k = e.1 then e.2 else (g.v d).get k)

/-- The gust with a scalar written that is not part of the mask. -/
def Gust.withS (g : Gust) (n : Nat) (w : Word) : Gust := { g with sreg := g.sreg.set n w }

/-- Divergence depth (R104). -/
def Gust.depth (g : Gust) : Nat := g.stack.length

/-- The lanes a guard lets pass (R66). -/
def Gust.passes (g : Gust) (guard : Int) : List Bool :=
  if guard = 0 then List.replicate 81 true
  else if guard > 0 then (g.p (guard.natAbs - 1)).trits.map (· == 1)
  else (g.p (guard.natAbs - 1)).trits.map (· == -1)

/-- The participating lanes (R67): mask trit plus, and passing the guard. -/
def Gust.active (g : Gust) (guard : Int) : List Bool :=
  List.zipWith (fun (m : Int) (b : Bool) => m == 1 && b) g.mask.trits (g.passes guard)

/-- The numbers of the participating lanes, ascending. -/
def Gust.activeLanes (g : Gust) (guard : Int) : List Nat :=
  (List.range 81).filter fun l => (g.active guard).getD l false

/-- A gust instruction acts (R67): it is unguarded, or some participating lane passes. -/
def Gust.acts (g : Gust) (guard : Int) : Bool := guard == 0 || (g.active guard).any id

/-- The state folded over a list. -/
def State.each {α : Type} (s : State) (xs : List α) (f : State → α → State) : State := xs.foldl f s

end Sys2Proof.Machine
end

