-- ==== Sys2Proof/Machine/Float.lean ====
section
/-! DEFINITION. The floating formats F9 and F27 (R32 to R38): decoding, classes, narrowing of exact values, comparison and
exact arithmetic. -/

namespace Sys2Proof

/-- A floating format (R34, R38): p significand trits, exponent limit emax, exponent trits. -/
structure FFmt where
  p : Nat
  emax : Nat
  ew : Nat
deriving DecidableEq, Repr

/-- F9 (R32). -/
def fmt9 : FFmt := ⟨6, 13, 3⟩
/-- F27 (R33). -/
def fmt27 : FFmt := ⟨21, 364, 6⟩

/-- The format of a floating element type. -/
def ETy.fmt : ETy → FFmt
  | .f9 => fmt9
  | _ => fmt27

/-- What an encoding stands for (R34): m · 3^e exactly, an infinity, or a NaN with its payload. -/
inductive FVal where
  | fin (m e : Int)
  | inf (neg : Bool)
  | nan (payload : Int)
deriving DecidableEq, Repr

/-- The default NaN (R36). -/
def FVal.dflt : FVal := .nan 0

/-- The value of an encoding (R34). -/
def FFmt.decode (f : FFmt) (w : Int) : FVal :=
  let e := fld w (f.p + f.ew - 1) f.p
  let s := wrapT w f.p
  if e = Int.ofNat f.emax then
    if s = pow3 (f.p - 1) then .inf false
    else if s = -(pow3 (f.p - 1)) then .inf true
    else .nan s
  else .fin s (e - Int.ofNat (f.p - 1))

/-- The encoding with an exponent and a significand field. -/
def FFmt.make (f : FFmt) (e s : Int) : Int := s + pow3 f.p * e

/-- The encoding of an infinity (R35). -/
def FFmt.encInf (f : FFmt) (neg : Bool) : Int :=
  f.make (Int.ofNat f.emax) (if neg then -(pow3 (f.p - 1)) else pow3 (f.p - 1))

/-- The encoding of a NaN with a payload (R36). -/
def FFmt.encNan (f : FFmt) (payload : Int) : Int := f.make (Int.ofNat f.emax) payload

/-- How many ternary digits a natural number has, at most `fuel`. -/
def digits3 : Nat → Nat → Nat
  | 0, _ => 0
  | k + 1, n => if n = 0 then 0 else digits3 k (n / 3) + 1

/-- Enough fuel for `digits3` of any number the model forms. -/
def digitsFuel : Nat := 6000

/-- 3^i · a < b, for an integer exponent. -/
def scaledLt (i : Int) (a b : Nat) : Bool :=
  if i ≥ 0 then decide (3 ^ i.toNat * a < b) else decide (a < b * 3 ^ (-i).toNat)

/-- The greatest i ≤ start, looked for over `fuel` places downward, with 3^i · den < 2 · num. -/
def leadFrom : Nat → Int → Nat → Nat → Int
  | 0, i, _, _ => i
  | k + 1, i, num, den => if scaledLt i den (2 * num) then i else leadFrom k (i - 1) num den

/-- The position of the leading trit of num/den, for num and den positive (R29, R38): of two expansions the one of smaller
magnitude counts. -/
def leadPos (num den : Nat) : Int :=
  leadFrom 5 (Int.ofNat (digits3 digitsFuel num) - Int.ofNat (digits3 digitsFuel den) + 2) num den

/-- The integer nearest to (num/den) / 3^cut, ties toward zero (R29): the kept trits of the expansion. -/
def keepTrits (num : Int) (den : Nat) (cut : Int) : Int :=
  if cut ≥ 0 then nearestDiv num (Int.ofNat (den * 3 ^ cut.toNat))
  else nearestDiv (num * pow3 (-cut).toNat) (Int.ofNat den)

/-- `round_f` of the rational num/den with den positive (R38). -/
def FFmt.roundRat (f : FFmt) (num : Int) (den : Nat) : Int :=
  if num = 0 then 0
  else
    let e := leadPos num.natAbs den
    if e ≥ Int.ofNat f.emax then f.encInf (decide (num < 0))
    else
      let base := max e (-(Int.ofNat f.emax))
      let y := keepTrits num den (base - Int.ofNat (f.p - 1))
      if y = 0 then 0 else f.make base y

/-- `round_f` of m · 3^e (R38). -/
def FFmt.roundTri (f : FFmt) (m e : Int) : Int :=
  if e ≥ 0 then f.roundRat (m * pow3 e.toNat) 1 else f.roundRat m (3 ^ (-e).toNat)

/-- The canonical encoding of a value, narrowed if need be (R35, R36, R38). -/
def FFmt.enc (f : FFmt) : FVal → Int
  | .fin m e => f.roundTri m e
  | .inf n => f.encInf n
  | .nan p => f.encNan p

/-- A value as numerator over a power of three, for comparison of two: both scaled to one exponent. -/
def alignTo (m e e0 : Int) : Int := m * pow3 (e - e0).toNat

/-- The sign of x − y for values that are not NaN; infinities order below and above every finite value (R156). -/
def FVal.cmp : FVal → FVal → Int
  | .fin m e, .fin n k =>
    let e0 := min e k
    sgnI (alignTo m e e0 - alignTo n k e0)
  | .inf a, .inf b => if a = b then 0 else if a then -1 else 1
  | .inf a, _ => if a then -1 else 1
  | _, .inf b => if b then 1 else -1
  | _, _ => 0

/-- A value is a NaN. -/
def FVal.isNan : FVal → Bool
  | .nan _ => true
  | _ => false

/-- The exact sum of two finite values. -/
def addFin (m e n k : Int) : FVal :=
  let e0 := min e k
  .fin (alignTo m e e0 + alignTo n k e0) e0

/-- x + y with the special cases of R155, for values that are not NaN. -/
def FVal.add : FVal → FVal → FVal
  | .fin m e, .fin n k => addFin m e n k
  | .inf a, .inf b => if a = b then .inf a else FVal.dflt
  | .inf a, _ => .inf a
  | _, .inf b => .inf b
  | x, _ => x

/-- Negation of a value (R36). -/
def FVal.neg : FVal → FVal
  | .fin m e => .fin (-m) e
  | .inf a => .inf (!a)
  | .nan p => .nan (-p)

/-- x · y with the special cases of R155, for values that are not NaN. -/
def FVal.mul : FVal → FVal → FVal
  | .fin m e, .fin n k => .fin (m * n) (e + k)
  | .inf a, .fin n _ => if n = 0 then FVal.dflt else .inf (a != decide (n < 0))
  | .fin m _, .inf b => if m = 0 then FVal.dflt else .inf (b != decide (m < 0))
  | .inf a, .inf b => .inf (a != b)
  | x, _ => x

/-- The first NaN among values, if any (R36). -/
def firstNan (xs : List FVal) : Option FVal := xs.find? FVal.isNan

/-- The payload of an F27 NaN as an F9 NaN (R37). -/
def nan27to9 (p : Int) : Int :=
  let q := dropTop p
  if q = pow3 5 ∨ q = -(pow3 5) then 0 else q
where
  /-- F27 significand trits 20..15. -/
  dropTop (p : Int) : Int := fld p 20 15

/-- A value of one format taken into another (R37). -/
def FVal.convert (src dst : FFmt) : FVal → FVal
  | .nan p => if src.p = dst.p then .nan p else if src.p = 6 then .nan (p * pow3 15) else .nan (nan27to9 p)
  | v => v

/-- The integer nearest to a finite value (R28). -/
def nearestInt (m e : Int) : Int := if e ≥ 0 then m * pow3 e.toNat else dropT m (-e).toNat

/-- The sum of finite values, exactly. -/
def sumFin (xs : List (Int × Int)) : Int × Int :=
  xs.foldl (fun a x =>
    let e0 := min a.2 x.2
    (alignTo a.1 a.2 e0 + alignTo x.1 x.2 e0, e0)) (0, 0)

end Sys2Proof
end

