-- ==== Sys2Proof/Machine/Codec.lean ====
section
/-! DEFINITION. Lines at the shell (R46 to R51), the conversions of the copy engine (R52), and the prefix code of thaw
blocks (R340, R341). -/

namespace Sys2Proof

/-- One bit step of the reflected CRC-32 (R49). -/
def crcBit (c : Nat) : Nat := if c % 2 = 1 then Nat.xor (c / 2) 0xEDB88320 else c / 2

/-- One byte of the CRC-32 (R49). -/
def crcByte (c b : Nat) : Nat := crcBit (crcBit (crcBit (crcBit (crcBit (crcBit (crcBit (crcBit (Nat.xor c b))))))))

/-- The CRC-32 of a byte string (R49). -/
def crc32 (bs : List Nat) : Nat := Nat.xor (bs.foldl crcByte 0xFFFFFFFF) 0xFFFFFFFF

/-- The byte of up to five trits, lowest first; absent trits are zero (R46). -/
def packTrits : List Int → Nat → Nat
  | _, 0 => 0
  | [], k + 1 => 1 + 3 * packTrits [] k
  | t :: ts, k + 1 => (t + 1).toNat + 3 * packTrits ts k

/-- A string of trits as bytes, `n` of them (R46). -/
def packBytes (ts : List Int) : Nat → List Nat
  | 0 => []
  | n + 1 => packTrits ts 5 :: packBytes (ts.drop 5) n

/-- Words as bytes (R47): five words make 27 bytes; a short last quintet is padded with zero words. -/
def packWords (ws : List Word) : List Nat := packBytes (ws.flatMap Word.trits) (27 * ((ws.length + 4) / 5))

/-- The five trits of a byte (R46). -/
def byteTrits (b : Nat) : List Int :=
  [Int.ofNat (b % 3) - 1, Int.ofNat (b / 3 % 3) - 1, Int.ofNat (b / 9 % 3) - 1, Int.ofNat (b / 27 % 3) - 1,
   Int.ofNat (b / 81 % 3) - 1]

/-- `n` words from a string of trits. -/
def tritWords (ts : List Int) : Nat → List Word
  | 0 => []
  | n + 1 => Word.ofInt (ofTrits (ts.take 27)) :: tritWords (ts.drop 27) n

/-- `n` words of packed bytes (R47). -/
def unpackWords (bs : List Nat) (n : Nat) : List Word := tritWords (bs.flatMap byteTrits) n

/-- The CRC of the 243 bytes 0x79 of a packed zero line; `crc32` of them, written out. -/
def zeroLineCrc : Nat := 1288738423

/-- Byte `b` of a packed zero line (R48, R457). -/
def zeroLineByte (b : Nat) : Nat :=
  if b < 243 then 0x79 else if b = 243 then 0 else if b < 248 then zeroLineCrc / 256 ^ (b - 244) % 256 else 0

/-- The 256 bytes of a line with a tag and 243 data bytes; bytes 243..255 as the shell computes them (R48, R49). -/
def shellLine (tag : Nat) (data : List Nat) : List Nat :=
  let c := crc32 data
  data ++ [tag, c % 256, c / 256 % 256, c / 65536 % 256, c / 16777216 % 256, 0, 0, 0, 0, 0, 0, 0, 0]

/-- The 256 bytes of a packed line of 45 words (R48). -/
def packedLine (ws : List Word) : List Nat := shellLine 0 (packWords ws)

/-- What a line read from HBM4 or host memory is (R50, R51). -/
inductive LineKind where
  | packed (ws : List Word)
  | raw (bs : List Nat)
  | broken (cause : Int)
deriving DecidableEq, Repr

/-- The check of R51 on 256 bytes: cause −2 is line integrity, −3 packing fault. -/
def readLine (bs : List Nat) : LineKind :=
  let data := bs.take 243
  let tag := bs.getD 243 0
  let crc := bs.getD 244 0 + 256 * bs.getD 245 0 + 65536 * bs.getD 246 0 + 16777216 * bs.getD 247 0
  if !(bs.drop 248).all (· == 0) || decide (tag > 1) || crc != crc32 data then .broken (-2)
  else if tag = 1 then .raw data
  else if data.all (· ≤ 0xF2) then .packed (unpackWords data 45)
  else .broken (-3)

/-- The value of little-endian bytes. -/
def leNat : List Nat → Nat
  | [] => 0
  | b :: bs => b + 256 * leNat bs

/-- `n` little-endian bytes of a number. -/
def leBytes (x : Nat) : Nat → List Nat
  | 0 => []
  | n + 1 => x % 256 :: leBytes (x / 256) n

/-- A binary floating format: fraction bits, exponent bits. -/
structure BFmt where
  frac : Nat
  ebits : Nat
deriving DecidableEq, Repr

/-- binary16, bfloat16, binary32. -/
def bin16 : BFmt := ⟨10, 5⟩
def bf16 : BFmt := ⟨7, 8⟩
def bin32 : BFmt := ⟨23, 8⟩

/-- Exponent bias of a binary format. -/
def BFmt.bias (b : BFmt) : Nat := 2 ^ (b.ebits - 1) - 1

/-- A binary floating number narrowed to an F format (R52). -/
def BFmt.toF (b : BFmt) (f : FFmt) (x : Nat) : Int :=
  let fr := x % 2 ^ b.frac
  let ex := x / 2 ^ b.frac % 2 ^ b.ebits
  let neg := decide (x / 2 ^ (b.frac + b.ebits) % 2 = 1)
  if ex = 2 ^ b.ebits - 1 then (if fr = 0 then f.encInf neg else f.encNan 0)
  else
    let m := if ex = 0 then fr else fr + 2 ^ b.frac
    let e : Int := Int.ofNat (max ex 1) - Int.ofNat b.bias - Int.ofNat b.frac
    let num : Int := if neg then -(Int.ofNat m) else Int.ofNat m
    if e ≥ 0 then f.roundRat (num * Int.ofNat (2 ^ e.toNat)) 1 else f.roundRat num (2 ^ (-e).toNat)

/-- How many binary digits a natural number has, at most `fuel`. -/
def digits2 : Nat → Nat → Nat
  | 0, _ => 0
  | k + 1, n => if n = 0 then 0 else digits2 k (n / 2) + 1

/-- a / b to the nearest integer, ties to even. -/
def divEven (a b : Nat) : Nat :=
  let q := a / b
  let r := a % b
  if 2 * r > b ∨ (2 * r = b ∧ q % 2 = 1) then q + 1 else q

/-- num / den times 2^(-k), to the nearest integer, ties to even. -/
def scaleEven (num den : Nat) (k : Int) : Nat :=
  if k ≥ 0 then divEven num (den * 2 ^ k.toNat) else divEven (num * 2 ^ (-k).toNat) den

/-- floor of log2 of num / den, for positive numbers. -/
def floorLog2 (num den : Nat) : Int :=
  let k := Int.ofNat (digits2 4000 num) - Int.ofNat (digits2 4000 den)
  let ge := fun (i : Int) => if i ≥ 0 then decide (2 ^ i.toNat * den ≤ num) else decide (den ≤ num * 2 ^ (-i).toNat)
  if ge k then k else k - 1

/-- A magnitude num / den rounded to a binary format, roundTiesToEven, with subnormals and overflow to infinity (R52). -/
def BFmt.ofRat (b : BFmt) (neg : Bool) (num den : Nat) : Nat :=
  let sign := if neg then 2 ^ (b.frac + b.ebits) else 0
  let inf := (2 ^ b.ebits - 1) * 2 ^ b.frac
  let emin : Int := 1 - Int.ofNat b.bias
  let e := max (floorLog2 num den) emin
  let q := scaleEven num den (e - Int.ofNat b.frac)
  let bits := if e = emin ∧ q < 2 ^ b.frac then q else (e + Int.ofNat b.bias).toNat * 2 ^ b.frac + (q - 2 ^ b.frac)
  sign + (if bits ≥ inf then inf else bits)

/-- An F value as a binary floating number (R52). -/
def BFmt.ofF (b : BFmt) (v : FVal) : Nat :=
  match v with
  | .nan _ => (2 ^ b.ebits - 1) * 2 ^ b.frac + 2 ^ (b.frac - 1)
  | .inf neg => (if neg then 2 ^ (b.frac + b.ebits) else 0) + (2 ^ b.ebits - 1) * 2 ^ b.frac
  | .fin m e =>
    if m = 0 then 0
    else if e ≥ 0 then b.ofRat (decide (m < 0)) (m.natAbs * 3 ^ e.toNat) 1
    else b.ofRat (decide (m < 0)) m.natAbs (3 ^ (-e).toNat)

/-- A conversion of CPY (R52, R332): bytes of the binary element, ternary elements of a word, and the two rules. -/
structure Conv where
  bytes : Nat
  perWord : Nat
deriving DecidableEq, Repr

/-- The conversion of a code's magnitude (R332). -/
def convOf (code : Nat) : Conv :=
  match code with
  | 1 => ⟨1, 3⟩ | 2 => ⟨2, 3⟩ | 3 => ⟨2, 1⟩ | 4 => ⟨2, 3⟩ | 5 => ⟨2, 1⟩ | 6 => ⟨4, 3⟩ | 7 => ⟨4, 1⟩
  | 8 => ⟨2, 1⟩ | 9 => ⟨2, 1⟩ | 10 => ⟨4, 1⟩ | _ => ⟨4, 1⟩

/-- A two's complement number of `n` bits. -/
def toSigned (x n : Nat) : Int := if x ≥ 2 ^ (n - 1) then Int.ofNat x - Int.ofNat (2 ^ n) else Int.ofNat x

/-- A clamped integer as `n` bits of two's complement. -/
def clampBits (x lo hi : Int) (n : Nat) : Nat :=
  let y := max lo (min x hi)
  (if y < 0 then y + Int.ofNat (2 ^ n) else y).toNat

/-- One element from binary to ternary (R52). -/
def convIn (code : Nat) (x : Nat) : Int :=
  match code with
  | 1 => Int.ofNat x
  | 2 => bin16.toF fmt9 x
  | 3 => bin16.toF fmt27 x
  | 4 => bf16.toF fmt9 x
  | 5 => bf16.toF fmt27 x
  | 6 => bin32.toF fmt9 x
  | 7 => bin32.toF fmt27 x
  | 8 => toSigned x 16
  | 9 => Int.ofNat x
  | 10 => toSigned x 32
  | _ => Int.ofNat x

/-- One element from ternary to binary (R52). -/
def convOut (code : Nat) (w : Int) : Nat :=
  match code with
  | 1 => clampBits w 0 255 8
  | 2 => bin16.ofF (fmt9.decode w)
  | 3 => bin16.ofF (fmt27.decode w)
  | 4 => bf16.ofF (fmt9.decode w)
  | 5 => bf16.ofF (fmt27.decode w)
  | 6 => bin32.ofF (fmt9.decode w)
  | 7 => bin32.ofF (fmt27.decode w)
  | 8 => clampBits w (-32768) 32767 16
  | 9 => clampBits w 0 65535 16
  | 10 => clampBits w (-2147483648) 2147483647 32
  | _ => clampBits w 0 4294967295 32

/-- The canonical prefix codes (R341): for each symbol with a nonzero length, its length, code and index, in the order in
which codes are assigned. -/
def prefixCodes (lens : List Nat) : List (Nat × Nat × Nat) :=
  ((List.range 15).foldl (fun (acc : Nat × List (Nat × Nat × Nat)) k =>
    let len := k + 1
    let step := (List.range 27).foldl (fun (a : Nat × List (Nat × Nat × Nat)) m =>
      if lens.getD m 0 = len then (a.1 + 1, a.2 ++ [(len, a.1, m)]) else a) acc
    (2 * step.1, step.2)) (0, [])).2

/-- Code lengths that R340 accepts. -/
def lensOk (lens : List Nat) : Bool :=
  let nz := lens.filter (· != 0)
  lens.length == 27 && lens.all (· ≤ 15) &&
    (nz == [1] || (decide (nz.length ≥ 2) && (nz.map fun l => 2 ^ (15 - l)).sum == 2 ^ 15))

/-- The lengths of FREEZE without a table (R345). -/
def defaultLens : List Nat := (List.range 27).map fun m => if 11 ≤ m ∧ m ≤ 15 then 4 else 5

/-- Bit `b` of a payload (R341): bit 7 − (b mod 8) of byte b / 8. -/
def payloadBit (bs : List Nat) (b : Nat) : Nat := bs.getD (b / 8) 0 / 2 ^ (7 - b % 8) % 2

/-- The next symbol from bit `b` of a stream of `limit` bits: its index and the bits it took (R341, R342). -/
def nextSymbol (codes : List (Nat × Nat × Nat)) (bit : Nat → Nat) (limit : Nat) : Nat → Nat → Nat → Nat → Option (Nat × Nat)
  | 0, _, _, _ => none
  | k + 1, b, len, code =>
    if b ≥ limit then none
    else
      let c := 2 * code + bit b
      match codes.find? (fun x => x.1 == len + 1 && x.2.1 == c) with
      | some x => some (x.2.2, len + 1)
      | none => nextSymbol codes bit limit k (b + 1) (len + 1) c

/-- The bits of a code, most significant first. -/
def codeBits (code : Nat) : Nat → List Nat
  | 0 => []
  | n + 1 => code / 2 ^ n % 2 :: codeBits code n

/-- Bits as bytes, first bit in bit 7 of the first byte, zero padding at the end (R341, R345). -/
def bitsBytes (bits : List Nat) : Nat → List Nat
  | 0 => []
  | n + 1 => ((List.range 8).foldl (fun a i => 2 * a + bits.getD i 0) 0) :: bitsBytes (bits.drop 8) n

end Sys2Proof
end

