-- ==== Sys2Proof/Machine/Memory.lean ====
section
/-! DEFINITION. Device memory and its caches (R48 to R51, R236 to R249, R275 to R284): HBM4 lines, home slices with their
directory, near slices, L1 slices, write-backs in epoch order, forced publishes, invalidations, recalls, and the reads,
writes and updates that gusts and engines make at each level. Dirty notices and the write-backs that no gust waits for take
effect in the step that causes them (log entry 14); invalidations and the writes of gusts past L1 are messages. -/

namespace Sys2Proof

/-- The location lies in another device (R424). -/
def Loc.isRemote : Loc → Bool
  | .remote _ _ => true
  | _ => false

/-- The line number by which a cache places a location (R236). -/
def Loc.num : Loc → Nat
  | .dev n => n
  | .host n => n
  | .remote _ n => n
  | .win c => c

end Sys2Proof

namespace Sys2Proof.Machine

/-- The answer of an access and the state after it: a value, or the cause that stops it. A positive cause is the lane
fault of R398, a negative one a machine check (R414). -/
abbrev Answer (α : Type) := Except Int α × State

/-- Byte `a` of HBM4 when nothing has written it: that of a packed zero line (R457). -/
def hbmDefault (a : Nat) : BitVec 8 := BitVec.ofNat 8 (zeroLineByte (a % 256))

/-- Byte `a` of HBM4. -/
def State.hbmByte (s : State) (a : Nat) : BitVec 8 := readAt hbmDefault s.hbm a

/-- The state with byte `a` of HBM4 written. -/
def State.setHbmByte (s : State) (a : Nat) (b : BitVec 8) : State := { s with hbm := writeAt hbmDefault s.hbm a b }

/-- The canonical form of byte memory. -/
def memWf (m : List Host.Cell) : Bool := canonical hbmDefault m

/-- The 256 bytes of physical line `p` in HBM4. -/
def State.hbmLine (s : State) (p : Nat) : List Nat := (List.range 256).map fun b => (s.hbmByte (256 * p + b)).toNat

/-- Cells written one after the other from address `a`. -/
def writeCells (d : Nat → BitVec 8) (m : List Host.Cell) (a : Nat) : List Nat → List Host.Cell
  | [] => m
  | b :: bs => writeCells d (writeAt d m a (BitVec.ofNat 8 b)) (a + 1) bs

/-- The state with the 256 bytes of line `p` written. -/
def State.setHbmLine (s : State) (p : Nat) (bs : List Nat) : State :=
  { s with hbm := writeCells hbmDefault s.hbm (256 * p) bs }

/-- The 256 bytes of host line `p` (R299, R427). -/
def State.hostLine (s : State) (p : Nat) : List Nat :=
  (List.range 256).map fun b => (readAt Config.hostByte s.hostMem (256 * p + b)).toNat

/-- The state with the 256 bytes of a host line written. -/
def State.setHostLine (s : State) (p : Nat) (bs : List Nat) : State :=
  { s with hostMem := writeCells Config.hostByte s.hostMem (256 * p) bs }

/-- The memory of another device (R423): cells that nothing has written are those of packed zero lines (log entry 24). -/
def State.peerCells (s : State) (dev : Nat) : List Host.Cell := readAt (fun _ => []) s.peers dev

/-- The 256 bytes of a line behind a rim port: host memory (R299, R427) or another device (R424). -/
def State.portLine (s : State) : Loc → List Nat
  | .host p => s.hostLine p
  | .remote dev p => (List.range 256).map fun b => (readAt hbmDefault (s.peerCells dev) (256 * p + b)).toNat
  | _ => []

/-- The state with the 256 bytes of a line behind a rim port written. -/
def State.setPortLine (s : State) (loc : Loc) (bs : List Nat) : State :=
  match loc with
  | .host p => s.setHostLine p bs
  | .remote dev p => { s with peers := writeAt (fun _ => []) s.peers dev (writeCells hbmDefault (s.peerCells dev) (256 * p) bs) }
  | _ => s

/-- The home slice of line `n`, 0..728 (R237). -/
def homeSlice (n : Nat) : Nat := (n + n / 729 + n / 531441 + n / 387420489) % 729

/-- The die that holds the home of line `n` (R237). -/
def homeDie (n : Nat) : Nat := homeSlice n / 81

/-- The sector of a word (R241). -/
def sectorOf (w : Nat) : Nat := w / 5

/-- The words of a sector. -/
def sectorWords (q : Nat) : List Nat := [5 * q, 5 * q + 1, 5 * q + 2, 5 * q + 3, 5 * q + 4]

/-- The greatest of two clocks, entrywise (R281). -/
def clockMax (a b : List Nat) : List Nat := List.zipWith max a b

/-- Clock `a` does not exceed clock `b` (R282). -/
def clockLe (a b : List Nat) : Bool := (List.zipWith (fun (x y : Nat) => decide (x ≤ y)) a b).all id

/-- The zero clock. -/
def clockZero : List Nat := List.replicate 12 0

/-- A line at its home slice. -/
def State.home? (s : State) (p : Nat) : Option HomeLine := s.homes.find? fun h => h.line == p

/-- The state with a function applied to a home line. -/
def State.onHome (s : State) (p : Nat) (f : HomeLine → HomeLine) : State :=
  { s with homes := s.homes.map fun h => if h.line == p then f h else h }

/-- A line of a die's L1. -/
def State.l1? (s : State) (d : Nat) (loc : Loc) : Option L1Line := (s.die d).l1.find? fun x => x.loc == loc

/-- The state with a function applied to a line of a die's L1. -/
def State.onL1 (s : State) (d : Nat) (loc : Loc) (f : L1Line → L1Line) : State :=
  s.onDie d fun x => { x with l1 := x.l1.map fun h => if h.loc == loc then f h else h }

/-- A line of a die's near slice. -/
def State.near? (s : State) (d p : Nat) : Option NearLine := (s.die d).near.find? fun x => x.line == p

/-- A sector's poison trit is plus (R242). -/
def State.poisoned (s : State) (p q : Nat) : Bool := s.poison.contains (p, q)

/-- A sector of a remote or host line is poisoned at its rim port (R414). -/
def State.portPoisoned (s : State) (loc : Loc) (q : Nat) : Bool := s.portPoison.contains (loc, q)

/-- A sector's clock at its home (R281). It stays when the line leaves its slice (log entry 59). -/
def State.secClock (s : State) (p q : Nat) : List Nat := (lookupAt s.secClocks (9 * p + q)).getD clockZero

/-- The clocks of some sectors of a line raised to a stamp (R281). -/
def State.raiseClocks (s : State) (p : Nat) (qs : List Nat) (st : List Nat) : State :=
  let put := fun (m : List (Nat × List Nat)) (q : Nat) =>
    insertAt m (9 * p + q) (clockMax ((lookupAt m (9 * p + q)).getD clockZero) st)
  { s with secClocks := qs.foldl put s.secClocks }

/-- An L1 line's dirty words of a sector. -/
def L1Line.dirtyIn (x : L1Line) (q : Nat) : List (Nat × Word) :=
  x.words.filterMap fun e => if e.2.dirty.isSome && sectorOf e.1 == q then some (e.1, e.2.val) else none

/-- An L1 line holds a word. -/
def L1Line.get? (x : L1Line) (w : Nat) : Option CWord := lookupAt x.words w

/-- An L1 line holds some word of a sector. -/
def L1Line.hasSector (x : L1Line) (q : Nat) : Bool := x.words.any fun e => sectorOf e.1 == q

/-- The stale mark of a sector (R240). -/
def L1Line.markStale (x : L1Line) (q : Nat) : L1Line :=
  if x.stale.contains q || !x.hasSector q then x else { x with stale := q :: x.stale }

/-- A die's L1 or near slice holds a sector (R280). -/
def State.dieHolds (s : State) (d p q : Nat) : Bool :=
  (s.l1? d (.dev p)).any (fun x => x.hasSector q) || (s.near? d p).any fun n => (lookupAt n.sectors q).isSome

/-- The sectors of a line that dies hold dirty words of, as the home notes them (R242). -/
def State.notedOf (s : State) (p : Nat) : List (Nat × Nat) :=
  (List.range 9).flatMap fun d => match s.l1? d (.dev p) with
    | some x => ((List.range 9).filter fun q => !(x.dirtyIn q).isEmpty).map fun q => (q, d)
    | none => []

/-- The holder set of a line as its home finds it: the sectors that each die holds (R242, R280). -/
def State.holdersOf (s : State) (p : Nat) : List (Nat × Nat) :=
  (List.range 9).flatMap fun d => match s.l1? d (.dev p) with
    | some x => ((List.range 9).filter x.hasSector).map fun q => (d, q)
    | none => []

/-- A die enters the holder set of a sector (R242, R280). -/
def State.addHolder (s : State) (d p q : Nat) : State :=
  s.onHome p fun h => { h with holders := if h.holders.contains (d, q) then h.holders else (d, q) :: h.holders }

/-- A die leaves the holder set of every sector that its L1 and near slice no longer hold (R280). -/
def State.settleHolders (s : State) (d : Nat) : State :=
  { s with homes := s.homes.map fun h =>
      { h with holders := h.holders.filter fun e => e.1 != d || s.dieHolds d h.line e.2 } }

/-- Priority after a hit (R245): the code −4 leaves it. -/
def hitPrio (prio ev : Int) : Int := if ev = -4 then prio else max prio ev

/-- Priority a fill gives in an L2 slice (R245). -/
def l2Prio (ev : Int) : Int := max ev (-3)

/-- One invalidation applied at a die (R240, R282): the near copy of the sector goes, the L1 copy is marked stale. -/
def State.applyInvalidation (s : State) (d p q : Nat) : State :=
  let s := s.onL1 d (.dev p) fun x => x.markStale q
  let s := s.onDie d fun x => { x with near := x.near.map fun n =>
    if n.line == p then { n with sectors := eraseAt n.sectors q } else n }
  if s.dieHolds d p q then s
  else s.onHome p fun h => { h with holders := h.holders.filter fun e => e != (d, q) }

/-- Every invalidation addressed to a die whose stamp does not exceed `clk` is applied, in the order sent (R282). -/
def State.deliver (s : State) (d : Nat) (clk : List Nat) : State :=
  let due := fun (i : Instr) => match i with
    | .invalidation die _ _ st => die == d && clockLe st clk
    | _ => false
  let s' := s.each (s.flight.filter due) fun s i => match i with
    | .invalidation _ p q _ => s.applyInvalidation d p q
    | _ => s
  { s' with flight := s.flight.filter fun i => !due i }

/-- A die receives a response that carries a sector clock (R281, R282). Dies 9..11 are the rim dies. -/
def State.receive (s : State) (d : Nat) (clk : List Nat) : State :=
  if d < 9 then (s.deliver d clk).onDie d fun x => { x with clock := clockMax x.clock clk }
  else { s with rimClocks := s.rimClocks.modify (d - 9) fun c => clockMax c clk }

/-- A die sends a write: its clock advances and the write carries the stamp (R281). Dies 9..11 are the rim dies. -/
def State.stamp (s : State) (d : Nat) : List Nat × State :=
  if d < 9 then
    let s := s.onDie d fun x => { x with clock := x.clock.modify d (· + 1) }
    ((s.die d).clock, s)
  else
    let s := { s with rimClocks := s.rimClocks.modify (d - 9) fun c => c.modify d (· + 1) }
    (s.rimClocks.getD (d - 9) clockZero, s)

/-- The clean copies of a die take words that the die writes past them (R239, R246): its near slice, through which they pass, and
its L1 slice. -/
def State.takeWords (s : State) (d p : Nat) (ws : List (Nat × Word)) : State :=
  let s := s.onDie d fun x => { x with near := x.near.map fun n =>
    if n.line == p then
      { n with sectors := n.sectors.map fun e =>
          (e.1, ws.foldl (fun l w => if sectorOf w.1 = e.1 then l.set (w.1 % 5) w.2 else l) e.2),
               bad := n.bad.filter fun k => !ws.any fun e => e.1 == k }
    else n }
  s.onL1 d (.dev p) fun x =>
    { x with words := x.words.map fun e => match e.2.dirty, ws.find? (fun w => w.1 == e.1) with
        | none, some w => (e.1, { e.2 with val := w.2, bad := false })
        | _, _ => e }

/-- Words written into a home line that is cached (R240, R281): the words change, the clock of each sector takes the
stamp, every other holder's sector is invalidated by a message, and the home die's own L1 copy is marked stale. -/
def State.applyWords (s : State) (d : Nat) (st : List Nat) (p : Nat) (ws : List (Nat × Word)) : State :=
  match s.home? p with
  | none => s
  | some h =>
    let qs := (ws.map fun e => sectorOf e.1).eraseDups
    let hd := homeDie p
    let targets := h.holders.filter fun e => qs.contains e.2 && e.1 != d && e.1 != hd
    let s := (s.onHome p fun h =>
      { h with words := ws.foldl (fun l e => l.set e.1 e.2) h.words,
               bad := h.bad.filter fun k => !ws.any fun e => e.1 == k }).raiseClocks p qs st
    let s := s.each targets fun s e => s.send (.invalidation e.1 p e.2 st)
    if hd = d then s else s.each qs fun s q => s.onL1 hd (.dev p) fun x => x.markStale q

/-- Words written into a cached home line in one act with their sending: the writing die's clean copies take them too (R239). -/
def State.applyToHome (s : State) (d : Nat) (st : List Nat) (p : Nat) (ws : List (Nat × Word)) : State :=
  (s.applyWords d st p ws).takeWords d p ws

/-- The dirty words of an L1 line's sectors become clean (R239): the copy keeps them. -/
def L1Line.clean (x : L1Line) (ws : List Nat) : L1Line :=
  { x with words := x.words.map fun e => if ws.contains e.1 then (e.1, { e.2 with dirty := none }) else e }

/-- Sectors of a line are poisoned at its home (R242, R414, R431). -/
def State.addPoison (s : State) (line : Nat) (qs : List Nat) : State :=
  let new := (qs.filter fun q => !s.poisoned line q).eraseDups.map fun q => (line, q)
  let s := { s with poison := s.poison ++ new }
  s.onDie (homeDie line) fun d => { d with counters := d.counters.modify 4 fun n => min (n + new.length) 3812798742493 }

/-- A sector of a remote or host line is poisoned at the rim port through which its words go (R414, R431). Rim die 0 counts it
(DESIGN CHOICE, log entry 82). -/
def State.addPortPoison (s : State) (loc : Loc) (q : Nat) : State :=
  if s.portPoisoned loc q then s
  else { s with portPoison := s.portPoison ++ [(loc, q)],
                rimCounters := s.rimCounters.modify 0 fun c => c.modify 4 fun n => min (n + 1) 3812798742493 }

/-- An uncorrectable word that a write-back finds poisons its sector (R414). -/
def State.poisonBad (s : State) (loc : Loc) (w : Nat) (v : CWord) : State :=
  if !v.bad then s
  else match loc with
  | .dev p => s.addPoison p [sectorOf w]
  | .win _ => s
  | _ => s.addPortPoison loc (sectorOf w)

/-- The home line is written to HBM4 and leaves the slice; its near copies go and other dies' L1 copies are marked stale
(R237, R50), after every invalidation that a sector's clock names (R282), and an uncorrectable word poisons its sector (R414). The
noted dirty sectors have been published before. -/
def State.dropHome (s : State) (p : Nat) : State :=
  match s.home? p with
  | none => s
  | some h =>
    let s := s.each (h.holders.filter fun e => e.1 != homeDie p) fun s e =>
      (s.deliver e.1 (s.secClock p e.2)).applyInvalidation e.1 p e.2
    let s := (if h.bad.isEmpty then s else s.addPoison p (h.bad.map sectorOf)).setHbmLine p (packedLine h.words)
    { s with homes := s.homes.filter fun x => x.line != p }

/-- A write leaves its gust's count of unacknowledged writes (R276). -/
def State.acked (s : State) (r : Option GustRef) : State :=
  match r with
  | some r => s.onGust r fun (g : Gust) => { g with unacked := g.unacked - 1 }
  | none => s

/-- A device number that no route reaches never answers (R425). -/
def State.unroutable (s : State) : Loc → Bool
  | .remote dev _ => s.unreached.contains dev
  | _ => false

/-- The words of a line behind a rim port (R50, R51, R424, R427), for an access that reaches some sectors of it (R414). Of a device that
no route reaches, the access has ended by its timeout (R425). -/
def State.portWords (s : State) (loc : Loc) (qs : List Nat) : Except Int (List Word) :=
  if s.unroutable loc then .error (-5)
  else if qs.any (s.portPoisoned loc) then .error (-4)
  else match readLine (s.portLine loc) with
  | .packed ws => .ok ws
  | .raw _ => .error 22
  | .broken c => .error c

/-- The physical word address of a place of the package, or 0 (R397). -/
def WLoc.phys : WLoc → Int
  | ⟨.dev p, w⟩ => Int.ofNat (45 * p + w)
  | _ => 0

/-- The host port as the destination of a write that awaits its acknowledgement. -/
def hostPort : Nat := 2187

/-- The oldest write of a gust to a line that awaits its acknowledgement. -/
def State.awaited (s : State) (r : Option GustRef) (dest line : Nat) : Option Outstanding :=
  s.outstanding.find? fun (o : Outstanding) => o.who == r && o.dest == dest && o.line == line

/-- An acknowledgement returns (R424). -/
def State.zargenAck (s : State) (seq : Nat) : State :=
  match s.outstanding.find? fun (o : Outstanding) => o.seq == seq with
  | some o => ({ s with outstanding := s.outstanding.filter fun (x : Outstanding) => x.seq != seq } : State).acked o.who
  | none => s

/-- A write that has been taken by its unit is acknowledged (R276): one of another device when the acknowledgement returns (R424). -/
def State.ackWrite (s : State) (m : WriteMsg) : State :=
  match m.loc with
  | .remote dev p => (match s.awaited m.src dev p with
    | some o => s.send (.zargenAck o.seq)
    | none => s.acked m.src)
  | .host p => (match s.awaited m.src hostPort p with
    | some o => s.zargenAck o.seq
    | none => s.acked m.src)
  | _ => s.acked m.src

/-- A write past L1 ends at its unit: applied, or dropped where it finds a raw line (R50), or a machine check of its context where
the line or sector has failed meanwhile (R51, R414). -/
def State.endWrite (m : WriteMsg) (x : Answer Unit) : State :=
  (match x with
    | (.error c, s) => if c < 0 then s.send (.machineCheck m.ctx c ⟨WLoc.phys ⟨m.loc, m.word⟩, m.words⟩) else s
    | (_, s) => s).ackWrite m

/-- A write reaches its rim port (R424): what it meets there. -/
def State.landPort (s : State) (m : WriteMsg) : Answer Unit :=
  match s.portWords m.loc [sectorOf m.word] with
  | .ok old => (.ok (), s.setPortLine m.loc (packedLine (old.set m.word m.val)))
  | .error c => (.error c, s)

/-- Writes on their way that a later access of a die to a line comes behind: its own, and to a remote line every one of the device
(R260, R424). -/
def behind (d : Nat) (loc : Loc) : Instr → Bool
  | .homeApplyWrite m => (m.die == d || loc.isRemote) && m.loc == loc && !m.narrow
  | _ => false

/-- The writes on their way to a line behind a rim port reach it before a later access of the die (R424: the writes of one device to
one remote line apply in issue order). -/
def State.flushPort (s : State) (d : Nat) (loc : Loc) : State :=
  ({ s with flight := s.flight.filter fun i => !behind d loc i } : State).each (s.flight.filter (behind d loc)) fun s i => match i with
    | .homeApplyWrite m => State.endWrite m (s.landPort m)
    | _ => s

/-- Writes of a die to some words of a device line that are still on their way when a later write of the die to the same
words applies (R260: messages from one slice to one home apply in the order sent): they have applied before it. -/
def State.overtake (s : State) (d : Nat) (p : Nat) (ws : List Nat) : State :=
  let hit := fun (i : Instr) => match i with
    | .homeApplyWrite m => m.die == d && m.loc == .dev p && !m.narrow && ws.contains m.word
    | _ => false
  let s' := s.each (s.flight.filter hit) fun s i => match i with
    | .homeApplyWrite m => s.acked m.src
    | _ => s
  { s' with flight := s.flight.filter fun i => !hit i }

/-- Words written back by a die into a home that may hold the line or not, for the context that wrote them. Words of a raw
line and of a poisoned sector are dropped (R50, R414); a line that fails R51 raises its machine check (log entry 37). -/
def State.writeBackWords (s : State) (d : Nat) (loc : Loc) (ws : List (Nat × Word)) (ctx : Nat) : State :=
  if ws.isEmpty then s
  else match loc with
  | .dev p =>
    let s := s.overtake d p (ws.map (·.1))
    let ws := ws.filter fun e => !s.poisoned p (sectorOf e.1)
    let (st, s) := s.stamp d
    match s.home? p with
    | some _ => s.applyToHome d st p ws
    | none =>
      let qs := (ws.map fun e => sectorOf e.1).eraseDups
      let hd := homeDie p
      (match readLine (s.hbmLine p) with
        | .packed old =>
          let s := (s.setHbmLine p (packedLine (ws.foldl (fun l e => l.set e.1 e.2) old))).raiseClocks p qs st
          if hd = d then s else s.each qs fun s q => s.onL1 hd (.dev p) fun x => x.markStale q
        | .raw _ => s
        | .broken c => s.send (.machineCheck ctx c ⟨Int.ofNat (45 * p + (ws.headD (0, Word.zero)).1), []⟩))
  | .win _ => s
  | _ =>
    let (_, s) := (s.flushPort d loc).stamp d
    (match s.portWords loc [] with
      | .ok old => s.setPortLine loc (packedLine ((ws.filter fun e => !s.portPoisoned loc (sectorOf e.1)).foldl (fun l e => l.set e.1 e.2) old))
      | .error c => if c < 0 then s.send (.machineCheck ctx c ⟨0, []⟩) else s)

/-- The dirty words of an L1 slice below epoch `e`, as (epoch, line, word number and word), lowest epoch first (R278). -/
def Die.dirtyBelow (x : Die) (e : Nat) : List (Nat × Loc × Nat × CWord) :=
  let all := x.l1.flatMap fun l => l.words.filterMap fun w => match w.2.dirty with
    | some k => if k < e then some (k, l.loc, w.1, w.2) else none
    | none => none
  (List.range e).flatMap fun k => all.filter fun t => t.1 == k

/-- The home is told that a sector of a die's L1 copy holds a dirty word, or no longer does (R242). -/
def State.note (s : State) (d p q : Nat) (on : Bool) : State :=
  s.onHome p fun h =>
    { h with noted := if on then (if h.noted.contains (q, d) then h.noted else (q, d) :: h.noted)
                      else h.noted.filter fun e => e != (q, d) }

/-- One dirty word written back (R239), with the note of its sector cleared when it was the last. -/
def State.writeBackOne (s : State) (d : Nat) (loc : Loc) (w : Nat) (v : CWord) : State :=
  let s := (s.onL1 d loc fun x => x.clean [w]).poisonBad loc w v
  let s := if v.bad then s else s.writeBackWords d loc [(w, v.val)] v.by_
  match loc, s.l1? d loc with
  | .dev p, some x => if (x.dirtyIn (sectorOf w)).isEmpty then s.note d p (sectorOf w) false else s
  | _, _ => s

/-- A die's L1 writes back the dirty words of a sector (R239), every dirty word of a lower epoch first (R278). -/
def State.writeBack (s : State) (d : Nat) (loc : Loc) (q : Nat) : State :=
  match s.l1? d loc with
  | none => s
  | some x =>
    let ws := x.dirtyIn q
    let e := (x.words.filterMap fun t => if sectorOf t.1 == q then t.2.dirty else none).foldl max 0
    if ws.isEmpty then s
    else
      let s := s.each ((s.die d).dirtyBelow e) fun s t => s.writeBackOne d t.2.1 t.2.2.1 t.2.2.2
      let own := (s.l1? d loc).elim [] fun x => x.words.filter fun t => sectorOf t.1 == q && t.2.dirty.isSome
      let ws := (own.filter fun t => !t.2.bad).map fun t => (t.1, t.2.val)
      let s := s.each own fun s t => s.poisonBad loc t.1 t.2
      let by_ := ((x.words.find? fun t => sectorOf t.1 == q && t.2.dirty.isSome).elim 0 fun t => t.2.by_)
      let s := s.onL1 d loc fun x => x.clean (own.map (·.1))
      let s := s.writeBackWords d loc ws by_
      match loc with
      | .dev p => s.note d p q false
      | _ => s

/-- A die's L1 writes back every dirty word of an epoch before the present one: what a write past L1 finds behind it at
its home (R278). -/
def State.writeBackOlder (s : State) (d : Nat) : State :=
  s.each ((s.die d).dirtyBelow (s.die d).epoch) fun s t => s.writeBackOne d t.2.1 t.2.2.1 t.2.2.2

/-- A die's L1 writes back every dirty word it holds (R277). -/
def State.writeBackAll (s : State) (d : Nat) : State :=
  s.each ((s.die d).dirtyBelow ((s.die d).epoch + 1)) fun s t => s.writeBackOne d t.2.1 t.2.2.1 t.2.2.2

/-- A release at device scope for what gusts that are gone have written on any die (R239, R277): the dies write back in an order the
device chooses (log entries 3 and 54). -/
def State.releaseDies (s : State) : State :=
  let (ds, s) := s.anyOrder 9 (List.range 9)
  s.each ds fun s d => (s.writeBackAll d).onDie d fun x => { x with epoch := x.epoch + 1 }

/-- Forced publish of a sector (R243, R284): every die other than `d` that has noted a dirty word writes it back. -/
def State.publish (s : State) (d p q : Nat) : State :=
  match s.home? p with
  | none => s
  | some h =>
    let ds := (h.noted.filter fun e => e.1 == q && e.2 != d).map (·.2)
    let s := s.each ds fun s k => s.writeBack k (.dev p) q
    if ds.isEmpty then s
    else s.onDie (homeDie p) fun x => { x with counters := x.counters.modify 6 fun n => min (n + ds.length) 3812798742493 }

/-- The home recalls a line (R237, R333): publishes every noted dirty sector, drops near copies, marks L1 copies stale, and
writes the line to HBM4. -/
def State.recall (s : State) (p : Nat) : State :=
  match s.home? p with
  | none => s
  | some h => (s.each (h.noted.map (·.1)).eraseDups fun s q => s.publish 99 p q).dropHome p

/-- The line an L2 slice evicts from a full set (R247): lowest priority, then least recently used. -/
def victim {α : Type} (prio : α → Int) (used : α → Nat) : List α → Option α
  | [] => none
  | x :: xs => match victim prio used xs with
    | none => some x
    | some y => if prio x < prio y ∨ (prio x = prio y ∧ used x ≤ used y) then some x else some y

/-- Ways of a set (R236). -/
def ways : Nat := 5

/-- The set of an L2 slice where a line has its home (R236): die, slice, set. -/
def homeSet (p : Nat) : Nat × Nat × Nat := (homeDie p, homeSlice p % 81, p / 729 % 729)

/-- The set of an L2 slice where a die keeps its near copy of a line (R236). -/
def nearSet (d p : Nat) : Nat × Nat × Nat := (d, p % 81, p / 81 % 729)

/-- A way of an L2 slice holds a home line or a near line (R236). -/
inductive L2Way where
  | home (h : HomeLine)
  | near (n : NearLine)
deriving DecidableEq, Repr

/-- The retention priority of a way. -/
def L2Way.prio : L2Way → Int
  | .home h => h.prio
  | .near n => n.prio

/-- The last use of a way. -/
def L2Way.used : L2Way → Nat
  | .home h => h.used
  | .near n => n.used

/-- The ways in use of a set of an L2 slice: home lines and near lines share it (R236). -/
def State.l2Set (s : State) (k : Nat × Nat × Nat) : List L2Way :=
  ((s.homes.filter fun h => homeSet h.line == k).map .home) ++
  (((s.die k.1).near.filter fun n => nearSet k.1 n.line == k).map .near)

/-- Room in a set of an L2 slice (R247): of a full set, a home line is recalled (R237), a near line goes. -/
def State.l2Room (s : State) (k : Nat × Nat × Nat) : State :=
  let set := s.l2Set k
  if set.length < ways then s
  else match victim L2Way.prio L2Way.used set with
    | some (.home h) => s.recall h.line
    | some (.near n) =>
      (s.onDie k.1 fun x => { x with near := x.near.filter fun l => l.line != n.line }).settleHolders k.1
    | none => s

/-- No link that does not retrain parts a die from the home or core of a place (R422). DESIGN CHOICE (log entry 84): the link between
two dies carries every request between them, and what goes on through a rim port is not parted. -/
def State.joined (s : State) (d : Nat) : Loc → Bool
  | .dev p => !s.cuts.any fun e => e == (d, homeDie p) || e == (homeDie p, d)
  | .win core => !s.cuts.any fun e => e == (d, dieOf core) || e == (dieOf core, d)
  | _ => true

/-- A latch message of the L1 slice of a line is on its way to the line's home (R260). -/
def State.latchAhead (s : State) (d p : Nat) : Bool :=
  let one := fun (die line : Nat) => die == d && line % 27 == p % 27 && homeSlice line == homeSlice p
  s.flight.any fun i => match i with
    | .latchRequest m => one m.die m.line
    | .latchRelease m => one m.die m.line
    | _ => false

/-- A home slice fills a line from HBM4 (R238): the words, or the cause that stops the access: 22 raw line, −2 or −3 of
R51. -/
def State.homeFill (s : State) (p : Nat) (ev : Int) : Answer (List Word) :=
  match s.home? p with
  | some h =>
    let (n, s) := s.fresh
    (.ok h.words, s.onHome p fun h => { h with prio := max h.prio (l2Prio ev), used := n })
  | none => match readLine (s.hbmLine p) with
    | .packed ws =>
      let s := s.l2Room (homeSet p)
      let (n, s) := s.fresh
      (.ok ws, { s with homes := s.homes ++ [{ line := p, words := ws, holders := s.holdersOf p, noted := s.notedOf p,
                                               prio := l2Prio ev, used := n }] })
    | .raw _ => (.error 22, s)
    | .broken c => (.error c, s)

/-- Two locations lie in one set of one L1 slice (R236). -/
def sameL1Set (a b : Loc) : Bool := a.num % 27 == b.num % 27 && a.num / 27 % 729 == b.num / 27 % 729

/-- An L1 line leaves its slice: its dirty words are written back first (R239). -/
def State.evictL1 (s : State) (d : Nat) (loc : Loc) : State :=
  let s := s.each (List.range 9) fun s q => s.writeBack d loc q
  (s.onDie d fun x => { x with l1 := x.l1.filter fun l => l.loc != loc }).settleHolders d

/-- The L1 line of a location, made if it is absent (R236, R245, R247). DESIGN CHOICE (log entry 60): a sector that enters a
line already held counts as a hit of that line, not as its fill. -/
def State.l1Touch (s : State) (d : Nat) (loc : Loc) (ev : Int) : State :=
  let (n, s) := s.fresh
  match s.l1? d loc with
  | some _ => s.onL1 d loc fun x => { x with prio := hitPrio x.prio ev, used := n }
  | none =>
    let set := (s.die d).l1.filter fun x => sameL1Set x.loc loc
    let s := if set.length < ways then s
      else match victim L1Line.prio L1Line.used set with
        | some v => s.evictL1 d v.loc
        | none => s
    s.onDie d fun x => { x with l1 := x.l1 ++ [{ loc, words := [], stale := [], prio := ev, used := n }] }

/-- The words of a sector of a near slice, made room for (R236, R247). DESIGN CHOICE (log entry 60): into a line already held
it counts as a hit. -/
def State.nearInstall (s : State) (d p q : Nat) (ws : List Word) (ev : Int) : State :=
  let (n, s) := s.fresh
  match s.near? d p with
  | some _ => s.onDie d fun x => { x with near := x.near.map fun l =>
      if l.line == p then { l with sectors := insertAt l.sectors q ws, bad := l.bad.filter (fun k => sectorOf k != q), prio := max l.prio (l2Prio ev), used := n } else l }
  | none =>
    (s.l2Room (nearSet d p)).onDie d fun x =>
      { x with near := x.near ++ [{ line := p, sectors := [(q, ws)], prio := l2Prio ev, used := n }] }

/-- A hit of a near line (R245, R247). -/
def State.nearHit (s : State) (d p : Nat) (ev : Int) : State :=
  let (n, s) := s.fresh
  s.onDie d fun x => { x with near := x.near.map fun l =>
    if l.line == p then { l with prio := max l.prio (l2Prio ev), used := n } else l }

/-- A write reaches its home slice or its rim port (R240, R281, R424): what it meets there. The clean copies of its die took it as
it passed them. -/
def State.landWrite (s : State) (m : WriteMsg) : Answer Unit :=
  match m.loc with
  | .dev p =>
    if s.poisoned p (sectorOf m.word) then (.error (-4), s)
    else (match s.homeFill p m.ev with
      | (.ok _, s) => (.ok (), s.applyWords m.die m.stamp p [(m.word, m.val)])
      | (.error c, s) => (.error c, s))
  | .win _ => (.ok (), s)
  | _ => s.landPort m

/-- A write past L1 reaches its home slice or rim port, and ends. -/
def State.finishWrite (s : State) (m : WriteMsg) : State := State.endWrite m (s.landWrite m)

/-- The writes of a die to a line that are still on their way reach its home or port before a later request of the die for that
line (R260, R424: messages from one slice to one home apply in the order sent). -/
def State.flushLoc (s : State) (d : Nat) (loc : Loc) : State :=
  match loc with
  | .dev _ =>
    ({ s with flight := s.flight.filter fun i => !behind d loc i } : State).each (s.flight.filter (behind d loc)) fun s i => match i with
      | .homeApplyWrite m => s.finishWrite m
      | _ => s
  | _ => s.flushPort d loc

/-- A word of a home line is uncorrectable (R53). -/
def State.homeBad (s : State) (p : Nat) (w : Nat) : Bool := (s.home? p).any fun h => h.bad.contains w

/-- A sector of a near copy has an uncorrectable word (R53). -/
def State.nearBad (s : State) (d p q : Nat) : Bool := (s.near? d p).any fun n => n.bad.any fun k => sectorOf k == q

/-- The words of a sector of a device line as the near or home slice gives them to a die (R238, R242, R281): the response brings the
sector clock, after the invalidations that it names (R282), and the die then enters the holder set. -/
def State.fetchSector (s : State) (d p q : Nat) (ev : Int) : Answer (List Word) :=
  match (if homeDie p = d then none else (s.near? d p).bind fun n => lookupAt n.sectors q) with
  | some ws => if s.nearBad d p q then (.error (-1), s) else (.ok ws, s.nearHit d p ev)
  | none =>
    let s := s.flushLoc d (.dev p)
    if s.poisoned p q then (.error (-4), s)
    else match s.homeFill p ev with
    | (.error c, s) => (.error c, s)
    | (.ok ws, s) =>
      if (sectorWords q).any fun w => s.homeBad p w then (.error (-1), s) else
      let ws := (sectorWords q).map fun w => ws.getD w Word.zero
      let s := s.receive d (s.secClock p q)
      (.ok ws, (if homeDie p = d then s else s.nearInstall d p q ws ev).addHolder d p q)

/-- The words of a sector of a location as the level below L1 gives them (R238, R280, R424, R427). -/
def State.belowL1 (s : State) (d : Nat) (loc : Loc) (q : Nat) (ev : Int) : Answer (List Word) :=
  match loc with
  | .dev p => s.fetchSector d p q ev
  | .win _ => (.error 20, s)
  | _ =>
    let s := s.flushLoc d loc
    (match s.portWords loc [q] with
      | .ok ws => (.ok ((sectorWords q).map fun w => ws.getD w Word.zero), s)
      | .error c => (.error c, s))

/-- A filled sector enters the L1 copy: its dirty words stay, every other word is clean, and its stale mark goes (R238); the die
is in the sector's holder set from then on (R280). -/
def State.l1Install (s : State) (d : Nat) (loc : Loc) (q : Nat) (ws : List Word) (ev : Int) : State :=
  let s := (s.l1Touch d loc ev).onL1 d loc fun x =>
    { x with stale := x.stale.filter (· != q),
             words := (List.zip (sectorWords q) ws).foldl (fun m e => match lookupAt m e.1 with
               | some w => if w.dirty.isSome then m else insertAt m e.1 { val := e.2, dirty := none, by_ := 0 }
               | none => insertAt m e.1 { val := e.2, dirty := none, by_ := 0 }) x.words }
  match loc with
  | .dev p => s.addHolder d p q
  | _ => s

/-- An L1 slice fills a sector from the near or home slice, or from the owning port (R238). -/
def State.l1Fill (s : State) (d : Nat) (loc : Loc) (q : Nat) (ev : Int) : Answer Unit :=
  match s.belowL1 d loc q ev with
  | (.error c, s) => (.error c, s)
  | (.ok ws, s) => (.ok (), s.l1Install d loc q ws ev)

/-- The word an L1 copy serves, if it holds it. -/
def State.l1Hit (s : State) (d : Nat) (at_ : WLoc) : Option CWord := (s.l1? d at_.loc).bind fun x => x.get? at_.word

/-- A word as the level below L1 has it, with the reading die's own dirty word in its place (R246, R279). -/
def State.readBelow (s : State) (d : Nat) (at_ : WLoc) (ev : Int) : Answer Word :=
  match s.l1Hit d at_ with
  | some ⟨v, some _, _, bad⟩ => (if bad then .error (-1) else .ok v, s)
  | _ => match s.belowL1 d at_.loc (sectorOf at_.word) ev with
    | (.ok ws, s) => (.ok (ws.getD (at_.word % 5) Word.zero), s)
    | (.error c, s) => (.error c, s)

/-- A relaxed read (R238, R246, R284): served by the L1 copy whenever it holds the word; the code −4 takes only dirty words
from it. -/
def State.readRelaxed (s : State) (d : Nat) (at_ : WLoc) (ev : Int) : Answer Word :=
  if ev = -4 then s.readBelow d at_ ev
  else match s.l1Hit d at_ with
  | some w => if w.bad then (.error (-1), s) else (.ok w.val, s.l1Touch d at_.loc ev)
  | none => match s.l1Fill d at_.loc (sectorOf at_.word) ev with
    | (.error c, s) => (.error c, s)
    | (.ok _, s) => match s.l1Hit d at_ with
      | some w => (.ok w.val, s)
      | none => (.ok Word.zero, s)

/-- The read of a cluster-scope acquire (R279): a stale sector counts as invalid and is filled again. -/
def State.readNarrow (s : State) (d : Nat) (at_ : WLoc) (ev : Int) : Answer Word :=
  let q := sectorOf at_.word
  match s.l1? d at_.loc with
  | some x => if x.stale.contains q && !(match x.get? at_.word with
        | some w => w.dirty.isSome
        | none => false) then
      (match s.l1Fill d at_.loc q ev with
        | (.error c, s) => (.error c, s)
        | (.ok _, s) => s.readRelaxed d at_ ev)
    else s.readRelaxed d at_ ev
  | none => s.readRelaxed d at_ ev

/-- The read of a wide acquire (R279, R284): at the home slice after forced publishes, or at the owning port; the reading
die's own dirty word stands before it. -/
def State.readWide (s : State) (d : Nat) (at_ : WLoc) (ev : Int) : Answer Word :=
  match at_.loc with
  | .dev p =>
    let q := sectorOf at_.word
    let s := s.flushLoc d (.dev p)
    if s.poisoned p q then (.error (-4), s)
    else match s.homeFill p ev with
    | (.error c, s) => (.error c, s)
    | (.ok _, s) =>
      let s := s.publish d p q
      match s.home? p with
      | none => (.error (-2), s)
      | some h =>
        let s := s.receive d (s.secClock p q)
        let v := h.words.getD at_.word Word.zero
        match s.l1Hit d at_ with
        | some ⟨own, some _, _, bad⟩ => (if bad then .error (-1) else .ok own, s)
        | _ => (if h.bad.contains at_.word then .error (-1) else .ok v, s)
  | _ => s.readBelow d at_ (-4)

/-- An acquire's drop (R279): every stale sector of the die's L1 keeps its dirty words only; at system scope so does every
sector of a remote or host line. A line with no word left is gone. -/
def State.dropStale (s : State) (d : Nat) (sys : Bool) : State :=
  (s.onDie d fun x => { x with l1 := (x.l1.map fun l =>
    let all := sys && (match l.loc with
      | .dev _ => false
      | _ => true)
    { l with stale := [], words := l.words.filter fun e =>
        e.2.dirty.isSome || !(all || l.stale.contains (sectorOf e.1)) }).filter fun l => !l.words.isEmpty }).settleHolders d

/-- The clock of every write sent so far (R281). -/
def State.allClocks (s : State) : List Nat := ((s.dies.map fun (d : Die) => d.clock) ++ s.rimClocks).foldl clockMax clockZero

/-- The second half of an ordering point of R288 at device or system scope: every invalidation sent so far is applied at the
die, and its stale sectors are dropped (log entry 35). -/
def State.orderPoint (s : State) (d : Nat) (sys : Bool) : State := (s.receive d s.allClocks).dropStale d sys

/-- The L1 copy holds the sector of a word. -/
def State.l1HoldsSector (s : State) (d : Nat) (at_ : WLoc) : Bool :=
  (s.l1? d at_.loc).any fun x => x.hasSector (sectorOf at_.word)

/-- What a store meets before it is written (R50, R242, R414). A copy that L1 holds serves it, raw line or not, and its home hears
of it only for the dirty notice, which needs the line there; otherwise its request reaches the home, or the owning port, and finds
a raw line, a broken line or a poisoned sector there, or the line is filled at the home so that it can be noted. -/
def State.storeMiss (s : State) (d : Nat) (at_ : WLoc) (ev : Int) : Answer Unit :=
  let held := s.l1HoldsSector d at_
  match at_.loc with
  | .dev p =>
    if held && (s.home? p).isSome then (.ok (), s)
    else if !held && s.poisoned p (sectorOf at_.word) then (.error (-4), s)
    else (match s.homeFill p ev with
      | (.ok _, s) => (.ok (), s)
      | (.error c, s) => if held ∧ c = 22 then (.ok (), s) else (.error c, s))
  | .win _ => (.error 20, s)
  | loc => if held then (.ok (), s) else (match s.portWords loc [sectorOf at_.word] with
    | .ok _ => (.ok (), s)
    | .error c => (.error c, s))

/-- A word written into the L1 copy, in the present epoch, and noted at the home when its sector first gains a dirty word
(R239, R242, R278): the die holds the sector from then on (R280). -/
def State.writeL1 (s : State) (ctx d : Nat) (at_ : WLoc) (v : Word) (ev : Int) : Answer Unit :=
  match s.storeMiss d at_ ev with
  | (.error c, s) => (.error c, s)
  | (.ok _, s) =>
    let s := s.l1Touch d at_.loc ev
    let e := (s.die d).epoch
    let s := s.onL1 d at_.loc fun x => { x with words := insertAt x.words at_.word { val := v, dirty := some e, by_ := ctx } }
    (.ok (), match at_.loc with
      | .dev p => (s.note d p (sectorOf at_.word) true).addHolder d p (sectorOf at_.word)
      | _ => s)

/-- Words written at the home slice of a device line as one act, or at the owning port, by die `d` (R277, R281, R321). -/
def State.writeAtHome (s : State) (d : Nat) (at_ : WLoc) (v : Word) (ev : Int := 0) : Answer Unit :=
  let s := s.flushLoc d at_.loc
  match at_.loc with
  | .dev p =>
    if s.poisoned p (sectorOf at_.word) then (.error (-4), s)
    else (match s.homeFill p ev with
      | (.error c, s) => (.error c, s)
      | (.ok _, s) =>
        let (st, s) := s.stamp d
        (.ok (), s.applyToHome d st p [(at_.word, v)]))
  | .win _ => (.error 20, s)
  | loc => (match s.portWords loc [sectorOf at_.word] with
    | .ok old =>
      let (_, s) := s.stamp d
      (.ok (), s.setPortLine loc (packedLine (old.set at_.word v)))
    | .error c => (.error c, s))

/-- One indivisible update at the L1 slice (R248, R249): the old word. With the code −4 no line is made there (R246): a
sector that L1 does not hold is read from the level below and the word written there. -/
def State.updateL1 (s : State) (ctx d : Nat) (at_ : WLoc) (ev : Int) (f : Word → Option Word) : Answer Word :=
  let held := s.l1HoldsSector d at_
  match s.readRelaxed d at_ ev with
  | (.error c, s) => (.error c, s)
  | (.ok old, s) => match f old with
    | none => (.ok old, s)
    | some new =>
      if ev = -4 ∧ !held then (match (s.writeBackOlder d).writeAtHome d at_ new ev with
        | (.error c, s) => (.error c, s)
        | (.ok _, s) => (.ok old, s))
      else (match s.writeL1 ctx d at_ new ev with
        | (.error c, s) => (.error c, s)
        | (.ok _, s) => (.ok old, if ev = -4 then s.writeBack d at_.loc (sectorOf at_.word) else s))

/-- A store at the L1 slice of a die (R239), or with the code −4 past it: a copy that holds the sector takes the word, and its dirty
words are written back; else the word goes to the home (R246). -/
def State.storeL1 (s : State) (ctx d : Nat) (at_ : WLoc) (v : Word) (ev : Int) : State :=
  if ev ≠ -4 then (s.writeL1 ctx d at_ v ev).2
  else if s.l1HoldsSector d at_ then (s.writeL1 ctx d at_ v ev).2.writeBack d at_.loc (sectorOf at_.word)
  else ((s.writeBackOlder d).writeAtHome d at_ v ev).2

/-- The lines of a die's L1 that hold no word any more are gone. -/
def State.pruneL1 (s : State) (d : Nat) : State :=
  s.onDie d fun x => { x with l1 := x.l1.filter fun l => !l.words.isEmpty }

/-- One indivisible update at the home slice or the owning port (R248, R249, R284): the issuing L1 writes back its dirty
words of the sector and of older epochs (R278) and invalidates the sector first; the old value enters no cache of the issuing
die. -/
def State.updateHome (s : State) (d : Nat) (at_ : WLoc) (ev : Int) (f : Word → Option Word) : Answer Word :=
  let q := sectorOf at_.word
  let s := if d < 9 then
      ((((s.writeBackOlder d).writeBack d at_.loc q).onL1 d at_.loc fun x =>
        { x with words := x.words.filter fun e => sectorOf e.1 != q, stale := x.stale.filter (· != q) }).pruneL1 d).settleHolders d
    else s
  let s := s.flushLoc d at_.loc
  match at_.loc with
  | .dev p =>
    if s.poisoned p q then (.error (-4), s)
    else (match s.homeFill p ev with
      | (.error c, s) => (.error c, s)
      | (.ok _, s) =>
        let s := s.publish d p q
        match s.home? p with
        | none => (.error (-2), s)
        | some h =>
          let old := h.words.getD at_.word Word.zero
          if h.bad.contains at_.word then (.error (-1), s) else
          match f old with
          | none => (.ok old, s.receive d (s.secClock p q))
          | some new =>
            let clk := s.secClock p q
            let (st, s) := s.stamp d
            (.ok old, (s.applyToHome d st p [(at_.word, new)]).receive d clk))
  | .win _ => (.error 20, s)
  | loc => (match s.portWords loc [q] with
    | .ok ws =>
      let old := ws.getD at_.word Word.zero
      (.ok old, match f old with
        | none => s
        | some new => (s.stamp d).2.setPortLine loc (packedLine (ws.set at_.word new)))
    | .error c => (.error c, s))

/-- An engine's or the hardware's relaxed device-scope read (R281, R321): the home's word, or the reading die's own dirty
one. -/
def State.readHome (s : State) (d : Nat) (at_ : WLoc) : Answer Word :=
  match at_.loc with
  | .dev p =>
    let s := s.flushLoc d at_.loc
    if s.poisoned p (sectorOf at_.word) then (.error (-4), s)
    else (match s.homeFill p 0 with
      | (.error c, s) => (.error c, s)
      | (.ok ws, s) =>
        let s := s.receive d (s.secClock p (sectorOf at_.word))
        (match s.l1Hit d at_ with
          | some ⟨own, some _, _, bad⟩ => (if bad then .error (-1) else .ok own, s)
          | _ => (if s.homeBad p at_.word then .error (-1) else .ok (ws.getD at_.word Word.zero), s)))
  | _ => s.readBelow d at_ (-4)

/-- The 256 bytes of a device line, or of a line behind a rim port, for a whole-line read by an engine or the host (R333,
R342, R429): every home word stands in them. -/
def State.lineBytes (s : State) (loc : Loc) : List Nat :=
  match loc with
  | .dev p => (match s.home? p with
    | some h => packedLine h.words
    | none => s.hbmLine p)
  | .win _ => []
  | _ => s.portLine loc

/-- A whole line as an engine of die `d`, or the host through rim die 0, reads it at its home or port (R279, R281, R282): the writes
of the die to it have landed, the words that are dirty in the die's own L1 copy stand in it, and the die receives the clocks of
its sectors. -/
def State.readLineAt (s : State) (d : Nat) (loc : Loc) : List Nat × State :=
  let s := s.flushLoc d loc
  let s := match loc with
    | .dev p => s.receive d (((List.range 9).map fun q => s.secClock p q).foldl clockMax clockZero)
    | _ => s
  let own := (s.l1? d loc).elim [] fun x => x.words.filterMap fun e =>
    if e.2.dirty.isSome && !e.2.bad then some (e.1, e.2.val) else none
  let bs := s.lineBytes loc
  (if own.isEmpty then bs else match readLine bs with
    | .packed ws => packedLine (own.foldl (fun l e => l.set e.1 e.2) ws)
    | _ => bs, s)

/-- A whole line written in its shell form by an engine of die `d`, or by the host through rim die 0 (R281, R333, R345,
R429): the home recalls it first, every sector's clock takes the stamp, and the home die's own L1 copy is marked stale too. -/
def State.setLineBytes (s : State) (d : Nat) (loc : Loc) (bs : List Nat) : State :=
  match loc with
  | .dev p =>
    let (st, s) := (s.recall p).stamp d
    let s := s.each (List.range 9) fun s q => s.onL1 (homeDie p) (.dev p) fun x => x.markStale q
    (s.setHbmLine p bs).raiseClocks p (List.range 9) st
  | .win _ => s
  | _ => (s.stamp d).2.setPortLine loc bs

/-- A whole line as the host writes it through rim die 0, or as it replaces the bytes of a raw one (R281, R429). A packed line that its
home holds takes the words as a write does. Else the line leaves its home unpublished, since a word that is dirty in an L1 copy
replaces the host's when that copy is written back. -/
def State.putLineAt (s : State) (d p : Nat) (bs : List Nat) : State :=
  let s := s.flushLoc d (.dev p)
  match readLine bs, s.home? p with
  | .packed ws, some _ =>
    let (st, s) := s.stamp d
    s.applyToHome d st p (List.zip (List.range 45) ws)
  | _, _ =>
    let (st, s) := (s.dropHome p).stamp d
    let s := s.each (List.range 9) fun s q => s.onL1 (homeDie p) (.dev p) fun x => x.markStale q
    (s.setHbmLine p bs).raiseClocks p (List.range 9) st

end Sys2Proof.Machine
end

