-- ==== Sys2Proof/Machine/Walk.lean ====
section
/-! DEFINITION. Address translation (R294 to R312, R480): page-table entries, the walk, cached copies and their leases,
permission, the start of a fill, and the translated accesses of the scheduling cores and hardware transfers. -/

namespace Sys2Proof.Machine

/-- What a translation gives (R303, R304, R308): the place, a final cause with the physical word address a machine check of the
walk names (R397; 0 for a fault), or the physical word address of the entry whose fill the access waits on. -/
inductive Xlate where
  | ok (at_ : WLoc)
  | fault (cause phys : Int)
  | wait (entry : Nat)
deriving DecidableEq, Repr

/-- The physical word `a` of device HBM4 (R296). -/
def physWord (a : Nat) : WLoc := ⟨.dev (a / 45), a % 45⟩

/-- Words of device HBM4 (R296). -/
def physWords : Nat := 135000000000

/-- The type code of an entry's word 0 (R298). -/
def pteType (w0 : Word) : Int := fld w0.val 26 25
/-- The size class k of an entry (R298). -/
def pteK (w0 : Word) : Int := fld w0.val 24 22 + 12
/-- The lease class of an entry (R298). -/
def pteLease (w0 : Word) : Int := fld w0.val 21 19
/-- The write trit of an entry. -/
def pteWrite (w0 : Word) : Int := tritI w0.val 18
/-- The privileged trit of an entry. -/
def ptePriv (w0 : Word) : Int := tritI w0.val 17
/-- The fill trit of an absent-on-flash or regenerate entry (R299). -/
def pteFill (w0 : Word) : Int := tritI w0.val 14

/-- A node address R297 allows. -/
def nodeOk (a : Int) : Bool := decide (0 ≤ a ∧ a + 54 ≤ 135000000000 ∧ a % 54 = 0)

/-- An entry at level `v` is malformed (R300). -/
def pteBad (v : Nat) (w0 w1 : Word) : Bool :=
  let x := w0.val
  let ty := pteType w0
  let k := pteK w0
  let leaf := !(decide (3 * Int.ofNat v ≤ k ∧ k ≤ 3 * Int.ofNat v + 2) && decide (v ≤ 6))
  let common := decide (pteLease w0 < 0) || pteWrite w0 == -1 || ptePriv w0 == -1 || fld x 16 15 != 0
  let aligned := fun (a : Int) => decide (0 ≤ a ∧ a % pow3 k.toNat = 0)
  if ty = 0 then false
  else if ty = 1 then
    common || leaf || tritI x 14 != 0 || tritI x 13 == -1 || fld x 12 0 != 0 || !aligned w1.val ||
      (tritI x 13 == 0 && decide (w1.val + pow3 k.toNat > 3000000000))
  else if ty = -1 then common || leaf || pteFill w0 == -1 || fld x 13 0 != 0
  else if ty = 2 then common || leaf || pteFill w0 == -1 || decide (fld x 13 5 < 0) || fld x 4 0 != 0
  else if ty = -2 then common || leaf || fld x 7 0 != 0 || !aligned w1.val
  else if ty = 3 then common || fld x 24 22 != 0 || fld x 14 0 != 0 || v == 1 || !nodeOk w1.val
  else true

/-- The index of a line's entry at level `v` (R301): the value of its three digits. -/
def walkIndex (line v : Nat) : Nat := line / 3 ^ (3 * v) % 27

/-- Lines an entry of level `v` covers (R301). -/
def levelLines (v : Nat) : Nat := 3 ^ (3 * v)

/-- Where a walk ended: level, physical word address of the entry, its words, and the tick at which the first cached table
entry it went through ends (R307), none if it read every entry afresh; or why it could not end. -/
inductive WalkEnd where
  | leaf (v : Nat) (entry : Nat) (w0 w1 : Word) (cap : Option Nat)
  | bad (v : Nat) (cause : Int) (w1 : Word) (phys : Int)
deriving DecidableEq, Repr

/-- A cached entry still within its lease that covers a line (R306). -/
def tlbFind (es : List TlbEntry) (ctx line now : Nat) (lvl : Option Nat) : Option TlbEntry :=
  es.find? fun e => e.ctx == ctx && decide (e.base ≤ line ∧ line < e.base + e.lines ∧ now < e.expires) &&
    (match lvl with
      | some v => e.level == v
      | none => true)

/-- The lease of class j, in ticks (R306). -/
def leaseTicks (j : Int) : Nat := 3 ^ j.toNat * 1000

/-- Insertion into a cache of bounded size: the oldest entry goes (R305, R306: a copy may be discarded for any reason). -/
def tlbPut (es : List TlbEntry) (cap : Nat) (e : TlbEntry) : List TlbEntry := (e :: es).take cap

/-- The end of a copy's lease (R306): within that of every cached table entry it was reached through, so that a change of a
table entry is complete within the largest lease below it (R307). -/
def leaseEnd (now : Nat) (j : Int) (cap : Option Nat) : Nat :=
  match cap with
  | some c => min c (now + leaseTicks j)
  | none => now + leaseTicks j

/-- The lesser of two bounds, none for no bound. -/
def capMin (a : Option Nat) (b : Nat) : Option Nat := some (match a with
  | some x => min x b
  | none => b)

/-- A device line is raw, as its home or HBM4 has it (R50). -/
def State.rawLine (s : State) (p : Nat) : Bool :=
  (s.home? p).isNone && (match readLine (s.hbmLine p) with
    | .raw _ => true
    | _ => false)

/-- A node of 54 words has a raw line: every entry of it is malformed (R300). -/
def State.rawNode (s : State) (node : Nat) : Bool := s.rawLine (node / 45) || s.rawLine ((node + 53) / 45)

/-- The walk from a node at level `v` down (R303): entries are read at the home slice as wide acquire reads by the walker's
die, table entries through the die's walk cache. -/
def State.walkFrom (s : State) (d ctx line : Nat) : Nat → Nat → Option Nat → WalkEnd × State
  | 0, _, _ => (.bad 0 25 Word.zero 0, s)
  | v + 1, node, cap =>
    let lvl := v + 1
    let entry := node + 2 * walkIndex line lvl
    match (if d < 9 then tlbFind (s.die d).walks ctx line s.ptime (some lvl) else none) with
    | some e => s.walkFrom d ctx line v e.w1.val.toNat (capMin cap e.expires)
    | none =>
      if s.rawNode node then (.bad lvl 25 Word.zero 0, s)
      else match s.readWide d (physWord entry) 0 with
      | (.error c, s) => (.bad lvl (if c = 22 then 25 else c) Word.zero (Int.ofNat entry), s)
      | (.ok w0, s) => match s.readWide d (physWord (entry + 1)) 0 with
        | (.error c, s) => (.bad lvl (if c = 22 then 25 else c) Word.zero (Int.ofNat entry + 1), s)
        | (.ok w1, s) =>
          if pteBad lvl w0 w1 then (.bad lvl 25 w1 0, s)
          else if pteType w0 = 3 then
            let lines := levelLines lvl
            let e : TlbEntry := { ctx, level := lvl, base := line / lines * lines, lines, w0, w1,
                                  expires := leaseEnd s.ptime (pteLease w0) cap }
            let s := s.onDie d fun x => { x with walks := tlbPut x.walks Config.walkCacheEntries e }
            s.walkFrom d ctx line v w1.val.toNat cap
          else (.leaf lvl entry w0 w1 cap, s)

/-- The walk of an address (R303). -/
def State.walk (s : State) (d ctx : Nat) (x : Int) : WalkEnd × State :=
  let root := (s.context ctx).xroot.val
  if !nodeOk root then (.bad 7 25 Word.zero 0, s)
  else s.walkFrom d ctx (x.toNat / 45) 7 root.toNat none

/-- The place a present or remote leaf puts an address (R304). -/
def leafPlace (w0 w1 : Word) (x : Int) : WLoc :=
  let k := (pteK w0).toNat
  let p := w1.val.toNat + x.toNat / 45 % 3 ^ k
  ⟨if pteType w0 = -2 then .remote (fld w0.val 14 8 + 1093).toNat p
   else if tritI w0.val 13 = 1 then .host p
   else .dev p, x.toNat % 45⟩

/-- The permission check of R304. -/
def leafCheck (w0 : Word) (write priv : Bool) : Option Int :=
  if ptePriv w0 = 1 ∧ !priv then some 27
  else if write ∧ pteWrite w0 ≠ 1 then some 26
  else none

/-- A page-in put into the paging queue for a context-paging record (R310, R319); with the queue full it waits for room. DESIGN CHOICE
(log entry 88): word 1 of the entry is taken as it stands, negative as 0, where R347 asks for a multiple of 9. -/
def State.queuePageIn (s : State) (ctx record entry : Nat) : State :=
  let (n, s) := s.fresh
  let c : Cmd :=
    { id := n, instr := .pageIn record, who := ⟨0, 0, 0⟩, ctx, core := 0, priv := true, batch := 0,
      pcs := (Word.ofInt (-1), Word.ofInt (-1), Word.zero), scal := [], words := [], targets := [], members := [],
      stage := .queued, fault := none, issuedAt := n, prior := [], pageWait := some entry, waitAt := 0, fillFault := none,
      pos := 0, decoded := false,
      p0 := 0, raw := [], snap := [], oldSeg := none, record := some record }
  if s.paging.length < Config.pagingDepth ∧ s.pagingWait.isEmpty then { s with paging := s.paging ++ [c] }
  else { s with pagingWait := s.pagingWait ++ [c] }

/-- The oldest page-ins that wait for room enter the paging queue (R319). -/
def State.refillPaging (s : State) : State :=
  let n := Config.pagingDepth - s.paging.length
  { s with paging := s.paging ++ s.pagingWait.take n, pagingWait := s.pagingWait.drop n }

/-- The start or joining of a fill (R309, R310): an idle entry's fill trit turns plus by one update at its home; a
page-in enters the paging queue, or the walker goes on to launch the regeneration front (a PAGE_WALK message). -/
def State.startFill (s : State) (d core ctx : Nat) (entry : Nat) (w0 w1 : Word) (x : Int) : State :=
  if pteFill w0 ≠ 0 then s
  else match s.updateHome (max d 9) (physWord entry) 0 fun w => some (Word.ofInt (setFld w.val 14 14 1)) with
    | (.error _, s) => s
    | (.ok _, s) =>
      if pteType w0 = -1 then s.queuePageIn ctx w1.val.toNat entry
      else s.send (.pageWalk core ctx x)

/-- The cache of leaves that an access of a core uses (R305): the core TLB for per-lane and scalar accesses, the frame
translator's walk-ahead TLB; none for other commands (log entry 63). -/
inductive Via where
  | core | ahead | walk
deriving DecidableEq, Repr

/-- The copies of leaves that an access of a core uses (R305). -/
def Core.copies (c : Core) : Via → List TlbEntry
  | .core => c.tlb
  | .ahead => c.ahead
  | .walk => []

/-- A leaf entered into one of a core's caches (R305). -/
def Core.putCopy (c : Core) (e : TlbEntry) : Via → Core
  | .core => { c with tlb := tlbPut c.tlb Config.tlbEntries e }
  | .ahead => { c with ahead := tlbPut c.ahead Config.walkAheadEntries e }
  | .walk => c

/-- Translation of an access by a core (R303 to R309): through one of its caches, else by a walk. With `fill` an
absent-on-flash or regenerate page starts or joins its fill. -/
def State.translateBy (s : State) (via : Via) (core ctx : Nat) (x : Int) (write priv fill : Bool) : Xlate × State :=
  let d := dieOf core
  match tlbFind ((s.core core).copies via) ctx (x.toNat / 45) s.ptime none with
  | some e => (match leafCheck e.w0 write priv with
    | some c => (.fault c 0, s)
    | none => (.ok (leafPlace e.w0 e.w1 x), s))
  | none => match s.walk d ctx x with
    | (.bad _ c _ a, s) => (.fault c (if c < 0 then a else 0), s)
    | (.leaf v entry w0 w1 cap, s) =>
      let ty := pteType w0
      if ty = 0 then (.fault 24 0, s)
      else if ty = -1 ∨ ty = 2 then
        (.wait entry, if fill then s.startFill d core ctx entry w0 w1 x else s)
      else
        let lines := 3 ^ (pteK w0).toNat
        let e : TlbEntry := { ctx, level := v, base := x.toNat / 45 / lines * lines, lines, w0, w1,
                              expires := leaseEnd s.ptime (pteLease w0) cap }
        let s := s.onCore core fun c => c.putCopy e via
        match leafCheck w0 write priv with
        | some c => (.fault c 0, s)
        | none => (.ok (leafPlace w0 w1 x), s)

/-- Translation of a per-lane or scalar access of a core. -/
def State.translate (s : State) (core ctx : Nat) (x : Int) (write priv fill : Bool) : Xlate × State :=
  s.translateBy .core core ctx x write priv fill

/-- The tick by which an access that has just been translated must have applied (R306): the end of its copy's lease. -/
def State.leaseOf (s : State) (core ctx : Nat) (x : Int) : Nat :=
  (tlbFind (s.core core).tlb ctx (x.toNat / 45) s.ptime none).elim (s.ptime + 1) (·.expires)

/-- The answer of a translated access of a scheduling core or hardware transfer (R480); a failure has the physical word address that
failed, when there is one (R397). -/
inductive SysAns (α : Type) where
  | ok (v : α)
  | fail (cause addr : Int)
  | wait
deriving DecidableEq, Repr

/-- An access of the hardware made under a name of its own, by which it is known while it waits (R480). -/
def State.under {α : Type} (s : State) (who : List Nat) (f : State → α × State) : α × State :=
  match f { s with hand := who } with
  | (x, t) => (x, { t with hand := s.hand })

/-- Translation for the scheduling cores, the distributors and the hardware transfers (R480): privileged, uncached. An access
is known by the name it is made under, its context and its address while it waits. -/
def State.sysTranslate (s : State) (ctx : Nat) (x : Int) (write : Bool) : Xlate × State :=
  if x < 1 ∨ x > wordMax then (.fault 20 0, s)
  else match s.walk 9 ctx x with
  | (.bad _ c _ a, s) => (.fault c (if c < 0 then a else 0), s)
  | (.leaf _ entry w0 w1 _, s) =>
    let ty := pteType w0
    let mine := fun (w : SysWait) => w.entry == entry && w.ctx == ctx && w.addr == x && w.who == s.hand
    let s' := { s with sysWaits := s.sysWaits.filter fun w => !mine w }
    if ty = 0 then (.fault 24 0, s')
    else if ty = -1 ∨ ty = 2 then (match (s.sysWaits.find? mine).bind SysWait.cause with
      | some c => (.fault c 0, s')
      | none =>
        let s := s'.startFill 9 0 ctx entry w0 w1 x
        (.wait entry, { s with sysWaits := s.sysWaits ++ [{ entry, ctx, addr := x, cause := none, who := s.hand }] }))
    else match leafCheck w0 write true with
      | some c => (.fault c 0, s')
      | none => (.ok (leafPlace w0 w1 x), s')

/-- A read of one word (R480): device scope, acquire (R358, R373). -/
def State.sysRead (s : State) (ctx : Nat) (x : Int) : SysAns Word × State :=
  match s.sysTranslate ctx x false with
  | (.fault c a, s) => (.fail c (if c < 0 then a else 0), s)
  | (.wait _, s) => (.wait, s)
  | (.ok p, s) => match s.readWide 9 p 0 with
    | (.ok v, s) => (.ok v, s)
    | (.error c, s) => (.fail c p.phys, s)

/-- A write of one word (R480): a release at device scope, applied at the home. -/
def State.sysWrite (s : State) (ctx : Nat) (x : Int) (v : Word) : SysAns Unit × State :=
  match s.sysTranslate ctx x true with
  | (.fault c a, s) => (.fail c (if c < 0 then a else 0), s)
  | (.wait _, s) => (.wait, s)
  | (.ok p, s) => match s.writeAtHome 9 p v with
    | (.ok _, s) => (.ok (), s)
    | (.error c, s) => (.fail c p.phys, s)

/-- Reads of `n` words from address `x`, ascending. -/
def State.sysReads (s : State) (ctx : Nat) (x : Int) : Nat → SysAns (List Word) × State
  | 0 => (.ok [], s)
  | n + 1 => match s.sysRead ctx x with
    | (.fail c a, s) => (.fail c a, s)
    | (.wait, s) => (.wait, s)
    | (.ok v, s) => match s.sysReads ctx (x + 1) n with
      | (.ok vs, s) => (.ok (v :: vs), s)
      | (.fail c a, s) => (.fail c a, s)
      | (.wait, s) => (.wait, s)

/-- Writes of consecutive words from address `x`; the first failure ends them. -/
def State.sysWrites (s : State) (ctx : Nat) (x : Int) : List Word → SysAns Unit × State
  | [] => (.ok (), s)
  | v :: vs => match s.sysWrite ctx x v with
    | (.ok _, s) => s.sysWrites ctx (x + 1) vs
    | (.fail c a, s) => (.fail c a, s)
    | (.wait, s) => (.wait, s)

/-- Writes of single words in turn; the first failure or wait ends them. -/
def State.sysPuts (s : State) (ctx : Nat) : List (Int × Word) → SysAns Unit × State
  | [] => (.ok (), s)
  | e :: es => match s.sysWrite ctx e.1 e.2 with
    | (.ok _, s) => s.sysPuts ctx es
    | (.fail c a, s) => (.fail c a, s)
    | (.wait, s) => (.wait, s)

/-- A write under an identity whose failure is dropped, and which waits for a page that is being filled (R480). -/
def State.sysPutAs (s : State) (n ctx : Nat) (x : Int) (v : Word) : State :=
  match s.under [0, n] fun s => s.sysWrite ctx x v with
  | (.wait, s) => { s with deferred := s.deferred ++ [(n, .word ctx x v)], serial := max s.serial (n + 1) }
  | (_, s) => s

/-- Such a write made now. -/
def State.sysPut (s : State) (ctx : Nat) (x : Int) (v : Word) : State := s.sysPutAs s.serial ctx x v

/-- A fill that has failed (R309): the entry's fill trit returns to 0, and every gust, command and hardware access that waits on
the entry takes the cause when it is next retranslated. -/
def State.failFill (s : State) (entry : Nat) (cause : Int) : State :=
  let s := (s.updateHome 9 (physWord entry) 0 fun w =>
    if pteType w = -1 ∨ pteType w = 2 then some (Word.ofInt (setFld w.val 14 14 0)) else none).2
  let hitG := fun (g : Gust) => g.pageWait == some entry || (match g.replay with
    | some r => r.lanes.any fun x => x.2 == entry
    | none => false)
  let hitC := fun (c : Cmd) => if c.pageWait == some entry && !c.record.isSome then { c with fillFault := some cause } else c
  { s with gusts := s.gusts.map fun g => if hitG g then { g with fillFaults := (entry, cause) :: g.fillFaults.filter (fun f => f.1 != entry) } else g,
           cores := s.cores.map fun c => { c with matrixQ := c.matrixQ.map hitC, fillQ := c.fillQ.map hitC,
                                                  copyQ := c.copyQ.map hitC, codecQ := c.codecQ.map hitC },
           sysWaits := s.sysWaits.map (fun (w : SysWait) => if w.entry == entry then { w with cause := some cause } else w),
           shuttered := s.shuttered.map fun (x : Shuttered) =>
             { x with waitEntries := x.waitEntries.filter (fun w => w.2 != entry),
                      fails := x.fails ++ (x.waitEntries.filter fun w => w.2 == entry).map fun w => (w.1, entry, cause) } }

end Sys2Proof.Machine
end

