-- ==== Sys2Proof/Machine/Records.lean ====
section
/-! DEFINITION. Fault records (R397) with the point directory's PC (R381, R382), lane faults (R103), and the writes of a gust's
registers (R102, R133). -/

namespace Sys2Proof.Machine

/-- The other-layout PC of the last equivalence point a gust passed, or −1 (R382): the point directory's word in device memory
(R381). DESIGN CHOICE (log entry 75): −1 where that word cannot be read, and the read starts no fill. -/
def State.otherPc (s : State) (g : Gust) : Int :=
  match g.nlast, s.squall? g.ref.sq with
  | some n, some q => (match s.image? q.image with
    | some im =>
      if im.dir = 0 then -1
      else match s.sysRead q.ctx im.dir with
        | (.ok p, _) =>
          if p.val ≤ Int.ofNat n then -1
          else (match s.sysRead q.ctx (im.dir + 4 * Int.ofNat n + (if q.isD then 1 else 2)) with
            | (.ok w, _) => w.val
            | _ => -1)
        | _ => -1
    | none => -1)
  | _, _ => -1

/-- The class codes of fault records (R397). -/
def clsGust : Int := 4
def clsLane : Int := -4
def clsCommand : Int := -2
def clsCheck : Int := 2
def clsEnded : Int := 3

/-- Word 0 of a fault record (R397). -/
def recHead (cls cause step lane path : Int) : Word :=
  Word.ofInt (pow3 24 * cls + pow3 18 * cause + pow3 15 * step + pow3 10 * lane + pow3 6 * path)

/-- A fault record of a gust's instruction (R397). -/
def State.mkRec (s : State) (g : Gust) (cls cause step lane detail : Int) : Rec :=
  let core := match s.squall? g.ref.sq with
    | some q => Int.ofNat q.core
    | none => -1
  [recHead cls cause step lane (Int.ofNat g.depth), Word.ofInt g.pc, Word.ofInt (s.otherPc g), Word.ofNat g.kcount,
   Word.ofInt detail, s.ptimeLow,
   Word.ofInt (pow3 18 * core + pow3 14 * Int.ofNat g.ref.gust + pow3 8 * s.op),
   Word.ofNat g.ref.front, Word.ofNat g.ref.lin]

/-- The record of a machine check, from that of the instruction whose access it is (R397): the cause, the failing physical word
address and the time stand for the old ones. -/
def Rec.asCheck (words : Rec) (cause detail : Int) (now : Word) : Rec :=
  ((words.set 0 (Word.ofInt (setFld (words.getD 0 Word.zero).val 23 18 cause))).set 4 (Word.ofInt detail)).set 5 now

/-- The record that an access of a gust carries for a machine check of it (R397, R414). -/
def State.accessRec (s : State) (r : GustRef) : Rec := (s.gust? r).elim [] fun g => s.mkRec g clsCheck 0 0 (-1) 0

/-- A machine-check record with no instruction (R397). -/
def State.bareRec (s : State) (cls cause detail : Int) : Rec :=
  [recHead cls cause 0 (-1) 0, Word.ofInt (-1), Word.ofInt (-1), Word.zero, Word.ofInt detail, s.ptimeLow,
   Word.ofInt (-(pow3 18) - pow3 14), Word.zero, Word.ofInt (-1)]

/-- The stack without the entries that hold neither a plus nor a minus trit (R107). -/
def discardEmpty (st : List StackEntry) : List StackEntry := st.filter fun e => e.mask.has 1 || e.mask.has (-1)

/-- Lane `l` turned minus in the mask and in every stack entry where it is plus (R103); entries that hold no lane go (R107). -/
def Gust.parkTrit (g : Gust) (l : Nat) : Gust :=
  let put := fun (m : Mask) => Mask.tab fun k => if k = l then .minus else m.get k
  { g.withMask (put g.mask) with
    stack := discardEmpty (g.stack.map fun e => if e.mask.get l = .plus then { e with mask := put e.mask } else e) }

/-- Lane `l` faults (R103): it is parked and gets its record. -/
def State.laneFault (s : State) (r : GustRef) (l : Nat) (cause detail : Int) : State :=
  match s.gust? r with
  | some g =>
    let rc := s.mkRec g clsLane cause 0 (Int.ofNat l) detail
    s.setGust { g.parkTrit l with laneRec := insertAt g.laneRec l rc, laneFaulted := g.laneFaulted ++ [l] }
  | none => s

/-- A program's write of a mask word (R102): a minus over a plus or zero parks the lane with "parked by program", a plus
over a minus clears the lane's record. -/
def State.writeMaskWord (s : State) (r : GustRef) (k : Nat) (w : Word) : State :=
  match s.gust? r with
  | some g =>
    let old := (g.mask.word k).trits
    let new := w.trits
    let lanes := (List.range 27).map fun i => (27 * k + i, old.getD i 0, new.getD i 0)
    let parked := lanes.filter fun x => x.2.2 == -1 && x.2.1 != -1
    let revived := lanes.filter fun x => x.2.2 == 1 && x.2.1 == -1
    let recs := revived.foldl (fun m x => eraseAt m x.1) g.laneRec
    let recs := parked.foldl (fun m x => insertAt m x.1 (s.mkRec g clsLane 23 0 (Int.ofNat x.1) 0)) recs
    let isParked := fun (l : Nat) => parked.any fun x => x.1 == l
    let fix := fun (e : StackEntry) =>
      { e with mask := Mask.tab fun l => if e.mask.get l = .plus ∧ isParked l then .minus else e.mask.get l }
    let g := g.withMask (g.mask.setWord k w)
    s.setGust { g with laneRec := recs, maskWrote := true,
                       stack := if parked.isEmpty then g.stack else discardEmpty (g.stack.map fix) }
  | none => s

/-- A write of a scalar register by an instruction (R102, R133). -/
def State.writeS (s : State) (r : GustRef) (n : Nat) (w : Word) : State :=
  if 78 ≤ n ∧ n ≤ 80 then s.writeMaskWord r (n - 78) w else s.onGust r fun g => g.withS n w

/-- Writes of consecutive scalars. -/
def State.writeSs (s : State) (r : GustRef) (n : Nat) : List Word → State
  | [] => s
  | w :: ws => (s.writeS r n w).writeSs r (n + 1) ws

/-- A write of a vector register. -/
def State.writeV (s : State) (r : GustRef) (n : Nat) (w : Lanes) : State := s.onGust r fun g => g.withV n w

/-- A write of a predicate. -/
def State.writeP (s : State) (r : GustRef) (n : Nat) (m : Mask) : State := s.onGust r fun g => g.withP n m

end Sys2Proof.Machine
end

