-- ==== Sys2Proof/Machine/Rmw.lean ====
section
/-! DEFINITION. The new word of an atomic or a scratchpad update (R203, R253, R254), and the sum of floating elements it needs
(R155). -/

namespace Sys2Proof

/-- The part of a word that CAS compares (R254). -/
def CasField.sel (f : CasField) (w : Word) : Int :=
  match f with
  | .word => w.val
  | .t0 => fld w.val 8 0
  | .t1 => fld w.val 17 9
  | .t2 => fld w.val 26 18

end Sys2Proof

namespace Sys2Proof.Machine

/-- An arithmetic form on decoded elements, narrowed once (R155): `srcs` are its sources in the order of R36. -/
def fArith (f : FFmt) (srcs : List FVal) (v : FVal) : Int :=
  match firstNan srcs with
  | some n => f.enc n
  | none => f.enc v

/-- FADD (R155). -/
def faddE (f : FFmt) : ElemFn := fun x y _ =>
  let a := f.decode x
  let b := f.decode y
  (fArith f [a, b] (a.add b), 0)

/-- The new word of an atomic (R203); none where nothing is written. -/
def rmwNew (op : Rmw) (ty : ETy) (old b d : Word) : Option Word :=
  let n := ty.width
  let elementwise := fun (f : ElemFn) => some (wordsOp ty f old b b).1
  match op with
  | .swap => some b
  | .add => elementwise fun x y _ => narrow (x + y) n .zero
  | .adds => elementwise fun x y _ => narrow (x + y) n .plus
  | .min => elementwise minE'
  | .max => elementwise maxE'
  | .and => some (Word.ofInt (ofTrits (List.zipWith min old.trits b.trits)))
  | .or => some (Word.ofInt (ofTrits (List.zipWith max old.trits b.trits)))
  | .cas => if old = d then some b else none
  | .fadd => elementwise (faddE ty.fmt)
where
  minE' : ElemFn := fun x y _ => (min x y, 0)
  maxE' : ElemFn := fun x y _ => (max x y, 0)

/-- The new word of an atomic of either form. -/
def AtomKind.new (k : AtomKind) (old b d : Word) : Option Word :=
  match k with
  | .rmw op ty => rmwNew op ty old b d
  | .cas f => if f.sel old = f.sel d then some b else none

end Sys2Proof.Machine
end

