-- ==== Sys2Proof/Machine/Latch.lean ====
section
/-! DEFINITION. Line latches at the home slices (R257 to R266, R270, R271): queue heads, the choice of the next waiter,
grants, offers, releases, and the events of a waiter entry. -/

namespace Sys2Proof.Machine

/-- Two spans of one line share a sector (R257). -/
def spansMeet (f1 n1 f2 n2 : Nat) : Bool := decide (f1 < f2 + n2 ∧ f2 < f1 + n1)

/-- The queue head of a line. -/
def State.head? (s : State) (line : Nat) : Option QHead := s.heads.find? fun h => h.line == line

/-- The state with a function applied to a line's head; a head with no holder, entry or suspect mark is freed (R258). -/
def State.onHead (s : State) (line : Nat) (f : QHead → QHead) : State :=
  { s with heads := (s.heads.map fun h => if h.line == line then f h else h).filter fun h =>
      !(h.holders.isEmpty && h.entries.isEmpty && h.suspect.isEmpty) }

/-- An entry is queued (R258). -/
def Waiter.queued (e : Waiter) : Bool := e.st == .queued

/-- An entry is offered (R262). -/
def Waiter.offered (e : Waiter) : Bool := match e.st with
  | .offered _ => true
  | _ => false

/-- The spans that count as held (R259): those of the holders and of the offered entries. -/
def QHead.held (h : QHead) : List (GustRef × Nat × Nat) :=
  (h.holders.map fun x => (x.who, x.first, x.cnt)) ++
  ((h.entries.filter Waiter.offered).map fun e => (e.who, e.first, e.cnt))

/-- A span conflicts with a held one. -/
def QHead.blocked (h : QHead) (first cnt : Nat) : Bool := h.held.any fun x => spansMeet x.2.1 x.2.2 first cnt

/-- `choose` of R259: the next queued entry by class and grant counters. -/
def QHead.choose (h : QHead) : Option Waiter :=
  let first := fun (c : Trit) => h.entries.find? fun e => e.queued && e.cls == c
  let u := first .plus
  let n := first .zero
  let b := first .minus
  if b.isSome ∧ h.runB ≥ 27 then b
  else if n.isSome ∧ h.runN ≥ 9 then n
  else u.or (n.or b)

/-- `count_grant` of R259, after the entry has left the queued entries. -/
def QHead.countGrant (h : QHead) (cls : Trit) : QHead :=
  let remains := fun (c : Trit) => h.entries.any fun e => e.queued && e.cls == c
  { h with runB := if cls = .minus then 0 else if remains .minus then h.runB + 1 else h.runB,
           runN := if cls = .plus then (if remains .zero then h.runN + 1 else h.runN) else 0 }

/-- The status of a grant (R261): abandoned over lost over granted. -/
def QHead.grantCode (h : QHead) (first cnt : Nat) (lost : Bool) : Int :=
  if h.suspect.any fun q => decide (first ≤ q ∧ q < first + cnt) then -1 else if lost then 3 else 1

/-- The deadline of an entry that is not offered has passed (R262, R264): a grant of the same tick comes before it. -/
def Waiter.expired (e : Waiter) (now : Nat) : Bool := !e.offered && e.deadline.any fun t => decide (t < now)

/-- The end of a latch request that grants nothing, told to its gust (R261). -/
def State.tellLatch (s : State) (who : GustRef) (line first cnt : Nat) (status ev : Int) : State :=
  s.send (.latchGrant { who, line, first, cnt, status, ev, words := [], clk := clockZero })

/-- A grant sent (R260, R281): the span's words as they stand at the home, and the clock of its sectors. -/
def State.sendGrant (s : State) (who : GustRef) (line first cnt : Nat) (status ev : Int) : State :=
  let (_, s) := s.homeFill line ev
  let words := (s.home? line).elim [] fun h => (h.words.drop (5 * first)).take (5 * cnt)
  let clk := ((List.range cnt).map fun k => s.secClock line (first + k)).foldl clockMax clockZero
  s.send (.latchGrant { who, line, first, cnt, status, ev, words, clk })

/-- The priority trit of the bind record of a gust's front on the die that holds the gust, bound or shuttered (R258, R362). -/
def State.latchClass (s : State) (who : GustRef) : Trit :=
  let die := match s.squall? who.sq with
    | some q => dieOf q.core
    | none => ((s.shuttered.find? fun x => x.q == who.sq).elim 0 (·.die))
  (((s.die die).bindRecs.find? fun b => b.front == who.front).map (·.prio)).getD
    ((s.front? who.front).elim .zero (·.prio))

/-- A grant (R260): the holder is recorded, the grant counted, suspect marks of the span cleared, dirty words of other
dies published (R284), and the grant sent. -/
def State.grantLatch (s : State) (who : GustRef) (ctx line first cnt : Nat) (cls : Trit) (lost : Bool) (ev : Int) : State :=
  match s.head? line with
  | none => s
  | some h =>
    let code := h.grantCode first cnt lost
    let s := s.onHead line fun h =>
      let h := { h with entries := h.entries.filter fun e => e.who != who,
                        holders := h.holders ++ [Holder.mk who ctx first cnt],
                        suspect := h.suspect.filter fun q => !decide (first ≤ q ∧ q < first + cnt) }
      h.countGrant cls
    let d := (s.squall? who.sq).elim 99 fun q => dieOf q.core
    let s := s.each ((List.range cnt).map (· + first)) fun s q => s.publish d line q
    s.sendGrant who line first cnt code ev

/-- A waiter entry changed: its new version is one that no entry has had (R265). -/
def State.onEntry (s : State) (line : Nat) (who : GustRef) (f : Waiter → Waiter) : State :=
  let (n, s) := s.fresh
  s.onHead line fun h => { h with entries := h.entries.map fun (x : Waiter) =>
    if x.who == who then { f x with ver := n } else x }

/-- A waiter entry leaves, and its gust is told the status, which grants nothing. -/
def State.endEntry (s : State) (line : Nat) (e : Waiter) (status : Int) : State :=
  (s.onHead line fun h => { h with entries := h.entries.filter fun x => x.who != e.who }).tellLatch e.who line e.first e.cnt status e.ev

/-- The entries of a line whose deadline has passed leave before a choice is made there (R262, R264). -/
def State.dropExpired (s : State) (line : Nat) : State :=
  s.each (((s.head? line).elim [] QHead.entries).filter fun e => e.expired s.ptime) fun s e => s.endEntry line e 0

/-- The choice at a head, repeated after each grant or offer (R259): a chosen entry that conflicts ends it. -/
def State.chooseLatch (s : State) (line : Nat) : Nat → State
  | 0 => s
  | k + 1 => match s.head? line with
    | none => s
    | some h => match h.choose with
      | none => s
      | some e =>
        if h.blocked e.first e.cnt then s
        else if (s.gust? e.who).isSome then
          (s.grantLatch e.who e.ctx line e.first e.cnt e.cls e.lost e.ev).chooseLatch line k
        else
          ((s.onEntry line e.who fun x => { x with st := .offered s.ptime, probeAt := x.probeAt - s.ptime }).onHead line fun h =>
            h.countGrant e.cls).chooseLatch line k

/-- Enough repetitions of the choice for every entry of a slice. -/
def chooseFuel : Nat := 244

/-- The choice at a head (R259), among the entries whose deadline has not passed. -/
def State.chooseNext (s : State) (line : Nat) : State := (s.dropExpired line).chooseLatch line chooseFuel

/-- Heads and entries of the home slice of a line (R258). -/
def State.sliceHeads (s : State) (line : Nat) : List QHead := s.heads.filter fun h => homeSlice h.line == homeSlice line

/-- No waiter entry is free at a line's home slice. -/
def State.noEntry (s : State) (line : Nat) : Bool :=
  decide (((s.sliceHeads line).map fun h => h.entries.length).sum ≥ Config.waiterEntries)

/-- A request reaches the home slice (R270). -/
def State.latchRequest (s : State) (m : LatchReq) : State :=
  let s := s.dropExpired m.line
  let full := (s.head? m.line).isNone && decide ((s.sliceHeads m.line).length ≥ Config.queueHeads)
  if full then s.tellLatch m.who m.line m.first m.cnt 2 m.ev
  else
    let h := (s.head? m.line).getD { line := m.line, holders := [], entries := [], runN := 0, runB := 0, suspect := [] }
    let (n, s) := s.fresh
    let cls := s.latchClass m.who
    let s' := if (s.head? m.line).isSome then s else { s with heads := s.heads ++ [h] }
    let entry : Waiter :=
      { who := m.who, ctx := m.ctx, first := m.first, cnt := m.cnt, cls, entered := s.ptime,
        deadline := if m.timed then some m.deadline else none, st := .queued, lost := false, vaddr := m.vaddr, ev := m.ev,
        probeAt := s.ptime + Config.probeInterval, ver := n }
    let add := fun (e : Waiter) => { s' with heads := s'.heads.map fun (x : QHead) =>
      if x.line == m.line then { x with entries := x.entries ++ [e] } else x }
    if !h.blocked m.first m.cnt && !h.entries.any Waiter.queued then
      if (s.gust? m.who).isSome then s'.grantLatch m.who m.ctx m.line m.first m.cnt cls false m.ev
      else if s.noEntry m.line then s.tellLatch m.who m.line m.first m.cnt 2 m.ev
      else (add { entry with st := .offered s.ptime, probeAt := Config.probeInterval }).onHead m.line fun h => h.countGrant cls
    else if m.timed ∧ m.deadline ≤ s.ptime then s.tellLatch m.who m.line m.first m.cnt 0 m.ev
    else if s.noEntry m.line then s.tellLatch m.who m.line m.first m.cnt 2 m.ev
    else (add entry).chooseNext m.line

/-- A release reaches the home slice (R260, R271): the span's clocks take the releasing die's, so that the next grant brings
it (R288). -/
def State.latchRelease (s : State) (m : LatchRel) : State :=
  let s := s.raiseClocks m.line ((List.range m.cnt).map (· + m.first)) m.stamp
  (s.onHead m.line fun h =>
    { h with holders := h.holders.filter fun x => !(x.who == m.who && x.first == m.first && x.cnt == m.cnt),
             suspect := if m.sus then (h.suspect ++ (List.range m.cnt).map (· + m.first)).eraseDups else h.suspect
    }).chooseNext m.line

/-- The lease of an offered entry lapses (R262): it goes to the tail of its sub-queue as requeued. -/
def State.latchLapse (s : State) (line : Nat) (who : GustRef) : State :=
  match (s.head? line).bind fun h => h.entries.find? fun e => e.who == who with
  | some e => (match e.st with
    | .offered t =>
      if t + Config.latchLease ≤ s.ptime then
        let (n, s) := s.fresh
        (s.onHead line fun h =>
          { h with entries := (h.entries.filter fun x => x.who != who) ++
                     [{ e with st := .requeued, lost := true, ver := n, probeAt := s.ptime + e.probeAt }] }).chooseNext line
      else s
    | _ => s)
  | none => s

/-- A waiter entry leaves with a status that grants nothing, and the choice is made again (R259). -/
def State.dropEntry (s : State) (line : Nat) (who : GustRef) (status : Int) : State :=
  match (s.head? line).bind fun h => h.entries.find? fun e => e.who == who with
  | some e => (s.endEntry line e status).chooseNext line
  | none => s

/-- A deadline passes (R262, R264): it has no effect on an offered entry, and a grant of the same tick comes first. -/
def State.latchDeadline (s : State) (line : Nat) (who : GustRef) : State :=
  match (s.head? line).bind fun h => h.entries.find? fun e => e.who == who with
  | some e => (match e.deadline with
    | some t => if t < s.ptime && !e.offered then s.dropEntry line who 0 else s
    | none => s)
  | none => s

/-- A gust with a waiter entry is bound again (R262). -/
def State.latchRebound (s : State) (who : GustRef) : State :=
  s.each (s.heads.map (·.line)) fun s line =>
    match (s.head? line).bind fun h => h.entries.find? fun e => e.who == who with
    | none => s
    | some e => match e.st with
      | .queued => s
      | .offered _ => (s.grantLatch who e.ctx line e.first e.cnt e.cls e.lost e.ev).chooseNext line
      | .requeued =>
        if (match e.deadline with
          | some t => decide (t < s.ptime)
          | none => false) then s.dropEntry line who 0
        else (s.onEntry line who fun x => { x with st := .queued }).chooseNext line

/-- A context is discarded (R263): its holders go and their sectors are suspect, its entries go, and the choice is made
again. Dirty words of the held spans are written back first. -/
def State.latchDiscard (s : State) (gone : GustRef → Bool) : State :=
  s.each (s.heads.map (·.line)) fun s line =>
    match s.head? line with
    | none => s
    | some h =>
      let out := h.holders.filter fun x => gone x.who
      let qs := (out.flatMap fun x => (List.range x.cnt).map (· + x.first)).eraseDups
      let s := s.each qs fun s q => s.publish 99 line q
      (s.onHead line fun h =>
        { h with holders := h.holders.filter fun x => !gone x.who,
                 entries := h.entries.filter fun e => !gone e.who,
                 suspect := (h.suspect ++ qs).eraseDups }).chooseNext line

/-- The latches a gust holds, as (line, first sector, count): those of the homes, but for those whose release is on its
way. -/
def State.latchesOf (s : State) (who : GustRef) : List (Nat × Nat × Nat) :=
  let leaving := s.flight.filterMap fun i => match i with
    | .latchRelease m => if m.who = who then some (m.line, m.first, m.cnt) else none
    | _ => none
  (s.heads.flatMap fun h => (h.holders.filter fun x => x.who == who).map fun x => (h.line, x.first, x.cnt)).filter
    fun x => !leaving.contains x

/-- The gust that a message between a latch requester and a home is about. -/
def latchWho : Instr → Option GustRef
  | .latchRequest m => some m.who
  | .latchRelease m => some m.who
  | .latchGrant m => some m.who
  | _ => none

end Sys2Proof.Machine
end

