-- ==== Sys2Proof/Machine/Window.lean ====
section
/-! DEFINITION. Window space (R184 to R187): the regions of a core window, who owns each word, reads and writes of a word,
and the gust record (R413) that the slot-state region and a shutter image share. -/

namespace Sys2Proof.Machine

/-- The word a window offset names (R185). -/
inductive WinReg where
  | acc (tile word : Nat)
  | scratch (word : Nat)
  | vec (reg lane : Nat)
  | code (word : Nat)
  | slot (o word : Nat)
  | gust (i word : Nat)
  | scal (i j : Nat)
  | pred (i j beat : Nat)
  | bar (r word : Nat)
  | tiles (k : Nat)
  | guards (i : Nat)
deriving DecidableEq, Repr

/-- The map of a core window (R185); none where no word is assigned. -/
def winReg (isD : Bool) (u : Nat) : Option WinReg :=
  let slotOk := fun (i : Nat) => isD || decide (i < 9)
  let keep := fun (i : Nat) (r : WinReg) => if slotOk i then some r else none
  if u < 1594323 then some (.acc (u / 729) (u % 729))
  else if u < 2125764 then some (.scratch (u - 1594323))
  else if u < 2302911 then
    (let x := u - 2125764
     if isD || decide (x ≤ 59048) then some (.vec (x / 81) (x % 81)) else none)
  else if u < 2361960 then some (.code (u - 2302911))
  else if u < 2381643 then some (.slot ((u - 2361960) / 243) ((u - 2361960) % 243))
  else if u < 2388204 then keep ((u - 2381643) / 243) (.gust ((u - 2381643) / 243) ((u - 2381643) % 243))
  else if u < 2390391 then keep ((u - 2388204) / 81) (.scal ((u - 2388204) / 81) ((u - 2388204) % 81))
  else if u < 2392578 then
    (let x := u - 2390391
     keep (x / 81) (.pred (x / 81) (x % 81 / 3) (x % 3)))
  else if u < 2396952 then some (.bar ((u - 2392578) / 2) ((u - 2392578) % 2))
  else if u < 2397033 then some (.tiles (u - 2396952))
  else if u < 2397060 then keep (u - 2397033) (.guards (u - 2397033))
  else none

/-- The window offset of a word (R185). -/
def WinReg.off : WinReg → Nat
  | .acc t w => 729 * t + w
  | .scratch w => 1594323 + w
  | .vec r l => 2125764 + 81 * r + l
  | .code w => 2302911 + w
  | .slot o w => 2361960 + 243 * o + w
  | .gust i w => 2381643 + 243 * i + w
  | .scal i j => 2388204 + 81 * i + j
  | .pred i j b => 2390391 + 81 * i + 3 * j + b
  | .bar r w => 2392578 + 2 * r + w
  | .tiles k => 2396952 + k
  | .guards i => 2397033 + i

/-- The core and offset of a window address (R184). -/
def winPlace (x : Int) : Option (Nat × Nat) :=
  if x < -1162261467 ∨ x > -1 then none
  else
    let k := ((-x - 1) / 4782969).toNat
    some (k, (x + (Int.ofNat k + 1) * 4782969).toNat)

/-- The squalls bound on a core. -/
def State.squallsOn (s : State) (core : Nat) : List Squall := s.squalls.filter fun q => q.core == core

/-- The gust that holds an issue slot of a core. -/
def State.gustIn (s : State) (core i : Nat) : Option Gust :=
  s.gusts.find? fun g => g.slot == i && (match s.squall? g.ref.sq with
    | some q => q.core == core
    | none => false)

/-- The bound squall that holds a tile, slot, scratchpad word or barrier record of a core. -/
def State.holderOf (s : State) (core : Nat) (base : Bases → Nat) (n : Alloc → Nat) (x : Nat) : Option Squall :=
  (s.squallsOn core).find? fun q => decide (base q.bases ≤ x ∧ x < base q.bases + n q.alloc)

/-- The gust whose run holds a vector register of a core (R125). -/
def State.vecHolder (s : State) (core r : Nat) : Option Gust :=
  s.gusts.find? fun g => decide (g.vbase ≤ r ∧ r < g.vbase + g.vreg.length) && (match s.squall? g.ref.sq with
    | some q => q.core == core
    | none => false)

/-- The index ranges a segment entry holds: a pending one holds its old one too (R336, R338). -/
def Seg.indexRuns (x : Seg) : List (Int × Nat) :=
  (Int.ofNat x.index, x.count) :: (if x.pending then [(Int.ofNat x.oldIndex, x.oldCount)] else [])

/-- The segment that holds an index of an instruction scratchpad (R336): one that is only reserved (R452) holds none. -/
def State.segAt (s : State) (core i : Nat) : Option Seg :=
  (s.core core).segs.findSome? fun e => match e with
    | some g => if !g.reserved && g.indexRuns.any fun x => decide (x.1 ≤ Int.ofNat i ∧ Int.ofNat i < x.1 + Int.ofNat x.2) then some g else none
    | none => none

/-- The context of a gust. -/
def State.ctxOf (s : State) (r : GustRef) : Nat := (s.squall? r.sq).elim 0 (·.ctx)

/-- The contexts that own a window word (R186). -/
def State.winOwners (s : State) (core : Nat) : WinReg → List Nat
  | .acc t _ => ((s.holderOf core Bases.tile Alloc.tiles t).map (·.ctx)).toList
  | .scratch w => ((s.holderOf core Bases.scratch Alloc.scratch w).map (·.ctx)).toList
  | .vec r _ => ((s.vecHolder core r).map fun g => s.ctxOf g.ref).toList
  | .code w => ((s.segAt core (w / 3)).bind fun g => (s.image? g.image).map (·.ctx)).toList
  | .slot o _ => ((s.holderOf core Bases.slot Alloc.slots o).map (·.ctx)).toList
  | .gust i _ => ((s.gustIn core i).map fun g => s.ctxOf g.ref).toList
  | .scal i _ => ((s.gustIn core i).map fun g => s.ctxOf g.ref).toList
  | .pred i _ _ => ((s.gustIn core i).map fun g => s.ctxOf g.ref).toList
  | .bar r _ => ((s.holderOf core Bases.bar Alloc.bars r).map (·.ctx)).toList
  | .tiles k => ((s.squallsOn core).filter fun q =>
      decide (q.bases.tile < 27 * k + 27 ∧ 27 * k < q.bases.tile + q.alloc.tiles ∧ 0 < q.alloc.tiles)).map (·.ctx)
  | .guards i => (match s.gustIn core i with
      | some g => if g.ref.gust = 0 then [s.ctxOf g.ref] else []
      | none => [])

/-- A wait of the model that R96 counts as a stall: for room in a queue, for a release part, for an atomic's lanes, for a
reply. -/
def Wait.isStall : Wait → Bool
  | .accept | .quiet | .atomic | .reply => true
  | _ => false

/-- The waited object and token of a gust's wait, as words 183 and 184 hold them (R413): what its form names.
DEDUCED (log entry 91). -/
def Gust.waitWords (g : Gust) : Wait → Int × Int
  | .barrier b t => (Int.ofNat b, t)
  | .claim _ f n _ => (Int.ofNat f, Int.ofNat n)
  | .fence f n => (Int.ofNat f, Int.ofNat n)
  | .gang i => (match i with
    | .mma _ _ t _ _ _ => (Int.ofNat t, 0)
    | _ => (0, 0))
  | .counter x _ => (x, 0)
  | .latch x n => (x, Int.ofNat n)
  | .batchRoom => (Int.ofNat (g.bnum + 1), 0)
  | .batch n => (Int.ofNat n, 0)
  | .guards k _ => (Int.ofNat k, 0)
  | .front n => (Int.ofNat n, 0)
  | .migr i => (match i with
    | .migr _ _ n => (Int.ofNat n, 0)
    | _ => (0, 0))
  | .page => (g.pageWait.elim 0 Int.ofNat, 0)
  | .replay => (Int.ofNat ((g.replay.bind fun (r : Replay) => r.lanes.head?).elim 0 (·.2)), 0)
  | .accept | .quiet | .atomic | .reply => (0, 0)

/-- The first word of a stack entry (R413, R438): kind in trit 26, hold in trit 25. -/
def StackEntry.head (e : StackEntry) : Word := Word.ofInt (e.kind.val * pow3 26 + (if e.hold then pow3 25 else 0))

/-- The six words of a stack entry (R413). -/
def StackEntry.words (e : StackEntry) : List Word :=
  [e.head, Word.ofInt e.pc, Word.ofInt e.rpc, e.mask.b0, e.mask.b1, e.mask.b2]

/-- The state code of word 0 of a gust record (R413). -/
def Gust.stateCode (g : Gust) : Int :=
  match g.status with
  | .running => 0
  | .yielded _ => 0
  | .waiting _ w => if w.isStall then 0 else 1
  | .stopped => 2
  | .retiring => 3
  | .retired => 4

/-- A run of a live set as a word of the record (R413). -/
def runWord (r : Nat × Nat) : Word := Word.ofInt (Int.ofNat r.1 * pow3 18 + Int.ofNat r.2 * pow3 9)

/-- The gust record (R413), stack entry 0 the bottom (R110). -/
def Gust.words (g : Gust) : List Word :=
  let flag := fun (b : Bool) => if b then (1 : Int) else 0
  let z := fun (n : Nat) => List.replicate n Word.zero
  let (op, obj, tok) := match g.status with
    | .waiting op w => if w.isStall then (0, 0, 0) else (op, (g.waitWords w).1, (g.waitWords w).2)
    | _ => (0, 0, 0)
  let st := g.stack.reverse.flatMap StackEntry.words
  [Word.ofInt (g.stateCode * pow3 24 + flag g.priv * pow3 23 + flag g.trapActive * pow3 22 + flag g.stepBit * pow3 21),
   Word.ofInt g.pc, g.tpc, g.tvec, g.tm.b0, g.tm.b1, g.tm.b2, Word.ofNat g.stack.length] ++
  (st ++ z 162).take 162 ++
  [(match g.nlast with
    | some n => Word.ofNat n
    | none => Word.ofInt (-1)), Word.ofNat g.kcount, g.gangMap, g.key, Word.ofInt g.ctr, Word.ofInt (dropT g.ctr 27),
   runWord g.liveTiles, runWord g.liveSlots, Word.ofNat g.bnum, Word.ofNat g.doneUpto, Word.ofNat g.lost,
   Word.ofNat g.vbase, Word.ofInt (op * pow3 21), Word.ofInt obj, Word.ofInt tok] ++
  (List.range 9).map (fun i => g.gfr.getD i Word.zero) ++
  [g.dbgCmd, Word.ofInt (Int.ofNat g.gangRows * pow3 23)] ++ z 47

/-- The stack entry that six words give. -/
def StackEntry.ofWords (ws : List Word) : StackEntry :=
  let w := fun (i : Nat) => ws.getD i Word.zero
  { kind := (w 0).tritAt 26, hold := tritI (w 0).val 25 == 1, pc := (w 1).val, rpc := (w 2).val,
    mask := ⟨w 3, w 4, w 5⟩ }

/-- The stack that words 7..169 of a record give. -/
def stackOf (ws : List Word) : List StackEntry :=
  let d := min 27 (ws.getD 7 Word.zero).val.toNat
  ((List.range d).map fun e => StackEntry.ofWords ((ws.drop (8 + 6 * e)).take 6)).reverse

/-- A gust with the fields that a record carries, but for its state, its wait, its vector base and its privilege (R413). -/
def Gust.ofWords (g : Gust) (ws : List Word) : Gust :=
  let w := fun (i : Nat) => ws.getD i Word.zero
  let run := fun (x : Word) => ((fld x.val 26 18).toNat, (fld x.val 17 9).toNat)
  { g with trapActive := tritI (w 0).val 22 == 1, stepBit := tritI (w 0).val 21 == 1, pc := (w 1).val, tpc := w 2,
           tvec := w 3, tm := ⟨w 4, w 5, w 6⟩, stack := stackOf ws,
           nlast := if (w 170).val < 0 then none else some (w 170).val.toNat, kcount := (w 171).val.toNat,
           gangMap := w 172, key := w 173, ctr := (w 174).val + pow3 27 * (w 175).val, liveTiles := run (w 176),
           liveSlots := run (w 177), bnum := (w 178).val.toNat, doneUpto := (w 179).val.toNat,
           lost := (w 180).val.toNat, gfr := (List.range 9).map (fun i => w (185 + i)),
           gangRows := (fld (w 195).val 26 23).toNat }

/-- A window write into the slot-state record of a gust (R185, R413, R437). The state, privilege (R394), vector base (R125)
and wait are not changed by it (log entry 25), nor the generator's key and counter, which only RSEED and RAND change (R171);
word 194 is the debug command word, whose unassigned codes are refused. -/
def Gust.putWord (g : Gust) (i : Nat) (w : Word) : Gust :=
  if 173 ≤ i ∧ i ≤ 175 then g
  else if i = 194 then { g with dbgCmd := if within (fld w.val 26 24) 1 4 then w else Word.ofInt (-1) } else g.ofWords (g.words.set i w)

/-- What a context may see of a tile-status word (R186). -/
def State.tileSeen (s : State) (core t : Nat) (ctx : Option Nat) : Option Squall :=
  (s.holderOf core Bases.tile Alloc.tiles t).filter fun q => match ctx with
    | some c => q.ctx == c
    | none => true

/-- A word of a core that no bound squall holds (R124, R185). -/
def State.freeWord (s : State) (core : Nat) (w : WinReg) : Word := readAt (fun _ => Word.zero) (s.core core).free w.off

/-- The state with such a word written. -/
def State.setFreeWord (s : State) (core : Nat) (w : WinReg) (v : Word) : State :=
  s.onCore core fun c => { c with free := writeAt (fun _ => Word.zero) c.free w.off v }

/-- What an access finds at a word that no squall holds: the hardware the word itself, a context's command zero (R186, R322). -/
def State.unheld (s : State) (core : Nat) (ctx : Option Nat) (w : WinReg) : Word :=
  if ctx.isNone then s.freeWord core w else Word.zero

/-- A write to a word that no squall holds: the hardware's is kept, a context's command's is dropped (R186, R322). -/
def State.putUnheld (s : State) (core : Nat) (ctx : Option Nat) (w : WinReg) (v : Word) : State :=
  if ctx.isNone then s.setFreeWord core w v else s

/-- The squall whose gust 0 holds an issue slot (R185). -/
def State.guardHolder (s : State) (core i : Nat) : Option Squall :=
  match s.gustIn core i with
  | some g => if g.ref.gust = 0 then s.squall? g.ref.sq else none
  | none => none

/-- A read of a window word (R185, R186) by a context, or by the hardware. -/
def State.winGet (s : State) (core : Nat) (ctx : Option Nat) (w : WinReg) : Word :=
  let none_ := s.unheld core ctx w
  match w with
  | .acc t w => (s.holderOf core Bases.tile Alloc.tiles t).elim none_ fun q =>
      readAt (fun _ => Word.zero) q.tileWords (729 * (t - q.bases.tile) + w)
  | .scratch w => (s.holderOf core Bases.scratch Alloc.scratch w).elim none_ fun q =>
      readAt (fun _ => Word.zero) q.scratch (w - q.bases.scratch)
  | .vec r l => (s.vecHolder core r).elim none_ fun g => (g.v (r - g.vbase)).get l
  | .code w => readAt (fun _ => Word.zero) (s.core core).isp w
  | .slot o w => (s.holderOf core Bases.slot Alloc.slots o).elim none_ fun q =>
      readAt (fun _ => Word.zero) q.slotWords (243 * (o - q.bases.slot) + w)
  | .gust i w => (s.gustIn core i).elim none_ fun g => g.words.getD w Word.zero
  | .scal i j => (s.gustIn core i).elim none_ fun g => g.s j
  | .pred i j b => (s.gustIn core i).elim none_ fun g => (g.p j).word b
  | .bar r w => (s.holderOf core Bases.bar Alloc.bars r).elim none_ fun q =>
      let x := q.bars.getD (r - q.bases.bar) (Word.zero, Word.zero)
      if w = 0 then x.1 else x.2
  | .tiles k => Word.ofInt (ofTrits ((List.range 27).map fun i =>
      match s.tileSeen core (27 * k + i) ctx with
      | some q => ((q.tiles.getD (27 * k + i - q.bases.tile) ⟨none, .zero, false⟩).status).val
      | none => tritI none_.val i))
  | .guards i => (s.guardHolder core i).elim none_ fun q => Word.ofInt (ofTrits ((List.range 27).map fun k =>
      if k < q.guards.length then (q.guards.getD k .zero).val else tritI (s.freeWord core (.guards i)).val k))

/-- The old word of an instruction-scratchpad index is kept for every gust of the core that has not executed IFENCE since
(R292). -/
def State.putCode (s : State) (core w : Nat) (v : Word) : State :=
  let old := readAt (fun _ => Word.zero) (s.core core).isp w
  let here := fun (g : Gust) => (s.squall? g.ref.sq).any fun q => q.core == core
  let s' := s.onCore core fun c => { c with isp := writeAt (fun _ => Word.zero) c.isp w v }
  { s' with gusts := s'.gusts.map fun (g : Gust) =>
      if here g && (lookupAt g.oldCode w).isNone then { g with oldCode := insertAt g.oldCode w old } else g }

/-- A write of a window word (R185, R186, R187). -/
def State.winPut (s : State) (core : Nat) (ctx : Option Nat) (v : Word) (w : WinReg) : State :=
  let lost := s.putUnheld core ctx w v
  match w with
  | .acc t w => match s.holderOf core Bases.tile Alloc.tiles t with
      | some q => s.setSquall { q with tileWords := writeAt (fun _ => Word.zero) q.tileWords (729 * (t - q.bases.tile) + w) v }
      | none => lost
  | .scratch w => match s.holderOf core Bases.scratch Alloc.scratch w with
      | some q => s.setSquall { q with scratch := writeAt (fun _ => Word.zero) q.scratch (w - q.bases.scratch) v }
      | none => lost
  | .vec r l => match s.vecHolder core r with
      | some g => s.setGust (g.withV (r - g.vbase)
          (Lanes.tab fun k => if k = l then v else (g.v (r - g.vbase)).get k))
      | none => lost
  | .code w => s.putCode core w v
  | .slot o w => match s.holderOf core Bases.slot Alloc.slots o with
      | some q => s.setSquall { q with slotWords := writeAt (fun _ => Word.zero) q.slotWords (243 * (o - q.bases.slot) + w) v }
      | none => lost
  | .gust i w => match s.gustIn core i with
      | some g => s.setGust (g.putWord w v)
      | none => lost
  | .scal i j => match s.gustIn core i with
      | some g => s.setGust (g.withS j v)
      | none => lost
  | .pred i j b => match s.gustIn core i with
      | some g => s.setGust (g.withP j ((g.p j).setWord b v))
      | none => lost
  | .bar r w => match s.holderOf core Bases.bar Alloc.bars r with
      | some q => s.setSquall { q with bars := q.bars.modify (r - q.bases.bar) fun x =>
          if w = 0 then (v, x.2) else (x.1, v) }
      | none => lost
  | .tiles k => lost.each (List.range 27) fun s i => match s.tileSeen core (27 * k + i) ctx with
      | some q => s.setSquall { q with tiles := q.tiles.modify (27 * k + i - q.bases.tile) fun (x : TileSt) =>
          { x with status := v.tritAt i } }
      | none => s
  | .guards i => match s.guardHolder core i with
      | some q => (s.setFreeWord core (.guards i) v).onSquall q.q fun q =>
          { q with guards := (List.range q.guards.length).map fun k => v.tritAt k }
      | none => lost

/-- A word lies in the stores that a squall and its gusts hold on their core (R124, R176, R188, R206). -/
def Squall.holds (q : Squall) (gs : List Gust) : WinReg → Bool
  | .acc t _ => decide (q.bases.tile ≤ t ∧ t < q.bases.tile + q.alloc.tiles)
  | .scratch w => decide (q.bases.scratch ≤ w ∧ w < q.bases.scratch + q.alloc.scratch)
  | .vec r _ => gs.any fun g => decide (g.vbase ≤ r ∧ r < g.vbase + q.alloc.v)
  | .code _ => false
  | .slot o _ => decide (q.bases.slot ≤ o ∧ o < q.bases.slot + q.alloc.slots)
  | .gust i _ | .scal i _ | .pred i _ _ => gs.any fun g => g.slot == i
  | .bar r _ => decide (q.bases.bar ≤ r ∧ r < q.bases.bar + q.alloc.bars)
  | .tiles _ | .guards _ => false

/-- The squall is among those through which its context owns a word (R186): a tile-status or guard-slot word too. -/
def Squall.reaches (q : Squall) (gs : List Gust) : WinReg → Bool
  | .tiles k => decide (q.bases.tile < 27 * k + 27 ∧ 27 * k < q.bases.tile + q.alloc.tiles ∧ 0 < q.alloc.tiles)
  | .guards i => gs.any fun g => g.slot == i && g.ref.gust == 0
  | w => q.holds gs w

/-- The words of a squall that takes its place on a core are no free words any more. -/
def State.occupy (s : State) (q : Squall) (gs : List Gust) : State :=
  s.onCore q.core fun c => { c with free := c.free.filter fun e =>
    !((winReg (coreIsD q.core) e.1).any fun w => q.holds gs w) }

/-- The words that a squall leaves on its core when it leaves it (R124): its stores, and its gusts' slots. -/
def Squall.leaves (q : Squall) (gs : List Gust) : List (WinReg × Word) :=
  (q.tileWords.map fun e => (WinReg.acc (q.bases.tile + e.1 / 729) (e.1 % 729), e.2)) ++
  (q.scratch.map fun e => (WinReg.scratch (q.bases.scratch + e.1), e.2)) ++
  (q.slotWords.map fun e => (WinReg.slot (q.bases.slot + e.1 / 243) (e.1 % 243), e.2)) ++
  ((List.zip (List.range q.bars.length) q.bars).flatMap fun e =>
    [(WinReg.bar (q.bases.bar + e.1) 0, e.2.1), (WinReg.bar (q.bases.bar + e.1) 1, e.2.2)]) ++
  gs.flatMap fun g =>
    ((List.zip (List.range g.vreg.length) g.vreg).flatMap fun e =>
      (List.range 81).map fun l => (WinReg.vec (g.vbase + e.1) l, e.2.get l)) ++
    ((List.range 81).map fun j => (WinReg.scal g.slot j, g.s j)) ++
    ((List.range 81).map fun k => (WinReg.pred g.slot (k / 3) (k % 3), (g.p (k / 3)).word (k % 3))) ++
    (List.zip (List.range 243) g.words).map fun e => (WinReg.gust g.slot e.1, e.2)

/-- A squall leaves its core: its words stay there as free words, tile status and guard slots trit by trit. -/
def State.vacate (s : State) (q : Squall) (gs : List Gust) : State :=
  let s := s.each (q.leaves gs) fun s e => s.setFreeWord q.core e.1 e.2
  let s := s.each (List.zip (List.range q.tiles.length) q.tiles) fun s e =>
    let t := q.bases.tile + e.1
    let w := s.freeWord q.core (.tiles (t / 27))
    s.setFreeWord q.core (.tiles (t / 27)) (Word.ofInt (setFld w.val (t % 27) (t % 27) e.2.status.val))
  match gs.find? fun g => g.ref.gust == 0 with
  | some g =>
    let w := s.freeWord q.core (.guards g.slot)
    s.setFreeWord q.core (.guards g.slot) (Word.ofInt (ofTrits ((List.range 27).map fun k =>
      if k < q.guards.length then (q.guards.getD k .zero).val else tritI w.val k)))
  | none => s

/-- The scalar file and the predicate file of an issue slot that no gust holds (R124). -/
def State.slotScalars (s : State) (core i : Nat) : List Word := (List.range 81).map fun j => s.freeWord core (.scal i j)
def State.slotPreds (s : State) (core i : Nat) : List Mask :=
  (List.range 27).map fun j => ⟨s.freeWord core (.pred i j 0), s.freeWord core (.pred i j 1), s.freeWord core (.pred i j 2)⟩

/-- The place of a window address for an access by a context (R184 to R186): the core and word, or the cause of the
fault. `priv` is the privilege of the gust, or of the issuer of a command. -/
def State.winFind (s : State) (ctx : Nat) (priv : Bool) (x : Int) : Except Int (Nat × WinReg) :=
  match winPlace x with
  | none => .error 20
  | some (core, u) => match winReg (coreIsD core) u with
    | none => .error 20
    | some r => if priv && (s.winOwners core r).contains ctx then .ok (core, r) else .error 21

end Sys2Proof.Machine
end

