-- ==== Sys2Proof/Machine/Fronts.lean ====
section
/-! DEFINITION. Front records, acceptance and retirement (R352 to R359), the fault log (R406 to R408), the discard of
squalls, the end of a front (R404) and a machine check's discard of a context (R415). -/

namespace Sys2Proof.Machine

/-- The ranges of a front record partition 0..n−1 (R353). -/
def rangesOk (rs : List (Nat × Nat)) (n : Nat) : Bool :=
  let rs := rs.filter fun r => r.2 != 0
  (rs.map (·.2)).sum == n && rs.all (fun r => decide (r.1 + r.2 ≤ n)) &&
    decide (rs.Pairwise fun a b => a.1 + a.2 ≤ b.1 ∨ b.1 + b.2 ≤ a.1)

/-- The kinds a record allows (R354), as (L, D). -/
def FrontRec.kinds (f : FrontRec) : Bool × Bool :=
  (f.prefer != .plus && f.imgL != 0 && decide (f.gusts ≤ 9 ∧ f.alloc.v * f.gusts ≤ 729),
   f.prefer != .minus && f.imgD != 0 && decide (f.alloc.v * f.gusts ≤ 2187))

/-- Number of squalls of a front (R353). -/
def FrontRec.total (f : FrontRec) : Nat := f.n0 * f.n1 * f.n2

/-- The fields of a front record of 45 words, without the checks that need the images (R352). -/
def parseRec (ws : List Word) : Option FrontRec :=
  let w := fun (i : Nat) => (ws.getD i Word.zero).val
  let pref := fld (w 0) 26 25
  let dims := fld (w 0) 23 22
  let gusts := fld (w 0) 21 18
  let v := fld (w 3) 26 18
  let sc := fld (w 3) 17 13
  let p := fld (w 3) 12 9
  let g := fld (w 3) 8 5
  let nt := fld (w 5) 26 18
  let no := fld (w 5) 17 13
  let nb := fld (w 5) 12 4
  let ranges := (List.range 9).map fun d => (w (9 + 2 * d), w (10 + 2 * d))
  let ok := within pref (-1) 1 && within dims 1 3 && within gusts 1 27 && fld (w 0) 17 0 == 0 &&
    within (w 1) 0 9841 && within (w 2) 0 9841 && within v 1 2187 && within sc 0 78 && within p 0 27 && within g 0 27 &&
    fld (w 3) 4 0 == 0 && within (w 4) 0 531441 && within nt 0 2187 && within no 0 81 && within nb 0 2187 &&
    fld (w 5) 3 0 == 0 && decide (w 6 ≥ 1 ∧ w 7 ≥ 1 ∧ w 8 ≥ 1) && (decide (dims ≥ 2) || w 7 == 1) &&
    (decide (dims ≥ 3) || w 8 == 1) && decide (w 6 * w 7 * w 8 ≤ pow3 18) &&
    ranges.all (fun r => decide (r.1 ≥ 0 ∧ r.2 ≥ 0) && (r.2 != 0 || r.1 == 0)) &&
    decide (w 27 ≥ 0) && decide (w 28 ≥ 1) && decide (w 29 ≥ 0) && within (w 30) (-1) 2047 &&
    (ws.drop 31).all fun x => x.val == 0
  let rs := ranges.map fun r => (r.1.toNat, r.2.toNat)
  if ok && rangesOk rs ((w 6).toNat * (w 7).toNat * (w 8).toNat) then
    some { prefer := Trit.sgn pref, prio := tritAt (w 0) 24, dims := dims.toNat, gusts := gusts.toNat,
           imgL := (w 1).toNat, imgD := (w 2).toNat,
           alloc := { v := v.toNat, s := sc.toNat, p := p.toNat, g := g.toNat, scratch := (w 4).toNat,
                      tiles := nt.toNat, slots := no.toNat, bars := nb.toNat },
           n0 := (w 6).toNat, n1 := (w 7).toNat, n2 := (w 8).toNat, ranges := rs, args := w 27, save := w 28,
           done := w 29, msix := w 30 }
  else none

/-- The images of a record are of the launching context and of the right layouts, and a kind remains (R354). -/
def State.recOk (s : State) (ctx : Nat) (f : FrontRec) : Bool :=
  let img := fun (n : Nat) (d : Bool) => n == 0 || (match s.image? n with
    | some i => i.ctx == ctx && i.isD == d
    | none => false)
  img f.imgL false && img f.imgD true && (f.kinds.1 || f.kinds.2)

/-- The answer of a launch (R359, R376): accepted with the front's number, refused with −1 or −2, or waiting on a page. -/
inductive LaunchAns where
  | accepted (n : Nat)
  | refused (code : Int)
  | wait
deriving DecidableEq, Repr

/-- The lesser of two trits. -/
def Trit.least (a b : Trit) : Trit := if a.val ≤ b.val then a else b

/-- Acceptance of a front (R355, R356): it gets its number, depth and priority. -/
def State.acceptFront (s : State) (ctx : Nat) (by_ : Launcher) (depth : Nat) (ceiling : Trit) (f : FrontRec) :
    Nat × State :=
  let n := s.nextFront
  (n, { s with nextFront := n + 1, fronts := s.fronts ++ [
        { num := n, ctx, by_, depth, prio := ceiling, ceiling, spec := f, left := f.total, sent := [], ending := none }] })

/-- A read of the scheduling hardware that fails with a machine check's cause (R414): the check of its context. -/
def State.checkRead (s : State) (ctx : Nat) (cause addr : Int) : State :=
  if cause < 0 then s.send (.machineCheck ctx cause ⟨addr, []⟩) else s

/-- A launch of the record at `x` (R354 to R356, R359, R376, R480). The record is read as device-scope words. -/
def State.launchAt (s : State) (ctx : Nat) (by_ : Launcher) (depth : Nat) (limit : Option Trit) (x : Int) :
    LaunchAns × State :=
  if s.fronts.length ≥ Config.maxFronts then (.refused (-1), s)
  else if x ≤ 0 ∨ x % 45 ≠ 0 then (.refused (-2), s)
  else match s.sysReads ctx x 45 with
  | (.wait, s) => (.wait, s)
  | (.fail c a, s) => (.refused (-2), s.checkRead ctx c a)
  | (.ok ws, s) => match parseRec ws with
    | none => (.refused (-2), s)
    | some f =>
      if !s.recOk ctx f then (.refused (-2), s)
      else
        let ceiling := match limit with
          | some t => Trit.least f.prio t
          | none => f.prio
        let (n, s) := s.acceptFront ctx by_ depth ceiling f
        (.accepted n, s)

/-- A signal of an MSI-X vector, −1 for none (R357, R408). -/
def State.signal (s : State) (ctx : Nat) (v : Int) : State := if v < 0 ∨ 2047 < v then s else s.emit (.msix ctx v.toNat)

/-- The answer of a fault-log write. -/
inductive LogAns where
  | done | wait
deriving DecidableEq, Repr

/-- A record written into the fault log of a context, or counted lost (R406 to R408): its words, then the produced count, then
the signal. -/
def State.logTry (s : State) (ctx : Nat) (rec : List Word) : LogAns × State :=
  let base := (s.context ctx).xflog.val
  match s.sysReads ctx base 5 with
  | (.wait, s) => (.wait, s)
  | (.fail _ _, s) => (.done, s)
  | (.ok ws, s) =>
    let w := fun (i : Nat) => (ws.getD i Word.zero).val
    let size := w 0
    if base % 9 ≠ 0 ∨ size ≤ 0 then (.done, s)
    else if size - (w 1 - w 2) ≥ Int.ofNat rec.length then
      let puts := ((List.zip (List.range rec.length) rec).map fun e =>
          (base + 9 + (w 1 + Int.ofNat e.1) % size, e.2)) ++ [(base + 1, Word.ofInt (w 1 + Int.ofNat rec.length))]
      match s.sysPuts ctx puts with
      | (.wait, s) => (.wait, s)
      | (.fail _ _, s) => (.done, s)
      | (.ok _, s) => (.done, s.signal ctx (w 4))
    else (match s.sysWrite ctx (base + 3) (Word.ofInt (w 3 + 1)) with
      | (.wait, s) => (.wait, s)
      | (_, s) => (.done, s))

/-- A write of the hardware that has to wait is kept under its identity (R480). -/
def State.keep (s : State) (n : Nat) (d : Deferred) : State :=
  { s with deferred := s.deferred ++ [(n, d)], serial := max s.serial (n + 1) }

/-- FAULT_LOG_WRITE under an identity: a record for a context's fault log; one that waits on a page fill is kept and tried again. -/
def State.logRecordAs (s : State) (n ctx : Nat) (rec : List Word) : State :=
  match s.under [0, n] fun s => s.logTry ctx rec with
  | (.done, s) => s
  | (.wait, s) => s.keep n (.log ctx rec)

/-- FAULT_LOG_WRITE of a new record. -/
def State.logRecord (s : State) (ctx : Nat) (rec : List Word) : State := s.logRecordAs s.serial ctx rec

/-- A status write whose failure is dropped and which waits for a page (R374, R480). -/
def State.putWord (s : State) (ctx : Nat) (x : Int) (v : Word) : State := s.sysPut ctx x v

/-- A write of a command into a shutter image (R322, R480): one that fails is the machine check "shutter write" (R410), and one
whose page is being filled waits. -/
def State.imageWriteAs (s : State) (n ctx : Nat) (x : Int) (v : Word) : State :=
  match s.under [0, n] fun s => s.sysWrite ctx x v with
  | (.ok _, s) => s
  | (.fail _ a, s) => s.send (.machineCheck ctx (-8) ⟨a, []⟩)
  | (.wait, s) => s.keep n (.image ctx x v)

/-- Such a write of a command that makes it now. -/
def State.imageWrite (s : State) (ctx : Nat) (x : Int) (v : Word) : State := s.imageWriteAs s.serial ctx x v

/-- The sync pattern (R441). -/
def syncPattern : Word := Word.ofInt (ofTrits ((List.range 27).map fun i => if i % 2 = 0 then 1 else -1))

/-- A packet is a sync packet (R441). -/
def isSync (packet : List Word) : Bool := packet.head? == some syncPattern

/-- The sync packet of the point at which a packet was made (R441): its path and time, and its header as a sync's. -/
def syncBefore (packet : List Word) : List Word :=
  let head := packet.getD 0 Word.zero
  (packet.set 0 syncPattern).set 7 (Word.ofInt (setFld head.val 25 22 0))

/-- A trace packet put into the context's ring (R440): a packet that finds no room is counted lost, and the next one is a sync;
so is the one after a packet whose descriptor or ring cannot be reached. -/
def State.packetTry (s : State) (ctx : Nat) (r : GustRef) (packet : List Word) : LogAns × State :=
  let base := 729 * fld (s.context ctx).xdbg.val 23 0
  let lost := fun (s : State) => (LogAns.done, s.onGust r fun g => { g with traceLost := true })
  match s.sysReads ctx base 4 with
  | (.wait, s) => (.wait, s)
  | (.fail _ _, s) => lost s
  | (.ok ws, s) =>
    let w := fun (i : Nat) => (ws.getD i Word.zero).val
    let size := w 0
    if size > 0 ∧ size - (w 1 - w 2) ≥ 9 then
      let puts := ((List.zip (List.range 9) packet).map fun e =>
          (base + 9 + (w 1 + Int.ofNat e.1) % size, e.2)) ++ [(base + 1, Word.ofInt (w 1 + 9))]
      match s.sysPuts ctx puts with
      | (.wait, s) => (.wait, s)
      | (.fail _ _, s) => lost s
      | (.ok _, s) => (.done, s.onGust r fun g => { g with traceLost := g.traceLost && !isSync packet })
    else (match s.sysWrite ctx (base + 3) (Word.ofInt (w 3 + 1)) with
      | (.wait, s) => (.wait, s)
      | (_, s) => lost s)

/-- TRACE WRITE under an identity: a packet that waits on a page fill, or stands behind one of its context that does, is kept and
tried again; the first that can be written after a drop has a sync before it (R442). -/
def State.putPacketAs (s : State) (n ctx : Nat) (r : GustRef) (packet : List Word) : State :=
  let behind := s.deferred.any fun d => match d.2 with
    | .packet c _ _ => c == ctx
    | _ => false
  if behind then s.keep n (.packet ctx r packet)
  else
    let due := ((s.gust? r).any fun g => g.traceLost) && !isSync packet && s.hand == [1]
    match (if due then s.under [0, n] fun s => s.packetTry ctx r (syncBefore packet) else (.done, s)) with
    | (.wait, s) => s.keep n (.packet ctx r packet)
    | (.done, s) => match s.under [0, n] fun s => s.packetTry ctx r packet with
      | (.done, s) => s
      | (.wait, s) => s.keep n (.packet ctx r packet)

/-- TRACE WRITE of a new packet. -/
def State.putPacket (s : State) (ctx : Nat) (r : GustRef) (packet : List Word) : State := s.putPacketAs s.serial ctx r packet

/-- The deferred writes are tried again (R480). -/
def State.flushDeferred (s : State) : State :=
  let ds := s.deferred
  let s := ({ s with deferred := [], hand := [1] }).each ds fun s d => match d.2 with
    | .word ctx x v => s.sysPutAs d.1 ctx x v
    | .image ctx x v => s.imageWriteAs d.1 ctx x v
    | .log ctx rec => s.logRecordAs d.1 ctx rec
    | .packet ctx r packet => s.putPacketAs d.1 ctx r packet
  { s with hand := [] }

/-- The live fronts a front has launched. -/
def State.childrenOf (s : State) (n : Nat) : List Nat :=
  (s.fronts.filter fun f => f.by_ == .parent n).map (·.num)

/-- A front and its live descendants (R404), at most `fuel` generations. -/
def State.family (s : State) : Nat → Nat → List Nat
  | 0, n => [n]
  | k + 1, n => (s.childrenOf n).flatMap (fun c => s.family k c) ++ [n]

/-- An arrival sent to a graph node (R373, R374): one that is ready or acting fails the graph with −2. -/
def Graph.arrive (g : Graph) (i : Int) : Graph :=
  if i < 0 then g
  else match g.nodes[i.toNat]?, g.st[i.toNat]? with
  | some nd, some st =>
    if nd.ty = -1 ∧ st.arrivals + 1 < nd.need then
      { g with st := g.st.set i.toNat { st with arrivals := st.arrivals + 1 } }
    else if st.ready ∨ st.acting then { g with failed := if g.failed = 0 then -2 else g.failed }
    else { g with st := g.st.set i.toNat { arrivals := 0, ready := true, acting := false } }
  | _, _ => g

/-- A node has finished its act: it is idle and its successors get their arrivals. -/
def Graph.finish (g : Graph) (i : Nat) (succ : List Int) : Graph :=
  let g := { g with st := g.st.modify i fun st => { st with ready := false, acting := false } }
  succ.foldl Graph.arrive g

/-- The state with a function applied to one graph. -/
def State.onGraph (s : State) (id : Nat) (f : Graph → Graph) : State :=
  { s with graphs := s.graphs.map fun g => if g.id == id then f g else g }

/-- A front is gone from the live fronts (R357): the signal, and what its launcher learns. -/
def State.dropFront (s : State) (f : Front) : State :=
  let s := ({ s with fronts := s.fronts.filter fun x => x.num != f.num } : State).signal f.ctx f.spec.msix
  match f.by_ with
  | .graph g i => s.onGraph g fun gr => gr.finish i ((gr.nodes.getD i ⟨0, 0, 0, []⟩).succ)
  | .regen _ entry => (match s.readHome 9 (physWord entry) with
    | (.ok w, s) => if pteType w = 2 ∧ pteFill w = 1 then s.failFill entry 29 else s
    | (_, s) => s)
  | _ => s

/-- A front that is ending retires once its completion word has been written, or the write has failed (R357, R480): the write
comes before the signal and before the end of every LWAIT, and after a release at device scope. -/
def State.finishFront (s : State) (n : Nat) : State :=
  match s.front? n with
  | none => s
  | some f => match f.ending with
    | none => s
    | some v =>
      match (if f.spec.done = 0 then (SysAns.ok (), s)
        else s.releaseDies.under [2, n] fun s => s.sysWrite f.ctx f.spec.done (Word.ofInt v)) with
      | (.wait, s) => s
      | (_, s) => s.dropFront f

/-- The retirement of a front (R357): its distributors and bind records go, and it ends with the completion value `value`, which
stands in place of the front number where a rule says so (R404, R415). -/
def State.retireFront (s : State) (n : Nat) (value : Int) : State :=
  let s := s.onFront n fun f => { f with ending := f.ending.or (some value) }
  ({ s with dies := s.dies.map fun (d : Die) =>
      { d with dists := d.dists.filter fun x => x.front != n, bindRecs := d.bindRecs.filter fun x => x.front != n } } :
    State).finishFront n

/-- The lanes of an atomic that reach words of a core which are given up: each applies there, and keeps what it found. -/
def State.takeItems (s : State) (core ctx : Nat) (mine : WinReg → Bool) (k : AtomKind) : List AtomItem → List AtomItem × State
  | [] => ([], s)
  | it :: rest =>
    let (it, s) := match (if it.at_.loc == .win core && !it.took then (winReg (coreIsD core) it.at_.word).filter mine else none) with
      | none => (it, s)
      | some w =>
        let old := s.winGet core (some ctx) w
        ({ it with seen := old, took := true }, match k.new old it.b it.dOld with
          | some v => s.winPut core (some ctx) v w
          | none => s)
    let (its, s) := s.takeItems core ctx mine k rest
    (it :: its, s)

/-- The same for every atomic of a gust that is on its way. -/
def State.takeAtoms (s : State) (core ctx : Nat) (mine : WinReg → Bool) : List PendAtom → List PendAtom × State
  | [] => ([], s)
  | a :: rest =>
    let (items, s) := s.takeItems core ctx mine a.kind a.items
    let (as_, s) := s.takeAtoms core ctx mine rest
    ({ a with items } :: as_, s)

/-- The accesses on their way to some words of a core apply there before the words change hands. DEDUCED (log entry 62): their
addresses were checked as they issued (R179, R186), faults are precise (R103, R396), and an access is checked as it applies. -/
def State.landPorts (s : State) (core : Nat) (mine : WinReg → Bool) : State :=
  let at_ := fun (x : WLoc) => if x.loc == .win core then (winReg (coreIsD core) x.word).filter mine else none
  let due := fun (i : Instr) => match i with
    | .homeApplyWrite m => (at_ ⟨m.loc, m.word⟩).isSome
    | _ => false
  let s := ({ s with flight := s.flight.filter fun i => !due i } : State).each (s.flight.filter due) fun s i => match i with
    | .homeApplyWrite m => (match at_ ⟨m.loc, m.word⟩ with
      | some w => (s.winPut core (some m.ctx) m.val w).acked m.src
      | none => s)
    | _ => s
  s.each (s.gusts.filter fun g => !(g.loads.isEmpty && g.atoms.isEmpty)) fun s g =>
    let ctx := s.ctxOf g.ref
    let s := s.each g.loads fun s l => s.each l.items fun s x => match at_ x.2.1 with
      | some w =>
        let v := s.winGet core (some ctx) w
        s.onGust g.ref fun h => if l.scalar then h.withS l.d v else h.putLane l.d (x.1, v)
      | none => s
    let (atoms, s) := s.takeAtoms core ctx mine g.atoms
    s.onGust g.ref fun h =>
      { h with atoms, loads := (h.loads.map fun (l : PendLoad) =>
          { l with items := l.items.filter fun x => (at_ x.2.1).isNone }).filter fun l => !l.items.isEmpty }

/-- The accesses on their way to the words that a squall holds on its core apply there before it gives them up. -/
def State.landInto (s : State) (q : Squall) : State :=
  let gs := s.gustsOf q.q
  s.landPorts q.core (q.reaches gs)

/-- A squall leaves its core (R21, R132): its allotments are free, and hold what it leaves in them (R124). -/
def State.leaveCore (s : State) (q : SqRef) : State :=
  match s.squall? q with
  | none => s
  | some b =>
    let s := s.landInto b
    match s.squall? q with
    | some b => s.vacate b (s.gustsOf q)
    | none => s

/-- A core's segment entry replaced: the accesses on their way to the words that the old one holds apply first. -/
def State.setSeg (s : State) (core e : Nat) (x : Option Seg) : State :=
  let s := match (s.core core).segs.getD e none with
    | some g => s.landPorts core fun w => match w with
      | .code k => g.indexRuns.any fun y => decide (y.1 ≤ Int.ofNat (k / 3) ∧ Int.ofNat (k / 3) < y.1 + Int.ofNat y.2)
      | _ => false
    | none => s
  s.onCore core fun c => { c with segs := c.segs.set e x }

/-- Two ranges meet. -/
def rangesMeet (a : Int) (n : Nat) (b : Int) (m : Nat) : Bool :=
  decide (0 < n ∧ 0 < m ∧ a < b + Int.ofNat m ∧ b < a + Int.ofNat n)

/-- Some range of one list meets one of another. -/
def runsMeet (xs ys : List (Int × Nat)) : Bool := xs.any fun a => ys.any fun b => rangesMeet a.1 a.2 b.1 b.2

/-- The PC ranges a segment entry holds: a pending one holds its old one too (R338). -/
def Seg.pcRuns (x : Seg) : List (Int × Nat) :=
  (x.first, x.count) :: (if x.pending then [(x.oldFirst, x.oldCount)] else [])

/-- An entry would meet another valid or pending entry of the core (R336, R338): one that is only reserved (R452) is neither (log
entry 36). -/
def State.segMeets (s : State) (core e : Nat) (x : Seg) : Bool :=
  let segs := (s.core core).segs
  (List.zip (List.range segs.length) segs).any fun y => y.1 != e && y.2.any fun (g : Seg) => !g.reserved &&
    (runsMeet x.indexRuns g.indexRuns || (g.image == x.image && runsMeet x.pcRuns g.pcRuns))

/-- A segment entry set, unless it would meet another (R336): then it stays free. -/
def State.putSeg (s : State) (core e : Nat) (x : Option Seg) : State :=
  s.setSeg core e (x.filter fun x => !s.segMeets core e x)

/-- The end of an overlay's entry (R327, R338): valid, free after a fault, or as it was when the command is discarded. While a
later overlay of the entry is in flight, that is what the later one replaces. -/
def State.overlayEnd (s : State) (c : Cmd) (ran : Bool) : State :=
  match c.instr with
  | .ovl _ _ _ _ e _ =>
    let n := fun (i : Nat) => c.scal.getD i 0
    let after : Option Seg :=
      if !ran then c.oldSeg
      else if c.fault.isSome then none
      else (s.squall? c.who.sq).map fun q =>
        { image := q.image, first := n 0, count := (n 1).toNat, index := (n 3).toNat, pending := false, reserved := false,
          oldFirst := 0, oldCount := 0, oldIndex := 0 }
    (match (s.core c.core).copyQ.find? fun x => decide (x.id > c.id) && (match x.instr with
      | .ovl _ _ _ _ k _ => k == e
      | _ => false) with
    | some x => s.onCore c.core fun k =>
        { k with copyQ := k.copyQ.map fun (y : Cmd) => if y.id == x.id then { y with oldSeg := after } else y }
    | none => if ran then s.setSeg c.core e after else s.putSeg c.core e after)
  | _ => s

/-- The overlays among some commands give their segment entries back (R327). -/
def State.endOverlays (s : State) (cs : List Cmd) : State :=
  s.each cs fun s c => s.overlayEnd ((s.core c.core).copyQ.find? (fun x => x.id == c.id) |>.getD c) false

/-- A squall is gone (R415 steps 2 and 3): its gusts, its allotments, its commands that have not started. -/
def State.dropSquall (s : State) (q : SqRef) : State :=
  let s := s.leaveCore q
  let keep := fun (c : Cmd) => !(c.who.sq == q && c.stage == .queued && c.record.isNone)
  let s := s.endOverlays ((s.cores.flatMap (·.copyQ)).filter fun c => !keep c)
  let s : State :=
    { s with squalls := s.squalls.filter (fun x => x.q != q), gusts := s.gusts.filter (fun g => g.ref.sq != q),
             shuttered := s.shuttered.filter (fun x => x.q != q),
             cores := s.cores.map fun c => { c with matrixQ := c.matrixQ.filter keep, fillQ := c.fillQ.filter keep,
                                                    copyQ := c.copyQ.filter keep, codecQ := c.codecQ.filter keep,
                                                    acceptQ := c.acceptQ.filter keep },
             paging := s.paging.filter keep, pagingWait := s.pagingWait.filter keep,
             cur := if (s.cur.map GustRef.sq) = some q then none else s.cur }
  s.refillPaging

/-- The writes on their way of what is discarded (R415 step 4): each applies in its time or is lost, a free choice (log entry 3). -/
def State.loseWrites (s : State) (of : WriteMsg → Bool) : State :=
  let mine := fun (i : Instr) => match i with
    | .homeApplyWrite m => of m
    | _ => false
  s.each (s.flight.filter mine) fun s i => match s.pick 2 with
    | (0, s) => s
    | (_, s) => { s with flight := s.flight.filter (· != i) }

/-- The discard of the squalls of some fronts (R404, R415): shutter images released, one that a save has taken among them (R410,
R416), squalls unbound, latches released. -/
def State.discardFronts (s : State) (ns : List Nat) : State :=
  let gone := fun (q : SqRef) => ns.contains q.front
  let s := s.each (s.shuttered.filter fun x => gone x.q) fun s x => s.putWord x.ctx x.area Word.zero
  let s := s.each (s.squalls.filter fun x => gone x.q) fun s x => s.each x.saveTo.toList fun s a => s.putWord x.ctx a Word.zero
  let qs := (s.squalls.filter fun x => gone x.q).map (·.q) ++ (s.shuttered.filter fun x => gone x.q).map (·.q)
  let s := s.each qs fun s q => s.dropSquall q
  let s := { s with flight := s.flight.filter fun i => !(latchWho i).any fun (r : GustRef) => ns.contains r.front }
  let s := s.loseWrites fun m => m.src.any fun r => ns.contains r.front
  s.latchDiscard fun r => ns.contains r.front

/-- The end of a front (R404): the fault's own records, the front-ended record, the discard of its
squalls and of its descendants', and their retirement with −4. -/
def State.endFront (s : State) (n : Nat) (own : List Rec) (ended : Rec) : State :=
  match s.front? n with
  | none => s
  | some f =>
    let s := s.each own fun s r => s.logRecord f.ctx r
    let s := s.logRecord f.ctx ended
    let ns := s.family 12 n
    let s := s.discardFronts ns
    s.each ns fun s k => s.retireFront k (-4)

/-- The end of a gust's front for a cause of R398, with the fault's own records before it for causes 110 and 111
(R400, R401, R404). -/
def State.endFrontOf (s : State) (g : Gust) (cause : Int) (own : List Rec) : State :=
  s.endFront g.ref.front own (s.mkRec g clsEnded cause 0 (-1) 0)

/-- A graph that is ending is gone once its status word has been written, after a release at device scope, or the write has failed; then
comes its signal (R374, R480). -/
def State.finishGraph (s : State) (id : Nat) : State :=
  match s.graphs.find? fun g => g.id == id with
  | none => s
  | some g => match g.ending with
    | none => s
    | some v =>
      match (if g.done = 0 then (SysAns.ok (), s)
        else s.releaseDies.under [3, id] fun s => s.sysWrite g.ctx g.done (Word.ofInt v)) with
      | (.wait, s) => s
      | (_, s) => ({ s with graphs := s.graphs.filter fun x => x.id != id } : State).signal g.ctx g.msix

/-- What waits on a page is tried again (R480): the deferred writes, then the completion and status words of fronts and graphs that
are ending (R357, R374). -/
def State.retryWrites (s : State) : State :=
  let s := s.flushDeferred
  let s := s.each ((s.fronts.filter fun f => f.ending.isSome).map (·.num)) fun s n => s.finishFront n
  s.each ((s.graphs.filter fun g => g.ending.isSome).map (·.id)) fun s k => s.finishGraph k

/-- A graph completes with a status (R374). -/
def State.endGraph (s : State) (g : Graph) (status : Int) : State :=
  (s.onGraph g.id fun x => { x with ending := x.ending.or (some status) }).finishGraph g.id

/-- The commands of a context that have not started are dropped; a dropped page-in fails (R415 step 3). -/
def State.dropCommands (s : State) (ctx : Nat) : State :=
  let gone := fun (c : Cmd) => c.ctx == ctx && c.stage == .queued
  let fills := (s.paging ++ s.pagingWait).filter fun c => gone c && c.record.isSome
  let s := s.endOverlays ((s.cores.flatMap (·.copyQ)).filter gone)
  let s := { s with paging := s.paging.filter (fun c => !gone c), pagingWait := s.pagingWait.filter (fun c => !gone c),
                    cores := s.cores.map fun (c : Core) =>
                      { c with matrixQ := c.matrixQ.filter (fun x => !gone x), fillQ := c.fillQ.filter (fun x => !gone x),
                               copyQ := c.copyQ.filter (fun x => !gone x), codecQ := c.codecQ.filter (fun x => !gone x),
                               acceptQ := c.acceptQ.filter fun x => !gone x } }
  s.refillPaging.each fills fun s c => match c.pageWait with
    | some e => s.failFill e 28
    | none => s

/-- MACHINE_CHECK (R415): the context's squalls, commands, latches, counters, fronts and graphs go, and its fault log gets
the record. -/
def State.machineCheck (s : State) (ctx : Nat) (rec : Rec) : State :=
  let ns := (s.fronts.filter fun f => f.ctx == ctx).map (·.num)
  let s := s.discardFronts ns
  let s := (s.dropCommands ctx).loseWrites fun m => m.src.isNone && m.ctx == ctx
  let s := { s with counters := s.counters.filter fun c => c.ctx != ctx }
  let s := s.each ns fun s k => s.retireFront k (-3)
  let s := s.each (s.graphs.filter fun g => g.ctx == ctx) fun s g => s.endGraph g (-5)
  s.logRecord ctx rec

/-- A machine check of a gust's access (R397, R414). -/
def State.checkGust (s : State) (g : Gust) (cause detail : Int) : State :=
  match s.squall? g.ref.sq with
  | some q => s.machineCheck q.ctx (s.mkRec g clsCheck cause 0 (-1) detail)
  | none => s

end Sys2Proof.Machine
end

