-- ==== Sys2Proof/Machine/Ops.lean ====
section
/-! DEFINITION. What every instruction shares: how its effect ends (R108, R109, R114, R401, R436), taking a trap and
returning from one (R400, R402), path ends (R108), trace packets (R440 to R442), and the guard of a gust instruction
(R67). -/

namespace Sys2Proof.Machine

/-- What an instruction's effect comes to. -/
inductive Eff where
  /-- Complete: the PC goes on to the next instruction. -/
  | done (s : State)
  /-- Complete: a taken branch, call or return. -/
  | goto (s : State) (pc : Int)
  /-- Complete: SPLIT, JOIN, BREAK, EXIT; `point` for a JOIN that popped a reconvergence entry (R109). -/
  | region (s : State) (pc : Int) (point : Bool)
  /-- Complete: ERET, back to `pc` (R402). -/
  | back (s : State) (pc : Int)
  /-- A gust fault before any effect: cause and detail. -/
  | fault (s : State) (cause detail : Int)
  /-- A machine check of the gust's access (R414). -/
  | check (s : State) (cause detail : Int)
  /-- The gust waits at the instruction (R96). -/
  | wait (s : State) (w : Wait)
  /-- The gust is stalled at the instruction, which applies again (R99, R222, R319). -/
  | stall (s : State)
  /-- A trap has been taken, or the front has ended, or the gust has stopped. -/
  | over (s : State)
deriving DecidableEq, Repr

/-- The gust's image has the D layout (R75). -/
def State.gustIsD (s : State) (r : GustRef) : Bool := (s.squall? r.sq).any (·.isD)

/-- base_pc() of R114: the PC of slot 0 in D layout. -/
def State.basePc (s : State) (g : Gust) : Int := if s.gustIsD g.ref then g.pc - g.pc % 3 else g.pc

/-- The fault of a target (R114), if any. -/
def State.targetFault (s : State) (g : Gust) (t : Int) : Option Int :=
  if t < 0 then some 3 else if s.gustIsD g.ref ∧ t % 3 ≠ 0 then some 4 else none

/-- The context's trace is on (R430). -/
def State.traceOn (s : State) (ctx : Nat) : Bool := tritI (s.context ctx).xdbg.val 24 == 1

/-- The header of a trace packet (R441). -/
def packetHead (kind : Int) (core : Nat) (g : Gust) : Word :=
  Word.ofInt (kind * pow3 22 + Int.ofNat core * pow3 13 + Int.ofNat g.ref.gust * pow3 9 + Int.ofNat g.depth * pow3 5)

/-- A trace packet of a gust as it stands now (R440, R441). -/
def State.packet (s : State) (ctx core : Nat) (r : GustRef) (kind word7 : Int) : State :=
  match s.gust? r with
  | none => s
  | some g =>
    let head := packetHead kind core g
    let s := s.onGust r fun g =>
      { g with traceSync := g.traceSync && decide (kind ≠ 0), traceCount := if kind = 0 then 0 else g.traceCount + 1 }
    s.putPacket ctx r
      [if kind = 0 then syncPattern else head, Word.ofInt g.pc, Word.ofInt (s.otherPc g), Word.ofNat g.kcount,
       g.mask.b0, g.mask.b1, g.mask.b2, if kind = 0 then head else Word.ofInt word7, s.ptimeLow]

/-- A trace event of a gust (R441, R442): a sync packet stands before it where one is due. -/
def State.trace (s : State) (r : GustRef) (kind word7 : Int) : State :=
  match s.squall? r.sq with
  | some q =>
    if s.traceOn q.ctx then
      let due := (s.gust? r).any fun g => g.traceSync || g.traceLost || decide (g.traceCount ≥ 728)
      let s := if due ∧ kind ≠ 0 then s.packet q.ctx q.core r 0 0 else s
      s.packet q.ctx q.core r kind word7
    else s
  | none => s

/-- The records of the lanes that a trap for parked lanes reports, lowest lane first (R109). -/
def Gust.parkedRecs (g : Gust) : List Rec := g.laneRec.map (·.2)

/-- TRAP ENTRY (R400), the one operation by which a gust traps. `own` are the records of the fault: of a gust fault, the
one that GFR takes (`gfr`); of parked lanes, theirs. `at_` is the PC that the records of the front's end name. -/
def State.trapEntry (s : State) (r : GustRef) (cause : Int) (own : List Rec) (gfr : Bool) (tpc at_ : Int) : State :=
  match s.gust? r with
  | none => s
  | some g =>
    let named := { g with pc := at_ }
    if g.trapActive then s.endFrontOf named 111 own
    else if g.tvec.val = -1 then s.endFrontOf named 110 own
    else if g.tvec.val < 0 ∨ (s.gustIsD r ∧ g.tvec.val % 3 ≠ 0) then s.endFrontOf named 113 []
    else
      let g' := { g with gfr := (if gfr then own.headD g.gfr else g.gfr), tpc := Word.ofInt tpc, tm := g.mask,
                         trapActive := true, pc := g.tvec.val, status := .running, issued := false, packet := none,
                         laneFaulted := [], pageWait := none, fillFaults := [], sent := false, maskWrote := false }
      (s.setGust (g'.withMask Mask.ones)).trace r 3 cause

/-- A gust fault (R396): the record of R397, and the trap with the PC of the faulting instruction. -/
def State.gustFault (s : State) (r : GustRef) (cause step detail : Int) : State :=
  match s.gust? r with
  | none => s
  | some g => s.trapEntry r cause [s.mkRec g clsGust cause step (-1) detail] true g.pc g.pc

/-- The trap for parked lanes (R109). -/
def State.trapParked (s : State) (r : GustRef) : State :=
  match s.gust? r with
  | none => s
  | some g => s.trapEntry r 0 g.parkedRecs false g.pc g.pc

/-- A gust stops, with trap-active 0 (R436): its reason is a code of trace packet +6. -/
def State.stopGust (s : State) (r : GustRef) (why : Int) : State :=
  (s.onGust r fun g => { g with status := .stopped, trapActive := false, issued := false, packet := none }).trace r 6 why

/-- A gust's debug command (R437): its code, 0 where none is waiting. -/
def Gust.cmdCode (g : Gust) : Int := fld g.dbgCmd.val 26 24

/-- A debug command is done, or refused (R437). -/
def State.dbgEnd (s : State) (r : GustRef) (ok : Bool) : State :=
  s.onGust r fun g => { g with dbgCmd := if ok then Word.zero else Word.ofInt (-1) }

/-- A gust at an instruction boundary obeys a stop command (R436, R437). -/
def State.stopOrdered (s : State) (r : GustRef) : State :=
  match s.gust? r with
  | none => s
  | some g => if g.cmdCode = 1 ∧ g.status = .running then (s.dbgEnd r true).stopGust r 3 else s

/-- PATH END (R108): `at_` is the PC of the instruction that caused it. At most `fuel` entries are looked at. -/
def State.pathEnd (s : State) (r : GustRef) (at_ : Int) : Nat → State
  | 0 => s
  | k + 1 => match s.gust? r with
    | none => s
    | some g => match g.stack with
      | [] =>
        if g.mask.has (-1) then s.trapParked r
        else (s.setGust { g with status := .retiring }).trace r 2 at_
      | e :: rest =>
        if e.kind = .minus then
          let s := (s.setGust ({ g with pc := e.pc, stack := rest, sent := false }.withMask e.mask)).trace r 2 at_
          if e.hold then s.stopGust r 4
          else if e.mask.has 1 then s
          else s.pathEnd r at_ k
        else (s.setGust ({ g with pc := e.rpc, sent := !e.mask.has 1 }.withMask e.mask)).trace r 2 at_

/-- A gust that a path end has sent, with no plus trit in its mask, to the packet whose slot 2 holds the JOIN goes on to that JOIN
through the slots before it (R106, R108). -/
def Gust.onTheWay (g : Gust) (inPacket : Bool) : Bool := g.sent && inPacket && !g.mask.has 1

/-- Enough for every entry of a divergence stack (R104). -/
def pathFuel : Nat := 29

/-- The context routes breakpoints to the debugger (R430). -/
def State.routed (s : State) (r : GustRef) : Bool := tritI (s.context (s.ctxOf r)).xdbg.val 25 == 1

/-- The effect of the step bit after an instruction (R436), by trap-active as it stood when the instruction issued. -/
def State.stepEffect (s : State) (r : GustRef) (old : Gust) : State :=
  match s.gust? r with
  | none => s
  | some g =>
    if !g.stepBit || old.trapActive || g.trapActive || g.status == .stopped then s
    else if s.routed r then s.stopGust r 2
    else s.trapEntry r 11 [s.mkRec { g with pc := old.pc } clsGust 11 0 (-1) 0] true g.pc old.pc

/-- A gust that begins to wait, or is retiring or retired, stops for a shutter request, and at a forced save at its next
boundary (R409). -/
def State.shutterStop (s : State) (r : GustRef) : State :=
  match (s.squall? r.sq).bind (·.shutter) with
  | some (_, forced) => s.onGust r fun g =>
      { g with halted := g.halted || (match g.status with
        | .waiting _ w => !w.isStall
        | .retiring | .retired => true
        | _ => forced) }
  | none => s

/-- What a shutter request stops at once (R409): a waiting gust, saved as waiting, a yielded one, its remaining cycles dropped, and one
that is retiring or retired. -/
def Gust.requestStop (g : Gust) : Gust :=
  match g.status with
  | .running => g
  | .waiting _ w => { g with halted := g.halted || !w.isStall }
  | .yielded _ => { g with halted := true, status := .running }
  | _ => { g with halted := true }

/-- What stands at a gust's instruction boundary: a shutter request (R409) and a stop command (R437). -/
def State.boundary (s : State) (r : GustRef) : State := (s.shutterStop r).stopOrdered r

/-- The end of an instruction that completes with the PC at `pc` (R108, R109, R401, R436). `old` is the gust as the
instruction found it, `kind` and `word7` the trace packet of the instruction, none for kind 0; one that has written a mask word
leaves the packet of a mask write too (R441). -/
def State.complete (s : State) (old : Gust) (pc : Int) (kind word7 : Int) (point : Bool) : State :=
  let r := old.ref
  match s.gust? r with
  | none => s
  | some g =>
    let inPacket := pc == old.pc + 1 && pc % 3 != 0 && s.gustIsD r
    let leaving := (s.squall? r.sq).any fun q => q.shutter.isSome
    let s := s.setGust { g with pc, status := .running, issued := false, laneFaulted := [], maskWrote := false,
                                sent := g.onTheWay inPacket, packet := if inPacket then g.packet else none,
                                pageWait := none, fillFaults := [] }
    let s := if kind ≠ 0 then s.trace r kind word7 else s
    let s := if g.maskWrote then s.trace r 2 old.pc else s
    let s :=
      if g.trapActive then
        if !g.laneFaulted.isEmpty then
          s.endFrontOf { g with pc := old.pc } 111 (g.laneFaulted.filterMap fun l => lookupAt g.laneRec l)
        else if g.mask.has 1 then s
        else s.endFrontOf { g with pc := old.pc } 112 []
      else
        let s := if (point || g.stack.isEmpty) && !g.laneRec.isEmpty then s.trapParked r
          else if g.mask.has 1 || g.onTheWay inPacket then s
          else s.pathEnd r old.pc pathFuel
        if g.stepBit then s.stepEffect r old else s
    if leaving || g.cmdCode == 1 then s.boundary r else s

/-- The state after an instruction's effect: `old` is the gust as the instruction found it. -/
def Eff.settle (old : Gust) (op : Int) : Eff → State
  | .done s => s.complete old (old.pc + 1) 0 0 false
  | .goto s pc => s.complete old pc 1 old.pc false
  | .region s pc point => s.complete old pc 2 old.pc point
  | .back s pc => s.complete old pc 4 pc false
  | .fault s cause detail => s.gustFault old.ref cause 0 detail
  | .check s cause detail => s.checkGust old cause detail
  | .wait s w => (s.onGust old.ref fun g => { g with status := .waiting op w, since := s.ptime }).shutterStop old.ref
  | .stall s => s
  | .over s => s

/-- The issuing gust goes on at once while it runs on into the next slot of its D-layout packet (R77), or, on an L-core, while the
cycle's second instruction is left to it (R96, R366). -/
def State.keepIssuing (s : State) (old : Gust) : State :=
  let runs := fun (p : Gust → Bool) => (s.gust? old.ref).any fun g => g.status == .running && !g.halted && p g
  if runs fun g => g.pc == old.pc + 1 && g.packet.isSome then { s with cur := some old.ref }
  else if decide (0 < s.issueLeft) && runs fun g => g.packet.isNone then
    { s with cur := some old.ref, issueLeft := s.issueLeft - 1 }
  else { s with cur := none }

/-- An instruction of the issuing gust: `body` is its effect on the gust and the state. -/
def State.perform (s : State) (body : Gust → Eff) : Result :=
  match s.cur with
  | none => .refused .noGust
  | some r => match s.gust? r with
    | none => .refused .noGust
    | some g => .next (((body g).settle g s.op).keepIssuing g)

/-- A gust instruction (R67): it acts once, or has no effect when its guard lets no participating lane pass. -/
def State.performGust (s : State) (c : Ctl) (body : Gust → Eff) : Result :=
  s.perform fun g => if g.acts c.guard then body g else .done s

/-- A lane or gust instruction by its operands. -/
def State.performAs (s : State) (c : Ctl) (lane : Bool) (body : Gust → Eff) : Result :=
  s.perform fun g => if lane || g.acts c.guard then body g else .done s

/-- RETURN FROM A TRAP (R402) beside trap entry: the lanes that TM ends or revives, the mask, trap-active and the PC. -/
def Gust.eret (g : Gust) : Gust :=
  let tm := g.tm
  let ended := (List.range 81).filter fun l => tm.get l == .minus
  let revived := (List.range 81).filter fun l => tm.get l == .plus && (lookupAt g.laneRec l).isSome
  let fix := fun (e : StackEntry) =>
    { e with mask := Mask.tab fun l =>
        if ended.contains l then .zero
        else if revived.contains l && e.mask.get l == .minus then .plus else e.mask.get l }
  let recs := g.laneRec.filter fun x => !(ended.contains x.1 || revived.contains x.1)
  let mask := Mask.tab fun l => if ended.contains l then .zero else tm.get l
  { g with stack := discardEmpty (g.stack.map fix), laneRec := recs, trapActive := false }.withMask mask

/-- Another agent's step completes the instruction at which a gust waits. -/
def State.completeFor (s : State) (r : GustRef) : State :=
  match s.gust? r with
  | some g =>
    let op := match g.status with
      | .waiting o _ => o
      | _ => s.op
    { ({ s with op } : State).complete g (g.pc + 1) 0 0 false with op := s.op }
  | none => s

/-- Every gust of a squall that waits on a barrier with a token other than its phase goes on (R191, R200); its return is an
acquire at squall scope (R192). -/
def State.wakeBarrier (s : State) (q : SqRef) (b : Nat) : State :=
  match s.squall? q with
  | none => s
  | some sq =>
    let w0 := (sq.bars.getD b (Word.zero, Word.zero)).1
    let freed := fun (g : Gust) => match g.status with
      | .waiting _ (.barrier k t) => k == b && tritI w0.val 25 != t
      | _ => false
    s.each ((s.gustsOf q).filter fun g => !g.halted && freed g) fun s g =>
      (s.dropStale (dieOf sq.core) false).completeFor g.ref

/-- A write of a window word by an access that may reach it, with the barrier unit's wake (R200). -/
def State.windowWrite (s : State) (core : Nat) (ctx : Option Nat) (v : Word) (w : WinReg) : State :=
  let s := s.winPut core ctx v w
  match w with
  | .bar r _ => (match s.holderOf core Bases.bar Alloc.bars r with
    | some q => s.wakeBarrier q.q (r - q.bases.bar)
    | none => s)
  | _ => s

end Sys2Proof.Machine
end

