-- ==== Sys2Proof/Machine/Operands.lean ====
section
/-! DEFINITION. The operands of mod layout T (R59, R71, R140): reading a, b and the old d in a lane or as scalars, and
writing the results and p26, in the participating lanes of a vector shape or once in a scalar shape. -/

namespace Sys2Proof.Machine

/-- The words of a field in a lane: `n` consecutive registers of the shape's class. -/
def Gust.field (g : Gust) (o : TOps) (first n l : Nat) : List Word :=
  (List.range n).map fun k => if o.sh.isVec then (g.v (first + k)).get l else g.s (first + k)

/-- The b words of a lane (R59, R71, R140): registers of the shape's b class, or the immediate word. -/
def Gust.bField (g : Gust) (o : TOps) (n l : Nat) : List Word :=
  match o.sh with
  | .vv => (List.range n).map fun k => (g.v (o.b + k)).get l
  | .ss | .vs => (List.range n).map fun k => g.s (o.b + k)
  | .vi | .si => [Word.ofInt o.imm]

/-- What a form does in one lane: from the words of a, of b and of the old d, the words of d and the status trit. -/
abbrev LaneFn := List Word → List Word → List Word → List Word × Trit

/-- Consecutive vector registers rewritten in some lanes. -/
def Gust.putLanes (g : Gust) (first : Nat) (act : List Bool) (f : Nat → List Word) : Nat → Gust
  | 0 => g
  | n + 1 => (g.putLanes first act f n).withV (first + n)
      ((g.v (first + n)).update act fun l => (f l).getD n Word.zero)

/-- The common effect of the forms of groups +1 to +4 (R140, R153): `nd`, `na`, `nb` registers in the fields d, a and b; with
`cy` the status goes to p26 (R135). Every source is read before any destination is written. -/
def State.runT (s : State) (g : Gust) (c : Ctl) (o : TOps) (cy : Bool) (nd na nb : Nat) (f : LaneFn) : Eff :=
  if o.sh.isVec then
    let act := g.active c.guard
    let res := fun (l : Nat) => f (g.field o o.a na l) (g.bField o nb l) (g.field o o.d nd l)
    let g' := g.putLanes o.d act (fun l => (res l).1) nd
    .done (s.setGust (if cy then g'.withP 26 ((g.p 26).update act fun l => (res l).2) else g'))
  else
    let res := f (g.field o o.a na 0) (g.bField o nb 0) (g.field o o.d nd 0)
    let s := s.writeSs g.ref o.d res.1
    .done (if cy then s.writeP g.ref 26 (Mask.tab fun _ => res.2) else s)

/-- An instruction of mod layout T: a lane instruction in a vector shape, a gust instruction in a scalar one (R67, R140). -/
def State.performT (s : State) (c : Ctl) (o : TOps) (cy : Bool) (nd na nb : Nat) (f : LaneFn) : Result :=
  s.performAs c o.sh.isVec fun g => s.runT g c o cy nd na nb f

/-- One register per field, element by element (R140). -/
def elemwise (ty : ETy) (f : ElemFn) : LaneFn := fun a b d =>
  let r := wordsOp ty f (a.getD 0 Word.zero) (b.getD 0 Word.zero) (d.getD 0 Word.zero)
  ([r.1], r.2)

/-- A form of one register per field that works element by element; variant .cy writes its status into p26 (R135, R140). -/
def State.performElem (s : State) (c : Ctl) (o : TOps) (cy : Bool) (f : ElemFn) : Result :=
  s.performT c o cy 1 1 1 (elemwise o.ty f)

end Sys2Proof.Machine
end

