-- ==== Sys2Proof/Machine/Moves.lean ====
section
/-! DEFINITION. Moves and predicate forms of group +3 (R147 to R149). -/

namespace Sys2Proof.Machine

/-- MOV (R147): a in shapes 0 and +1, the scalar b in shape −1. -/
def execMov (c : Ctl) (o : TOps) (s : State) : Result :=
  s.performT c o false 1 1 1 fun a b _ => (match o.sh with
    | .vs => b.take 1
    | _ => a.take 1, .zero)

/-- MOVI (R147). -/
def execMovi (c : Ctl) (o : TOps) (s : State) : Result := s.performT c o false 1 0 1 fun _ b _ => (b.take 1, .zero)

/-- The relation trit of PSET (R148). -/
def relTrit (v : Trit) (x y : Int) : Int :=
  match v with
  | .zero => if x = y then 1 else -1
  | .plus => if x < y then 1 else -1
  | .minus => sgnI (x - y)

/-- The Kleene minimum of trits; of none, plus. -/
def kleeneMin (ts : List Int) : Trit := Trit.sgn (ts.foldl min 1)

/-- A comparison written into the participating lanes of a predicate (R134, R148, R157). -/
def State.performCmp (s : State) (c : Ctl) (o : TOps) (rel : Int → Int → Int) : Result :=
  s.performAs c true fun g =>
    let e := fun (w : Word) => elems w.val o.ty.width o.ty.count
    let trit := fun (l : Nat) => kleeneMin (List.zipWith rel (e ((g.v o.a).get l))
      (e ((g.bField o 1 l).getD 0 Word.zero)))
    .done (s.setGust (g.withP o.d ((g.p o.d).update (g.active c.guard) trit)))

/-- PSET (R148). -/
def execPset (c : Ctl) (o : TOps) (s : State) : Result := s.performCmp c o (relTrit o.var)

/-- A Kleene operation on predicates in the participating lanes (R134, R149). -/
def State.performPred (s : State) (c : Ctl) (d : Nat) (f : Gust → Nat → Trit) : Result :=
  s.performAs c true fun g => .done (s.setGust (g.withP d ((g.p d).update (g.active c.guard) (f g))))

/-- PAND (R149). -/
def execPand (c : Ctl) (d a b : Nat) (s : State) : Result :=
  s.performPred c d fun g l => Trit.sgn (min ((g.p a).get l).val ((g.p b).get l).val)
/-- POR (R149). -/
def execPor (c : Ctl) (d a b : Nat) (s : State) : Result :=
  s.performPred c d fun g l => Trit.sgn (max ((g.p a).get l).val ((g.p b).get l).val)
/-- PNOT (R149). -/
def execPnot (c : Ctl) (d a : Nat) (s : State) : Result := s.performPred c d fun g l => ((g.p a).get l).neg

end Sys2Proof.Machine
end

