-- ==== Sys2Proof/Machine/FloatForms.lean ====
section
/-! DEFINITION. The floating forms of group +4 (R153 to R160). -/

namespace Sys2Proof.Machine

/-- FSUB (R155). -/
def fsubE (f : FFmt) : ElemFn := fun x y _ =>
  let a := f.decode x
  let b := f.decode y
  (fArith f [a, b] (a.add b.neg), 0)

/-- FMUL (R155). -/
def fmulE (f : FFmt) : ElemFn := fun x y _ =>
  let a := f.decode x
  let b := f.decode y
  (fArith f [a, b] (a.mul b), 0)

/-- FMA (R155): an invalid product gives the default NaN whatever z is. -/
def fmaE (f : FFmt) : ElemFn := fun x y z =>
  let a := f.decode x
  let b := f.decode y
  let c := f.decode z
  let p := a.mul b
  (fArith f [a, b, c] (if p.isNan then FVal.dflt else c.add p), 0)

/-- FMIN (R156). -/
def fminE (f : FFmt) : ElemFn := fun x y _ =>
  let a := f.decode x
  let b := f.decode y
  (fArith f [a, b] (if b.cmp a < 0 then b else a), 0)

/-- FMAX (R156). -/
def fmaxE (f : FFmt) : ElemFn := fun x y _ =>
  let a := f.decode x
  let b := f.decode y
  (fArith f [a, b] (if b.cmp a > 0 then b else a), 0)

/-- The class code of an encoding (R35, R158). -/
def classCode (f : FFmt) (w : Int) : Int :=
  let e := fld w (f.p + f.ew - 1) f.p
  let s := wrapT w f.p
  let sg := sgnI s
  match f.decode w with
  | .nan _ => 6
  | .inf n => if n then -4 else 4
  | .fin _ _ =>
    if s = 0 then (if e = 0 then 0 else 5)
    else if tritI s (f.p - 1) ≠ 0 then sg
    else if e = -(Int.ofNat f.emax) then 2 * sg else 3 * sg

/-- FCLS (R158). -/
def fclsE (f : FFmt) : ElemFn := fun x _ _ => (classCode f x, 0)

/-- FRND (R159). -/
def frndE (f : FFmt) (v : Trit) : ElemFn := fun x _ _ =>
  (match f.decode x with
    | .fin m e =>
      if e ≥ 0 then f.roundTri m e
      else
        let q := pow3 (-e).toNat
        f.roundTri (match v with
          | .zero => nearestInt m e
          | .plus => -((-m) / q)
          | .minus => m / q) 0
    | y => f.enc y, 0)

/-- The relation trit of FCMP (R157). -/
def frelTrit (f : FFmt) (v : Trit) (x y : Int) : Int :=
  let a := f.decode x
  let b := f.decode y
  if a.isNan || b.isNan then 0
  else
    let c := a.cmp b
    match v with
    | .zero => if c = 0 then 1 else -1
    | .plus => if c < 0 then 1 else -1
    | .minus => c

/-- The source type of CVT (R160). -/
def cvtSource (dst : ETy) (v : Trit) : ETy :=
  match dst, v with
  | .f27, .zero => .f9
  | .f27, .plus => .i27
  | .f27, .minus => .i9
  | .f9, .zero => .f27
  | .f9, .plus => .i9
  | .f9, .minus => .i27
  | .i27, .minus => .f9
  | .i27, _ => .f27
  | .i9, .minus => .f27
  | _, _ => .f9

/-- One element converted (R37, R160). -/
def cvtElem (src dst : ETy) (x : Int) : Int :=
  let v := match src with
    | .f9 => fmt9.decode x
    | .f27 => fmt27.decode x
    | _ => .fin x 0
  match dst with
  | .f9 | .f27 => dst.fmt.enc (v.convert src.fmt dst.fmt)
  | _ => match v with
    | .fin m e => satT (nearestInt m e) dst.width
    | .inf n => if n then -(maxT dst.width) else maxT dst.width
    | .nan _ => 0

/-- Elements packed into words, `k` of width `w` to a word. -/
def packGroups (w k : Nat) (es : List Int) : Nat → List Word
  | 0 => []
  | n + 1 => Word.ofInt (packElems w (es.take k)) :: packGroups w k (es.drop k) n

/-- CVT (R160): element by element, from the source's words to the destination's. -/
def cvtW (dst src : ETy) (nd : Nat) : LaneFn := fun a _ _ =>
  let es := a.flatMap fun w => elems w.val src.width src.count
  (packGroups dst.width dst.count (es.map (cvtElem src dst)) nd, .zero)

/-- FADD. -/
def execFadd (c : Ctl) (o : TOps) (s : State) : Result := s.performElem c o false (faddE o.ty.fmt)
/-- FSUB. -/
def execFsub (c : Ctl) (o : TOps) (s : State) : Result := s.performElem c o false (fsubE o.ty.fmt)
/-- FMUL. -/
def execFmul (c : Ctl) (o : TOps) (s : State) : Result := s.performElem c o false (fmulE o.ty.fmt)
/-- FMA. -/
def execFma (c : Ctl) (o : TOps) (s : State) : Result := s.performElem c o false (fmaE o.ty.fmt)
/-- FMIN. -/
def execFmin (c : Ctl) (o : TOps) (s : State) : Result := s.performElem c o false (fminE o.ty.fmt)
/-- FMAX. -/
def execFmax (c : Ctl) (o : TOps) (s : State) : Result := s.performElem c o false (fmaxE o.ty.fmt)
/-- FCMP (R157). -/
def execFcmp (c : Ctl) (o : TOps) (s : State) : Result := s.performCmp c o (frelTrit o.ty.fmt o.var)
/-- FCLS. -/
def execFcls (c : Ctl) (o : TOps) (s : State) : Result := s.performElem c o false (fclsE o.ty.fmt)
/-- CVT. -/
def execCvt (c : Ctl) (o : TOps) (s : State) : Result :=
  let n := tGroups 117 o.ty o.var
  s.performT c o false n.1 n.2.1 1 (cvtW o.ty (cvtSource o.ty o.var) n.1)
/-- FRND. -/
def execFrnd (c : Ctl) (o : TOps) (s : State) : Result := s.performElem c o false (frndE o.ty.fmt o.var)

end Sys2Proof.Machine
end

