-- ==== Sys2Proof/Machine/Cross.lean ====
section
/-! DEFINITION. The cross-lane forms of group +6 (R154, R163 to R174). -/

namespace Sys2Proof.Machine

/-- A vector destination written in the participating lanes. -/
def Gust.lanesTo (g : Gust) (c : Ctl) (d : Nat) (f : Nat → Word) : Gust := g.withV d ((g.v d).update (g.active c.guard) f)

/-- Digit `i` of a lane number (R163). -/
def laneDigit (l i : Nat) : Nat := l / 3 ^ i % 3

/-- The source lane of SHFL (R163). -/
def shflLane (v : Trit) (l : Nat) (k : Int) : Nat :=
  match v with
  | .zero => (k % 81).toNat
  | .plus => ((Int.ofNat l + k) % 81).toNat
  | .minus =>
    let m := (k % 81).toNat
    ((List.range 4).map fun i => (laneDigit l i + laneDigit m i) % 3 * 3 ^ i).sum

/-- SHFL (R163). -/
def execShfl (c : Ctl) (o : TOps) (s : State) : Result :=
  s.performAs c true fun g =>
    let a := g.v o.a
    .done (s.setGust (g.lanesTo c o.d fun l => a.get (shflLane o.var l ((g.bField o 1 l).getD 0 Word.zero).val)))

/-- BCAST (R164). -/
def execBcast (c : Ctl) (o : TOps) (s : State) : Result :=
  s.performAs c true fun g =>
    let k := (((g.bField o 1 0).getD 0 Word.zero).val % 81).toNat
    .done (s.setGust (g.lanesTo c o.d fun _ => (g.v o.a).get k))

/-- The exact sum of floating values with the special cases of R43, narrowed (R38, R45). -/
def fsum (f : FFmt) (xs : List FVal) : Int :=
  match firstNan xs with
  | some n => f.enc n
  | none =>
    let pos := xs.contains (.inf false)
    let neg := xs.contains (.inf true)
    if pos && neg then f.enc FVal.dflt
    else if pos then f.encInf false
    else if neg then f.encInf true
    else
      let r := sumFin (xs.filterMap fun x => match x with
        | .fin m e => some (m, e)
        | _ => none)
      f.roundTri r.1 r.2

/-- The beat order of R45: the narrowed sums of the beats up to `last` combined in order; `xs` are (lane, element) pairs. -/
def beatSum (f : FFmt) (last : Nat) (xs : List (Nat × Int)) : Int :=
  let beat := fun (b : Nat) => fsum f ((xs.filter fun x => x.1 / 27 == b).map fun x => f.decode x.2)
  (List.range last).foldl (fun acc b => fsum f [f.decode acc, f.decode (beat (b + 1))]) (beat 0)

/-- The greater or lesser of floating elements, the first NaN standing before them (R165). -/
def fextreme (f : FFmt) (max : Bool) (xs : List Int) : Int :=
  let vs := xs.map f.decode
  match firstNan vs with
  | some n => f.enc n
  | none => f.enc (vs.foldl (fun a b => if (if max then b.cmp a > 0 else b.cmp a < 0) then b else a) (.inf max))

/-- The combination of elements of the participating lanes, in ascending lane order (R165, R166). `last` is the beat of the
last lane. -/
def combine (ty : ETy) (v : Trit) (last : Nat) (xs : List (Nat × Int)) : Int :=
  let es := xs.map (·.2)
  match ty with
  | .f27 | .f9 => (match v with
    | .zero => beatSum ty.fmt last xs
    | .plus => fextreme ty.fmt true es
    | .minus => fextreme ty.fmt false es)
  | _ => (match v with
    | .zero => satT es.sum ty.width
    | .plus => es.foldl max (-(maxT ty.width))
    | .minus => es.foldl min (maxT ty.width))

/-- The words that combine the lanes `ls` of a vector (R165). -/
def combineWords (ty : ETy) (v : Trit) (a : Lanes) (ls : List Nat) : Word :=
  let last := (ls.getLast?.getD 0) / 27
  let rows := ls.map fun l => (l, elems (a.get l).val ty.width ty.count)
  Word.ofInt (packElems ty.width ((List.range ty.count).map fun j =>
    combine ty v last (rows.map fun r => (r.1, r.2.getD j 0))))

/-- RED and SCAN (R165, R166): with `scan` each lane holds its prefix, else the total. -/
def State.reduce (s : State) (c : Ctl) (o : TOps) (scan : Bool) : Result :=
  s.performAs c true fun g =>
    let ls := g.activeLanes c.guard
    let a := g.v o.a
    let total := combineWords o.ty o.var a ls
    let s := s.setGust (g.lanesTo c o.d fun l =>
      if scan then combineWords o.ty o.var a (ls.filter fun k => decide (k ≤ l)) else total)
    .done (s.writeSs g.ref o.b [total, Word.ofInt (if ls.isEmpty then 0 else 1)])

/-- RED. -/
def execRed (c : Ctl) (o : TOps) (s : State) : Result := s.reduce c o false
/-- SCAN. -/
def execScan (c : Ctl) (o : TOps) (s : State) : Result := s.reduce c o true

/-- A key stands strictly before another (R167): NaN keys after every other. -/
def keyBefore (ty : ETy) (asc : Bool) (x y : Int) : Bool :=
  match ty with
  | .f27 =>
    let a := fmt27.decode x
    let b := fmt27.decode y
    if a.isNan then false
    else if b.isNan then true
    else if asc then decide (a.cmp b < 0) else decide (a.cmp b > 0)
  | _ => if asc then decide (x < y) else decide (y < x)

/-- A stable insertion of a (key, lane) pair. -/
def sortInsert (before : Int → Int → Bool) (x : Int × Nat) : List (Int × Nat) → List (Int × Nat)
  | [] => [x]
  | y :: ys => if before x.1 y.1 then x :: y :: ys else y :: sortInsert before x ys

/-- The pairs of a beat sorted (R167). -/
def sortPairs (before : Int → Int → Bool) (xs : List (Int × Nat)) : List (Int × Nat) :=
  xs.foldl (fun acc x => sortInsert before x acc) []

/-- SORT (R167). -/
def execSort (c : Ctl) (o : TOps) (s : State) : Result :=
  s.performAs c true fun g =>
    let a := g.v o.a
    let ls := g.activeLanes c.guard
    let placed := (List.range 3).flatMap fun b =>
      let mine := ls.filter fun l => l / 27 == b
      List.zip mine (sortPairs (keyBefore o.ty (o.var == .plus)) (mine.map fun l => ((a.get l).val, l)))
    let at_ := fun (l : Nat) => (placed.find? fun p => p.1 == l).elim (0, 0) (·.2)
    let g1 := g.lanesTo c o.d fun l => Word.ofInt (at_ l).1
    .done (s.setGust (g1.lanesTo c (o.d + 1) fun l => Word.ofNat (at_ l).2))

/-- One value through one stage of VTRIAD, with the status of its lane (R168). -/
def triadStage (n k : Nat) (xs : List (Int × Int)) : List (Int × Int) :=
  (List.range 27).map fun p =>
    let d := laneDigit p k
    let x := xs.getD p (0, 0)
    let sum := ((List.range 3).map fun i => (xs.getD (p + i * 3 ^ k - d * 3 ^ k) (0, 0)).1).sum
    let y := dropT (2 * sum) 1 - x.1
    let r := satT y n
    (r, if x.2 = 0 then sgnI (y - r) else x.2)

/-- The three stages with the status trit of each stage kept apart. -/
def triad (n : Nat) (xs : List Int) : List (Int × List Int) :=
  let z := fun (l : List (Int × Int)) => l.map fun x => (x.1, (0 : Int))
  let s0 := triadStage n 0 (xs.map fun x => (x, 0))
  let s1 := triadStage n 1 (z s0)
  let s2 := triadStage n 2 (z s1)
  (List.range 27).map fun p =>
    ((s2.getD p (0, 0)).1, [(s0.getD p (0, 0)).2, (s1.getD p (0, 0)).2, (s2.getD p (0, 0)).2])

/-- VTRIAD (R168). -/
def execVtriad (c : Ctl) (o : TOps) (s : State) : Result :=
  s.performAs c true fun g =>
    let a := g.v o.a
    let n := o.ty.width
    let rows := (List.range 3).map fun b => (List.range o.ty.count).map fun j =>
      triad n ((List.range 27).map fun i => (elems (a.get (27 * b + i)).val n o.ty.count).getD j 0)
    let cell := fun (l : Nat) => ((rows.getD (l / 27) []).map fun r => r.getD (l % 27) (0, []))
    let g1 := g.lanesTo c o.d fun l => Word.ofInt (packElems n ((cell l).map (·.1)))
    let st := fun (l : Nat) => Trit.sgn (firstStatus ((List.range 3).flatMap fun k => (cell l).map fun x => x.2.getD k 0))
    .done (s.setGust (if o.isCy then g1.withP 26 ((g1.p 26).update (g.active c.guard) st) else g1))

/-- The scale and the elements of a block (R169); `none` stands for an absent lane. -/
def quantise (bw : Bool) (xs : List (Option Int)) : Int × List Int :=
  let vs := xs.map fun x => x.map fmt9.decode
  let here := vs.filterMap id
  let zero := vs.map fun _ => (0 : Int)
  match firstNan here with
  | some n => (fmt9.enc n, zero)
  | none =>
    if here.any fun v => v == .inf false || v == .inf true then
      (fmt9.encInf false, vs.map fun v => match v with
        | some (.inf n) => if n then -1 else 1
        | _ => 0)
    else
      let abs := fun (v : FVal) => match v with
        | .fin m e => FVal.fin (if m < 0 then -m else m) e
        | x => x
      let m := (here.map abs).foldl (fun (a b : FVal) => if b.cmp a > 0 then b else a) (FVal.fin 0 0)
      let scale := match m with
        | .fin x e => if bw then fmt9.roundTri x e
          else if e ≥ 0 then fmt9.roundRat (x * pow3 e.toNat) 13 else fmt9.roundRat x (13 * 3 ^ (-e).toNat)
        | _ => 0
      match fmt9.decode scale with
      | .fin sm se =>
        if sm = 0 then (scale, zero)
        else (scale, vs.map fun v => match v with
          | some (.fin x e) =>
            let e0 := min e se
            satT (nearestDiv (alignTo x e e0 * sgnI sm) (alignTo (if sm < 0 then -sm else sm) se e0)) (if bw then 1 else 3)
          | _ => 0)
      | _ => (scale, zero)

/-- Trit-field `j` of a word set. -/
def setTryte (w : Int) (j : Nat) (v : Int) : Int := setFld w (9 * j + 8) (9 * j) v

/-- QNT (R169). -/
def execQnt (c : Ctl) (o : TOps) (s : State) : Result :=
  s.performAs c true fun g =>
    let bw := o.ty == .bw
    let n := o.imm.toNat
    let a := g.v o.a
    let act := g.active c.guard
    let blk := fun (k : Nat) => quantise bw ((List.range 27).map fun i =>
      let l := 27 * (k / 3) + i
      if act.getD l false then some ((elems (a.get l).val 9 3).getD (k % 3) 0) else none)
    let blks := (List.range 9).map blk
    let scaleWord := fun (b : Nat) => Word.ofInt (packElems 9 ((List.range 3).map fun j => (blks.getD (3 * b + j) (0, [])).1))
    let write := fun (g' : Gust) (d l : Nat) (w : Word) =>
      if act.getD l false then g'.withV d (Lanes.tab fun k => if k = l then w else (g'.v d).get k) else g'
    let g1 := (List.range 9).foldl (fun g' k =>
      let q := (blks.getD k (0, [])).2
      if bw then write g' o.d (9 * n + k) (Word.ofInt (packElems 1 q))
      else (List.range 3).foldl (fun g' i =>
        write g' o.d (27 * n + 3 * k + i) (Word.ofInt (packElems 3 ((q.drop (9 * i)).take 9)))) g') g
    let g2 := (List.range 3).foldl (fun g' b =>
      if bw then write g' o.d (27 + 3 * n + b) (scaleWord b) else write g' (o.d + 1) (3 * n + b) (scaleWord b)) g1
    .done (s.setGust g2)

/-- The value of an element of a block as F9 (R41, R170). -/
def dequantise (scale q : Int) : Int :=
  match fmt9.decode scale with
  | .nan p => fmt9.encNan p
  | .inf n => if q = 0 then fmt9.enc FVal.dflt else fmt9.encInf (n != decide (q < 0))
  | .fin m e => fmt9.roundTri (m * q) e

/-- DQNT (R170). -/
def execDqnt (c : Ctl) (o : TOps) (s : State) : Result :=
  s.performAs c true fun g =>
    let bw := o.ty == .bw
    let n := o.imm.toNat
    let a := g.v o.a
    let scale := fun (b j : Nat) =>
      (elems (if bw then a.get (27 + 3 * n + b) else (g.v (o.a + 1)).get (3 * n + b)).val 9 3).getD j 0
    let elem := fun (b j i : Nat) =>
      let k := 9 * n + 3 * b + j
      if bw then tritI (a.get k).val i else (elems (a.get (3 * k + i / 9)).val 3 9).getD (i % 9) 0
    .done (s.setGust (g.lanesTo c o.d fun l => Word.ofInt (packElems 9 ((List.range 3).map fun j =>
      dequantise (scale (l / 27) j) (elem (l / 27) j (l % 27))))))

/-- A word's trits rotated: trit i moves to position (i + k) mod 27 (R145, R172). -/
def trot27 (ts : List Int) (k : Nat) : List Int := (List.range 27).map fun i => ts.getD ((i + 27 - k % 27) % 27) 0

/-- Trit-wise sum (R144). -/
def tsum (a b : List Int) : List Int := List.zipWith (fun (x y : Int) => wrapT (x + y) 1) a b

/-- One round of the mixing function (R172). -/
def mixRound (key : List Int) (ab : List Int × List Int) (r : Nat) : List Int × List Int :=
  let b := ab.2
  let k := tsum (trot27 key (7 * r)) (tritsOf (wrapT (Int.ofNat (r + 1) * 2718281828459) 27) 27)
  let f := (List.range 27).map fun i =>
    let t := fun (j : Nat) => b.getD ((i + j) % 27) 0
    wrapT (t 0 + wrapT (t 1 * t 3) 1 + t 9 + t 19 + k.getD i 0) 1
  (b, tsum ab.1 f)

/-- `mix` of R172. -/
def mix (key : Word) (c : Int) : Int :=
  let ab := (List.range 6).foldl (mixRound key.trits) (tritsOf c 27, tritsOf (dropT c 27) 27)
  ofTrits (tsum ab.1 ab.2)

/-- RAND (R173). -/
def execRand (c : Ctl) (o : TOps) (s : State) : Result :=
  s.performAs c true fun g =>
    let draw := fun (l : Nat) =>
      let w := mix g.key (wrapT (81 * g.ctr + Int.ofNat l) 54)
      match o.ty with
      | .f27 => Word.ofInt (fmt27.roundTri w (-27))
      | .f9 => Word.ofInt (packElems 9 ((elems w 9 3).map fun x => fmt9.roundTri x (-9)))
      | _ => Word.ofInt w
    .done (s.setGust { g.lanesTo c o.d draw with ctr := wrapT (g.ctr + 1) 54 })

/-- RSEED (R174). -/
def execRseed (c : Ctl) (a b : Nat) (s : State) : Result :=
  s.performGust c fun g => .done (s.setGust { g with key := g.s a, ctr := (g.s b).val })

end Sys2Proof.Machine
end

