-- ==== Sys2Proof/Machine/Issue.lean ====
section
/-! DEFINITION. Issue (R76, R77, R79, R80, R94 to R99, R291, R292, R336, R337, R366, R434, R435): fetching an instruction's
syllables, the checks before it runs, which gusts are eligible, and the choice of each core cycle. -/

namespace Sys2Proof.Machine

/-- The instruction-scratchpad index of a PC of an image on a core (R336, R337), or the fault of the fetch. -/
def State.codeIndex (s : State) (core image : Nat) (pc : Int) : Except Int Nat :=
  let mine := (s.core core).segs.filterMap fun e => e.bind fun g => if g.image = image then some g else none
  let covers := fun (first : Int) (count : Nat) => decide (first ≤ pc ∧ pc < first + Int.ofNat count)
  if mine.any fun g => g.pending && (covers g.first g.count || covers g.oldFirst g.oldCount) then .error 78
  else match mine.find? fun g => !g.pending && !g.reserved && covers g.first g.count with
    | some g => .ok (g.index + (pc - g.first).toNat)
    | none => .error 77

/-- A syllable word as a gust fetches it (R292): where the word has been written since the gust's last IFENCE, the device
takes the old or the new one and does not report which. -/
def State.syllable (s : State) (g : Gust) (core w : Nat) : Word × State :=
  let now := readAt (fun _ => Word.zero) (s.core core).isp w
  match lookupAt g.oldCode w with
  | some old => (match s.pick 2 with
    | (0, s) => (now, s)
    | (_, s) => (old, s))
  | none => (now, s)

/-- The three syllables of the instruction at an index (R54). -/
def State.fetchAt (s : State) (g : Gust) (core i : Nat) : Syllables × State :=
  let (a, s) := s.syllable g core (3 * i)
  let (b, s) := s.syllable g core (3 * i + 1)
  let (c, s) := s.syllable g core (3 * i + 2)
  (⟨a, b, c⟩, s)

/-- FETCH (R76, R77, R337): an L-core fetches one instruction, a D-core its packet, of which later slots are taken without
a new fetch. -/
def State.fetch (s : State) (g : Gust) (q : Squall) : Except Int Syllables × State :=
  if !q.isD then
    match s.codeIndex q.core q.image g.pc with
    | .error c => (.error c, s)
    | .ok i => (match s.fetchAt g q.core i with
      | (x, s) => (.ok x, s))
  else
    let base := g.pc - g.pc % 3
    let k := (g.pc % 3).toNat
    let none3 : Syllables := ⟨Word.zero, Word.zero, Word.zero⟩
    match g.packet.filter fun p => p.1 == base with
    | some (_, ws) => (.ok (ws.getD k none3), s)
    | none => match s.codeIndex q.core q.image base with
      | .error c => (.error c, s)
      | .ok i =>
        let (x0, s) := s.fetchAt g q.core i
        let (x1, s) := s.fetchAt g q.core (i + 1)
        let (x2, s) := s.fetchAt g q.core (i + 2)
        let ws := [x0, x1, x2]
        (.ok (ws.getD k none3), s.onGust g.ref fun g => { g with packet := some (base, ws) })

/-- The allotment of a register class (R126, R188, R206). -/
def Alloc.limit (a : Alloc) : Cls → Nat
  | .v => a.v
  | .s => a.s
  | .p => a.p
  | .q => a.g
  | .o => a.slots
  | .a => a.tiles
  | .b => a.bars

/-- The first register of a run that lies above the allotment (R126). -/
def Alloc.exceeds (a : Alloc) (u : RegUse) : Option Nat :=
  (List.range u.count).findSome? fun k =>
    let i := u.first + k
    if i ≥ a.limit u.cls ∧ !(u.cls == .s && decide (78 ≤ i)) then some i else none

/-- A named register above the allotment (step 7 of R79). DESIGN CHOICE (log entry 67): of several, the first in the order of
Instr.uses (the guard, then d, a, b and the register of trits 29..26), which the fault's detail names. -/
def Alloc.firstOut (a : Alloc) (us : List RegUse) : Option Nat := us.findSome? fun u => a.exceeds u

/-- The registers that results on their way still have to write (R99, R244, R249, R376): vector registers and scalars. -/
def Gust.pendingV (g : Gust) : List Nat :=
  (g.loads.filterMap fun l => if l.scalar then none else some l.d) ++
  g.atoms.filterMap fun a => if a.scalar then none else some a.d

/-- The scalars that results on their way still have to write. -/
def Gust.pendingS (g : Gust) : List Nat :=
  (g.loads.filterMap fun l => if l.scalar then some l.d else none) ++
  (g.atoms.filterMap fun a => if a.scalar then some a.d else none) ++ g.reply.map (·.1)

/-- The instruction names a register that a result on its way still has to write (R99). -/
def Gust.blocksOn (g : Gust) (us : List RegUse) : Bool :=
  us.any fun u =>
    (u.cls == .v && g.pendingV.any fun d => decide (u.first ≤ d ∧ d < u.first + u.count)) ||
    (u.cls == .s && g.pendingS.any fun d => decide (u.first ≤ d ∧ d < u.first + u.count))

/-- What the front of issue comes to: an instruction to execute, or a state in which nothing executes. -/
inductive Prep where
  | run (i : Instr) (s : State)
  | halt (s : State)
deriving DecidableEq, Repr

/-- Saturating counts (R382, R431). -/
def countUp (n : Nat) : Nat := min (n + 1) 3812798742493

/-- The gust's instruction is counted once (R382), and on its core (R431). -/
def State.countIssue (s : State) (g : Gust) (core : Nat) : State :=
  if g.issued then s
  else
    (s.onCore core fun c => { c with counters := c.counters.modify 2 countUp }).onGust g.ref fun g =>
      { g with issued := true, kcount := countUp g.kcount }

/-- The issuing gust's next instruction fetched and checked (R79, R80). -/
def State.prepare (s : State) (r : GustRef) : Prep :=
  match s.gust? r, s.squall? r.sq with
  | some g, some q =>
    let idle := fun (s : State) => Prep.halt { s with cur := none }
    let s := s.countIssue g q.core
    match s.fetch g q with
    | (.error c, s) => idle (({ s with op := 0 } : State).gustFault r c 0 0)
    | (.ok x, s) =>
      let s := { s with op := (Fields.unpack x.toInt).op }
      match decode x with
      | .bad step => idle (s.gustFault r 1 (Int.ofNat step) 0)
      | .ok i =>
        if !i.slotOk q.isD g.pc then idle (s.gustFault r 1 6 0)
        else match q.alloc.firstOut i.uses with
          | some n => idle (s.gustFault r 2 7 (Int.ofNat n))
          | none =>
            if g.blocksOn i.uses then idle s
            else .run i s
  | _, _ => .halt { s with cur := none }

/-- The class of a squall's gusts: the trit of its front's bind record on its die (R362). -/
def State.klass (s : State) (q : Squall) : Trit :=
  ((s.die (dieOf q.core)).bindRecs.find? fun b => b.front == q.q.front).elim .zero (·.prio)

/-- A counter's identity is held and ready (R230). -/
def State.counterReady (s : State) (key : List Nat) : Bool := s.counters.any fun c => c.key == key && c.ready

/-- Every queue's commands of a core, and the paging queue's. -/
def State.queued (s : State) (core : Nat) : List Cmd :=
  let c := s.core core
  c.matrixQ ++ c.fillQ ++ c.copyQ ++ c.codecQ ++ s.paging

/-- The condition that ends a wait by re-issue of its instruction has come (R96). -/
def State.waitOver (s : State) (g : Gust) (q : Squall) : Wait → Bool
  | .fence f n => (List.range n).all fun k => (q.slots.getD (f + k) ⟨none, .ready, 0, none, false, 0⟩).fill != .pending
  | .counter _ key => s.counterReady key
  | .latch _ _ => g.latchCode.isSome
  | .batchRoom => decide (g.bnum - g.doneUpto < 27)
  | .batch n => decide (n ≤ g.doneUpto)
  | .guards _ ids => ids.all fun k => (s.queued q.core).all fun c => c.id != k
  | .front n => (s.front? n).isNone
  | .quiet => g.unacked == 0 && g.loads.isEmpty && g.atoms.isEmpty
  | _ => false

/-- The instructions a gust issues next, where they can be fetched and decoded, without any effect: on an L-core one, on a
D-core the rest of its packet (R77, R96). -/
def State.peek (s : State) (g : Gust) (q : Squall) : List Instr :=
  let at_ := fun (k : Nat) => match s.fetch { g with oldCode := [], pc := g.pc + Int.ofNat k } q with
    | (.ok x, _) => (decode? x).toList
    | _ => []
  if q.isD then (List.range (3 - (g.pc % 3).toNat)).flatMap at_ else at_ 0

/-- The scoreboard holds up the gust's next instruction, or on a D-core its next packet (R96, R99). -/
def State.stalled (s : State) (g : Gust) (q : Squall) : Bool :=
  (!g.loads.isEmpty || !g.atoms.isEmpty || !g.reply.isEmpty) && (s.peek g q).any fun i => g.blocksOn i.uses

/-- A gust can issue (R96). -/
def State.eligible (s : State) (g : Gust) (q : Squall) : Bool :=
  !g.halted && q.migration.isNone && (match g.status with
    | .running => !s.stalled g q && g.cmdCode != 1
    | .yielded t => decide (t ≤ (s.core q.core).cycle) && !s.stalled g q && g.cmdCode != 1
    | .waiting _ w => s.waitOver g q w
    | _ => false)

/-- The gusts resident on a core. -/
def State.residents (s : State) (core : Nat) : List Gust :=
  s.gusts.filter fun g => (s.squall? g.ref.sq).any fun q => q.core == core

/-- The oldest of some gusts. -/
def oldest : List Gust → Option Gust
  | [] => none
  | g :: gs => match oldest gs with
    | none => some g
    | some h => if g.age ≤ h.age then some g else some h

/-- The reason of a gust that stands at an instruction it may issue (R435): a load or an atomic's result, another pending result, or
a stop. -/
def State.stallOf (s : State) (g : Gust) : Nat :=
  if g.cmdCode = 1 then 44
  else match s.squall? g.ref.sq with
    | some q => if s.stalled { g with reply := [] } q then 32 else 33
    | none => 33

/-- The stall reason of R435 as a counter number. -/
def State.stallReason (s : State) (core : Nat) : Nat :=
  match oldest ((s.residents core).filter fun g => g.status != .retired) with
  | none => 31
  | some g =>
    if g.halted then 44
    else match g.status with
    | .running => s.stallOf g
    | .waiting _ w => (match w with
      | .atomic => 32
      | .reply => 33
      | .quiet => 33
      | .barrier _ _ => 34
      | .claim _ _ _ _ => 35
      | .gang _ | .migr _ => 36
      | .counter _ _ => 37
      | .latch _ _ => 38
      | .batch _ | .batchRoom | .guards _ _ | .fence _ _ => 39
      | .front _ => 40
      | .replay | .page => 41
      | .accept => 42)
    | .yielded t => if t ≤ (s.core core).cycle then s.stallOf g else 43
    | .stopped => 44
    | .retiring | .retired => 39

/-- ISSUE_CHOICE (R366, R434, R435): one cycle of a core. The gust it picks issues in the steps that follow: a packet on a D-core, one
instruction or two on an L-core, which is a free choice (log entry 71). -/
def State.issueChoice (s : State) (core : Nat) : State :=
  let ready := fun (c : Trit) => (s.residents core).filter fun g =>
    match s.squall? g.ref.sq with
    | some q => s.klass q == c && s.eligible g q
    | none => false
  let u := ready .plus
  let n := ready .zero
  let b := ready .minus
  let e := u.length + n.length + b.length
  let c := s.core core
  let pick := if !n.isEmpty ∧ c.waitN ≥ 8 then (oldest n).map (·, Trit.zero)
    else if !b.isEmpty ∧ c.waitB ≥ 25 then (oldest b).map (·, Trit.minus)
    else match oldest u, oldest n, oldest b with
      | some g, _, _ => some (g, Trit.plus)
      | none, some g, _ => some (g, Trit.zero)
      | none, none, some g => some (g, Trit.minus)
      | none, none, none => none
  let tick := fun (c : Core) =>
    let cs := (c.counters.modify 1 countUp).modify (3 + min e 27) countUp
    { c with cycle := c.cycle + 1, quiet := c.quiet + 1, counters := if e = 0 then cs.modify (s.stallReason core) countUp else cs }
  let s := s.onCore core tick
  match pick with
  | none => s.onCore core fun c => { c with waitN := 0, waitB := 0 }
  | some (g, k) =>
    let s := s.onCore core fun c =>
      { c with waitN := if k = .zero ∨ n.isEmpty then 0 else c.waitN + 1,
               waitB := if k = .minus ∨ b.isEmpty then 0 else c.waitB + 1 }
    let (age, s) := s.fresh
    let (left, s) := if coreIsD core then (0, s) else s.pick 2
    { s.onGust g.ref (fun g => { g with age, status := match g.status with
          | .yielded _ => .running
          | w => w }) with cur := some g.ref, issueLeft := left }

/-- YIELD_EXPIRY (R96, R123): the gust's cycles have passed. -/
def State.yieldExpiry (s : State) (r : GustRef) : State :=
  match s.gust? r, s.squall? r.sq with
  | some g, some q => (match g.status with
    | .yielded t => if (s.core q.core).cycle ≥ t then s.setGust { g with status := .running } else s
    | _ => s)
  | _, _ => s

end Sys2Proof.Machine
end

