-- ==== Sys2Proof/Machine/Place.lean ====
section
/-! DEFINITION. The words of a squall wherever it stands (R322, R412): bound on a core, or in its shutter image; the layout of
the image; and early touches of tiles (R216). -/

namespace Sys2Proof

/-- The B slots of an MMA format (R212). -/
def MFmt.bSlots (f : MFmt) (b : Nat) : List Nat :=
  match f with
  | .w1i9 | .w1f9 => [b, b + 1, b + 2]
  | _ => [b]

end Sys2Proof

namespace Sys2Proof.Machine

/-- A word of a squall, by its own names. -/
inductive SqWord where
  | acc (k w : Nat)
  | slot (o w : Nat)
  | scratch (x : Nat)
  | vec (g r l : Nat)
  | gust (g i : Nat)
  | scal (g j : Nat)
  | pred (g j b : Nat)
  | bar (b w : Nat)
  | guards
deriving DecidableEq, Repr

/-- Where each region of a shutter image begins (R412). -/
structure ImageMap where
  gusts : Nat
  lanes : Nat
  faults : Nat
  scal : Nat
  pred : Nat
  vec : Nat
  guards : Nat
  bars : Nat
  tiles : Nat
  tileSt : Nat
  slots : Nat
  slotSt : Nat
  scratch : Nat
  cmds : Nat
  size : Nat
deriving DecidableEq, Repr

/-- The image of a squall of `k` gusts with an allotment (R412). -/
def imageMap (k : Nat) (a : Alloc) : ImageMap :=
  let lanes := 27 + 243 * k
  let faults := lanes + 729 * k
  let scal := faults + 243 * k
  let pred := scal + 81 * k
  let vec := pred + 81 * k
  let guards := vec + 81 * a.v * k
  let bars := guards + 1
  let tiles := bars + 2 * a.bars
  let tileSt := tiles + 729 * a.tiles
  let slots := tileSt + a.tiles
  let slotSt := slots + 243 * a.slots
  let scratch := slotSt + a.slots
  let cmds := scratch + a.scratch
  { gusts := 27, lanes, faults, scal, pred, vec, guards, bars, tiles, tileSt, slots, slotSt, scratch, cmds,
    size := cmds + 36 * 297 }

/-- The offset of a squall's word in its image (R412). -/
def ImageMap.at_ (m : ImageMap) (v : Nat) : SqWord → Nat
  | .acc k w => m.tiles + 729 * k + w
  | .slot o w => m.slots + 243 * o + w
  | .scratch x => m.scratch + x
  | .vec g r l => m.vec + 81 * (v * g + r) + l
  | .gust g i => m.gusts + 243 * g + i
  | .scal g j => m.scal + 81 * g + j
  | .pred g j b => m.pred + 81 * g + 3 * j + b
  | .bar b w => m.bars + 2 * b + w
  | .guards => m.guards

/-- The squall's word that a window word named when the squall stood at a place. -/
def Placed.find (p : Placed) : WinReg → Option SqWord
  | .acc t w => if p.bases.tile ≤ t ∧ t < p.bases.tile + p.alloc.tiles then some (.acc (t - p.bases.tile) w) else none
  | .slot o w => if p.bases.slot ≤ o ∧ o < p.bases.slot + p.alloc.slots then some (.slot (o - p.bases.slot) w) else none
  | .scratch x =>
    if p.bases.scratch ≤ x ∧ x < p.bases.scratch + p.alloc.scratch then some (.scratch (x - p.bases.scratch)) else none
  | .bar r w => if p.bases.bar ≤ r ∧ r < p.bases.bar + p.alloc.bars then some (.bar (r - p.bases.bar) w) else none
  | .vec r l => (p.runs.find? fun g => decide (g.2.2.1 ≤ r ∧ r < g.2.2.1 + g.2.2.2)).map fun g => .vec g.1 (r - g.2.2.1) l
  | .gust i w => (p.runs.find? fun g => g.2.1 == i).map fun g => .gust g.1 w
  | .scal i j => (p.runs.find? fun g => g.2.1 == i).map fun g => .scal g.1 j
  | .pred i j b => (p.runs.find? fun g => g.2.1 == i).map fun g => .pred g.1 j b
  | .guards i => (p.runs.find? fun g => g.2.1 == i && g.1 == 0).map fun _ => .guards
  | _ => none

/-- Where a bound squall stands. -/
def State.placed (s : State) (q : Squall) : Placed :=
  { q := q.q, core := q.core, bases := q.bases, alloc := q.alloc,
    runs := (s.gustsOf q.q).map fun g => (g.ref.gust, g.slot, g.vbase, g.vreg.length) }

/-- Where the squalls of a context stand. -/
def State.placedOf (s : State) (ctx : Nat) : List Placed := (s.squalls.filter fun q => q.ctx == ctx).map s.placed

/-- The window word that is a bound squall's word now. -/
def State.winOf (s : State) (q : Squall) : SqWord → Option WinReg
  | .acc k w => some (.acc (q.bases.tile + k) w)
  | .slot o w => some (.slot (q.bases.slot + o) w)
  | .scratch x => some (.scratch (q.bases.scratch + x))
  | .bar b w => some (.bar (q.bases.bar + b) w)
  | .vec g r l => (s.gust? ⟨q.q.front, q.q.lin, g⟩).map fun h => .vec (h.vbase + r) l
  | .gust g i => (s.gust? ⟨q.q.front, q.q.lin, g⟩).map fun h => .gust h.slot i
  | .scal g j => (s.gust? ⟨q.q.front, q.q.lin, g⟩).map fun h => .scal h.slot j
  | .pred g j b => (s.gust? ⟨q.q.front, q.q.lin, g⟩).map fun h => .pred h.slot j b
  | .guards => (s.gust? ⟨q.q.front, q.q.lin, 0⟩).map fun h => .guards h.slot

/-- A shuttered squall. -/
def State.shut? (s : State) (q : SqRef) : Option Shuttered := s.shuttered.find? fun x => x.q == q

/-- The address of a shuttered squall's word in its image (R412). -/
def Shuttered.wordAt (x : Shuttered) (w : SqWord) : Int := x.area + Int.ofNat ((imageMap x.count x.alloc).at_ x.alloc.v w)

/-- A write to a squall's word (R322): to its stores, to its shutter image, or dropped when it has retired. -/
def State.putSq (s : State) (q : SqRef) (w : SqWord) (v : Word) : State :=
  match s.squall? q with
  | some b => (match s.winOf b w with
    | some r => s.windowWrite b.core (some b.ctx) v r
    | none => s)
  | none => match s.shut? q with
    | some x => s.imageWrite x.ctx (x.wordAt w) v
    | none => s

/-- The tiles a command is on, as the issuing squall names them (R222). -/
def Cmd.tiles (c : Cmd) : List Nat :=
  match c.instr with
  | .mma _ _ _ _ _ _ => c.members.map (·.tile)
  | .azero _ t n => (List.range n).map (· + t)
  | .ald _ t _ _ _ => [t]
  | .drain _ t _ _ _ _ _ _ _ _ => [t]
  | _ => []

/-- The slots a command reads. -/
def Cmd.reads (c : Cmd) : List Nat :=
  match c.instr with
  | .mma _ f _ _ _ _ => c.members.flatMap fun m => m.a :: f.bSlots m.b
  | _ => []

/-- A command on a tile is incomplete (R216). -/
def State.tileBusy (s : State) (q : Squall) (t : Nat) : Bool :=
  (s.core q.core).matrixQ.any fun c => c.who.sq == q.q && c.tiles.contains t

/-- A read of a tile by a gust, or by an engine, touches it early (R216). -/
def State.early (s : State) (g : Option Gust) (q : Squall) (t : Nat) : Bool :=
  s.tileBusy q t || (match g with
    | some g => g.ref.sq == q.q && g.touched.any fun x => x.1 == t && decide (x.2 > g.waited)
    | none => false)

/-- The early-touch check of a context is on (R430). -/
def State.earlyFaults (s : State) (ctx : Nat) : Bool := tritI (s.context ctx).xdbg.val 26 == 1

/-- `n` unspecified words. -/
def State.unspecifieds (s : State) : Nat → List Word × State
  | 0 => ([], s)
  | n + 1 =>
    let (w, s) := s.unspecified
    let (ws, s) := s.unspecifieds n
    (w :: ws, s)

/-- A read of a window word by a context, through a gust or an engine (R185, R186, R216): an early touch is the fault "early
touch" of the gust or of the command (R398) where the check is on. -/
def State.touchRead (s : State) (g : Option Gust) (ctx core : Nat) (w : WinReg) : Answer Word :=
  let v := s.winGet core (some ctx) w
  let faults := s.earlyFaults ctx
  match w with
  | .acc t _ => (match s.holderOf core Bases.tile Alloc.tiles t with
    | some q =>
      if s.early g q (t - q.bases.tile) then
        (if faults then (.error 33, s) else (match s.unspecified with
          | (u, s) => (.ok u, s)))
      else (.ok v, s)
    | none => (.ok v, s))
  | .tiles k =>
    let hot := fun (i : Nat) => (s.tileSeen core (27 * k + i) (some ctx)).any fun q =>
      s.early g q (27 * k + i - q.bases.tile)
    if (List.range 27).any hot then
      (if faults then (.error 33, s) else (match s.unspecified with
        | (u, s) => (.ok (Word.ofInt (ofTrits ((List.range 27).map fun i => if hot i then tritI u.val i else tritI v.val i))), s)))
    else (.ok v, s)
  | _ => (.ok v, s)

/-- The fill state of a slot as a number (R412). -/
def FillState.code : FillState → Int
  | .ready => 0
  | .pending => 1
  | .unfenced => -1
  | .faulted => 2

/-- A slot's state as a word of the image (R412). -/
def SlotSt.word (x : SlotSt) (saved : Bool) : Word :=
  let owner := match x.owner with
    | some g => Int.ofNat g
    | none => -1
  let cause := x.fault.elim 0 fun f => fld (f.words.getD 0 Word.zero).val 23 18
  Word.ofInt (owner * pow3 23 + x.fill.code * pow3 21 + Int.ofNat x.count * pow3 14 + cause * pow3 8 +
    (if saved then pow3 7 else 0))

/-- The end of one fill of a slot (R214): the last one leaves it unfenced or faulted. -/
def SlotSt.endFill (x : SlotSt) (f : Option CmdFault) : SlotSt :=
  let kept := x.fault.or f
  if x.count ≤ 1 then { x with count := 0, fault := kept, fill := if kept.isSome then .faulted else .unfenced }
  else { x with count := x.count - 1, fault := kept }

/-- The start of a fill of a slot (R214). -/
def SlotSt.beginFill (x : SlotSt) : SlotSt := { x with fill := .pending, count := x.count + 1 }

/-- A fill leaves its slot before it has been accepted (R22, R409): as it stood when the fill was issued, unless another fill is
still pending. -/
def SlotSt.undoFill (x : SlotSt) (prior : FillState) : SlotSt :=
  if x.count ≤ 1 then { x with count := 0, fill := prior } else { x with count := x.count - 1 }

/-- A squall's slot. -/
def Squall.slot (q : Squall) (o : Nat) : SlotSt := q.slots.getD o ⟨none, .ready, 0, none, false, 0⟩

/-- A squall's tile. -/
def Squall.tile (q : Squall) (t : Nat) : TileSt := q.tiles.getD t ⟨none, .zero, false⟩

/-- The address of a shuttered squall's slot state in its image (R412). -/
def Shuttered.slotAt (x : Shuttered) (o : Nat) : Int := x.area + Int.ofNat ((imageMap x.count x.alloc).slotSt + o)

/-- A slot state of a shutter image after the end of one fill of it (R214, R412). -/
def endFillWord (w : Word) (f : Option CmdFault) : Word :=
  let n := fld w.val 20 14
  let old := fld w.val 13 8
  let cause := if old ≠ 0 then old else f.elim 0 fun f => fld (f.words.getD 0 Word.zero).val 23 18
  let st := if n ≤ 1 then (if cause ≠ 0 then 2 else -1) else 1
  Word.ofInt (setFld (setFld (setFld w.val 20 14 (max 0 (n - 1))) 22 21 st) 13 8 cause)

/-- The slot states that the ends of some fills change can be reached: false while the page of one of them in a shutter image
is being filled (R480). -/
def State.fillsReach (s : State) (q : SqRef) : List Nat → Bool × State
  | [] => (true, s)
  | o :: os => if (s.squall? q).isSome then (true, s)
    else match s.shut? q with
    | none => (true, s)
    | some x => match s.sysRead x.ctx (x.slotAt o) with
      | (.wait, s) => (false, s)
      | (_, s) => s.fillsReach q os

/-- The end of a fill of a squall's slot, bound or shuttered (R214, R322). -/
def State.endFill (s : State) (q : SqRef) (o : Nat) (f : Option CmdFault) : State :=
  match s.squall? q with
  | some _ => s.onSquall q fun b => { b with slots := b.slots.modify o fun x => x.endFill f }
  | none => match s.shut? q with
    | some x =>
      let s := { s with shuttered := s.shuttered.map fun (y : Shuttered) =>
        if y.q == q then { y with slotFaults := y.slotFaults ++ (f.map fun f => (o, f)).toList } else y }
      (match s.sysRead x.ctx (x.slotAt o) with
        | (.ok w, s) => s.imageWrite x.ctx (x.slotAt o) (endFillWord w f)
        | (.fail _ a, s) => s.send (.machineCheck x.ctx (-8) ⟨a, []⟩)
        | (.wait, s) => s)
    | none => s

end Sys2Proof.Machine
end

