-- ==== Sys2Proof/Machine/MemOps.lean ====
section
/-! DEFINITION. What the memory forms share (R72, R73, R178 to R183, R203, R251, R274 to R279, R286, R308): addresses,
where an address lies, releases and acquires, reads and writes of one word, and the lanes of an instruction. -/

namespace Sys2Proof

/-- Scopes: gust and squall widen to cluster; device and system are wide (R273). -/
def Scope.wide : Scope → Bool
  | .dv | .sy => true
  | _ => false

/-- The ordering has a release part. -/
def Order.releases : Order → Bool
  | .rel | .ar | .sc => true
  | _ => false

/-- The ordering has an acquire part. -/
def Order.acquires : Order → Bool
  | .acq | .ar | .sc => true
  | _ => false

end Sys2Proof

namespace Sys2Proof.Machine

/-- Where an access goes: a word of memory, with the tick at which its translation ends (R306), a word of a core's stores, a
final cause with the physical address of a machine check (0 for a fault), or a page to wait for. -/
inductive Place where
  | mem (at_ : WLoc) (lease : Nat)
  | port (core u : Nat) (w : WinReg)
  | bad (cause phys : Int)
  | page (entry : Nat)
deriving DecidableEq, Repr

/-- The address of a memory operand in lane `l` (R181, R251). -/
def laneAddr (g : Gust) (m : MOps) (l : Nat) : Int :=
  match m.bc with
  | .vector => ((g.v m.a).get l).val + m.off
  | .scalar => (g.s m.a).val + m.off + Int.ofNat l
  | .none => m.off + Int.ofNat l

/-- The single address of a gust form (R181, R251). -/
def baseAddr (g : Gust) (bc : BaseCls) (a : Nat) (off : Int) : Int :=
  match bc with
  | .none => off
  | _ => (g.s a).val + off

/-- The place of a scratchpad address (R178, R179). -/
def State.scratchPlace (s : State) (q : Squall) (x : Int) : Place :=
  if x ≥ 0 then
    (if x < Int.ofNat q.alloc.scratch then
      .port q.core (1594323 + (q.bases.scratch + x.toNat)) (.scratch (q.bases.scratch + x.toNat)) else .bad 20 0)
  else if x < -14348907 then .bad 20 0
  else
    let y := (x + 14348907).toNat
    let core := 27 * dieOf q.core + y / 531441
    match s.holderOf core Bases.scratch Alloc.scratch (y % 531441) with
    | some h => if h.ctx = q.ctx then .port core (1594323 + y % 531441) (.scratch (y % 531441)) else .bad 20 0
    | none => .bad 20 0

/-- The place of an address of a gust of squall `q` (R73, R179, R184, R186, R304). -/
def State.placeOf (s : State) (q : Squall) (priv : Bool) (sp : Space) (x : Int) (write : Bool) : Place × State :=
  match sp with
  | .p => (s.scratchPlace q x, s)
  | .w =>
    if x < -3812798742493 ∨ x > -1 then (.bad 20 0, s)
    else match winPlace x, s.winFind q.ctx priv x with
    | some (core, u), .ok (_, w) => (.port core u w, s)
    | _, .error c => (.bad c 0, s)
    | none, _ => (.bad 20 0, s)
  | .g =>
    if x < 1 ∨ x > 3812798742493 then (.bad 20 0, s)
    else match s.translate q.core q.ctx x write priv true with
    | (.ok a, s) => (.mem a (s.leaseOf q.core q.ctx x), s)
    | (.fault c a, s) => (.bad c a, s)
    | (.wait e, s) => (.page e, s)

/-- An update is accepted at the address (R187): in window space the scratchpad region alone takes one. -/
def updatable (sp : Space) (x : Int) : Bool :=
  match sp with
  | .w => (winPlace x).any fun e => decide (1594323 ≤ e.2 ∧ e.2 < 2125764)
  | _ => true

/-- Every earlier load of the gust has returned and its count of unacknowledged writes, atomics included, is zero (R276,
R277). -/
def Gust.quiet (g : Gust) : Bool := g.loads.isEmpty && g.unacked == 0 && g.atoms.isEmpty

/-- The release part once the gust is quiet (R277, R278): a wide release writes back every dirty word; the epoch advances. -/
def State.releasePart (s : State) (die : Nat) (sc : Scope) : State :=
  let s := if sc.wide then s.writeBackAll die else s
  s.onDie die fun d => { d with epoch := d.epoch + 1 }

/-- The ticket of a seq-cst operation from its scope's sequencer (R286). -/
def State.ticket (s : State) (die : Nat) (sc : Scope) : State :=
  match sc with
  | .dv => { s with ticketDevice := s.ticketDevice + 1 }
  | .sy => { s with ticketSystem := s.ticketSystem + 1 }
  | _ => s.onDie die fun d => { d with ticket := d.ticket + 1 }

/-- The acquire part (R279). -/
def State.acquirePart (s : State) (die : Nat) (sc : Scope) : State := s.dropStale die (sc == .sy)

/-- The second half of an ordering point of R288 at a scope. -/
def State.orderedAfter (s : State) (die : Nat) (sc : Scope) : State :=
  if sc.wide then s.orderPoint die (sc == .sy) else s.acquirePart die sc

/-- What stands before an access: nothing, or the wait of its release part (R274, R277). -/
def State.before (s : State) (g : Gust) (die : Nat) (o : Order) (sc : Scope) : Option State :=
  if o.releases then (if g.quiet then some (s.releasePart die sc) else none) else some s

/-- The ticket of an access, where its ordering takes one (R286): before a read, after the write of a store has applied, and
in one act with an atomic. -/
def State.ticketFor (s : State) (die : Nat) (o : Order) (sc : Scope) : State := if o = .sc then s.ticket die sc else s

/-- The words with a write or a load of the gust still on its way (R274: one word's accesses keep program order). -/
def State.ownWords (s : State) (g : Gust) : List (Loc × Nat) :=
  (s.flight.filterMap fun i => match i with
    | .homeApplyWrite m => if m.src = some g.ref then some (m.loc, m.word) else none
    | _ => none) ++ (g.loads.flatMap fun l => l.items.map fun x => (x.2.1.loc, x.2.1.word)) ++
  g.atoms.flatMap fun a => a.items.map fun x => (x.at_.loc, x.at_.word)

/-- The word a place names, as messages name it. -/
def Place.key : Place → Option (Loc × Nat)
  | .mem a _ => some (a.loc, a.word)
  | .port core u _ => some (.win core, u)
  | _ => none

/-- The physical word address a machine-check record names (R397), or 0. -/
def Place.detail : Place → Int
  | .mem ⟨.dev p, w⟩ _ => Int.ofNat (45 * p + w)
  | .bad _ a => a
  | _ => 0

/-- Some place has an access of the gust still on its way. -/
def State.clashes (s : State) (g : Gust) (ps : List Place) : Bool :=
  let own := s.ownWords g
  !own.isEmpty && ps.any fun p => p.key.any fun k => own.contains k

/-- A read of one word by a gust (R182, R216, R238, R246, R279): relaxed, or by an acquire of a scope. -/
def State.readPlace (s : State) (g : Gust) (q : Squall) (o : Order) (sc : Scope) (ev : Int) : Place → Answer Word
  | .mem a _ =>
    let d := dieOf q.core
    if o.acquires then (if sc.wide then s.readWide d a ev else s.readNarrow d a ev) else s.readRelaxed d a ev
  | .port core _ w => s.touchRead (some g) q.ctx core w
  | .bad c _ => (.error c, s)
  | .page _ => (.error 24, s)

/-- The lease of an access that no translation made: it has no end. -/
def noLease : Nat := 3 ^ 60

/-- A write to a remote or host line awaits its acknowledgement (R424, R425). -/
def State.await (s : State) (r : GustRef) (dest line : Nat) : State :=
  let (seq, s) := s.fresh
  let words := (s.gust? r).elim [] fun g => s.mkRec g clsCheck (-5) 0 (-1) 0
  { s with outstanding := s.outstanding ++ [{ seq, ctx := s.ctxOf r, who := some r, at_ := s.ptime, dest, line, words }] }

/-- A write sent on its way past L1, counted against its gust (R276, R281); the clean copies of its die take it as it passes them
(R239, R246). -/
def State.sendWrite (s : State) (g : Gust) (die : Nat) (a : WLoc) (v : Word) (ev : Int) (lease : Nat) : State :=
  let words := s.accessRec g.ref
  let (st, s) := match a.loc with
    | .win _ => (clockZero, s)
    | _ => s.stamp die
  let s := match a.loc with
    | .remote dev p => s.await g.ref dev p
    | .host p => s.await g.ref hostPort p
    | .dev p => s.takeWords die p [(a.word, v)]
    | .win _ => s
  (s.onGust g.ref fun g => { g with unacked := g.unacked + 1 }).send
    (.homeApplyWrite { die, stamp := st, loc := a.loc, word := a.word, val := v, src := some g.ref, ctx := s.ctxOf g.ref, ev,
                       lease, words, sentAt := s.ptime })

/-- A store on its way to the L1 slice of its die, where it will be written (R239), counted against its gust (R276): no order
stands between it and the gust's accesses to other words (R274). -/
def State.sendToL1 (s : State) (g : Gust) (die : Nat) (a : WLoc) (v : Word) (ev : Int) (lease : Nat) : State :=
  let words := s.accessRec g.ref
  (s.onGust g.ref fun g => { g with unacked := g.unacked + 1 }).send
    (.homeApplyWrite { die, stamp := clockZero, loc := a.loc, word := a.word, val := v, src := some g.ref, ctx := s.ctxOf g.ref, ev,
                       lease, narrow := true, words })

/-- A word that a wide release or a .byp store has written into an L1 copy goes past it (R246, R277): older epochs (R278) and
the sector's other dirty words are written back, and the word itself is sent on its way and stays clean. -/
def State.passL1 (s : State) (g : Gust) (d : Nat) (a : WLoc) (v : Word) (ev : Int) (lease : Nat) : State :=
  let s := (s.writeBackOlder d).onL1 d a.loc fun x => x.clean [a.word]
  let s := s.writeBack d a.loc (sectorOf a.word)
  let s := match a.loc with
    | .dev p => s.note d p (sectorOf a.word) false
    | _ => s
  s.sendWrite g d a v ev lease

/-- A write of one word (R182, R239, R246, R274, R277): into L1, after the checks of its request; or past it for .byp and for wide
releases; a seq-cst write applies at once, before its ticket is used; any other, and one to another core's store, is on its way
until it applies. -/
def State.writePlace (s : State) (g : Gust) (q : Squall) (o : Order) (sc : Scope) (ev : Int) (v : Word) : Place → Answer Unit
  | .mem a lease =>
    let d := dieOf q.core
    if ev = -4 ∨ (o.releases ∧ sc.wide) then
      (if s.l1HoldsSector d a then
        (match s.writeL1 q.ctx d a v ev with
          | (.ok _, s) => (.ok (), if o = .sc then (s.writeBackOlder d).writeBack d a.loc (sectorOf a.word)
                                   else s.passL1 g d a v ev lease)
          | x => x)
      else match s.storeMiss d a ev with
      | (.error c, s) => (.error c, s)
      | (.ok _, s) =>
        let s := s.writeBackOlder d
        if o = .sc then s.writeAtHome d a v ev else (.ok (), s.sendWrite g d a v ev lease))
    else if o = .sc then s.writeL1 q.ctx d a v ev
    else (match s.storeMiss d a ev with
      | (.error c, s) => (.error c, s)
      | (.ok _, s) => (.ok (), s.sendToL1 g d a v ev lease))
  | .port core u w =>
    if core = q.core ∨ o = .sc then (.ok (), s.windowWrite core (some q.ctx) v w)
    else (.ok (), s.sendWrite g (dieOf q.core) ⟨.win core, u⟩ v ev noLease)
  | .bad c _ => (.error c, s)
  | .page _ => (.error 24, s)

/-- One indivisible update (R182, R204, R248, R249): at the port, at the L1 slice, or at the home or owning port. -/
def State.updatePlace (s : State) (q : Squall) (o : Order) (sc : Scope) (ev : Int) (f : Word → Option Word) : Place → Answer Word
  | .mem a _ =>
    let d := dieOf q.core
    if sc.wide then s.updateHome d a ev f
    else if o.acquires then
      (match s.readNarrow d a ev with
        | (.ok _, s) => s.updateL1 q.ctx d a ev f
        | x => x)
    else s.updateL1 q.ctx d a ev f
  | .port core _ w =>
    let old := s.winGet core (some q.ctx) w
    (.ok old, match f old with
      | some new => s.windowWrite core (some q.ctx) new w
      | none => s)
  | .bad c _ => (.error c, s)
  | .page _ => (.error 24, s)

/-- What one lane of a memory instruction comes to: done with a value or none, a word still to land with what the request found,
a fault, a page to wait for, a machine check. -/
inductive LaneOut where
  | ok (v : Option Word)
  | pend (at_ : WLoc) (seen : Word) (lease : Nat)
  | fault (cause : Int)
  | page (entry : Nat)
  | check (cause : Int)
deriving DecidableEq, Repr

/-- The lanes of a memory instruction so far: values for the destination, words still to land, lanes that await replay, a
machine check, and the earliest end of the translations used. -/
structure LaneAcc where
  st : State
  vals : List (Nat × Word)
  pend : List (Nat × WLoc × Word)
  waits : List (Nat × Nat)
  check : Option (Int × Int)
  lease : Option Nat
deriving DecidableEq, Repr

/-- A lane parks as awaiting replay (R103, R308): its trits turn minus, and it has no record. -/
def State.parkWaiting (s : State) (r : GustRef) (l : Nat) : State := s.onGust r fun g => g.parkTrit l

/-- A lane that awaited replay has completed: its trits return to plus (R103, R311). -/
def Gust.unparkTrit (g : Gust) (l : Nat) : Gust :=
  let put := fun (m : Mask) => Mask.tab fun k => if k = l then .plus else m.get k
  { g.withMask (put g.mask) with
    stack := g.stack.map fun e => if e.mask.get l = .minus then { e with mask := put e.mask } else e }

/-- The outcome of an answer of memory for a lane: a positive cause is a lane fault, a negative one a machine check. -/
def laneOutOf (x : Answer Word) : LaneOut × State :=
  match x with
  | (.ok v, s) => (.ok (some v), s)
  | (.error c, s) => (if c > 0 then .fault c else .check c, s)

/-- The lanes of an instruction in turn. `items` are lanes with their address and place. -/
def State.runLanes (r : GustRef) (f : State → Nat → Place → LaneOut × State) : List (Nat × Int × Place) → LaneAcc → LaneAcc
  | [], a => a
  | (l, x, p) :: rest, a =>
    if a.check.isSome then a
    else match f a.st l p with
    | (.ok v, s) => State.runLanes r f rest { a with st := s, vals := a.vals ++ (v.map fun w => (l, w)).toList }
    | (.pend p v e, s) =>
      State.runLanes r f rest { a with st := s, pend := a.pend ++ [(l, p, v)], lease := capMin a.lease e }
    | (.fault c, s) => State.runLanes r f rest { a with st := s.laneFault r l c x }
    | (.page e, s) => State.runLanes r f rest { a with st := s.parkWaiting r l, waits := a.waits ++ [(l, e)] }
    | (.check c, s) => { a with st := s, check := some (c, p.detail) }

/-- The places of some lanes of an instruction. -/
def State.lanePlaces (s : State) (g : Gust) (q : Squall) (m : MOps) (write : Bool) : List Nat → List (Nat × Int × Place) × State
  | [] => ([], s)
  | l :: ls =>
    let x := laneAddr g m l
    let (p, s) := s.placeOf q g.priv m.space x write
    let (ps, s) := s.lanePlaces g q m write ls
    ((l, x, p) :: ps, s)

/-- The values of the lanes that have completed. -/
def State.putVals (s : State) (r : GustRef) (d : Nat) (vs : List (Nat × Word)) : State :=
  s.onGust r fun g => vs.foldl (fun g e => g.putLane d e) g

/-- The per-lane work of LD, LDP, ST, STP and AMOP. -/
inductive LaneOp where
  | load
  | store
  | update (k : AtomKind)
deriving DecidableEq, Repr

/-- A request for a word at its home slice or owning port: what it meets there (R50, R51, R53, R238, R414), or the word. One that
fills a sector (`all`) reads every word of it. -/
def State.reachHome (s : State) (d : Nat) (a : WLoc) (ev : Int) (all : Bool) : Answer Word :=
  match a.loc with
  | .dev p =>
    let s := s.flushLoc d (.dev p)
    if s.poisoned p (sectorOf a.word) then (.error (-4), s)
    else (match s.homeFill p ev with
      | (.ok ws, s) => (if (if all then sectorWords (sectorOf a.word) else [a.word]).any (s.homeBad p) then .error (-1) else .ok (ws.getD a.word Word.zero), s)
      | (.error c, s) => (.error c, s))
  | .win _ => (.error 20, s)
  | loc =>
    let s := s.flushLoc d loc
    (match s.portWords loc [sectorOf a.word] with
    | .ok ws => (.ok (ws.getD a.word Word.zero), s)
    | .error c => (.error c, s))

/-- A request of a relaxed access for a sector its L1 does not hold: the near slice answers it, or the home or port. -/
def State.reach (s : State) (d : Nat) (a : WLoc) (ev : Int) : Answer Word :=
  let near := match a.loc with
    | .dev p => if homeDie p = d then none else
      (s.near? d p).bind fun n => (lookupAt n.sectors (sectorOf a.word)).map fun ws => (ws, s.nearBad d p (sectorOf a.word))
    | _ => none
  match near with
  | some (ws, bad) => (if bad then .error (-1) else .ok (ws.getD (a.word % 5) Word.zero), s)
  | none => s.reachHome d a ev true

/-- A relaxed load's request (R244): the word is still to land, or what ends the lane. -/
def State.loadRequest (s : State) (d : Nat) (a : WLoc) (ev : Int) (lease : Nat) : LaneOut × State :=
  match s.reach d a ev with
  | (.ok v, s) => (.pend a v lease, s)
  | (.error c, s) => (if c > 0 then .fault c else .check c, s)

/-- A relaxed load of one word by a gust or one of its lanes (R183, R244, R274): the port of the own core answers at once; any other
word is still to land, once its request has met nothing wrong. -/
def State.loadOf (s : State) (g : Gust) (q : Squall) (m : MOps) (p : Place) : LaneOut × State :=
  if m.ord.acquires then laneOutOf (s.readPlace g q m.ord m.scope m.ev p)
  else match p with
  | .mem a lease =>
    (match (s.l1Hit (dieOf q.core) a).filter fun w => m.ev != -4 || w.dirty.isSome with
      | some w => (if w.bad then .check (-1) else .pend a w.val lease, s)
      | none => s.loadRequest (dieOf q.core) a m.ev lease)
  | .port core u _ =>
    if core = q.core then laneOutOf (s.readPlace g q m.ord m.scope m.ev p)
    else (match laneOutOf (s.readPlace g q m.ord m.scope m.ev p) with
      | (.ok v, s) => (.pend ⟨.win core, u⟩ (v.getD Word.zero) noLease, s)
      | x => x)
  | _ => laneOutOf (s.readPlace g q m.ord m.scope m.ev p)

/-- Whether a lane's store is the one that remains (R182, R202, R252): no higher lane stores to its word. Lower lanes' writes
come before it with no other access between them. -/
def lastWriter (items : List (Nat × Int × Place)) (l : Nat) (p : Place) : Bool :=
  p.key.isNone || !items.any fun y => decide (l < y.1) && y.2.2.key == p.key

/-- What a lane's store meets whose word a higher lane of the instruction stores too: the checks of its request (R50, R238). -/
def State.shadowed (s : State) (d : Nat) (ev : Int) : Place → Answer Unit
  | .mem a _ => s.storeMiss d a ev
  | _ => (.ok (), s)

/-- One lane of a load, store or scratchpad update. -/
def LaneOp.lane (op : LaneOp) (g : Gust) (q : Squall) (m : MOps) (items : List (Nat × Int × Place)) (s : State) (l : Nat)
    (p : Place) : LaneOut × State :=
  match p with
  | .bad c _ => (if c > 0 then .fault c else .check c, s)
  | .page e => (.page e, s)
  | _ => match op with
    | .load => s.loadOf g q m p
    | .store => (match (if lastWriter items l p then s.writePlace g q m.ord m.scope m.ev ((g.v m.b).get l) p
                        else s.shadowed (dieOf q.core) m.ev p) with
      | (.ok _, s) => (.ok none, s)
      | (.error c, s) => (if c > 0 then .fault c else .check c, s))
    | .update k => laneOutOf (s.updatePlace q m.ord m.scope m.ev
        (fun old => k.new old ((g.v m.b).get l) ((g.v m.d).get l)) p)

/-- The sectors that a lane instruction's span of a line covers beyond those that its lanes need (R241): for each line, the sectors
between the first and the last that its lanes reach. -/
def spanGaps (ps : List WLoc) : List (Loc × Nat) :=
  let lines := (ps.map (·.loc)).eraseDups
  lines.flatMap fun loc =>
    let qs := (ps.filter fun a => a.loc == loc).map fun a => sectorOf a.word
    let lo := qs.foldl min 8
    let hi := qs.foldl max 0
    match loc with
    | .win _ => []
    | _ => ((List.range 9).filter fun q => decide (lo < q ∧ q < hi) && !qs.contains q).map fun q => (loc, q)

/-- A sector that an L1 slice must ask for: one that it does not hold, or, for an acquire, holds stale (R238, R279). -/
def State.asksFor (s : State) (d : Nat) (acq : Bool) (loc : Loc) (has : L1Line → Bool) (q : Nat) : Bool :=
  match s.l1? d loc with
  | some x => !has x || (acq && x.stale.contains q)
  | none => true

/-- The lanes of a reading instruction that reach the words `ps` ask for whole spans (R241). `s0` is the state in which they asked. A
request that L1 serves fills the rest of its span into L1, one of code −4 into the near slice (R246), and one that applies at
the home has every sector of its span published there (R284). A store needs no word, and asks for none. -/
def State.askSpans (s s0 : State) (d : Nat) (m : MOps) (atHome : Bool) (ps : List WLoc) : State :=
  let acq := m.ord.acquires
  s.each (spanGaps ps) fun s x =>
    if atHome then (match x.1 with
      | .dev p => s.publish d p x.2
      | _ => s)
    else if !ps.any fun a => a.loc == x.1 && s0.asksFor d acq a.loc (fun l => (l.get? a.word).isSome) (sectorOf a.word) then s
    else if !s0.asksFor d acq x.1 (fun l => l.hasSector x.2) x.2 then s
    else if m.ev = -4 then (match x.1 with
      | .dev p => (s.fetchSector d p x.2 (-4)).2
      | _ => s)
    else s.send (.l1Fill d x.1 x.2 1 m.ev)

/-- The words of memory that some lanes reach. -/
def memPlaces (items : List (Nat × Int × Place)) : List WLoc := items.filterMap fun x => match x.2.2 with
  | .mem a _ => some a
  | _ => none

/-- A lane of an atomic as it issues (R249): the port of the own core updates its word at once, in program order (R183); what the
request for any other word meets, and the update is still to be made at its apply unit. -/
def State.atomLane (g : Gust) (q : Squall) (k : AtomKind) (m : MOps) (s : State) (l : Nat) (p : Place) : LaneOut × State :=
  let out := fun (a : WLoc) (lease : Nat) (x : Answer Word) => match x with
    | (.ok v, s) => (LaneOut.pend a v lease, s)
    | (.error c, s) => (if c > 0 then .fault c else .check c, s)
  match p with
  | .mem a lease =>
    let d := dieOf q.core
    if m.scope.wide then out a lease (s.reachHome d a m.ev false)
    else (match s.l1Hit d a with
      | some w => (if w.bad then .check (-1) else .pend a w.val lease, s)
      | none => out a lease (s.reach d a m.ev))
  | .port core u w =>
    if core = q.core then laneOutOf (s.updatePlace q m.ord m.scope m.ev
      (fun old => k.new old ((g.v m.b).get l) ((g.v m.d).get l)) p)
    else (.pend ⟨.win core, u⟩ (s.winGet core (some q.ctx) w) noLease, s)
  | .bad c _ => (if c > 0 then .fault c else .check c, s)
  | .page e => (.page e, s)

/-- The atomic that the lanes of an instruction make (R204, R253, R254), which reads its registers as it issues. -/
def atomOf (g : Gust) (m : MOps) (k : AtomKind) (a : LaneAcc) : PendAtom :=
  { kind := k, d := m.d, scalar := false, ord := m.ord, scope := m.scope, ev := m.ev, lease := a.lease.getD a.st.ptime, sentAt := a.st.ptime,
    words := a.st.accessRec g.ref,
    items := a.pend.map fun x => { lane := x.1, at_ := x.2.1, dOld := (g.v m.d).get x.1, b := (g.v m.b).get x.1, seen := x.2.2 } }

/-- The lanes `ls` of a lane form executed (R202, R204, R252): values and pending loads go to the destination, lanes whose
page is not present await replay; the sectors of each span beyond those that lanes need are filled too (R241). The answer says
whether a machine check ends it. -/
def State.doLanes (s : State) (g : Gust) (q : Squall) (op : LaneOp) (m : MOps) (items : List (Nat × Int × Place)) : LaneAcc :=
  let st0 := s
  let a := State.runLanes g.ref (op.lane g q m items) items
    { st := s, vals := [], pend := [], waits := [], check := none, lease := none }
  let s := if op = .store then a.st else a.st.putVals g.ref m.d a.vals
  let words := s.accessRec g.ref
  let s := if op = .load then s.askSpans st0 (dieOf q.core) m (m.ord.acquires && m.scope.wide) (memPlaces items) else s
  { a with st := if a.pend.isEmpty then s
                 else s.onGust g.ref fun g =>
                   { g with loads := g.loads ++
                       [{ d := m.d, scalar := false, ev := m.ev, items := a.pend, lease := a.lease.getD s.ptime, words, sentAt := s.ptime }] } }

/-- A cause that ends a gust form: a fault with the failing address, or a machine check with the failing physical address. -/
def failAs (s : State) (c x phys : Int) : Eff := if c > 0 then .fault s c x else .check s c phys

/-- The instruction is a load: a seq-cst load takes its ticket before its reads (R286). -/
def loadForm : Instr → Bool
  | .ld _ _ | .ldp _ _ => true
  | _ => false

/-- The end of a lane form: it waits for replay, or its acquire part follows and it completes (R275). -/
def State.endLanes (a : LaneAcc) (g : Gust) (q : Squall) (i : Instr) (m : MOps) : Eff :=
  match a.check with
  | some (c, d) => .check a.st c d
  | none =>
    if a.waits.isEmpty then
      let s := if loadForm i then a.st else a.st.ticketFor (dieOf q.core) m.ord m.scope
      .done (if m.ord.acquires then s.acquirePart (dieOf q.core) m.scope else s)
    else .wait (a.st.onGust g.ref fun g => { g with replay := some { instr := i, lanes := a.waits } }) .replay

/-- A per-lane memory instruction: its release part, its lanes, its acquire part (R202, R204, R252, R275). -/
def State.laneMemory (s : State) (g : Gust) (c : Ctl) (op : LaneOp) (i : Instr) (m : MOps) : Eff :=
  match s.squall? g.ref.sq with
  | none => .done s
  | some q =>
    let (items, s) := s.lanePlaces g q m (op != .load) (g.activeLanes c.guard)
    let items := match op with
      | .update _ => items.map fun x => (x.1, x.2.1, if updatable m.space x.2.1 then x.2.2 else .bad 20 0)
      | _ => items
    if s.clashes g (items.map (·.2.2)) then .wait s .quiet
    else match s.before g (dieOf q.core) m.ord m.scope with
    | none => .wait s .quiet
    | some s => State.endLanes ((if loadForm i then s.ticketFor (dieOf q.core) m.ord m.scope else s).doLanes g q op m items) g q i m

/-- The place of a gust form's single word, or how the instruction ends there (R73, R308, R309). -/
def State.gustPlace (s : State) (g : Gust) (sp : Space) (x : Int) (write : Bool) (k : State → Squall → Place → Eff) : Eff :=
  match s.squall? g.ref.sq with
  | none => .done s
  | some q =>
    match g.fillFaults.head? with
    | some (_, c) => .fault s c x
    | none => match s.placeOf q g.priv sp x write with
      | (.bad c a, s) => failAs s c x a
      | (.page e, s) => .wait (s.onGust g.ref fun g => { g with pageWait := some e }) .page
      | (p, s) => if s.clashes g [p] then .wait s .quiet else k s q p

/-- The end of a gust form's access: a fault, a machine check, or what follows from the value. -/
def endAccess {α : Type} (x : Answer α) (p : Place) (detail : Int) (k : State → α → Eff) : Eff :=
  match x with
  | (.ok v, s) => k s v
  | (.error c, s) => if c > 0 then .fault s c detail else .check s c p.detail

/-- A scalar load (R183, R202, R252): a relaxed one that its L1 copy does not answer is still to land, unless its result is a
mask word (R102). -/
def State.scalarLoad (s : State) (g : Gust) (m : MOps) : Eff :=
  let x := baseAddr g m.bc m.a m.off
  s.gustPlace g m.space x false fun s q p =>
    match s.before g (dieOf q.core) m.ord m.scope with
    | none => .wait s .quiet
    | some s =>
      let s := s.ticketFor (dieOf q.core) m.ord m.scope
      match (if 78 ≤ m.d then laneOutOf (s.readPlace g q m.ord m.scope m.ev p) else s.loadOf g q m p) with
      | (.ok v, s) =>
        .done ((if m.ord.acquires then s.acquirePart (dieOf q.core) m.scope else s).writeS g.ref m.d (v.getD Word.zero))
      | (.pend a v lease, s) => .done (s.onGust g.ref fun g =>
          { g with loads := g.loads ++ [{ d := m.d, scalar := true, ev := m.ev, items := [(0, a, v)], lease := lease,
                                          words := s.accessRec g.ref, sentAt := s.ptime }] })
      | (.fault c, s) => .fault s c x
      | (.check c, s) => .check s c p.detail
      | (.page e, s) => .wait (s.onGust g.ref fun g => { g with pageWait := some e }) .page

/-- A scalar store (R202, R252): a seq-cst store takes its ticket once it has applied (R286). -/
def State.scalarStore (s : State) (g : Gust) (m : MOps) : Eff :=
  let x := baseAddr g m.bc m.a m.off
  s.gustPlace g m.space x true fun s q p =>
    match s.before g (dieOf q.core) m.ord m.scope with
    | none => .wait s .quiet
    | some s => endAccess (s.writePlace g q m.ord m.scope m.ev (g.s m.b) p) p x fun s _ =>
      let s := s.ticketFor (dieOf q.core) m.ord m.scope
      .done (if m.ord.acquires then s.acquirePart (dieOf q.core) m.scope else s)

end Sys2Proof.Machine
end

