-- ==== Sys2Proof/Machine/Barriers.lean ====
section
/-! DEFINITION. Named barriers (R189 to R200). -/

namespace Sys2Proof.Machine

/-- A barrier record (R189): word 0 and word 1. -/
abbrev BarRec := Word × Word

/-- The state trit of a record. -/
def barState (r : BarRec) : Int := tritI r.1.val 26
/-- The phase trit of a record. -/
def barPhase (r : BarRec) : Int := tritI r.1.val 25
/-- The expected arrivals E of a record. -/
def barE (r : BarRec) : Int := fld r.1.val 24 18
/-- The missing arrivals R of a record. -/
def barR (r : BarRec) : Int := fld r.1.val 17 11

/-- A record is malformed (R189). -/
def barBad (r : BarRec) : Bool := barState r == -1 || !decide (0 ≤ barE r ∧ barE r ≤ 729 ∧ 0 ≤ barR r ∧ barR r ≤ barE r)

/-- The phase after a phase: plus, zero, minus, plus (R191). -/
def nextPhase (t : Int) : Int := if t = -1 then 1 else t - 1

/-- A record with some fields of word 0 set. -/
def barSet (r : BarRec) (st phase e m : Int) : BarRec :=
  (Word.ofInt (setFld (setFld (setFld (setFld r.1.val 26 26 st) 25 25 phase) 24 18 e) 17 11 m), r.2)

/-- The completion of a phase (R191). -/
def barComplete (r : BarRec) : BarRec :=
  ((barSet r (if barE r = 0 then 0 else barState r) (nextPhase (barPhase r)) (barE r) (barE r)).1, Word.zero)

/-- Gust `g` has arrived in this phase. -/
def barArrived (r : BarRec) (g : Nat) : Bool := tritI r.2.val g == 1

/-- How an arrival ends (R195, R198). -/
inductive Arrival where
  | fault (cause : Int)
  | refused
  | taken (r : BarRec) (done : Bool)
deriving DecidableEq, Repr

/-- An arrival of `count` by gust `g` (R195); with `drop` it leaves the barrier too (R198). -/
def barArrive (r : BarRec) (g : Nat) (count : Int) (drop : Bool) : Arrival :=
  if barState r = 0 then .fault 42
  else if barArrived r g then .refused
  else if count > barR r then .fault 43
  else
    let e := if drop then barE r - count else barE r
    let r' : BarRec := ((barSet r (barState r) (barPhase r) e (barR r - count)).1, Word.ofInt (setFld r.2.val g g 1))
    if barR r = count then .taken (barComplete r') true else .taken r' false

/-- The record of a barrier of a squall. -/
def Squall.bar (q : Squall) (b : Nat) : BarRec := q.bars.getD b (Word.zero, Word.zero)

/-- A squall's record replaced. -/
def State.setBar (s : State) (q : SqRef) (b : Nat) (r : BarRec) : State :=
  s.onSquall q fun x => { x with bars := x.bars.set b r }

/-- What the barrier forms share: the squall, and the check of the record (R189). -/
def State.barForm (s : State) (c : Ctl) (b : Nat) (body : Gust → Squall → BarRec → Eff) : Result :=
  s.performGust c fun g =>
    match s.squall? g.ref.sq with
    | none => .done s
    | some q => if barBad (q.bar b) then .fault s 40 0 else body g q (q.bar b)

/-- BARINIT (R194). -/
def execBarinit (c : Ctl) (b n : Nat) (s : State) : Result :=
  s.barForm c b fun g _ r =>
    let n := Int.ofNat n
    if barState r = 0 then .done (s.setBar g.ref.sq b ((barSet r 1 (barPhase r) n n).1, Word.zero))
    else if barE r ≠ n then .fault s 41 0
    else .done s

/-- An accepted arrival: a release at squall scope (R192), the record, and the wake of its phase (R191). -/
def State.barTaken (s : State) (g : Gust) (q : Squall) (b : Nat) (r : BarRec) (done : Bool) : State :=
  let s := (s.releasePart (dieOf q.core) .sq).setBar g.ref.sq b r
  if done then s.wakeBarrier g.ref.sq b else s

/-- A gust that stopped at a barrier re-applies its wait under R196 (R200): with the record inactive, or its phase another, it
goes on; its return is an acquire at squall scope (R192). -/
def State.retestBarriers (s : State) (q : SqRef) : State :=
  match s.squall? q with
  | none => s
  | some sq =>
    let free := fun (g : Gust) => match g.status with
      | .waiting _ (.barrier b t) => !(barState (sq.bar b) == 1 && barPhase (sq.bar b) == t)
      | _ => false
    s.each ((s.gustsOf q).filter fun g => !g.halted && free g) fun s g =>
      (s.acquirePart (dieOf sq.core) .sq).completeFor g.ref

/-- BARARR (R195): an arrival that is accepted applies once every earlier access of the gust has applied (R192). -/
def execBararr (c : Ctl) (d b p n : Nat) (s : State) : Result :=
  s.barForm c b fun g q r =>
    match barArrive r g.ref.gust (Int.ofNat n) false with
    | .fault f => .fault s f 0
    | .refused => .done (s.writeP g.ref p (Mask.tab fun _ => .minus))
    | .taken r' done =>
      if !g.quiet then .wait s .quiet else
      let s := (s.writeS g.ref d (Word.ofInt (barPhase r))).writeP g.ref p (Mask.tab fun _ => .plus)
      .done (s.barTaken g q b r' done)

/-- The wait on a token (R196); its return is an acquire at squall scope (R192). -/
def State.barWaits (s : State) (q : Squall) (b : Nat) (t : Int) : Eff :=
  let r := ((s.squall? q.q).getD q).bar b
  if barState r = 1 ∧ barPhase r = t then .wait s (.barrier b t)
  else .done (s.acquirePart (dieOf q.core) .sq)

/-- BARWAIT (R196). -/
def execBarwait (c : Ctl) (b t : Nat) (s : State) : Result :=
  s.barForm c b fun g q _ =>
    let x := (g.s t).val
    if x < -1 ∨ x > 1 then .fault s 44 0 else s.barWaits q b x

/-- BARSYNC (R197). -/
def execBarsync (c : Ctl) (b : Nat) (s : State) : Result :=
  s.barForm c b fun g q r =>
    if barState r = 0 then .fault s 42 0
    else if barArrived r g.ref.gust then s.barWaits q b (barPhase r)
    else if !g.quiet then .wait s .quiet
    else match barArrive r g.ref.gust 1 false with
    | .fault f => .fault s f 0
    | .refused => s.barWaits q b (barPhase r)
    | .taken r' done => (s.barTaken g q b r' done).barWaits q b (barPhase r)

/-- BARDROP (R198). -/
def execBardrop (c : Ctl) (b p n : Nat) (s : State) : Result :=
  s.barForm c b fun g q r =>
    match barArrive r g.ref.gust (Int.ofNat n) true with
    | .fault f => .fault s f 0
    | .refused => .done (s.writeP g.ref p (Mask.tab fun _ => .minus))
    | .taken r' done =>
      if !g.quiet then .wait s .quiet else .done ((s.writeP g.ref p (Mask.tab fun _ => .plus)).barTaken g q b r' done)

/-- BARQRY (R199): whatever the record's state. -/
def execBarqry (c : Ctl) (d b : Nat) (s : State) : Result :=
  s.performGust c fun g =>
    match s.squall? g.ref.sq with
    | none => .done s
    | some q => .done (s.writeSs g.ref d [(q.bar b).1, (q.bar b).2])

end Sys2Proof.Machine
end

