-- ==== Sys2Proof/Machine/Control.lean ====
section
/-! DEFINITION. The control forms (R113 to R123). -/

namespace Sys2Proof.Machine

/-- NOP (R115). -/
def execNop (c : Ctl) (s : State) : Result := s.performGust c fun _ => .done s

/-- A transfer to a target checked by R114. -/
def State.transfer (s : State) (g : Gust) (t : Int) : Eff :=
  match s.targetFault g t with
  | some f => .fault s f 0
  | none => .goto s t

/-- BRA (R116). -/
def execBra (c : Ctl) (off : Int) (s : State) : Result := s.performGust c fun g => s.transfer g (s.basePc g + off)

/-- The condition of BRP (R116). -/
def brpTaken (mode : BrpMode) (p : Mask) (ls : List Nat) : Bool :=
  match mode with
  | .any => ls.any fun l => p.get l == .plus
  | .all => ls.all fun l => p.get l == .plus
  | .none => !ls.any fun l => p.get l == .plus
  | .unk => ls.any fun l => p.get l == .zero

/-- BRP (R116). -/
def execBrp (c : Ctl) (mode : BrpMode) (p : Nat) (off : Int) (s : State) : Result :=
  s.performGust c fun g =>
    if brpTaken mode (g.p p) (g.activeLanes c.guard) then s.transfer g (s.basePc g + off) else .done s

/-- BTRI (R117). -/
def execBtri (c : Ctl) (a : Nat) (plus minus : Int) (s : State) : Result :=
  s.performGust c fun g =>
    let x := (g.s a).val
    if x < 0 then s.transfer g (s.basePc g + minus)
    else if x > 0 then s.transfer g (s.basePc g + plus)
    else .done s

/-- The front ends for a control form in a handler (R401). -/
def State.handlerControl (s : State) (g : Gust) : Eff := .over (s.endFrontOf g 112 [])

/-- SPLIT (R105, R118). -/
def execSplit (_c : Ctl) (p : Nat) (join els : Int) (s : State) : Result :=
  s.perform fun g =>
    if g.trapActive then s.handlerControl g
    else
      let rpc := s.basePc g + join
      let epc := s.basePc g + els
      let pk := g.p p
      let lane := fun (l : Nat) (t : Trit) => g.mask.get l == .plus && pk.get l == t
      let two := epc != rpc && (List.range 81).any fun l => lane l .minus
      match s.targetFault g rpc, (if epc = rpc then none else s.targetFault g epc) with
      | some f, _ => .fault s f 0
      | none, some f => .fault s f 0
      | none, none =>
        if g.depth + (if two then 2 else 1) > 27 then .fault s 5 0
        else
          let outer : StackEntry := { kind := .plus, hold := false, pc := rpc, mask := g.mask, rpc }
          let other : StackEntry :=
            { kind := .minus, hold := false, pc := epc, rpc,
              mask := Mask.tab fun l => if lane l .minus then .plus else .zero }
          let stack := (if two then [other] else []) ++ outer :: g.stack
          let mask := Mask.tab fun l =>
            if g.mask.get l = .plus then (if pk.get l = .plus then .plus else .zero) else g.mask.get l
          .region (s.setGust ({ g with stack }.withMask mask)) (g.pc + 1) false

/-- JOIN (R119): a popped entry that is held stops the gust (R438), after the packet of the JOIN (R441). -/
def execJoin (_c : Ctl) (s : State) : Result :=
  s.perform fun g =>
    if g.trapActive then s.handlerControl g
    else match g.stack with
    | [] => .fault s 6 0
    | e :: rest =>
      if e.rpc ≠ s.basePc g then .fault s 6 0
      else
        let s' := s.setGust ({ g with stack := rest }.withMask e.mask)
        if e.kind = .minus then
          (if e.hold then
            .over (((s'.onGust g.ref fun h => { h with pc := e.pc, sent := false }).trace g.ref 2 g.pc).stopGust g.ref 4)
           else .region s' e.pc false)
        else .region s' (g.pc + 1) true

/-- The place in the stack of the n-th reconvergence entry from the top (R120). -/
def nthRegion : List StackEntry → Nat → Option Nat
  | [], _ => none
  | e :: es, n =>
    if e.kind = .plus then (if n ≤ 1 then some 0 else (nthRegion es (n - 1)).map (· + 1))
    else (nthRegion es n).map (· + 1)

/-- A mask with some lanes cleared. -/
def Gust.clearLanes (ls : List Nat) (m : Mask) : Mask := Mask.tab fun l => if ls.contains l then .zero else m.get l

/-- BREAK (R107, R120). -/
def execBreak (c : Ctl) (n : Nat) (s : State) : Result :=
  s.performGust c fun g =>
    if g.trapActive then s.handlerControl g
    else
      let ls := g.activeLanes c.guard
      if ls.isEmpty then .done s
      else match nthRegion g.stack n with
      | none => .fault s 7 0
      | some k =>
        let cut := fun (e : StackEntry) => { e with mask := Gust.clearLanes ls e.mask }
        let stack := discardEmpty ((g.stack.take k).map cut ++ g.stack.drop k)
        .region (s.setGust ({ g with stack }.withMask (Gust.clearLanes ls g.mask))) (g.pc + 1) false

/-- A call (R121): the return PC goes to `d`. -/
def State.callTo (s : State) (g : Gust) (d : Nat) (t : Int) : Eff :=
  match s.targetFault g t with
  | some f => .fault s f 0
  | none => .goto (s.writeS g.ref d (Word.ofInt (g.pc + 1))) t

/-- CALL (R121). -/
def execCall (c : Ctl) (d : Nat) (off : Int) (s : State) : Result :=
  s.performGust c fun g => s.callTo g d (s.basePc g + off)

/-- CALLI (R121). -/
def execCalli (c : Ctl) (d a : Nat) (s : State) : Result := s.performGust c fun g => s.callTo g d (g.s a).val

/-- RET (R121). -/
def execRet (c : Ctl) (a : Nat) (s : State) : Result := s.performGust c fun g => s.transfer g (g.s a).val

/-- EXIT (R107, R122). -/
def execExit (c : Ctl) (s : State) : Result :=
  s.performGust c fun g =>
    if g.trapActive then s.handlerControl g
    else
      let ls := g.activeLanes c.guard
      let cut := fun (e : StackEntry) => { e with mask := Gust.clearLanes ls e.mask }
      let stack := discardEmpty (g.stack.map cut)
      .region (s.setGust ({ g with stack }.withMask (Gust.clearLanes ls g.mask))) (g.pc + 1) false

/-- YIELD (R123): the gust becomes the youngest, and is yielded for n cycles of its core. -/
def execYield (c : Ctl) (n : Nat) (s : State) : Result :=
  s.performGust c fun g =>
    let (age, s) := s.fresh
    let until_ := (s.squall? g.ref.sq).elim 0 fun q => (s.core q.core).cycle + n
    let s := (s.onGust g.ref fun g => { g with age }).complete g (g.pc + 1) 0 0 false
    .over (s.onGust g.ref fun h =>
      if n > 0 ∧ h.status = .running ∧ h.trapActive = g.trapActive then { h with status := .yielded until_ } else h)

end Sys2Proof.Machine
end

