-- ==== Sys2Proof/Machine/Commands.lean ====
section
/-! DEFINITION. Queued commands (R22, R214, R222, R319 to R324, R399): acceptance, batches, the fault record of a command,
its end, and how a running command reaches the words it names (R312, R321, R322, R479). -/

namespace Sys2Proof

/-- The op field of a form (R92). -/
def Instr.opOf (i : Instr) : Int := (i.fields.map (·.op)).getD 0

end Sys2Proof

namespace Sys2Proof.Machine

/-- The five queues (R222, R319). -/
inductive CmdQ where
  | matrix | fill | copy | codec | paging
deriving DecidableEq, Repr

/-- The queue of a form. -/
def cmdQ : Instr → CmdQ
  | .ofill _ _ _ _ _ => .fill
  | .cpy _ _ _ _ _ _ _ _ | .cpyFrame _ _ _ _ _ | .mcast _ _ _ _ _ _ | .ovl _ _ _ _ _ _ => .copy
  | .thaw _ _ _ _ _ _ _ _ | .freeze _ _ _ _ _ _ _ _ _ => .codec
  | .pgin _ _ _ | .pgout _ _ _ | .pageIn _ => .paging
  | _ => .matrix

/-- A queue's depth (R222, R319). -/
def CmdQ.depth : CmdQ → Nat
  | .paging => Config.pagingDepth
  | _ => Config.queueDepth

/-- The commands of a queue. -/
def State.queue (s : State) (core : Nat) : CmdQ → List Cmd
  | .matrix => (s.core core).matrixQ
  | .fill => (s.core core).fillQ
  | .copy => (s.core core).copyQ
  | .codec => (s.core core).codecQ
  | .paging => s.paging

/-- The state with a function applied to a queue. -/
def State.onQueue (s : State) (core : Nat) (q : CmdQ) (f : List Cmd → List Cmd) : State :=
  match q with
  | .matrix => s.onCore core fun c => { c with matrixQ := f c.matrixQ }
  | .fill => s.onCore core fun c => { c with fillQ := f c.fillQ }
  | .copy => s.onCore core fun c => { c with copyQ := f c.copyQ }
  | .codec => s.onCore core fun c => { c with codecQ := f c.codecQ }
  | .paging => { s with paging := f s.paging }

/-- The state with a queued command replaced. -/
def State.setCmd (s : State) (c : Cmd) : State :=
  s.onQueue c.core (cmdQ c.instr) fun l => l.map fun (x : Cmd) => if x.id == c.id then c else x

/-- A command as its form issues it. -/
def State.mkCmd (s : State) (g : Gust) (q : Squall) (i : Instr) (scal : List Int) (words : List Word) : Cmd :=
  { id := 0, instr := i, who := g.ref, ctx := q.ctx, core := q.core, priv := g.priv, batch := 0,
    pcs := (Word.ofInt g.pc, Word.ofInt (s.otherPc g), Word.ofNat g.kcount), scal, words, targets := [], members := [],
    stage := .queued, fault := none, issuedAt := 0, prior := [], pageWait := none, waitAt := 0, fillFault := none, pos := 0,
    decoded := false,
    p0 := 0, raw := [], snap := [], oldSeg := none, record := none }

/-- The gusts and batches a command counts for (R221, R323). -/
def Cmd.refs (c : Cmd) : List (GustRef × Nat) :=
  if c.members.isEmpty then [(c.who, c.batch)] else c.members.map fun m => (m.who, m.batch)

/-- The slots a command fills (R213, R343). -/
def Cmd.fills (c : Cmd) : List Nat :=
  match c.instr with
  | .ofill _ o _ _ _ => [o]
  | .thaw _ _ .slots d _ _ n _ => (List.range n).map (· + d)
  | _ => []

/-- A command's acceptance is a release at device scope (R287): the engine commands, and those fill and matrix commands
that read or write words of memory (DEDUCED, log entry 26). -/
def releasesAt : Instr → Bool
  | .ofill _ _ _ _ .regs => false
  | .ald _ _ _ _ .regs => false
  | .mma _ _ _ _ _ _ | .azero _ _ _ => false
  | _ => true

/-- There is room in the queue of a command, and no earlier command waits for it. -/
def State.roomFor (s : State) (c : Cmd) : Bool :=
  decide ((s.queue c.core (cmdQ c.instr)).length < (cmdQ c.instr).depth) &&
    (!(s.core c.core).acceptQ.any fun x => cmdQ x.instr == cmdQ c.instr) && (cmdQ c.instr != .paging || s.pagingWait.isEmpty)

/-- A slot is not ready (R214, R216). -/
def Squall.unready (q : Squall) (o : Nat) : Bool := (q.slot o).fill != .ready

/-- The segment entry an OVL names, as it stands (R338). -/
def State.segOf (s : State) (c : Cmd) : Option Seg :=
  match c.instr with
  | .ovl _ _ _ _ e _ => (s.core c.core).segs.getD e none
  | _ => none

/-- The entry of an accepted OVL is pending, with its old and its new range of PCs (R338). -/
def State.overlayPend (s : State) (c : Cmd) : State :=
  match c.instr with
  | .ovl _ _ _ _ e _ =>
    let n := fun (i : Nat) => c.scal.getD i 0
    s.setSeg c.core e (some
      { image := (s.squall? c.who.sq).elim 0 (·.image), first := n 0, count := (n 1).toNat, index := (n 3).toNat,
        pending := true, reserved := false, oldFirst := c.oldSeg.elim 0 (·.first), oldCount := c.oldSeg.elim 0 (·.count),
        oldIndex := c.oldSeg.elim 0 (·.index) })
  | _ => s

/-- The fills of a command become pending at its issue (R214, R343). -/
def State.beginFills (s : State) (c : Cmd) : Cmd × State :=
  match s.squall? c.who.sq with
  | none => (c, s)
  | some q =>
    let (n, s) := s.fresh
    ({ c with issuedAt := n + 1, prior := c.fills.map fun o => (q.slot o).fill },
     if c.fills.isEmpty then s
     else s.setSquall { q with slots := c.fills.foldl (fun l o => l.modify o SlotSt.beginFill) q.slots })

/-- A command that leaves before it has been accepted gives its fills back (R22, R409). -/
def State.undoFills (s : State) (c : Cmd) : State :=
  s.onSquall c.who.sq fun q =>
    { q with slots := (List.zip c.fills c.prior).foldl (fun l e => l.modify e.1 fun x => x.undoFill e.2) q.slots }

/-- A command enters its queue (R221, R222, R319, R323): it joins the open batches, and an overlay's entry is pending. -/
def State.acceptCmd (s : State) (c : Cmd) : State :=
  let (n, s) := s.fresh
  let batchOf := fun (r : GustRef) => ((s.gust? r).elim 0 (·.bnum)) + 1
  let ms := c.members.map fun (m : MmaMember) => { m with batch := batchOf m.who }
  let c := { c with id := n, batch := batchOf c.who, members := ms, oldSeg := s.segOf c }
  let s := s.onQueue c.core (cmdQ c.instr) fun l => l ++ [c]
  let touch := fun (s : State) (r : GustRef) (ts : List Nat) (b : Nat) =>
    s.onGust r fun g => { g with touched := g.touched ++ ts.map fun t => (t, b) }
  let s := if ms.isEmpty then touch s c.who c.tiles c.batch else s.each ms fun s m => touch s m.who [m.tile] m.batch
  let s := s.each (if ms.isEmpty then [c.who] else ms.map (·.who)) fun s r => s.onGust r fun g => { g with opened := true }
  s.overlayPend c

/-- A gust's command issued (R22, R222, R287, R319): accepted, or the gust stalls until there is room. -/
def State.submit (s : State) (g : Gust) (c : Cmd) : Eff :=
  if releasesAt c.instr && !g.quiet then .wait s .quiet
  else
    let s := if releasesAt c.instr then s.releasePart (dieOf c.core) .dv else s
    let (c, s) := s.beginFills c
    if s.roomFor c then .done (s.acceptCmd c)
    else .wait (s.onCore c.core fun k => { k with acceptQ := k.acceptQ ++ [c] }) .accept

/-- Every command that has been accepted and has not ended. -/
def State.allCmds (s : State) : List Cmd :=
  (s.cores.flatMap fun c => c.matrixQ ++ c.fillQ ++ c.copyQ ++ c.codecQ) ++ s.paging

/-- A gust has an accepted command that has not ended, in a batch numbered `n` or lower. -/
def State.cmdPending (s : State) (r : GustRef) (n : Nat) : Bool :=
  s.allCmds.any fun c => c.record.isNone && c.refs.any fun x => x.1 == r && decide (x.2 ≤ n)

/-- BATCH_COMPLETE (R323): the lowest closed batch that is not complete completes once its commands have ended. -/
def State.batchComplete (s : State) (r : GustRef) : State :=
  match s.gust? r with
  | some g => if g.doneUpto < g.bnum ∧ !s.cmdPending r (g.doneUpto + 1) then s.setGust { g with doneUpto := g.doneUpto + 1 } else s
  | none => s

/-- The path-table index of a gust (R110), bound or shuttered. -/
def State.depthOf (s : State) (r : GustRef) : Nat :=
  match s.gust? r with
  | some g => g.depth
  | none => ((s.shut? r.sq).bind fun x => x.gs.find? fun g => g.ref == r).elim 0 Gust.depth

/-- The record of a command (R324, R397). -/
def State.cmdRec (s : State) (c : Cmd) (cls cause detail : Int) : Rec :=
  let depth := s.depthOf c.who
  [recHead cls cause 0 (-1) (Int.ofNat depth), c.pcs.1, c.pcs.2.1, c.pcs.2.2, Word.ofInt detail, s.ptimeLow,
   Word.ofInt (pow3 18 * Int.ofNat c.core + pow3 14 * Int.ofNat c.who.gust + pow3 8 * c.instr.opOf),
   Word.ofNat c.who.front, Word.ofNat c.who.lin]

/-- A command fault recorded against its batch (R323, R324, R399): the 28th is only counted. -/
def State.recordFault (s : State) (r : GustRef) (f : CmdFault) : State :=
  let put := fun (g : Gust) =>
    if g.faults.length < 27 then { g with faults := g.faults ++ [f] }
    else { g with lost := g.lost + 1, lostIn := if g.lost = 0 then f.batch else min g.lostIn f.batch }
  match s.gust? r with
  | some g => s.setGust (put g)
  | none => { s with shuttered := s.shuttered.map fun (x : Shuttered) =>
      if x.q == r.sq then { x with gs := x.gs.map fun g => if g.ref == r then put g else g } else x }

/-- A command leaves its queue (R223, R321, R324): its fault is recorded and its fills end. It stays while the page of a slot
state in a shutter image is being filled (R480). -/
def State.endCmd (s : State) (c : Cmd) (fault : Option (Int × Int)) : State :=
  match s.fillsReach c.who.sq c.fills with
  | (false, s) => s
  | (true, s) =>
    let s := (s.onQueue c.core (cmdQ c.instr) fun l => l.filter fun x => x.id != c.id).refillPaging
    let f : Option CmdFault := fault.map fun e =>
      { batch := c.batch, words := s.cmdRec c clsCommand e.1 e.2, slot := c.fills.head?, serial := c.id }
    let s := match f with
      | some f => s.recordFault c.who f
      | none => s
    s.each c.fills fun s o => s.endFill c.who.sq o (f.map fun (x : CmdFault) => { x with slot := some o })

/-- A machine check of a command (R397, R414, R415): the record of a page-in that a walk started names no instruction. -/
def State.checkCmd (s : State) (c : Cmd) (cause detail : Int) : State :=
  let rec_ := if c.record.isSome then s.bareRec clsCheck cause detail else s.cmdRec c clsCheck cause detail
  ((s.onQueue c.core (cmdQ c.instr) fun l => l.filter fun x => x.id != c.id).refillPaging).machineCheck c.ctx rec_

/-- COMMAND_ACCEPT (R22, R222): the first command of a core that waits for room and finds it is accepted, and its gusts go
on. An MMA that is then early traps where the early-touch check is on (R216). -/
def State.commandAccept (s : State) (core : Nat) (accept : State → Cmd → State) : State :=
  match (s.core core).acceptQ.find? fun c => decide ((s.queue core (cmdQ c.instr)).length < (cmdQ c.instr).depth) &&
      (cmdQ c.instr != .paging || s.pagingWait.isEmpty) with
  | none => s
  | some c => accept (s.onCore core fun k => { k with acceptQ := k.acceptQ.erase c }) c

/-- A command's translation (R308, R312): an answer, a final failure, the entry of a page being filled with the address that
waits on it, or a page of a shutter image being filled (R480). -/
inductive Xl (α : Type) where
  | ok (v : α)
  | fail (cause detail : Int)
  | wait (entry : Nat) (x : Int)
  | hold
deriving DecidableEq, Repr

/-- A word as a running command reaches it (R322). -/
inductive CmdPlace where
  | mem (a : WLoc)
  | sq (q : SqRef) (w : SqWord)
  | phys (core : Nat) (w : WinReg)
  | gone
deriving DecidableEq, Repr

/-- The scratchpad words of the issuing squall. -/
def State.scratchOf (s : State) (q : SqRef) : Option Nat :=
  match s.squall? q with
  | some b => some b.alloc.scratch
  | none => (s.shut? q).map (·.alloc.scratch)

/-- A window word by where the context's squalls stood at issue (R322), else by who owns it now (R186). -/
def State.cmdWindow (s : State) (c : Cmd) (core : Nat) (w : WinReg) : CmdPlace :=
  match c.snap.findSome? fun p => if p.core = core then (p.find w).map fun x => (p.q, x) else none with
  | some (q, x) => .sq q x
  | none => if (s.winOwners core w).contains c.ctx then .phys core w else .gone

/-- A word of a shuttered squall lies in its image (R322): the image's page must be there, and a failure of its translation is
the machine check of a read or a write of an image (R410, R480). -/
def State.reachPlace (s : State) (write : Bool) (p : CmdPlace) : Xl CmdPlace × State :=
  match p with
  | .sq q w => (match s.squall? q, s.shut? q with
    | none, some x => (match s.sysTranslate x.ctx (x.wordAt w) write with
      | (.ok _, s) => (.ok p, s)
      | (.wait _, s) => (.hold, s)
      | (.fault e a, s) => (.fail (if write then -8 else -9) (if e < 0 then a else 0), s))
    | _, _ => (.ok p, s))
  | _ => (.ok p, s)

/-- The cache of leaves that a command's accesses use (R305): frame commands use their frame translator's. -/
def Cmd.via (c : Cmd) : Via :=
  match c.instr with
  | .ofill _ _ _ _ .frame | .cpyFrame _ _ _ _ _ => .ahead
  | _ => .walk

/-- An address of a running command (R73, R179, R184, R304, R312). -/
def State.cmdPlace (s : State) (c : Cmd) (sp : Space) (x : Int) (write : Bool) : Xl CmdPlace × State :=
  match sp with
  | .g =>
    if x < 1 ∨ x > wordMax then (.fail 20 x, s)
    else (match s.translateBy c.via c.core c.ctx x write c.priv true with
      | (.ok a, s) => (.ok (.mem a), s)
      | (.fault e a, s) => (.fail e (if e < 0 then a else x), s)
      | (.wait e, s) => (.wait e x, s))
  | .p =>
    if x ≥ 0 then
      (match s.scratchOf c.who.sq with
        | some n => if x < Int.ofNat n then s.reachPlace write (.sq c.who.sq (.scratch x.toNat)) else (.fail 20 x, s)
        | none => (.ok .gone, s))
    else if x < -14348907 then (.fail 20 x, s)
    else
      let y := (x + 14348907).toNat
      (match s.cmdWindow c (27 * dieOf c.core + y / 531441) (.scratch (y % 531441)) with
        | .gone => (.fail 20 x, s)
        | p => s.reachPlace write p)
  | .w => match winPlace x with
    | some (core, u) => (match winReg (coreIsD core) u with
      | some w => s.reachPlace write (s.cmdWindow c core w)
      | none => (.fail 20 x, s))
    | none => (.fail 20 x, s)

/-- Every address of a command translated before it reads or writes a word (R312). -/
def State.cmdPlaces (s : State) (c : Cmd) (sp : Space) (write : Bool) : List Int → Xl (List CmdPlace) × State
  | [] => (.ok [], s)
  | x :: xs => match s.cmdPlace c sp x write with
    | (.ok p, s) => (match s.cmdPlaces c sp write xs with
      | (.ok ps, s) => (.ok (p :: ps), s)
      | e => e)
    | (.fail f d, s) => (.fail f d, s)
    | (.wait e y, s) => (.wait e y, s)
    | (.hold, s) => (.hold, s)

/-- A raw line is "line kind" for a command (R479). -/
def asCmd {α : Type} (x : Answer α) : Answer α :=
  match x with
  | (.error 22, s) => (.error 79, s)
  | x => x

/-- A command's read of a word (R216, R321, R322). -/
def State.cmdRead (s : State) (c : Cmd) : CmdPlace → Answer Word
  | .mem a => asCmd (s.readHome (dieOf c.core) a)
  | .sq q w => (match s.squall? q with
    | some b => (match s.winOf b w with
      | some r => s.touchRead none c.ctx b.core r
      | none => (.ok Word.zero, s))
    | none => match s.shut? q with
      | some x => (match s.sysRead x.ctx (x.wordAt w) with
        | (.ok v, s) => (.ok v, s)
        | (_, s) => (.error (-9), s))
      | none => (.ok Word.zero, s))
  | .phys core w => if (s.winOwners core w).contains c.ctx then s.touchRead none c.ctx core w else (.ok Word.zero, s)
  | .gone => (.ok Word.zero, s)

/-- The batches of a command wrote a remote or host line (R288). -/
def State.markFar (s : State) (c : Cmd) : State :=
  s.each c.refs fun s r => s.onGust r.1 fun g => { g with far := if g.far.contains r.2 then g.far else r.2 :: g.far }

/-- A command's write of a word (R287, R321, R322). -/
def State.cmdWrite (s : State) (c : Cmd) (v : Word) : CmdPlace → Answer Unit
  | .mem a =>
    let s := match a.loc with
      | .dev _ => s
      | _ => s.markFar c
    asCmd (s.writeAtHome (dieOf c.core) a v)
  | .sq q w => (.ok (), s.putSq q w v)
  | .phys core w => (.ok (), if (s.winOwners core w).contains c.ctx then s.windowWrite core (some c.ctx) v w else s)
  | .gone => (.ok (), s)

/-- The answer of several accesses of a command: a value, or the cause and detail of the failure that ends them. -/
abbrev CmdAnswer (α : Type) := Except (Int × Int) α × State

/-- The physical word address of a place of memory of the package, or 0 (R397). -/
def CmdPlace.physAddr : CmdPlace → Int
  | .mem a => a.phys
  | _ => 0

/-- A failure at a place: a machine check names the physical address (R397). -/
def failAt (p : CmdPlace) (c : Int) : Int × Int := (c, if c < 0 then p.physAddr else 0)

/-- A failure at a place, which may lie in the shutter image of a squall. -/
def State.failsAt (s : State) (p : CmdPlace) (c : Int) : Int × Int :=
  match p with
  | .sq q w => (match s.shut? q with
    | some x => (match s.sysTranslate x.ctx (x.wordAt w) false with
      | (.ok a, _) => (c, if c < 0 then a.phys else 0)
      | _ => failAt p c)
    | none => failAt p c)
  | _ => failAt p c

/-- A command's reads in turn. -/
def State.cmdReads (s : State) (c : Cmd) : List CmdPlace → CmdAnswer (List Word)
  | [] => (.ok [], s)
  | p :: ps => match s.cmdRead c p with
    | (.error e, s) => (.error (s.failsAt p e), s)
    | (.ok v, s) => (match s.cmdReads c ps with
      | (.ok vs, s) => (.ok (v :: vs), s)
      | e => e)

/-- A command's writes in turn; those before a failure stay (R321). -/
def State.cmdWrites (s : State) (c : Cmd) : List (CmdPlace × Word) → CmdAnswer Unit
  | [] => (.ok (), s)
  | (p, v) :: ps => match s.cmdWrite c v p with
    | (.ok _, s) => s.cmdWrites c ps
    | (.error e, s) => (.error (s.failsAt p e), s)

/-- How the run of a command ends. -/
inductive Ran where
  | ok (s : State)
  | fail (s : State) (cause detail : Int)
  | wait (s : State) (entry : Nat) (x : Int)
  | hold (s : State)
deriving DecidableEq, Repr

/-- What follows from a translation. -/
def thenXl {α : Type} (x : Xl α × State) (k : State → α → Ran) : Ran :=
  match x with
  | (.ok v, s) => k s v
  | (.fail c d, s) => .fail s c d
  | (.wait e x, s) => .wait s e x
  | (.hold, s) => .hold s

/-- What follows from reads or writes. -/
def thenRan {α : Type} (x : CmdAnswer α) (k : State → α → Ran) : Ran :=
  match x with
  | (.ok v, s) => k s v
  | (.error c, s) => .fail s c.1 c.2

/-- A queued command as it stands now. -/
def State.cmdNow (s : State) (c : Cmd) : Cmd := ((s.queue c.core (cmdQ c.instr)).find? fun x => x.id == c.id).getD c

/-- The words of a command that go to stores of cores land one after the other, between the issues of the gusts there (R137), in an
order that the device chooses, and as many in one step as it chooses (log entry 3). `c.raw` holds the words, `c.order` the order, and
`c.pos` how many have landed. -/
def State.landWords (s : State) (c : Cmd) (ps : List CmdPlace) (fin : State → Ran) : Ran :=
  let (k, s) := s.pick (c.raw.length - c.pos)
  let all := List.zip ps c.raw
  let now := ((c.order.drop c.pos).take (k + 1)).filterMap fun i => all[i]?
  thenRan (s.cmdWrites c now) fun s _ =>
    if c.pos + k + 1 < c.raw.length then .hold (s.setCmd { c with pos := c.pos + k + 1, pageWait := none }) else fin s

/-- Words of a command written at their places: in global memory at once, elsewhere one after the other (R137). -/
def State.writeRun (s : State) (c : Cmd) (sp : Space) (ps : List CmdPlace) (ws : List Word) (fin : State → Ran) : Ran :=
  if sp = .g ∨ ws.isEmpty then thenRan (s.cmdWrites c (List.zip ps ws)) fun s _ => fin s
  else
    let (order, s) := s.anyOrder ws.length (List.range ws.length)
    let c := { c with raw := ws, order, pos := 0, decoded := true, pageWait := none }
    (s.setCmd c).landWords c ps fin

/-- A started command runs on: a page wait is remembered, a final failure is recorded when it completes (R309, R312, R321),
and a machine check discards its context (R415). -/
def State.advance (s : State) (c : Cmd) (body : State → Ran) : State :=
  match c.fillFault with
  | some e => s.setCmd { c with stage := .ran, fault := some (e, c.waitAt), fillFault := none, pageWait := none }
  | none => match body s with
    | .ok s => s.setCmd { s.cmdNow c with stage := .ran, pageWait := none }
    | .fail s e d =>
      if e < 0 then s.checkCmd c e d else s.setCmd { s.cmdNow c with stage := .ran, fault := some (e, d), pageWait := none }
    | .wait s e x => s.setCmd { s.cmdNow c with pageWait := some e, waitAt := x }
    | .hold s => s

/-- The head of a queue that has run leaves it (R223, R321). -/
def State.completeHead (s : State) (core : Nat) (q : CmdQ) : State :=
  match s.queue core q with
  | c :: _ => if c.stage = .ran then s.endCmd c c.fault else s
  | [] => s

/-- The fault of an address that a form checks at issue (R179, R186, R73). -/
def State.addrFault (s : State) (q : Squall) (priv : Bool) (sp : Space) (x : Int) : Option Int :=
  match sp with
  | .g => if x < 1 ∨ x > wordMax then some 20 else none
  | .p => (match s.scratchPlace q x with
    | .bad c _ => some c
    | _ => none)
  | .w => match s.winFind q.ctx priv x with
    | .error c => some c
    | .ok _ => none

/-- The first address of a list that fails, with its fault. -/
def State.addrsFault (s : State) (q : Squall) (priv : Bool) (sp : Space) (xs : List Int) : Option (Int × Int) :=
  xs.findSome? fun x => (s.addrFault q priv sp x).map fun c => (c, x)

/-- `n` consecutive addresses. -/
def addrsFrom (x : Int) (n : Nat) : List Int := (List.range n).map fun i => x + Int.ofNat i

/-- The checks of an overlay (R338). -/
def State.overlayFault (s : State) (q : Squall) (e : Nat) (p n i0 : Int) : Option (Int × Int) :=
  if n < 1 ∨ n > 19683 ∨ p < 0 ∨ i0 < 0 ∨ i0 + n > 19683 ∨ (q.isD ∧ (p % 3 ≠ 0 ∨ n % 3 ≠ 0)) then some (70, 0)
  else if ((s.core q.core).segs.getD e none).any fun x => x.image != q.image then some (72, 0)
  else if s.segMeets q.core e { image := q.image, first := p, count := n.toNat, index := i0.toNat, pending := false,
                                reserved := false, oldFirst := 0, oldCount := 0, oldIndex := 0 } then some (73, 0)
  else none

/-- The checks of an OVL that has waited for room, made again when it is accepted (R336: the ranges of the valid and pending entries of
a core never overlap). -/
def State.lateOverlay (s : State) (c : Cmd) : Option (Int × Int) :=
  match c.instr, s.squall? c.who.sq with
  | .ovl _ _ _ _ e _, some q => s.overlayFault q e (c.scal.getD 0 0) (c.scal.getD 1 0) (c.scal.getD 3 0)
  | _, _ => none

/-- A fault of a gust that waits, from the step of another (R220). -/
def State.faultFor (s : State) (r : GustRef) (cause detail : Int) : State :=
  let op := s.op
  let own := match (s.gust? r).map (·.status) with
    | some (.waiting o _) => o
    | _ => op
  { ({ s with op := own } : State).gustFault r cause 0 detail with op := op }

end Sys2Proof.Machine
end

