-- ==== Sys2Proof/Machine/Frames.lean ====
section
/-! DEFINITION. Frames (R313 to R315) and the translation forms PROBE and FREF (R316 to R318). -/

namespace Sys2Proof.Machine

/-- A frame record (R313). -/
structure Frame where
  base : Int
  pr : Int
  pc : Int
  sr : Int
  gr : Int
  gc : Int
  si : Int
  sj : Int
  ahead : Int
deriving DecidableEq, Repr

/-- The record of nine words, unless it is malformed (R313). -/
def frameOf (ws : List Word) : Option Frame :=
  let w := fun (i : Nat) => (ws.getD i Word.zero).val
  let f : Frame := { base := w 0, pr := w 1, pc := w 2, sr := w 3, gr := w 4, gc := w 5, si := w 6, sj := w 7, ahead := w 8 }
  if within f.base 1 wordMax && within f.pr 1 729 && within f.pc 1 729 && decide (f.pr * f.pc ≤ 729) && within f.gr 1 19683 && within f.gc 1 19683 &&
    within f.ahead 0 27 then some f else none

/-- Panes of a frame. -/
def Frame.panes (f : Frame) : Int := f.gr * f.gc

/-- Words of a pane. -/
def Frame.words (f : Frame) : Int := f.pr * f.pc

/-- The address of word `n` of pane `p` (R314). -/
def Frame.addr (f : Frame) (p n : Int) : Int :=
  f.base + p / f.gc * f.si + p % f.gc * f.sj + n / f.pc * f.sr + n % f.pc

/-- The addresses of a pane's words. -/
def Frame.pane (f : Frame) (p : Int) : List Int := (List.range f.words.toNat).map fun n => f.addr p (Int.ofNat n)

/-- The walk-ahead of a frame translator (R315): the pages of the following panes are translated into its walk-ahead TLB, with
their fills started; failures are dropped. -/
def State.walkAhead (s : State) (core ctx : Nat) (priv : Bool) (f : Frame) (ps : List Int) : State :=
  s.each (ps.filter fun p => decide (0 ≤ p ∧ p < f.panes)) fun s p =>
    s.each (((f.pane p).filter fun x => decide (1 ≤ x ∧ x ≤ wordMax)).map (· / 45)).eraseDups fun s line =>
      (s.translateBy .ahead core ctx (line * 45) false priv true).2

/-- The panes after `p` that a record names. -/
def Frame.next (f : Frame) (p : Int) : List Int := (List.range f.ahead.toNat).map fun k => p + 1 + Int.ofNat k

/-- The records of a frame command at some addresses (R312, R315): all are translated, and then read once, by relaxed
device-scope reads after acceptance; the command keeps them. -/
def State.cmdFrames (s : State) (c : Cmd) (xs : List Int) (k : State → Cmd → List Frame → Ran) : Ran :=
  let use := fun (s : State) (c : Cmd) =>
    let fs := (List.range xs.length).filterMap fun i => frameOf ((c.raw.drop (9 * i)).take 9)
    if fs.length = xs.length then k s c fs else .fail s 30 0
  if xs.any fun x => x % 9 != 0 then .fail s 30 0
  else if c.decoded then use s c
  else thenXl (s.cmdPlaces c .g false (xs.flatMap fun x => addrsFrom x 9)) fun s ps => thenRan (s.cmdReads c ps) fun s ws =>
    let c := { c with raw := ws, decoded := true, pageWait := none }
    use (s.setCmd c) c

/-- PROBE (R317). DESIGN CHOICE (log entries 64 and 65): where the walk ends at a malformed root or in a node with a raw line, word 1 of
the entry is 0, and a physical word address that fits no I27 is written modulo 3^27. -/
def State.probe (s : State) (g : Gust) (q : Squall) (d : Nat) (x : Int) (start : Bool) : Eff :=
  if x < 1 ∨ x > wordMax then .fault s 20 x
  else
    let answer := fun (s : State) (w0 : Int) (v : Nat) (fill cached : Int) (w1 : Int) =>
      let r := setFld 0 26 17 (fld w0 26 17) + pow3 14 * Int.ofNat v + pow3 13 * fill + pow3 12 * cached
      Eff.done (s.writeSs g.ref d [Word.ofInt r, if g.priv then Word.ofInt w1 else Word.zero])
    let phys := fun (w0 w1 : Word) => match leafPlace w0 w1 x with
      | ⟨.dev p, w⟩ => Int.ofNat (45 * p + w)
      | ⟨.host p, w⟩ => Int.ofNat (45 * p + w)
      | ⟨.remote _ p, w⟩ => Int.ofNat (45 * p + w)
      | _ => 0
    match tlbFind (s.core q.core).tlb q.ctx (x.toNat / 45) s.ptime none with
    | some e => answer s e.w0.val e.level 0 1 (phys e.w0 e.w1)
    | none => match s.walk (dieOf q.core) q.ctx x with
      | (.bad v c w1 a, s) => if c < 0 then .check s c a else answer s 0 v 0 0 w1.val
      | (.leaf v entry w0 w1 _, s) =>
        let ty := pteType w0
        if ty = 0 then answer s 0 v 0 0 w1.val
        else if ty = -1 ∨ ty = 2 then
          let s' := if start then s.startFill (dieOf q.core) q.core q.ctx entry w0 w1 x else s
          answer s' w0.val v (pteFill w0) 0 w1.val
        else answer s w0.val v 0 0 (phys w0 w1)

/-- PROBE (R317). -/
def execProbe (c : Ctl) (bc : BaseCls) (d a : Nat) (start : Bool) (off : Int) (s : State) : Result :=
  s.performGust c fun g =>
    match s.squall? g.ref.sq with
    | none => .done s
    | some q => s.probe g q d (baseAddr g bc a off) start

/-- The record of FREF read as LDS reads, relaxed (R318): the words, or how the instruction ends. -/
def State.frefWords (s : State) (g : Gust) (q : Squall) : List Int → Except Eff (List Word × State)
  | [] => .ok ([], s)
  | x :: xs => match s.placeOf q g.priv .g x false with
    | (.bad c a, s) => .error (failAs s c x a)
    | (.page e, s) => .error (.wait (s.onGust g.ref fun g => { g with pageWait := some e }) .page)
    | (p, s) =>
      if s.clashes g [p] then .error (.wait s .quiet)
      else match s.readPlace g q .rlx .dv 0 p with
      | (.error c, s) => .error (if c > 0 then .fault s c x else .check s c p.detail)
      | (.ok v, s) => (match s.frefWords g q xs with
        | .ok (vs, s) => .ok (v :: vs, s)
        | .error e => .error e)

/-- FREF (R318). DESIGN CHOICE (log entry 65): a pane's address that does not fit an I27 is kept modulo 3^27. -/
def execFref (c : Ctl) (d a b : Nat) (warm : Bool) (s : State) : Result :=
  s.performGust c fun g =>
    match s.squall? g.ref.sq with
    | none => .done s
    | some q =>
      let x := (g.s a).val
      let p := (g.s b).val
      match g.fillFaults.head? with
      | some (_, f) => .fault s f x
      | none => match s.frefWords g q (addrsFrom x 9) with
        | .error e => e
        | .ok (ws, s) => match frameOf ws with
          | none => .fault s 30 0
          | some f =>
            if x % 9 ≠ 0 then .fault s 30 0
            else if p < 0 ∨ p ≥ f.panes then .fault s 31 0
            else
              let s := if warm then s.walkAhead q.core q.ctx g.priv f (p :: f.next p) else s
              .done (s.writeSs g.ref d [Word.ofInt (f.addr p 0), Word.ofInt f.words])

end Sys2Proof.Machine
end

