-- ==== Sys2Proof/Machine/Matrix.lean ====
section
/-! DEFINITION. Operand slots, accumulator tiles and the matrix engine (R205 to R235): claims, fills, gangs, the forms, the
arithmetic of a tile (R42 to R44), drains and contribution counters. -/

namespace Sys2Proof

/-- The depth K of an MMA format and the products D of one step (R42, R223). -/
def MFmt.depth : MFmt → Nat × Nat
  | .i9 | .f9 => (27, 27)
  | .w1i9 | .w1f9 => (81, 81)
  | .f27 => (9, 3)

/-- Element A(i, k) (R212): `a` gives the slot's words; for W1 formats `t` is the third. -/
def MFmt.elemA (f : MFmt) (t : Nat) (a : Nat → Int) (i k : Nat) : Int :=
  match f with
  | .i9 | .f9 => fld (a (9 * i + k / 3)) (9 * (k % 3) + 8) (9 * (k % 3))
  | .w1i9 | .w1f9 => tritI (a (9 * i + (81 * t + k) / 27)) ((81 * t + k) % 27)
  | .f27 => a (9 * i + k)

/-- Element B(k, j) (R212): `b m` gives the words of slot b + m. -/
def MFmt.elemB (f : MFmt) (b : Nat → Nat → Int) (k j : Nat) : Int :=
  match f with
  | .i9 | .f9 => fld (b 0 (9 * j + k / 3)) (9 * (k % 3) + 8) (9 * (k % 3))
  | .w1i9 | .w1f9 => fld (b (k / 27) (9 * j + k % 27 / 3)) (9 * (k % 3) + 8) (9 * (k % 3))
  | .f27 => b 0 (9 * j + k)

/-- The tile is of I27 kind (R223). -/
def MFmt.isInt : MFmt → Bool
  | .i9 | .w1i9 => true
  | _ => false

/-- A product of a floating format (R36, R43): the operand from A stands before the one from B; a W1 weight selects. -/
def MFmt.fprod (f : MFmt) (x y : Int) : FVal :=
  match f with
  | .w1f9 =>
    let v := (fmt9.decode y).convert fmt9 fmt27
    if x = 0 then .fin 0 0 else if x > 0 then v else v.neg
  | _ =>
    let d := fun (w : Int) => match f with
      | .f9 => (fmt9.decode w).convert fmt9 fmt27
      | _ => fmt27.decode w
    match firstNan [d x, d y] with
    | some n => n
    | none => (d x).mul (d y)

/-- A number is infinite. -/
def FVal.isInf : FVal → Bool
  | .inf _ => true
  | _ => false

/-- The worse of two status trits: minus over plus over zero (R44). -/
def worse (a b : Trit) : Trit := if a = .minus ∨ b = .minus then .minus else if a = .plus ∨ b = .plus then .plus else .zero

end Sys2Proof

namespace Sys2Proof.Machine

/-- One depth step of an integer element (R42, R44). -/
def stepI (ps : List Int) (c : Int × Trit) : Int × Trit :=
  let x := c.1 + ps.sum
  let y := satT x 27
  (y, if y = x then c.2 else worse c.2 .plus)

/-- One depth step of a floating element (R42, R43, R44). -/
def stepF (ps : List FVal) (c : Int × Trit) : Int × Trit :=
  let old := fmt27.decode c.1
  if old.isNan then c
  else
    let new := fsum fmt27 (old :: ps)
    let v := fmt27.decode new
    (new, if v.isNan then worse c.2 .minus else if v.isInf && !old.isInf then worse c.2 .plus else c.2)

/-- One element after an MMA (R224): its word and what it adds to the tile's status. -/
def mmaElement (f : MFmt) (t : Nat) (a : Nat → Int) (b : Nat → Nat → Int) (x y : Nat) (c : Int) : Int × Trit :=
  let (K, D) := f.depth
  (List.range ((K + D - 1) / D)).foldl (fun acc n =>
    let ks := (List.range (min D (K - n * D))).map (· + n * D)
    if f.isInt then stepI (ks.map fun k => f.elemA t a x k * f.elemB b k y) acc
    else stepF (ks.map fun k => f.fprod (f.elemA t a x k) (f.elemB b k y)) acc) (c, .zero)

/-- A word of a squall's slot. -/
def Squall.slotWord (q : Squall) (o w : Nat) : Word := readAt (fun _ => Word.zero) q.slotWords (243 * o + w)

/-- A word of a squall's tile. -/
def Squall.tileWord (q : Squall) (t w : Nat) : Word := readAt (fun _ => Word.zero) q.tileWords (729 * t + w)

/-- Words put into a sparse store from an index on. -/
def putWords (m : Sparse) (at_ : Nat) : List Word → Sparse
  | [] => m
  | w :: ws => putWords (writeAt (fun _ => Word.zero) m at_ w) (at_ + 1) ws

/-- A squall with a tile's words and status replaced. -/
def Squall.setTile (q : Squall) (t : Nat) (ws : List Word) (st : Trit) : Squall :=
  { q with tileWords := putWords q.tileWords (729 * t) ws,
           tiles := q.tiles.modify t fun (x : TileSt) => { x with status := st } }

/-- A squall with a slot's words replaced. -/
def Squall.setSlot (q : Squall) (o : Nat) (ws : List Word) : Squall :=
  { q with slotWords := putWords q.slotWords (243 * o) ws }

/-- One member's tile after an MMA (R224). -/
def Squall.mma (q : Squall) (f : MFmt) (third : Nat) (m : MmaMember) : Squall :=
  let a := fun (w : Nat) => (q.slotWord m.a w).val
  let b := fun (k w : Nat) => (q.slotWord (m.b + k) w).val
  let out := (List.range 729).map fun w => mmaElement f third a b (w / 27) (w % 27) (q.tileWord m.tile w).val
  q.setTile m.tile (out.map fun e => Word.ofInt e.1) (out.foldl (fun s e => worse s e.2) (q.tile m.tile).status)

/-- The owner of a tile or slot of a squall. -/
def Squall.owner (q : Squall) (tiles : Bool) (k : Nat) : Option Nat := if tiles then (q.tile k).owner else (q.slot k).owner

/-- A run may be claimed by gust `g` (R209). -/
def Squall.free (q : Squall) (tiles : Bool) (first n g : Nat) : Bool :=
  (List.range n).all fun k => (q.owner tiles (first + k)).all fun o => o == g

/-- A run is owned by gust `g` (R208). -/
def Squall.owns (q : Squall) (tiles : Bool) (first n g : Nat) : Bool :=
  (List.range n).all fun k => q.owner tiles (first + k) == some g

/-- A run with its members changed. -/
def Squall.onRun (q : Squall) (tiles : Bool) (first n : Nat) (o : Option Nat → Bool → Option Nat × Bool) : Squall :=
  let hit := fun (k : Nat) => decide (first ≤ k ∧ k < first + n)
  let ts := (List.zip (List.range q.tiles.length) q.tiles).map fun (e : Nat × TileSt) =>
    if hit e.1 then { e.2 with owner := (o e.2.owner e.2.releasing).1, releasing := (o e.2.owner e.2.releasing).2 }
    else e.2
  let ss := (List.zip (List.range q.slots.length) q.slots).map fun (e : Nat × SlotSt) =>
    if hit e.1 then { e.2 with owner := (o e.2.owner e.2.releasing).1, releasing := (o e.2.owner e.2.releasing).2 }
    else e.2
  if tiles then { q with tiles := ts } else { q with slots := ss }

/-- A run claimed by gust `g`: a release of a member that has not taken effect is called off (log entry 27). -/
def Squall.claim (q : Squall) (tiles : Bool) (first n g : Nat) : Squall := q.onRun tiles first n fun _ _ => (some g, false)

/-- A run whose release has been accepted (R210). -/
def Squall.release (q : Squall) (tiles : Bool) (first n : Nat) : Squall := q.onRun tiles first n fun o _ => (o, true)

/-- Words of a ternary side of a copy that holds `n` elements of a conversion (R52); a word copy's elements are words. -/
def convWords (conv : Int) (n : Nat) : Nat :=
  let per := (convOf conv.natAbs).perWord
  if conv = 0 then n else (n + per - 1) / per

/-- The words that a THAW may still have to write (R210): those of its block once it has been decoded, none once it has ended, and
before that as many as R340 lets a header give. -/
def thawLength (c : Cmd) : Nat := if c.stage = .ran then 0 else if c.decoded then c.raw.length else 1594323

/-- The runs of window addresses that a command reads or writes, as first address and count (R210). -/
def windowRuns (c : Cmd) : List (Int × Nat) :=
  let x := fun (i : Nat) => c.scal.getD i 0
  let run := fun (sp : Space) (a : Int) (n : Nat) => if sp = .w then [(a, n)] else []
  let rows := fun (sp : Space) (a : Int) =>
    if sp = .w then (List.range 27).map fun r => (a + Int.ofNat r * x 1, 27) else []
  match c.instr with
  | .ofill _ _ _ _ (.loc sp off) => run sp (x 0 + off) 243
  | .ald _ _ _ _ (.loc sp off _) => rows sp (x 0 + off)
  | .drain _ _ _ _ sp off _ _ _ _ => rows sp (x 0 + off)
  | .cpy _ conv ssp dsp _ _ _ _ =>
    let n := convWords conv (x 0).toNat
    (if conv > 0 then [] else run ssp (x 2) n) ++ (if conv < 0 then [] else run dsp (x 3) n)
  | .mcast _ ssp _ _ _ _ => run ssp (x 2) (x 0).toNat
  | .freeze _ _ ssp _ _ _ _ _ _ => run ssp (x 2) (x 0).toNat
  | .thaw _ _ (.glob sp) _ _ _ _ _ => if sp = .w then run sp (x 1) (thawLength c) else []
  | _ => []

/-- A command reaches words of a squall through window space (R210, R322): `at_` gives their first window offset by where the
squall stood at issue, and `n` their number. -/
def reaches (c : Cmd) (q : SqRef) (at_ : Placed → Nat) (n : Nat) : Bool :=
  let runs := windowRuns c
  c.snap.any fun p =>
    let lo := Int.ofNat (at_ p) - (Int.ofNat p.core + 1) * 4782969
    p.q == q && runs.any fun r => decide (lo < r.1 + Int.ofNat r.2 ∧ r.1 < lo + Int.ofNat n)

/-- Something still has to read or write a slot or tile, so that its release does not take effect yet (R210): a pending fill, or
an accepted command by the squall's own name of it or through window space. -/
def State.needed (s : State) (q : Squall) (tiles : Bool) (k : Nat) : Bool :=
  let cmds := (s.core q.core).matrixQ.filter fun c => c.who.sq == q.q
  if tiles then cmds.any (fun c => c.tiles.contains k) ||
    s.allCmds.any fun c => reaches c q.q (fun p => 729 * (p.bases.tile + k)) 729
  else (q.slot k).fill == .pending || cmds.any (fun c => c.reads.contains k) ||
    s.allCmds.any fun c => reaches c q.q (fun p => 2361960 + 243 * (p.bases.slot + k)) 243

/-- The members of a run whose release takes effect now (R210). -/
def State.freeRun (s : State) (q : Squall) : Squall :=
  let ts := (List.zip (List.range q.tiles.length) q.tiles).map fun (e : Nat × TileSt) =>
    if e.2.releasing && !s.needed q true e.1 then { e.2 with owner := none, releasing := false } else e.2
  let ss := (List.zip (List.range q.slots.length) q.slots).map fun (e : Nat × SlotSt) =>
    if e.2.releasing && !s.needed q false e.1 then { e.2 with owner := none, releasing := false } else e.2
  { q with tiles := ts, slots := ss }

/-- The waiting claims of a squall as (since, gust, tiles, first, count), in the order in which they began to wait. -/
def State.claims (s : State) (q : SqRef) : List (Nat × GustRef × Bool × Nat × Nat) :=
  ((s.gustsOf q).filterMap fun g => match g.status with
    | .waiting _ (.claim t f n since) => if g.halted then none else some (since, g.ref, t, f, n)
    | _ => none).insertionSort fun a b => a.1 ≤ b.1

/-- CLAIM_RELEASE_EFFECT (R209, R210): accepted releases take effect, and waiting claims are granted in order. -/
def State.releaseEffect (s : State) (q : SqRef) : State :=
  let s := s.onSquall q fun b => s.freeRun b
  s.each (s.claims q) fun s c => match s.squall? q with
    | some b =>
      if b.free c.2.2.1 c.2.2.2.1 c.2.2.2.2 c.2.1.gust then
        (s.setSquall (b.claim c.2.2.1 c.2.2.2.1 c.2.2.2.2 c.2.1.gust)).completeFor c.2.1
      else s
    | none => s

/-- A claim (R209). -/
def State.claimForm (s : State) (c : Ctl) (tiles : Bool) (first n : Nat) : Result :=
  s.performGust c fun g =>
    match s.squall? g.ref.sq with
    | none => .done s
    | some q =>
      if q.free tiles first n g.ref.gust then .done (s.setSquall (q.claim tiles first n g.ref.gust))
      else
        let (since, s) := s.fresh
        .wait s (.claim tiles first n since)

/-- A release (R210). -/
def State.releaseForm (s : State) (c : Ctl) (tiles : Bool) (first n : Nat) : Result :=
  s.performGust c fun g =>
    match s.squall? g.ref.sq with
    | none => .done s
    | some q =>
      if q.owns tiles first n g.ref.gust then .done ((s.setSquall (q.release tiles first n)).releaseEffect q.q)
      else .fault s 50 0

/-- OCLAIM (R209). -/
def execOclaim (c : Ctl) (o n : Nat) (s : State) : Result := s.claimForm c false o n

/-- ORLSE (R210). -/
def execOrlse (c : Ctl) (o n : Nat) (s : State) : Result := s.releaseForm c false o n

/-- ACLAIM (R209). -/
def execAclaim (c : Ctl) (t n : Nat) (s : State) : Result := s.claimForm c true t n

/-- ARLSE (R210). -/
def execArlse (c : Ctl) (t n : Nat) (s : State) : Result := s.releaseForm c true t n

/-- A form that needs ownership of a run (R208). -/
def State.ownedForm (s : State) (c : Ctl) (tiles : Bool) (first n : Nat) (body : Gust → Squall → Eff) : Result :=
  s.performGust c fun g =>
    match s.squall? g.ref.sq with
    | none => .done s
    | some q => if q.owns tiles first n g.ref.gust then body g q else .fault s 50 0

/-- Words of consecutive vector registers, from all lanes (R213, R225). -/
def Gust.flat (g : Gust) (first n : Nat) : List Word := (List.range n).flatMap fun k => (g.v (first + k)).data

/-- OFILL (R213). -/
def execOfill (c : Ctl) (o a b : Nat) (src : FillSrc) (s : State) : Result :=
  s.ownedForm c false o 1 fun g q =>
    let i := Instr.ofill c o a b src
    match src with
    | .regs => s.submit g (s.mkCmd g q i [] (g.flat a 3))
    | .loc sp off =>
      let x := (g.s a).val + off
      (match s.addrsFault q g.priv sp (addrsFrom x 243) with
        | some (f, y) => .fault s f y
        | none => s.submit g { s.mkCmd g q i [(g.s a).val] [] with snap := s.placedOf q.ctx })
    | .frame => s.submit g (s.mkCmd g q i [(g.s a).val, (g.s b).val] [])

/-- A command fault reported by a trap (R214, R324, R325): it leaves the gust's list, and GFR takes its record. -/
def State.reportFault (s : State) (r : GustRef) (f : CmdFault) : State :=
  match s.gust? r with
  | some g =>
    let s := { s with gusts := s.gusts.map fun (h : Gust) =>
      if h.ref.sq == r.sq then { h with faults := h.faults.filter fun x => x.serial != f.serial } else h }
    s.trapEntry r (fld (f.words.getD 0 Word.zero).val 23 18) [f.words] true g.pc g.pc
  | none => s

/-- A fault of a slot that has not been reported (R214, R324). -/
def State.unreported (s : State) (q : SqRef) (f : CmdFault) : Bool :=
  (s.gustsOf q).any fun g => g.faults.any fun x => x.serial == f.serial

/-- OFENCE (R214, R215). DESIGN CHOICE (log entry 66): a run of several slots acts once none of them is pending; of its faulted
slots the lowest is reported, and the others stay as they are. -/
def execOfence (c : Ctl) (o n : Nat) (s : State) : Result :=
  s.ownedForm c false o n fun g q =>
    let os := (List.range n).map (· + o)
    if os.any fun k => (q.slot k).fill == .pending then .wait s (.fence o n)
    else
      let set := fun (s : State) (k : Nat) (st : FillState) => s.onSquall q.q fun b =>
        { b with slots := b.slots.modify k fun x => { x with fill := st, fault := none } }
      match os.findSome? fun k => ((q.slot k).fault.filter fun f => s.unreported q.q f).map fun f => (k, f) with
      | some (k, f) => .over ((set s k .unfenced).reportFault g.ref f)
      | none => .done (s.each os fun s k => if (q.slot k).fill = .ready then s else set s k .ready)

/-- The members of a gang register (R217). -/
def gangOf (map : Word) : List Nat := (List.range 27).filter fun i => tritI map.val i == 1

/-- A waiting member of the rendezvous latch (R220), with its MMA. -/
def Gust.atLatch (g : Gust) : Option Instr :=
  match g.status with
  | .waiting _ (.gang i) => some i
  | _ => none

/-- A gust breaks the groups that name it (R220). -/
def State.breakGangs (s : State) (r : GustRef) : State :=
  let hit := (s.gustsOf r.sq).filter fun g => g.ref != r && !g.halted && g.atLatch.isSome && (gangOf g.gangMap).contains r.gust
  s.each hit fun s g => s.faultFor g.ref 53 0

/-- GANG (R219). -/
def execGang (c : Ctl) (rows : Nat) (map : Int) (s : State) : Result :=
  s.performGust c fun g =>
    match s.squall? g.ref.sq with
    | none => .done s
    | some q =>
      let ms := gangOf (Word.ofInt map)
      if !ms.contains g.ref.gust || ms.any fun m => decide (m ≥ q.count) then .fault s 51 0
      else .done ((s.breakGangs g.ref).onGust g.ref fun g => { g with gangRows := rows, gangMap := Word.ofInt map })

/-- The operands of an MMA. -/
def mmaOf : Instr → Option (MFmt × Nat × Nat × Nat × Nat)
  | .mma _ f t a b third => some (f, t, a, b, third)
  | _ => none

/-- The checks of R221, over the members in ascending index: the fault, if any. -/
def gangFault (q : Squall) (rows : Nat) (ms : List (GustRef × (MFmt × Nat × Nat × Nat × Nat))) : Option Int :=
  let cols := ms.length / rows
  let at_ := List.zip (List.range ms.length) (ms.map (·.2))
  let fmts := at_.map fun e => (e.2.1, e.2.2.2.2.2)
  let tiles := at_.map fun e => e.2.2.1
  let same := fun (key : Nat → Nat) (val : MFmt × Nat × Nat × Nat × Nat → Nat) =>
    at_.all fun e => at_.all fun h => key e.1 != key h.1 || val e.2 == val h.2
  let idx := ms.map fun m => m.1.gust
  let owned := ms.all fun m => q.owner true m.2.2.1 == some m.1.gust &&
    (m.2.2.2.1 :: m.2.1.bSlots m.2.2.2.2.1).all fun o => (q.owner false o).any fun w => idx.contains w
  if fmts.any (fun x => some x != fmts.head?) then some 52
  else if !decide tiles.Nodup then some 52
  else if !same (· / cols) (fun x => x.2.2.1) || !same (· % cols) (fun x => x.2.2.2.1) then some 52
  else if !owned then some 50
  else none

/-- The gust's MMA is ended for the step that accepts or refuses it: for the issuing gust by its own instruction, for a
waiting one by an event. -/
def State.acceptMma (s : State) (c : Cmd) (self : Option GustRef) : State :=
  match s.squall? c.who.sq with
  | none => s
  | some q =>
    let f := (mmaOf c.instr).elim MFmt.i9 (·.1)
    let early := fun (m : MmaMember) => (m.a :: f.bSlots m.b).any fun o => q.unready o
    if c.members.any early && s.earlyFaults q.ctx then s.each c.members fun s m => s.faultFor m.who 33 0
    else
      let s := s.acceptCmd { c with members := c.members.map fun m => { m with early := early m } }
      s.each (c.members.filter fun m => some m.who != self) fun s m => s.completeFor m.who

/-- A gang of members fires (R221). -/
def State.fire (s : State) (g : Gust) (q : Squall) (i : Instr) (ms : List (GustRef × Instr)) : Eff :=
  let ops := ms.filterMap fun m => (mmaOf m.2).map fun o => (m.1, o)
  match gangFault q g.gangRows ops with
  | some f => .over (s.each ms fun s m => s.faultFor m.1 f 0)
  | none =>
    let c := { s.mkCmd g q i [] [] with members := ops.map fun (e : GustRef × (MFmt × Nat × Nat × Nat × Nat)) =>
      { who := e.1, tile := e.2.2.1, a := e.2.2.2.1, b := e.2.2.2.2.1, batch := 0, early := false } }
    if s.roomFor c then
      let s := s.acceptMma c (some g.ref)
      if (s.gust? g.ref).any fun h => h.pc == g.pc && h.trapActive == g.trapActive then .done s else .over s
    else
      let s := s.onCore c.core fun k => { k with acceptQ := k.acceptQ ++ [c] }
      let s := s.each ms fun s m => s.onGust m.1 fun h => match h.status with
        | .waiting op _ => { h with status := .waiting op .accept }
        | _ => h
      .wait s .accept

/-- MMA (R220, R221). -/
def execMma (c : Ctl) (fmt : MFmt) (t a b third : Nat) (s : State) : Result :=
  s.perform fun g =>
    match s.squall? g.ref.sq with
    | none => .done s
    | some q =>
      let i := Instr.mma c fmt t a b third
      let k := (gangOf g.gangMap).length
      if k ≤ 1 then s.fire { g with gangRows := 1 } q i [(g.ref, i)]
      else
        let at_ := (s.gustsOf g.ref.sq).filter fun h => h.ref != g.ref && !h.halted && h.atLatch.isSome
        let bad := at_.filter fun h => (gangOf h.gangMap).contains g.ref.gust &&
          !(h.gangMap == g.gangMap && h.gangRows == g.gangRows)
        if !bad.isEmpty then .over (s.each (g.ref :: bad.map (·.ref)) fun s r => s.faultFor r 52 0)
        else
          let group := at_.filter fun h => h.gangMap == g.gangMap && h.gangRows == g.gangRows
          if group.length + 1 < k then .wait s (.gang i)
          else
            let others := group.filterMap fun h => h.atLatch.map fun j => (h.ref, j)
            s.fire g q i ((others ++ [(g.ref, i)]).insertionSort fun x y => x.1.gust ≤ y.1.gust)

/-- AZERO (R225). -/
def execAzero (c : Ctl) (t n : Nat) (s : State) : Result :=
  s.ownedForm c true t n fun g q => s.submit g (s.mkCmd g q (.azero c t n) [] [])

/-- The 729 location addresses of ALD and DRAIN (R225, R226). -/
def tileAddrs (x stride : Int) : List Int :=
  (List.range 729).map fun w => x + Int.ofNat (w / 27) * stride + Int.ofNat (w % 27)

/-- ALD (R225, R229). -/
def execAld (c : Ctl) (t a b : Nat) (src : AldSrc) (s : State) : Result :=
  s.ownedForm c true t 1 fun g q =>
    let i := Instr.ald c t a b src
    match src with
    | .regs => s.submit g (s.mkCmd g q i [] (g.flat a 9))
    | .loc sp off _ =>
      match s.addrsFault q g.priv sp (tileAddrs ((g.s a).val + off) (g.s b).val) with
      | some (f, y) => .fault s f y
      | none => s.submit g { s.mkCmd g q i [(g.s a).val, (g.s b).val] [] with snap := s.placedOf q.ctx }

/-- AST (R216, R225). -/
def execAst (c : Ctl) (d t : Nat) (status : Bool) (s : State) : Result :=
  s.ownedForm c true t 1 fun g q =>
    let early := s.early (some g) q t
    if early && s.earlyFaults q.ctx then .fault s 33 0
    else if status then
      if early then
        let (u, s) := s.unspecified
        .done (s.writeS g.ref d (Word.ofInt (tritI u.val 0)))
      else .done (s.writeS g.ref d (Word.ofTrit (q.tile t).status))
    else
      let (ws, s) := if early then s.unspecifieds 729 else ((List.range 729).map (q.tileWord t), s)
      .done (s.each (List.range 9) fun s k => s.writeV g.ref (d + k) (Lanes.ofList ((ws.drop (81 * k)).take 81)))

/-- DRAIN (R226, R229). -/
def execDrain (c : Ctl) (t a b : Nat) (sp : Space) (off : Int) (scope : Scope) (ev : Int) (addTy : Option ETy)
    (count : Nat) (s : State) : Result :=
  s.ownedForm c true t 1 fun g q =>
    match s.addrsFault q g.priv sp (tileAddrs ((g.s a).val + off) (g.s b).val) with
    | some (f, y) => .fault s f y
    | none => s.submit g { s.mkCmd g q (.drain c t a b sp off scope ev addTy count) [(g.s a).val, (g.s b).val] [] with
        snap := s.placedOf q.ctx }

/-- The store of a core that holds a window word, by number. -/
def storeOf (u : Nat) : Nat :=
  if u < 1594323 then 0 else if u < 2125764 then 1 else if u < 2302911 then 2 else if u < 2361960 then 3
  else if u < 2381643 then 4 else 5

/-- A location as numbers. -/
def locKey : Loc → List Nat
  | .dev p => [0, 0, p]
  | .host p => [1, 0, p]
  | .remote d p => [2, d, p]
  | .win c => [3, c, 0]

/-- The identity of a contribution counter (R228) in space g at a scope; `d` is the die of the DRAIN or RWAIT. -/
def counterMem (scope : Scope) (d : Nat) (loc : Loc) : List Nat :=
  (if scope.wide then [if scope = .sy then 3 else 2, 0] else [1, d]) ++ locKey loc

/-- The identity of the counter of a window or scratchpad word (R228). -/
def counterPort (core u : Nat) : List Nat := [4, core, u]

/-- The unit that holds a counter, and how many it holds (R228). -/
def counterUnit (key : List Nat) : List Nat × Nat :=
  match key with
  | [4, core, u] => ([4, core, storeOf u], 27)
  | [1, d, _, _, p] => ([1, d, p % 27], 27)
  | [_, _, 0, _, p] => ([2, homeSlice p], 81)
  | [_, _, a, b, _] => ([3, a, b], 81)
  | _ => ([], 0)

/-- The identity of the counter of a command's word. -/
def State.counterOf (s : State) (c : Cmd) (scope : Scope) : CmdPlace → Option (List Nat)
  | .mem a => some (counterMem scope (dieOf c.core) a.loc)
  | .phys core w => some (counterPort core w.off)
  | .sq q w => (s.squall? q).bind fun b => (s.winOf b w).map fun r => counterPort b.core r.off
  | .gone => none

/-- A counted DRAIN at its counter (R228): the state to apply the update in, or the fault. -/
def State.countDrain (s : State) (c : Cmd) (scope : Scope) (key : List Nat) (count : Nat) : Except Int State :=
  match s.counters.find? fun k => k.key == key with
  | none =>
    let (unit, cap) := counterUnit key
    if (s.counters.filter fun k => (counterUnit k.key).1 == unit).length ≥ cap then .error 54
    else .ok { s with counters := s.counters ++ [{ key, scope, expected := count, landed := 0, ready := false, ctx := c.ctx }] }
  | some k => if k.expected ≠ count then .error 55 else if k.ready then .error 56 else .ok s

/-- A counted DRAIN has landed (R228). -/
def State.landDrain (s : State) (key : List Nat) : State :=
  { s with counters := s.counters.map fun (k : Counter) =>
      if k.key == key then { k with landed := k.landed + 1, ready := decide (k.landed + 1 = k.expected) } else k }

/-- The new word of an add-on-store (R226). -/
def drainAdd (ty : ETy) (old e : Word) : Word :=
  match ty with
  | .f27 => Word.ofInt (faddE fmt27 old.val e.val 0).1
  | _ => Word.ofInt (satT (old.val + e.val) 27)

/-- A word of a DRAIN's destination as it stands, to find a raw or poisoned line before any write (R228, R479). -/
def State.drainLook (s : State) (c : Cmd) (scope : Scope) (ev : Int) (p : CmdPlace) : Answer Unit :=
  match p with
  | .mem a =>
    (match (if scope.wide then asCmd (s.readHome (dieOf c.core) a) else asCmd (s.readRelaxed (dieOf c.core) a ev)) with
      | (.ok _, s) => (.ok (), s)
      | (.error e, s) => (.error e, s))
  | _ => (.ok (), s)

/-- One word of a DRAIN at its apply unit (R226): at a home slice it forces a publish of its sector first (R284). -/
def State.drainWord (s : State) (c : Cmd) (scope : Scope) (ev : Int) (addTy : Option ETy) (p : CmdPlace) (e : Word) : State :=
  match p, addTy with
  | .mem a, add =>
    let new := fun (old : Word) => some (match add with
      | some ty => drainAdd ty old e
      | none => e)
    if scope.wide then
      ((match a.loc with
        | .dev _ => s
        | _ => s.markFar c).updateHome (dieOf c.core) a ev new).2
    else if add.isSome then (s.updateL1 c.ctx (dieOf c.core) a ev new).2
    else s.storeL1 c.ctx (dieOf c.core) a e ev
  | p, none => (s.cmdWrite c e p).2
  | p, some ty => match s.cmdRead c p with
    | (.ok old, s) => (s.cmdWrite c (drainAdd ty old e) p).2
    | (_, s) => s

/-- The DRAIN at its apply unit as one act (R226 to R228). -/
def State.drainRun (s : State) (c : Cmd) : Ran :=
  match c.instr, s.squall? c.who.sq with
  | .drain _ t _ _ sp off scope ev addTy count, some q =>
    let xs := tileAddrs (c.scal.getD 0 0 + off) (c.scal.getD 1 0)
    thenXl (s.cmdPlaces c sp true xs) fun s ps =>
      let look := fun (s : State) => ps.foldl (fun (a : CmdAnswer Unit) p => match a with
          | (.ok _, s) => (match s.drainLook c scope ev p with
            | (.ok _, s) => (.ok (), s)
            | (.error e, s) => (.error (s.failsAt p e), s))
          | x => x) (.ok (), s)
      let act := fun (s : State) => s.each (List.zip (List.range 729) ps) fun s e =>
        s.drainWord c scope ev addTy e.2 (q.tileWord t e.1)
      match count, ps.head?.bind fun p => s.counterOf c scope p with
      | 0, _ | _, none => thenRan (look s) fun s _ => .ok (act s)
      | n, some key => match s.countDrain c scope key n with
        | .error f => .fail s f 0
        | .ok s => thenRan (look s) fun s _ => .ok ((act s).landDrain key)
  | _, _ => .ok s

/-- The head command of a core's matrix queue runs (R222, R224, R225): a DRAIN is translated and then stands at its apply
unit. -/
def State.matrixRun (s : State) (c : Cmd) : Ran :=
  match c.instr with
  | .mma _ f _ _ _ third =>
    .ok (s.each c.members fun s m =>
      if m.early then
        let (ws, s) := s.unspecifieds 729
        let (u, s) := s.unspecified
        s.onSquall c.who.sq fun q => q.setTile m.tile ws (u.tritAt 0)
      else s.onSquall c.who.sq fun q => q.mma f third m)
  | .azero _ t n => .ok (s.onSquall c.who.sq fun q => (List.range n).foldl (fun q k =>
      q.setTile (t + k) (List.replicate 729 Word.zero) .zero) q)
  | .ald _ t _ _ .regs => .ok (s.onSquall c.who.sq fun q => q.setTile t c.words .zero)
  | .ald _ t _ _ (.loc sp off _) =>
    thenXl (s.cmdPlaces c sp false (tileAddrs (c.scal.getD 0 0 + off) (c.scal.getD 1 0))) fun s ps =>
      thenRan (s.cmdReads c ps) fun s ws => .ok (s.onSquall c.who.sq fun q => q.setTile t ws .zero)
  | _ => .ok s

/-- MATRIX_COMMAND_RUN (R222, R224). -/
def State.matrixCommandRun (s : State) (core : Nat) : State :=
  match (s.core core).matrixQ with
  | c :: _ =>
    if c.stage ≠ .queued then s
    else match c.instr with
    | .drain _ _ _ _ sp off _ _ _ _ =>
      (match c.fillFault with
        | some _ => s.advance c fun s => .ok s
        | none => match s.cmdPlaces c sp true (tileAddrs (c.scal.getD 0 0 + off) (c.scal.getD 1 0)) with
          | (.ok _, s) => s.setCmd { c with stage := .started, pageWait := none }
          | (.fail e d, s) => if e < 0 then s.checkCmd c e d else s.setCmd { c with stage := .ran, fault := some (e, d) }
          | (.wait e x, s) => s.setCmd { c with pageWait := some e, waitAt := x }
          | (.hold, s) => s)
    | _ => s.advance c fun s => s.matrixRun c
  | [] => s

/-- DRAIN_APPLY (R226 to R228). -/
def State.drainApply (s : State) (core : Nat) : State :=
  match (s.core core).matrixQ with
  | c :: _ => if c.stage = .started then s.advance c fun s => s.drainRun c else s
  | [] => s

/-- A fill's words written into a slot (R215): a fill issued later that has written it already wins. -/
def Squall.fillSlot (q : Squall) (issued o : Nat) (ws : List Word) : Squall :=
  if issued < (q.slot o).wrote then q
  else { q.setSlot o ws with slots := q.slots.modify o fun (x : SlotSt) => { x with wrote := issued } }

/-- A word that a THAW writes into a slot of a squall, bound or shuttered (R215, R322, R343): a fill issued later that has written
the slot already wins. -/
def State.thawSlot (s : State) (c : Cmd) (o w : Nat) (v : Word) : State :=
  match s.squall? c.who.sq with
  | some q =>
    if c.issuedAt < (q.slot o).wrote then s
    else (s.putSq c.who.sq (.slot o w) v).onSquall c.who.sq fun q =>
      { q with slots := q.slots.modify o fun (x : SlotSt) => { x with wrote := c.issuedAt } }
  | none => if (s.shut? c.who.sq).any fun x => decide (c.issuedAt < x.slotWrote.getD o 0) then s
    else s.putSq c.who.sq (.slot o w) v

/-- The words of an OFILL, once it runs (R213, R314). -/
def State.fillRun (s : State) (c : Cmd) : Ran :=
  let put := fun (s : State) (o : Nat) (ws : List Word) => Ran.ok (s.onSquall c.who.sq fun q => q.fillSlot c.issuedAt o ws)
  match c.instr with
  | .ofill _ o _ _ .regs => put s o c.words
  | .ofill _ o _ _ (.loc sp off) =>
    thenXl (s.cmdPlaces c sp false (addrsFrom (c.scal.getD 0 0 + off) 243)) fun s ps =>
      thenRan (s.cmdReads c ps) fun s ws => put s o ws
  | .ofill _ o _ _ .frame =>
    let p := c.scal.getD 1 0
    s.cmdFrames c [c.scal.getD 0 0] fun s c fs => match fs with
    | [] => .ok s
    | f :: _ =>
      if f.words ≠ 243 then .fail s 32 0
      else if p < 0 ∨ p ≥ f.panes then .fail s 31 0
      else
        let s := s.walkAhead c.core c.ctx c.priv f (f.next p)
        thenXl (s.cmdPlaces c .g false (f.pane p)) fun s ps => thenRan (s.cmdReads c ps) fun s ws => put s o ws
  | _ => .ok s

/-- A fill may write a slot: every MMA accepted before its issue has read it (R214), and every fill of it issued earlier has
ended, but for an engine command that has not started, whose words lose against it (R215). -/
def State.slotFree (s : State) (c : Cmd) (o : Nat) : Bool :=
  let k := s.core c.core
  (!k.matrixQ.any fun m => decide (m.id < c.issuedAt) && m.stage == .queued && m.who.sq == c.who.sq && m.reads.contains o) &&
  !((k.acceptQ.filter fun x => cmdQ x.instr == .fill) ++ k.fillQ ++ k.codecQ.filter fun x => x.stage != .queued).any fun x =>
    decide (x.issuedAt < c.issuedAt) && x.who.sq == c.who.sq && x.fills.contains o

/-- FILL_COMPLETE (R213, R214): the head of a core's fill queue writes its slot and completes. -/
def State.fillComplete (s : State) (core : Nat) : State :=
  match (s.core core).fillQ with
  | c :: _ =>
    if c.fills.all fun o => s.slotFree c o then
      ((if c.stage = .ran then s else s.advance c fun s => s.fillRun c)).completeHead core .fill
    else s
  | [] => s

/-- RWAIT (R230). -/
def execRwait (c : Ctl) (a : Nat) (sp : Space) (off : Int) (scope : Scope) (clr : Bool) (s : State) : Result :=
  s.performGust c fun g =>
    s.gustPlace g sp ((g.s a).val + off) false fun s q p =>
      let key := match p with
        | .mem w _ => counterMem scope (dieOf q.core) w.loc
        | .port core u _ => counterPort core u
        | _ => []
      match s.counters.find? fun k => k.key == key && k.ready with
      | none => .wait s (.counter ((g.s a).val + off) key)
      | some k =>
        let ret := fun (s : State) => s.orderedAfter (dieOf q.core) k.scope
        if !clr then .done (ret s)
        else
          let s := { s with counters := s.counters.filter fun x => x.key != key }
          let others := s.gusts.filter fun h => h.ref != g.ref && !h.halted && (match h.status with
            | .waiting _ (.counter _ x) => x == key
            | _ => false)
          .done (ret (s.each others fun s h =>
            (s.orderedAfter ((s.squall? h.ref.sq).elim 0 fun b => dieOf b.core) k.scope).completeFor h.ref))

/-- PPOINT (R231, R409): the live set is recorded, and a gust of a squall that is to be shuttered stops here. -/
def execPpoint (_c : Ctl) (t n o m : Nat) (s : State) : Result :=
  s.perform fun g =>
    let s := s.onGust g.ref fun h => { h with liveTiles := (t, n), liveSlots := (o, m) }
    if (s.squall? g.ref.sq).any fun q => q.shutter.isSome then
      .over ((s.complete g (g.pc + 1) 0 0 false).onGust g.ref fun h => { h with halted := true })
    else .done s

/-- COMMAND_ACCEPT (R22, R222, R319). -/
def State.acceptNext (s : State) (core : Nat) : State :=
  s.commandAccept core fun s c => match s.lateOverlay c with
    | some f => s.faultFor c.who f.1 f.2
    | none => if c.members.isEmpty then (s.acceptCmd c).completeFor c.who else s.acceptMma c none

end Sys2Proof.Machine
end

