-- ==== Sys2Proof/Machine/Engines.lean ====
section
/-! DEFINITION. The copy, codec and paging engines (R319 to R351): the forms that issue their commands, batches and guard
slots, and the runs of the commands. -/

namespace Sys2Proof.Machine

/-- The slot guard of a command (R327). -/
def cmdGuard : Instr → Int
  | .cpy _ _ _ _ _ _ _ h | .cpyFrame _ _ _ _ h | .mcast _ _ _ _ _ h | .ovl _ _ _ _ _ h | .thaw _ _ _ _ _ _ _ h
  | .freeze _ _ _ _ _ _ _ _ h | .pgin _ _ h | .pgout _ _ h => h
  | _ => 0

/-- A gust form with its squall. -/
def State.squallForm (s : State) (c : Ctl) (body : Gust → Squall → Eff) : Result :=
  s.performGust c fun g =>
    match s.squall? g.ref.sq with
    | none => .done s
    | some q => body g q

/-- A fault found at issue, or the rest. -/
def orFault (s : State) (f : Option (Int × Int)) (k : Eff) : Eff :=
  match f with
  | some (c, d) => .fault s c d
  | none => k

/-- The binary side of a copy is at fault (R333). -/
def binaryFault (x : Int) : Option (Int × Int) :=
  if x % 45 ≠ 0 then some (70, x) else if x < 1 ∨ x > wordMax then some (20, x) else none

/-- CPY (R331 to R333). -/
def execCpy (c : Ctl) (conv : Int) (ssp dsp : Space) (d a b : Nat) (h : Int) (s : State) : Result :=
  s.squallForm c fun g q =>
    let n := (g.s d).val
    let f := (g.s (d + 1)).val
    let sa := (g.s a).val
    let sb := (g.s b).val
    let words := fun (sp : Space) (x : Int) => s.addrsFault q g.priv sp (addrsFrom x (convWords conv n.toNat))
    if n < 0 ∨ n > 4782969 ∨ (conv ≠ 0 ∧ (f < 0 ∨ f > 4782968)) then .fault s 70 0
    else
      let bad := if conv = 0 then (words ssp sa).or (words dsp sb)
        else if conv > 0 then (binaryFault sa).or (words dsp sb)
        else (words ssp sa).or (binaryFault sb)
      orFault s bad (s.submit g { s.mkCmd g q (.cpy c conv ssp dsp d a b h) [n, f, sa, sb] [] with snap := s.placedOf q.ctx })

/-- CPY.frame (R334). -/
def execCpyFrame (c : Ctl) (d a b : Nat) (h : Int) (s : State) : Result :=
  s.squallForm c fun g q =>
    let n := (g.s (d + 1)).val
    if n < 0 ∨ n > 19683 then .fault s 70 0
    else s.submit g (s.mkCmd g q (.cpyFrame c d a b h) [(g.s d).val, n, (g.s a).val, (g.s b).val] [])

/-- A scratchpad word of a gust's addresses, read at issue (R335). -/
def State.scratchWord (s : State) (q : Squall) (x : Int) : Word :=
  match s.scratchPlace q x with
  | .port core _ w => s.winGet core (some q.ctx) w
  | _ => Word.zero

/-- A target run bound to the squall whose allotment holds it (R335). -/
def State.bindRun (s : State) (q : Squall) (x : Int) (n : Nat) : Option (SqRef × Nat) :=
  if x ≥ 0 then (if x + Int.ofNat n ≤ Int.ofNat q.alloc.scratch then some (q.q, x.toNat) else none)
  else match s.scratchPlace q x with
  | .port core _ (.scratch w) => ((s.holderOf core Bases.scratch Alloc.scratch w).filter fun b =>
      decide (w + n ≤ b.bases.scratch + b.alloc.scratch)).map fun b => (b.q, w - b.bases.scratch)
  | _ => none

/-- MCAST (R335). -/
def execMcast (c : Ctl) (ssp : Space) (d a b : Nat) (h : Int) (s : State) : Result :=
  s.squallForm c fun g q =>
    let n := (g.s d).val
    let k := (g.s (d + 1)).val
    let sa := (g.s a).val
    let sb := (g.s b).val
    if n < 1 ∨ n > 531441 ∨ k < 1 ∨ k > 27 then .fault s 70 0
    else orFault s ((s.addrsFault q g.priv ssp (addrsFrom sa n.toNat)).or (s.addrsFault q g.priv .p (addrsFrom sb k.toNat)))
      (let ts := (addrsFrom sb k.toNat).map fun x => s.scratchWord q x
       orFault s (ts.findSome? fun t => (s.addrsFault q g.priv .p (addrsFrom t.val n.toNat)).or
          (if (s.bindRun q t.val n.toNat).isNone then some (20, t.val) else none))
        (s.submit g { s.mkCmd g q (.mcast c ssp d a b h) [n, k, sa, sb] ts with
          targets := ts.filterMap fun t => s.bindRun q t.val n.toNat, snap := s.placedOf q.ctx }))

/-- OVL (R338). -/
def execOvl (c : Ctl) (d a b e : Nat) (h : Int) (s : State) : Result :=
  s.squallForm c fun g q =>
    let p := (g.s d).val
    let n := (g.s (d + 1)).val
    let i0 := (g.s b).val
    orFault s (s.overlayFault q e p n i0) (s.submit g (s.mkCmd g q (.ovl c d a b e h) [p, n, (g.s a).val, i0] []))

/-- THAW (R339, R343). -/
def execThaw (c : Ctl) (ty : ETy) (kind : ThawKind) (d a b n : Nat) (h : Int) (s : State) : Result :=
  s.squallForm c fun g q =>
    let x := (g.s a).val
    if x % 45 ≠ 0 ∨ x < 1 ∨ x > wordMax then .fault s 70 x
    else s.submit g { s.mkCmd g q (.thaw c ty kind d a b n h) [x, (g.s b).val] [] with snap := s.placedOf q.ctx }

/-- A raw length that a type allows (R340). -/
def rawLenOk (ty : ETy) (n : Int) : Bool :=
  decide (1 ≤ n ∧ n ≤ 1594323) && (match ty with
    | .bw => n % 36 == 0
    | .b3 => n % 90 == 0
    | _ => true)

/-- FREEZE (R345). -/
def execFreeze (c : Ctl) (ty : ETy) (ssp : Space) (tab : Bool) (d a b m : Nat) (h : Int) (s : State) : Result :=
  s.squallForm c fun g q =>
    let n := (g.s d).val
    let sa := (g.s a).val
    let sb := (g.s b).val
    if !rawLenOk ty n ∨ sb % 45 ≠ 0 ∨ sb < 1 ∨ sb + 45 * (Int.ofNat m + 1) - 1 > wordMax then .fault s 70 0
    else orFault s (s.addrsFault q g.priv ssp (addrsFrom sa n.toNat))
      (s.submit g { s.mkCmd g q (.freeze c ty ssp tab d a b m h) [n, (g.s (d + 1)).val, sa, sb] [] with
        snap := s.placedOf q.ctx })

/-- A context-paging record's address that R347 allows. -/
def recordOk (x : Int) : Bool := decide (0 ≤ x ∧ x < 135000000000 ∧ x % 9 = 0)

/-- PGIN and PGOUT at issue (R348). -/
def State.pagingForm (s : State) (c : Ctl) (i : Instr) (a : Nat) : Result :=
  s.squallForm c fun g q =>
    let x := (g.s a).val
    if !g.priv then .fault s 71 0
    else if !recordOk x then .fault s 70 x
    else s.submit g (s.mkCmd g q i [x] [])

/-- PGIN (R348). -/
def execPgin (c : Ctl) (a : Nat) (h : Int) (s : State) : Result := s.pagingForm c (.pgin c a h) a

/-- PGOUT (R348). -/
def execPgout (c : Ctl) (a : Nat) (h : Int) (s : State) : Result := s.pagingForm c (.pgout c a h) a

/-- BCLOSE (R323). -/
def execBclose (c : Ctl) (d : Nat) (s : State) : Result :=
  s.performGust c fun g =>
    if g.bnum = 3812798742492 then .fault s 75 0
    else if g.bnum - g.doneUpto ≥ 27 then .wait s .batchRoom
    else .done ((s.setGust { g with bnum := g.bnum + 1, opened := false }).writeS g.ref d (Word.ofNat (g.bnum + 1)))

/-- The fault of the earliest accepted command among some (R325). -/
def earliest (fs : List CmdFault) : Option CmdFault :=
  fs.foldl (fun a f => match a with
    | none => some f
    | some b => if f.serial < b.serial then some f else some b) none

/-- The batches up to `n` are complete: the gust goes on, or reports a fault (R97, R325, R399). None when nothing is to be
reported. -/
def State.reportBatches (s : State) (g : Gust) (n : Nat) : Option State :=
  match earliest (g.faults.filter fun f => decide (f.batch ≤ n)) with
  | some f => some (s.reportFault g.ref f)
  | none =>
    if g.lost > 0 ∧ g.lostIn ≤ n then some ((s.onGust g.ref fun g => { g with lost := 0 }).gustFault g.ref 14 0 0)
    else none

/-- A gust has waited for the batches up to `n` (R216, R288): an acquire at device scope, or at system scope where a command
wrote remote or host lines. -/
def State.batchesWaited (s : State) (g : Gust) (q : Squall) (n : Nat) : State :=
  let sc := if g.far.any fun b => decide (b ≤ n) then Scope.sy else Scope.dv
  (s.orderedAfter (dieOf q.core) sc).onGust g.ref fun g =>
    { g with waited := max g.waited n, touched := g.touched.filter (fun x => decide (x.2 > max g.waited n)),
             far := g.far.filter fun b => decide (b > n) }

/-- A number given at once or in a scalar (R330, R375). -/
def Gust.num (g : Gust) : NumSrc → Int
  | .imm n => n
  | .reg a => (g.s a).val

/-- BWAIT (R325). -/
def execBwait (c : Ctl) (src : NumSrc) (s : State) : Result :=
  s.squallForm c fun g q =>
    let n := g.num src
    if n ≤ 0 then .done s
    else if n > Int.ofNat g.bnum then .fault s 74 0
    else if n.toNat > g.doneUpto then .wait s (.batch n.toNat)
    else match s.reportBatches g n.toNat with
      | some s => .over s
      | none => .done (s.batchesWaited g q n.toNat)

/-- BQRY (R326). -/
def execBqry (c : Ctl) (d : Nat) (s : State) : Result :=
  s.performGust c fun g =>
    .done (s.writeSs g.ref d [Word.ofNat g.bnum, Word.ofNat g.doneUpto,
      Word.ofNat (g.faults.filter fun f => decide (f.batch ≤ g.bnum)).length])

/-- GSET (R287, R329). -/
def execGset (c : Ctl) (k : Nat) (v : Int) (s : State) : Result :=
  s.squallForm c fun g q =>
    let old := q.guards.getD k .zero
    if old.val = -v ∧ v ≠ 0 then .fault s 76 0
    else if !g.quiet then .wait s .quiet
    else
      .done ((s.releasePart (dieOf q.core) .dv).onSquall q.q fun b => { b with guards := b.guards.set k (Trit.sgn v) })

/-- GCLR (R329): the commands under the slot accepted before it leave their queue head first. -/
def execGclr (c : Ctl) (k : Nat) (s : State) : Result :=
  s.squallForm c fun g q =>
    let clear := Eff.done (s.onSquall q.q fun b => { b with guards := b.guards.set k .zero })
    match g.status with
    | .waiting _ (.guards _ _) => clear
    | _ =>
      let ids := ((s.queued q.core).filter fun x => x.record.isNone && x.who.sq == q.q &&
        (cmdGuard x.instr).natAbs == k + 1).map (·.id)
      if ids.isEmpty then clear else .wait s (.guards k ids)

/-- A line as an engine of die `d` reads it whole at its home or port (R51, R242, R279, R414, R425). -/
def State.lineKind (s : State) (d : Nat) (loc : Loc) : LineKind × State :=
  let bad := match loc with
    | .dev p => if (List.range 9).any fun q => s.poisoned p q then some (-4)
      else if (s.home? p).any fun h => !h.bad.isEmpty then some (-1) else none
    | _ => if s.unroutable loc then some (-5) else if (List.range 9).any (s.portPoisoned loc) then some (-4) else none
  match bad with
  | some c => (.broken c, s)
  | none =>
    let (bs, s) := s.readLineAt d loc
    (readLine bs, s)

/-- The line a place lies in. -/
def CmdPlace.loc? : CmdPlace → Option Loc
  | .mem a => some a.loc
  | _ => none

/-- The lines at some addresses of space g (R312). -/
def State.cmdLines (s : State) (c : Cmd) (write : Bool) (xs : List Int) : Xl (List Loc) × State :=
  match s.cmdPlaces c .g write xs with
  | (.ok ps, s) => (.ok (ps.filterMap CmdPlace.loc?), s)
  | (.fail e d, s) => (.fail e d, s)
  | (.wait e x, s) => (.wait e x, s)
  | (.hold, s) => (.hold, s)

/-- A failure of a whole line: its cause and detail (R397). -/
def lineFail (l : Loc) (e : Int) : Int × Int := failAt (.mem ⟨l, 0⟩) e

/-- The bytes of raw lines in turn, up to the first that is not raw, with its cause and detail. -/
def State.rawBytes (s : State) (d : Nat) : List Loc → (List Nat × Option (Int × Int)) × State
  | [] => (([], none), s)
  | l :: ls => match s.lineKind d l with
    | (.raw bs, s) => (match s.rawBytes d ls with
      | ((r, e), s) => ((bs ++ r, e), s))
    | (.packed _, s) => (([], some (lineFail l 79)), s)
    | (.broken e, s) => (([], some (lineFail l e)), s)

/-- The addresses of the lines that hold bytes `f .. f + n − 1` of a binary stream at `x` (R333). -/
def streamLines (x : Int) (f n : Nat) : List Int :=
  if n = 0 then [] else (List.range ((f + n - 1) / 243 + 1 - f / 243)).map fun j => x + 45 * Int.ofNat (f / 243 + j)

/-- Ternary elements as words (R52): unused fields are zero. -/
def elementWords (per : Nat) (es : List Int) : List Word :=
  (List.range ((es.length + per - 1) / per)).map fun w =>
    Word.ofInt (packElems (27 / per) ((List.range per).map fun i => es.getD (per * w + i) 0))

/-- A command's reads in turn, up to the first that fails: the words, and that failure (R321). -/
def State.cmdReadsTo (s : State) (c : Cmd) : List CmdPlace → (List Word × Option (Int × Int)) × State
  | [] => (([], none), s)
  | p :: ps => match s.cmdRead c p with
    | (.error e, s) => (([], some (s.failsAt p e)), s)
    | (.ok v, s) => (match s.cmdReadsTo c ps with
      | ((vs, e), s) => ((v :: vs, e), s))

/-- A command with the failure that follows its last word, kept while its words land. -/
def Cmd.endingWith (c : Cmd) (f : Option (Int × Int)) : Cmd :=
  { c with words := f.elim [] fun f => [Word.ofInt f.1, Word.ofInt f.2] }

/-- The end of a command whose words have all landed: the failure it keeps, if any. -/
def Cmd.endRan (c : Cmd) (s : State) : Ran :=
  let f := (c.words.getD 0 Word.zero).val
  if f = 0 then .ok s else .fail s f (c.words.getD 1 Word.zero).val

/-- Words of which the marked ones are unspecified. -/
def State.blurred (s : State) : List (Word × Bool) → List Word × State
  | [] => ([], s)
  | (v, b) :: rest =>
    let (u, s) := if b then s.unspecified else (v, s)
    let (us, s) := s.blurred rest
    (u :: us, s)

/-- A word copy (R333, R334): the destination words in the overlap are unspecified. DESIGN CHOICE (log entry 69): all source words
are read before a destination word is written, so a destination word outside the overlap takes the value that its source word
had before the copy. -/
def State.copyWords (s : State) (c : Cmd) (sp : Space) (src dst : List CmdPlace) (overlap : List Bool) : Ran :=
  match s.cmdReadsTo c src with
  | ((ws, f), s) =>
    let (vs, s) := s.blurred (List.zip ws overlap)
    let c := c.endingWith f
    s.writeRun c sp dst vs c.endRan

/-- CPY from binary to ternary (R52, R333). -/
def State.copyIn (s : State) (c : Cmd) (code : Nat) (dsp : Space) (n f : Nat) (sa sb : Int) : Ran :=
  let cv := convOf code
  thenXl (s.cmdPlaces c dsp true (addrsFrom sb (convWords (Int.ofNat code) n))) fun s ps =>
    if c.decoded then s.landWords c ps c.endRan
    else thenXl (s.cmdLines c false (streamLines sa f (n * cv.bytes))) fun s lines =>
      let ((bytes, bad), s) := s.rawBytes (dieOf c.core) lines
      let bytes := bytes.drop (f % 243)
      let have_ := min n (bytes.length / cv.bytes)
      let es := (List.range have_).map fun k => convIn code (leNat ((bytes.drop (k * cv.bytes)).take cv.bytes))
      let es := if bad.isSome then es.take (have_ / cv.perWord * cv.perWord) else es
      let c := c.endingWith bad
      s.writeRun c dsp ps (elementWords cv.perWord es) c.endRan

/-- A binary line with some bytes replaced, made raw (R333). -/
def State.patchLine (s : State) (c : Cmd) (loc : Loc) (at_ : Nat) (bs : List Nat) : Except (Int × Int) State :=
  let put := fun (old : List Nat) => (List.range 243).map fun i =>
    if at_ ≤ i ∧ i < at_ + bs.length then bs.getD (i - at_) 0 else old.getD i 0
  let s := match loc with
    | .dev _ => s
    | _ => s.markFar c
  match s.lineKind (dieOf c.core) loc with
  | (.raw old, s) => .ok (s.setLineBytes (dieOf c.core) loc (shellLine 1 (put old)))
  | (.packed _, s) => .ok (s.setLineBytes (dieOf c.core) loc (shellLine 1 (put (List.replicate 243 0))))
  | (.broken e, _) => .error (lineFail loc e)

/-- Bytes of a stream written into consecutive lines, the first from byte `at_`. -/
def State.patchLines (s : State) (c : Cmd) (at_ : Nat) (bs : List Nat) : List Loc → Ran
  | [] => .ok s
  | l :: ls => match s.patchLine c l at_ (bs.take (243 - at_)) with
    | .error e => .fail s e.1 e.2
    | .ok s => s.patchLines c 0 (bs.drop (243 - at_)) ls

/-- CPY from ternary to binary (R52, R333). -/
def State.copyOut (s : State) (c : Cmd) (code : Nat) (ssp : Space) (n f : Nat) (sa sb : Int) : Ran :=
  let cv := convOf code
  thenXl (s.cmdPlaces c ssp false (addrsFrom sa (convWords (Int.ofNat code) n))) fun s ps =>
    thenXl (s.cmdLines c true (streamLines sb f (n * cv.bytes))) fun s lines =>
      thenRan (s.cmdReads c ps) fun s ws =>
        let es := (ws.flatMap fun w => elems w.val (27 / cv.perWord) cv.perWord).take n
        s.patchLines c (f % 243) (es.flatMap fun e => leBytes (convOut code e) cv.bytes) lines

/-- CPY (R333). -/
def State.copyRun (s : State) (c : Cmd) (conv : Int) (ssp dsp : Space) : Ran :=
  let n := (c.scal.getD 0 0).toNat
  let f := (c.scal.getD 1 0).toNat
  let sa := c.scal.getD 2 0
  let sb := c.scal.getD 3 0
  if n = 0 then .ok s
  else if conv > 0 then s.copyIn c conv.natAbs dsp n f sa sb
  else if conv < 0 then s.copyOut c conv.natAbs ssp n f sa sb
  else
    thenXl (s.cmdPlaces c dsp true (addrsFrom sb n)) fun s dst =>
      if c.decoded then s.landWords c dst c.endRan
      else thenXl (s.cmdPlaces c ssp false (addrsFrom sa n)) fun s src =>
        s.copyWords c dsp src dst ((addrsFrom sb n).map fun x => ssp == dsp && decide (sa ≤ x ∧ x < sa + Int.ofNat n))

/-- A frame CPY (R334). DESIGN CHOICE (log entry 85): the translation ahead of R315 follows the source record's chain; the destination
record's starts none. -/
def State.frameRun (s : State) (c : Cmd) : Ran :=
  let p0 := c.scal.getD 0 0
  let n := (c.scal.getD 1 0).toNat
  s.cmdFrames c [c.scal.getD 2 0, c.scal.getD 3 0] fun s c fs => match fs with
  | [f, t] =>
    if f.words ≠ t.words then .fail s 32 0
    else if n > 0 ∧ (p0 < 0 ∨ p0 + Int.ofNat n > f.panes ∨ p0 + Int.ofNat n > t.panes) then .fail s 31 0
    else
      let ps := (List.range n).map fun i => p0 + Int.ofNat i
      let src := ps.flatMap f.pane
      let dst := ps.flatMap t.pane
      let s := match ps.getLast? with
        | some p => s.walkAhead c.core c.ctx c.priv f (f.next p)
        | none => s
      thenXl (s.cmdPlaces c .g false src) fun s a => thenXl (s.cmdPlaces c .g true dst) fun s b =>
        s.copyWords c .g a b (dst.map fun x => src.contains x)
  | _ => .ok s

/-- MCAST (R335): the source is read once, and the targets are written in an order the device chooses. -/
def State.mcastRun (s : State) (c : Cmd) (ssp : Space) : Ran :=
  let n := (c.scal.getD 0 0).toNat
  let places := fun (c : Cmd) => c.targets.flatMap fun t => (List.range n).map fun i => CmdPlace.sq t.1 (.scratch (t.2 + i))
  let reach := fun (s : State) (ps : List CmdPlace) => ps.foldl (fun (a : Xl Unit × State) p => match a with
    | (.ok _, s) => (match s.reachPlace true p with
      | (.ok _, s) => (.ok (), s)
      | (.fail e d, s) => (.fail e d, s)
      | (.wait e x, s) => (.wait e x, s)
      | (.hold, s) => (.hold, s))
    | a => a) (Xl.ok (), s)
  if c.decoded then thenXl (reach s (places c)) fun s _ => s.landWords c (places c) .ok
  else thenXl (s.cmdPlaces c ssp false (addrsFrom (c.scal.getD 2 0) n)) fun s ps =>
    thenXl (reach s (places c)) fun s _ => thenRan (s.cmdReads c ps) fun s ws =>
      let (ts, s) := s.anyOrder c.targets.length c.targets
      let c := { c with targets := ts }
      s.writeRun c .p (places c) (ts.flatMap fun _ => ws) .ok

/-- OVL (R338): the instructions go to the scratchpad. -/
def State.overlayRun (s : State) (c : Cmd) : Ran :=
  let n := (c.scal.getD 1 0).toNat
  let i0 := (c.scal.getD 3 0).toNat
  thenXl (s.cmdPlaces c .g false (addrsFrom (c.scal.getD 2 0) (3 * n))) fun s ps =>
    thenRan (s.cmdReads c ps) fun s ws =>
      .ok (s.each (List.zip (List.range (3 * n)) ws) fun s e => s.putCode c.core (3 * i0 + e.1) e.2)

/-- The header of a thaw block (R340). -/
structure ThawHead where
  fmt : Int
  n : Nat
  b : Nat
  crc : Nat
  lens : List Nat
deriving DecidableEq, Repr

/-- Code lengths as nine words hold them (R340). -/
def lensOf (ws : List Word) : List Int :=
  (List.range 27).map fun m => fld (ws.getD (m / 3) Word.zero).val (9 * (m % 3) + 8) (9 * (m % 3))

/-- The lengths a program or header gives, if R340 accepts them. -/
def lensIn (ws : List Word) : Option (List Nat) :=
  let ls := lensOf ws
  if ls.all (fun l => decide (0 ≤ l ∧ l ≤ 15)) && lensOk (ls.map Int.toNat) then some (ls.map Int.toNat) else none

/-- The header that the 45 words of a line give (R340). -/
def thawHead (ws : List Word) : Option ThawHead :=
  let w := fun (i : Nat) => (ws.getD i Word.zero).val
  let ty := ETy.ofCode (fld (w 1) 26 24)
  match ty, lensIn ((ws.drop 5).take 9) with
  | some t, some ls =>
    if w 0 = 597871 ∧ blockTypes.contains t ∧ fld (w 1) 23 0 = 0 ∧ rawLenOk t (w 2) ∧ 1 ≤ w 3 ∧ w 3 ≤ 14348907 ∧
      0 ≤ w 4 ∧ w 4 ≤ 4294967295 ∧ (ws.drop 14).all (fun x => x.val == 0) then
      some { fmt := t.code, n := (w 2).toNat, b := (w 3).toNat, crc := (w 4).toNat, lens := ls }
    else none
  | _, _ => none

/-- The symbols of a payload (R341, R342): those decoded, of at most `k`, from bit `b`, and the bit after them. -/
def thawSymbols (codes : List (Nat × Nat × Nat)) (bit : Nat → Nat) (limit : Nat) : Nat → Nat → List Int × Nat
  | 0, b => ([], b)
  | k + 1, b => match nextSymbol codes bit limit 15 b 0 0 with
    | some (m, used) => (match thawSymbols codes bit limit k (b + used) with
      | (ss, e) => ((Int.ofNat m - 13) :: ss, e))
    | none => ([], b)

/-- The words of symbols, nine to a word (R341); a last word without all nine is not one. -/
def symbolWords (ss : List Int) : Nat → List Word
  | 0 => []
  | k + 1 => if ss.length < 9 then [] else Word.ofInt (packElems 3 (ss.take 9)) :: symbolWords (ss.drop 9) k

/-- A block decoded (R342): the words, and the failure that ends them; `bytes` are the payload bytes there are and `short` the
failure when a further one is asked for. Only a code of a single symbol has bits that no code matches. -/
def thawWords (h : ThawHead) (bytes : List Nat) (short : Int × Int) : List Word × Option (Int × Int) :=
  let limit := min (8 * h.b) (8 * bytes.length)
  let codes := prefixCodes h.lens
  let (ss, e) := thawSymbols codes (payloadBit bytes) limit (9 * h.n) 0
  let ws := symbolWords ss h.n
  if ws.length < h.n then
    (ws, some (if 8 * h.b ≤ 8 * bytes.length ∨ (codes.length = 1 ∧ e < limit) then (83, 0) else short))
  else if crc32 (packWords ws) ≠ h.crc then (ws, some (84, 0))
  else (ws, none)

/-- The payload lines of a block (R339). -/
def payloadLines (x : Int) (b : Nat) : List Int := (List.range ((b + 242) / 243)).map fun j => x + 45 * (1 + Int.ofNat j)

/-- The destination of a global THAW (R343): its words, checked once, when the header has been read; in space w under R186. A word that
the context no longer owns when it is written takes nothing (R322). -/
def State.thawDest (s : State) (c : Cmd) (kind : ThawKind) (n : Nat) : Xl (List CmdPlace) × State :=
  match kind with
  | .glob sp =>
    let xs := addrsFrom (c.scal.getD 1 0) n
    let bad := if sp = .w ∧ !c.decoded then xs.findSome? fun x => (match s.winFind c.ctx c.priv x with
        | .error e => some (e, x)
        | .ok _ => none) else none
    (match bad with
      | some (e, x) => (.fail e x, s)
      | none => s.cmdPlaces c sp true xs)
  | _ => (.ok [], s)

/-- Words of a ring THAW written while there is room (R343): `room` more may be written. The produced count follows each 243 words
and the last one. -/
def State.ringWrite (s : State) (c : Cmd) (base size : Int) : List Word → Nat → Ran
  | [], _ => c.endRan (s.setCmd c)
  | _ :: _, 0 => .hold (s.setCmd c)
  | w :: ws, room + 1 =>
    let pos := c.pos + 1
    let counts := decide (pos % 243 = 0) || ws.isEmpty
    let s := s.setCmd c
    thenXl (s.cmdPlace c .p (base + (c.p0 + Int.ofNat c.pos) % size) true) fun s p =>
      thenXl (if counts then s.cmdPlaces c .p true [c.scal.getD 1 0 + 3] else (.ok [], s)) fun s qs =>
        thenRan (s.cmdWrites c ((p, w) :: qs.map fun q => (q, Word.ofInt (c.p0 + Int.ofNat pos)))) fun s _ =>
          s.ringWrite { c with pos } base size ws room

/-- THAW places its words (R343). -/
def State.thawWrite (s : State) (c : Cmd) (kind : ThawKind) (d : Nat) (ps : List CmdPlace) : Ran :=
  match kind with
  | .glob .g => thenRan (s.cmdWrites c (List.zip ps c.raw)) fun s _ => c.endRan s
  | .glob _ => if c.raw.isEmpty then c.endRan s else s.landWords c ps c.endRan
  | .slots =>
    if c.fills.all fun o => s.slotFree c o then
      c.endRan (s.each (List.zip (List.range c.raw.length) c.raw) fun s e => s.thawSlot c (d + e.1 / 243) (e.1 % 243) e.2)
    else .hold s
  | .ring =>
    thenXl (s.cmdPlaces c .p false [c.scal.getD 1 0 + 2]) fun s us => thenRan (s.cmdReads c us) fun s used =>
      let room := (c.scal.getD 5 1 - (c.p0 + Int.ofNat c.pos - (used.getD 0 Word.zero).val)).toNat
      s.ringWrite c (c.scal.getD 4 0) (c.scal.getD 5 1) (c.raw.drop c.pos) room

/-- THAW runs (R342, R343): it reads its header, checks its destination, reads and decodes its payload, and places its words; the
words and the failure that follows them are kept in the command. -/
def State.thawRun (s : State) (c : Cmd) (ty : ETy) (kind : ThawKind) (d n : Nat) : Ran :=
  if c.decoded then thenXl (s.thawDest c kind c.raw.length) fun s ps => s.thawWrite c kind d ps
  else
    let x := c.scal.getD 0 0
    thenXl (s.cmdLines c false [x]) fun s ls => match ls with
    | [] => .ok s
    | l :: _ => match s.lineKind (dieOf c.core) l with
    | (.raw _, s) => .fail s 79 0
    | (.broken e, s) => .fail s (lineFail l e).1 (lineFail l e).2
    | (.packed ws, s) => match thawHead ws with
    | none => .fail s 80 0
    | some h =>
      if h.fmt ≠ ty.code then .fail s 81 0
      else if kind = .slots ∧ h.n ≠ 243 * n then .fail s 82 0
      else thenXl (s.thawDest c kind h.n) fun s ps => thenXl (s.cmdLines c false (payloadLines x h.b)) fun s lines =>
        let ((bytes, bad), s) := s.rawBytes (dieOf c.core) lines
        let (out, f) := thawWords h bytes (bad.getD (83, 0))
        let (order, s) := s.anyOrder out.length (List.range out.length)
        let c := { c.endingWith f with raw := out, order, decoded := true, pageWait := none }
        (s.setCmd c).thawWrite c kind d ps

/-- A line of free bytes, made raw (R345: payload lines that hold unspecified values). -/
def State.freeLine (s : State) (d : Nat) (loc : Loc) : State :=
  let (ws, s) := s.unspecifieds 243
  s.setLineBytes d loc (shellLine 1 (ws.map fun w => (w.val % 256).toNat))

/-- FREEZE (R345). DESIGN CHOICE (log entry 86): a coded length beyond the limit of R340 that still fits the payload lines is written. -/
def State.freezeRun (s : State) (c : Cmd) (ty : ETy) (ssp : Space) (tab : Bool) (m : Nat) : Ran :=
  let n := (c.scal.getD 0 0).toNat
  let sb := c.scal.getD 3 0
  thenXl (s.cmdPlaces c ssp false (addrsFrom (c.scal.getD 2 0) n)) fun s src =>
    thenXl (if tab then s.cmdPlaces c .p false (addrsFrom (c.scal.getD 1 0) 9) else (.ok [], s)) fun s tps =>
      thenXl (s.cmdLines c true ((List.range (m + 1)).map fun j => sb + 45 * Int.ofNat j)) fun s lines =>
        thenRan (s.cmdReads c tps) fun s tw =>
          match (if tab then lensIn tw else some defaultLens) with
          | none => .fail s 85 0
          | some lens => thenRan (s.cmdReads c src) fun s ws =>
            let codes := prefixCodes lens
            let syms := ws.flatMap fun w => (elems w.val 3 9).map fun x => (x + 13).toNat
            let found := syms.map fun y => codes.find? fun k => k.2.2 == y
            let bits := found.flatMap fun k => k.elim [] fun k => codeBits k.2.1 k.1
            let bytes := bitsBytes bits ((bits.length + 7) / 8)
            let used := (bytes.length + 242) / 243
            let s := s.each lines fun s l => match l with
              | .dev _ => s
              | _ => s.markFar c
            let spoil := fun (s : State) => s.each (lines.drop 1) fun s l => s.freeLine (dieOf c.core) l
            if found.any Option.isNone then .fail (spoil s) 86 0
            else if used > m then .fail (spoil s) 87 0
            else
              let s := s.each (List.zip (List.range used) (lines.drop 1)) fun s e =>
                let part := (bytes.drop (243 * e.1)).take 243
                s.setLineBytes (dieOf c.core) e.2 (shellLine 1 (part ++ List.replicate (243 - part.length) 0))
              let lw := (List.range 9).map fun j => Word.ofInt (packElems 9 ((List.range 3).map fun i =>
                Int.ofNat (lens.getD (3 * j + i) 0)))
              let head := [Word.ofInt 597871, Word.ofInt (ty.code * pow3 24), Word.ofNat n, Word.ofNat bytes.length,
                Word.ofNat (crc32 (packWords ws))] ++ lw ++ List.replicate 31 Word.zero
              .ok (match lines.head? with
                | some l => s.setLineBytes (dieOf c.core) l (packedLine head)
                | none => s)

/-- The run of a copy or codec command. -/
def State.engineRun (s : State) (c : Cmd) : Ran :=
  match c.instr with
  | .cpy _ conv ssp dsp _ _ _ _ => s.copyRun c conv ssp dsp
  | .cpyFrame _ _ _ _ _ => s.frameRun c
  | .mcast _ ssp _ _ _ _ => s.mcastRun c ssp
  | .ovl _ _ _ _ _ _ => s.overlayRun c
  | .thaw _ ty kind d _ _ n _ => s.thawRun c ty kind d n
  | .freeze _ ty ssp tab _ _ _ m _ => s.freezeRun c ty ssp tab m
  | _ => .ok s

/-- The place of a queue: the core and which of its queues. -/
def engPlace : EngQ → Nat × CmdQ
  | .copy c => (c, .copy)
  | .codec c => (c, .codec)
  | .paging => (0, .paging)

/-- Words of device memory by physical word address, as the paging engine reads them (R347, R479). -/
def State.physRead (s : State) (c : Cmd) (as : List Nat) : CmdAnswer (List Word) :=
  s.cmdReads { c with core := 243 } (as.map fun a => .mem (physWord a))

/-- Words of device memory by physical word address, as the paging engine writes them (R287, R347, R479). -/
def State.physWrite (s : State) (c : Cmd) (es : List (Nat × Word)) : CmdAnswer Unit :=
  s.cmdWrites { c with core := 243 } (es.map fun e => (.mem (physWord e.1), e.2))

/-- The record a paging command names. -/
def Cmd.recordOf (c : Cmd) : Nat :=
  match c.record with
  | some n => n
  | none => (c.scal.getD 0 0).toNat

/-- What a THAW or a paging command does as it starts (R343, R348): the command after it, and the state. -/
def State.startCmd (s : State) (c : Cmd) : State :=
  let begun := { c with stage := .started }
  match c.instr with
  | .thaw _ _ .slots d _ _ n _ =>
    let owned := (s.squall? c.who.sq).any fun q => q.owns false d n c.who.gust
    s.setCmd (if owned then begun else { begun with fault := some (50, 0) })
  | .thaw _ _ .ring _ _ _ _ _ =>
    let sb := c.scal.getD 1 0
    let stop := fun (s : State) (e d : Int) => s.setCmd { begun with fault := some (e, d) }
    (match s.cmdPlaces c .p true (addrsFrom sb 4) with
      | (.fail e x, s) => stop s e x
      | (.ok ps, s) => (match s.cmdReads c ps with
        | (.error e, s) => stop s e.1 e.2
        | (.ok ws, s) =>
          let w := fun (i : Nat) => (ws.getD i Word.zero).val
          if w 1 < 1 ∨ w 1 > 531441 then stop s 70 0
          else s.setCmd { begun with scal := [c.scal.getD 0 0, sb, 0, 0, w 0, w 1], p0 := w 3 })
      | (_, s) => s)
  | .pgin _ _ _ | .pgout _ _ _ | .pageIn _ => (match s.physWrite c [(c.recordOf + 6, Word.ofInt 1)] with
    | (.ok _, s) => s.setCmd begun
    | (.error e, s) => s.setCmd { begun with fault := some e })
  | _ => s.setCmd begun

/-- ENGINE_COMMAND_START (R320, R327, R328): the head of a queue reads its slot, and is held, discarded or started. In the
paging queue commands of different records overlap, and one of the same record waits (R320, R348). An accepted migration goes ahead
of every queued copy command (R392). -/
def State.engineStart (s : State) (e : EngQ) : State :=
  let core := (engPlace e).1
  let q := (engPlace e).2
  let head : Option Cmd := if q = .paging then s.paging.find? fun (c : Cmd) => c.stage == .queued else (s.queue core q).head?
  match head with
  | none => s
  | some c =>
    let busy := q == .paging && (s.paging.takeWhile fun (x : Cmd) => x.id != c.id).any fun (x : Cmd) => x.recordOf == c.recordOf
    let moving := q == .copy && s.squalls.any fun b => b.core == core && b.migration.isSome
    if c.stage ≠ .queued ∨ busy ∨ moving then s
    else
      let h := cmdGuard c.instr
      if h = 0 then s.startCmd c
      else match s.squall? c.who.sq with
      | none => (s.overlayEnd c false).endCmd c none
      | some b =>
        let v := (b.guards.getD (h.natAbs - 1) .zero).val
        if v = 0 then s
        else if v = sgnI h then s.startCmd c
        else (s.overlayEnd c false).endCmd c none

/-- A started head runs on. -/
def State.engineStep (s : State) (c : Cmd) : State :=
  if c.stage ≠ .started then s
  else match c.fault with
    | some (e, d) => if e < 0 then s.checkCmd c e d else s.setCmd { c with stage := .ran }
    | none => s.advance c fun s => s.engineRun c

/-- THAW_RING_POLL (R343): a THAW that waits for its ring reads the consumed count again. -/
def State.thawRingPoll (s : State) (core : Nat) : State :=
  match (s.core core).codecQ with
  | c :: _ => (match c.instr with
    | .thaw _ _ .ring _ _ _ _ _ => s.engineStep c
    | _ => s)
  | [] => s

/-- ENGINE_COMMAND_COMPLETE (R321, R323): the head's effects are done, or it stops on its fault, and it leaves the queue. -/
def State.engineComplete (s : State) (e : EngQ) : State :=
  let core := (engPlace e).1
  let q := (engPlace e).2
  match q with
  | .paging => (match s.paging.find? fun c => c.stage == .ran with
    | some c => s.endCmd c c.fault
    | none => s)
  | _ => match s.queue core q with
    | [] => s
    | c :: _ =>
      let s := s.engineStep c
      match (s.queue core q).head? with
      | some c' => if c'.stage = .ran then (s.overlayEnd c' true).endCmd c' c'.fault else s
      | none => s

/-- A context-paging record as R347 lays it out. -/
structure PageRec where
  block : Bool
  lba : Nat
  k : Nat
  copies : Nat
  ctrl : Nat
  ns : Nat
  first : Nat
  stored : Nat
  line : Nat
  pte : Nat
deriving DecidableEq, Repr

/-- The record of nine words, unless it breaks R347. DESIGN CHOICE (log entry 87): a negative stored length breaks it, for PGOUT too. -/
def pageRecOf (ws : List Word) : Option PageRec :=
  let w := fun (i : Nat) => (ws.getD i Word.zero).val
  let form := fld (w 0) 26 25
  let size := tritI (w 0) 24
  let k := fld (w 0) 23 21 + 12
  let copies := fld (w 0) 20 18
  let ctrl := fld (w 0) 17 14
  if (form = 0 ∨ (form = 1 ∧ k ≤ 9)) ∧ size ≥ 0 ∧ 3 ≤ k ∧ k ≤ 20 ∧ (copies = 1 ∨ copies = 3 ∨ copies = 9) ∧ 0 ≤ ctrl ∧ ctrl ≤ 26 ∧
    fld (w 0) 13 0 = 0 ∧ 1 ≤ w 1 ∧ w 1 ≤ 4294967294 ∧ 0 ≤ w 2 ∧ 0 ≤ w 3 ∧ 0 ≤ w 4 ∧ w 4 % pow3 k.toNat = 0 ∧
    w 4 + pow3 k.toNat ≤ 3000000000 ∧ 0 ≤ w 5 ∧ w 5 + 2 * copies ≤ 135000000000 ∧ (w 8) = 0 then
    some { block := form == 1, lba := if size = 1 then 4096 else 512, k := k.toNat, copies := copies.toNat,
           ctrl := ctrl.toNat, ns := (w 1).toNat, first := (w 2).toNat, stored := (w 3).toNat, line := (w 4).toNat,
           pte := (w 5).toNat }
  else none

/-- The physical word addresses of a record's nine words. -/
def recAddrs (n : Nat) : List Nat := (List.range 9).map (· + n)

/-- The physical word addresses of a record's PTE copies. -/
def PageRec.ptes (p : PageRec) : List Nat :=
  if p.pte = 0 then [] else (List.range p.copies).map fun j => p.pte + 2 * j

/-- The words of some entries, as their homes hold them. -/
def State.ptesAt (s : State) (c : Cmd) (as : List Nat) : CmdAnswer (List (Word × Word)) :=
  match s.physRead c (as.flatMap fun a => [a, a + 1]) with
  | (.ok ws, s) => (.ok ((List.range as.length).map fun i => (ws.getD (2 * i) Word.zero, ws.getD (2 * i + 1) Word.zero)), s)
  | (.error e, s) => (.error e, s)

/-- The bytes of a namespace of a controller. -/
def State.flashCells (s : State) (ctrl ns : Nat) : List Host.Cell :=
  ((s.flash.find? fun x => x.1 == ctrl && x.2.1 == ns).map (·.2.2)).getD []

/-- `n` bytes of storage from a byte address. -/
def State.flashRead (s : State) (ctrl ns a n : Nat) : List Nat :=
  let cells := s.flashCells ctrl ns
  (List.range n).map fun i => (readAt Config.storageByte cells (a + i)).toNat

/-- Bytes of storage written (R350). -/
def State.flashWrite (s : State) (ctrl ns a : Nat) (bs : List Nat) : State :=
  let cells := writeCells Config.storageByte (s.flashCells ctrl ns) a bs
  { s with flash := (s.flash.filter fun x => !(x.1 == ctrl && x.2.1 == ns)) ++ [(ctrl, ns, cells)] }

/-- The lines of a page in their shell form from storage (R347): form 0, as they stand; form +, thawed. The cause when they
cannot be had. DESIGN CHOICE (log entry 87): a stored length too short for the page is "storage integrity". -/
def pageLines (p : PageRec) (bytes : List Nat) : Except Int (List (List Nat)) :=
  let line := fun (i : Nat) => (bytes.drop (256 * i)).take 256
  if !p.block then
    let ls := (List.range (3 ^ p.k)).map line
    if ls.any fun l => (match readLine l with
      | .broken _ => true
      | _ => l.length != 256) then .error 91 else .ok ls
  else match readLine (line 0) with
  | .broken _ => .error 91
  | .raw _ => .error 79
  | .packed ws => match thawHead ws with
    | none => .error 80
    | some h =>
      if h.fmt ≠ ETy.w1.code then .error 81
      else if h.n ≠ 45 * 3 ^ p.k then .error 82
      else
        let kinds := (List.range ((h.b + 242) / 243)).map fun j => readLine (line (j + 1))
        if kinds.any fun x => (match x with
          | .broken _ => true
          | _ => false) then .error 91
        else
          let bytes := kinds.flatMap fun x => match x with
            | .raw b => b
            | _ => []
          if kinds.any fun x => (match x with
            | .packed _ => true
            | _ => false) then .error 79
          else match thawWords h bytes (83, 0) with
          | (out, none) => .ok ((List.range (3 ^ p.k)).map fun i => packedLine ((out.drop (45 * i)).take 45))
          | (_, some f) => .error f.1

/-- A present entry as a page-in writes it (R349). -/
def presentWord (w0 : Word) : Word := Word.ofInt (pow3 25 + pow3 15 * fld w0.val 24 15)

/-- An absent-on-flash entry as PGOUT writes it (R350). -/
def absentWord (w0 : Word) : Word := Word.ofInt (-(pow3 25) + pow3 15 * fld w0.val 24 15)

/-- The end of a paging command's run (R347 to R350): status, PTIME, and its fault for the batch; a failure of the record's own line
is its fault too (R479). -/
def State.pagingEnd (s : State) (c : Cmd) (fault : Option (Int × Int)) : State :=
  let n := c.recordOf
  let fin := fun (s : State) (f : Option (Int × Int)) => match f with
    | some (e, d) => if e < 0 then s.checkCmd c e d else s.setCmd { c with stage := .ran, fault := f }
    | none => s.setCmd { c with stage := .ran, fault := none }
  match s.physWrite c [(n + 6, Word.ofInt (if fault.isSome then -1 else 2)), (n + 7, s.ptimeLow)] with
  | (.ok _, s) => fin s fault
  | (.error e, s) => fin s (fault.or (some e))

/-- Squalls that were shuttered while they waited on an entry may be bound again (R349, R365). -/
def State.arrived (s : State) (entry : Nat) : State :=
  { s with shuttered := s.shuttered.map fun (x : Shuttered) =>
      { x with waitEntries := x.waitEntries.filter fun w => w.2 != entry } }

/-- A failed page-in (R309, R349): the waiters of the entries fail. -/
def State.pageInFails (s : State) (c : Cmd) (ptes : List Nat) (f : Int × Int) : State :=
  (s.each ptes.eraseDups fun s a => (s.failFill a 28).arrived a).pagingEnd c (some f)

/-- PAGE_IN (R349) of the started page-in of record `n`. -/
def State.pageIn (s : State) (n : Nat) : State :=
  let mine := fun (c : Cmd) => c.stage == .started && c.recordOf == n && (match c.instr with
    | .pgin _ _ _ | .pageIn _ => true
    | _ => false)
  match s.paging.find? mine with
  | none => s
  | some c =>
    let walk := c.pageWait.toList
    let bad := (88, 0)
    match c.fault with
    | some f => s.pageInFails c walk f
    | none => match s.physRead c (recAddrs n) with
    | (.error e, s) => s.pageInFails c walk e
    | (.ok ws, s) => match pageRecOf ws with
    | none => s.pageInFails c walk bad
    | some p => match s.ptesAt c p.ptes with
    | (.error e, s) => s.pageInFails c walk e
    | (.ok es, s) =>
      let named := es.all fun e => pteType e.1 == -1 && e.2.val == Int.ofNat n
      let first := (es.head?.map fun e => pteFill e.1).getD 0
      let all := p.ptes ++ walk
      if !named then s.pageInFails c walk bad
      else if c.record.isNone ∧ first = 1 then s.pageInFails c [] (89, 0)
      else
        let mark := if c.record.isSome then [] else (List.zip p.ptes es).take 1 |>.map fun e =>
          (e.1, Word.ofInt (setFld e.2.1.val 14 14 1))
        match s.physWrite c mark with
        | (.error e, s) => s.pageInFails c all e
        | (.ok _, s) =>
          if !s.boot.controllers.contains p.ctrl then s.pageInFails c all (90, 0)
          else match pageLines p (s.flashRead p.ctrl p.ns (p.first * p.lba) (p.stored * p.lba)) with
          | .error f => s.pageInFails c all (f, 0)
          | .ok ls =>
            let s := s.each (List.zip (List.range ls.length) ls) fun s e => s.setLineBytes 9 (.dev (p.line + e.1)) e.2
            match s.physWrite c ((List.zip p.ptes es).flatMap fun e =>
              [(e.1 + 1, Word.ofNat p.line), (e.1, presentWord e.2.1)]) with
            | (.error e, s) => s.pageInFails c all e
            | (.ok _, s) => (s.each all fun s a => s.arrived a).pagingEnd c none

/-- Lines read whole by the paging engine, in turn, as through rim die 0, with the bytes of each. -/
def State.wholeLines (s : State) : List Loc → List (Loc × LineKind × List Nat) × State
  | [] => ([], s)
  | l :: ls =>
    let (k, s) := s.lineKind 9 l
    let bs := s.lineBytes l
    match s.wholeLines ls with
    | (r, s) => ((l, k, bs) :: r, s)

/-- The bytes of a page in a record's form (R347, R350). -/
def State.pageBytes (s : State) (p : PageRec) : Except (Int × Int) (List Nat) × State :=
  let (lines, s) := s.wholeLines ((List.range (3 ^ p.k)).map fun i => Loc.dev (p.line + i))
  let kinds := lines.map fun l => l.2.1
  (match lines.findSome? fun k => (match k.2.1 with
    | .broken e => some (lineFail k.1 e)
    | .raw _ => if p.block then some (79, 0) else none
    | .packed _ => none) with
  | some e => .error e
  | none =>
    if !p.block then .ok (lines.flatMap fun l => l.2.2)
    else
      let ws := kinds.flatMap fun k => match k with
        | .packed w => w
        | _ => []
      let codes := prefixCodes defaultLens
      let syms := ws.flatMap fun w => (elems w.val 3 9).map fun x => (x + 13).toNat
      let bits := syms.flatMap fun y => ((codes.find? fun k => k.2.2 == y).map fun k => codeBits k.2.1 k.1).getD []
      let bytes := bitsBytes bits ((bits.length + 7) / 8)
      let lw := (List.range 9).map fun j => Word.ofInt (packElems 9 ((List.range 3).map fun i =>
        Int.ofNat (defaultLens.getD (3 * j + i) 0)))
      let head := [Word.ofInt 597871, Word.ofInt (ETy.w1.code * pow3 24), Word.ofNat ws.length, Word.ofNat bytes.length,
        Word.ofNat (crc32 (packWords ws))] ++ lw ++ List.replicate 31 Word.zero
      .ok (packedLine head ++ (List.range ((bytes.length + 242) / 243)).flatMap fun j =>
        let part := (bytes.drop (243 * j)).take 243
        shellLine 1 (part ++ List.replicate (243 - part.length) 0)), s)

/-- PAGE_OUT (R350) of the started PGOUT of record `n`: the entries turn absent, and once every lease on them has ended (R307)
the page is published and stored. -/
def State.pageOut (s : State) (n : Nat) : State :=
  let mine := fun (c : Cmd) => c.stage == .started && c.recordOf == n && (match c.instr with
    | .pgout _ _ _ => true
    | _ => false)
  match s.paging.find? mine with
  | none => s
  | some c =>
    let stop := fun (s : State) (f : Int) => s.pagingEnd c (some (f, 0))
    let halt := fun (s : State) (f : Int × Int) => s.pagingEnd c (some f)
    match c.fault with
    | some f => halt s f
    | none => match s.physRead c (recAddrs n) with
    | (.error e, s) => halt s e
    | (.ok ws, s) => match pageRecOf ws with
    | none => stop s 88
    | some p =>
      if !c.decoded then match s.ptesAt c p.ptes with
        | (.error e, s) => halt s e
        | (.ok es, s) =>
          if es.any fun e => !(pteType e.1 == 1 && e.2.val == Int.ofNat p.line) then stop s 88
          else match s.physWrite c ((List.zip p.ptes es).flatMap fun e =>
              [(e.1 + 1, Word.ofNat n), (e.1, absentWord e.2.1)]) with
          | (.error e, s) => halt s e
          | (.ok _, s) =>
            let lease := (es.map fun e => leaseTicks (max 0 (pteLease e.1))).foldl max 0
            s.setCmd { c with decoded := true, p0 := Int.ofNat (s.ptime + lease) }
      else if Int.ofNat s.ptime < c.p0 then s
      else if !s.boot.controllers.contains p.ctrl then stop s 90
      else
        let s := s.each ((List.range (3 ^ p.k)).map (· + p.line)) fun s l =>
          s.each (List.range 9) fun s q => s.publish 99 l q
        match s.pageBytes p with
        | (.error e, s) => halt s e
        | (.ok bytes, s) =>
          let blocks := (bytes.length + p.lba - 1) / p.lba
          let full := bytes ++ List.replicate (blocks * p.lba - bytes.length) 0
          match (s.flashWrite p.ctrl p.ns (p.first * p.lba) full).physWrite c [(n + 3, Word.ofNat blocks)] with
          | (.error e, s) => halt s e
          | (.ok _, s) => s.pagingEnd c none

end Sys2Proof.Machine
end

