-- ==== Sys2Proof/Machine/Global.lean ====
section
/-! DEFINITION. The global-memory forms and fences (R244 to R256, R290, R291), and the steps that complete them: a sector
that returns (R244), an atomic at its unit (R249), a retranslation (R311), a write that reaches its home (R240). -/

namespace Sys2Proof.Machine

/-- LD (R252). -/
def execLd (c : Ctl) (m : MOps) (s : State) : Result := s.performAs c true fun g => s.laneMemory g c .load (.ld c m) m

/-- ST (R252). -/
def execSt (c : Ctl) (m : MOps) (s : State) : Result := s.performAs c true fun g => s.laneMemory g c .store (.st c m) m

/-- LDS (R252). -/
def execLds (c : Ctl) (m : MOps) (s : State) : Result := s.performGust c fun g => s.scalarLoad g m

/-- STS (R252). -/
def execSts (c : Ctl) (m : MOps) (s : State) : Result := s.performGust c fun g => s.scalarStore g m

/-- A result of an atomic's lane reaches its destination (R204, R253, R254). -/
def PendAtom.land (a : PendAtom) (s : State) (r : GustRef) (l : Nat) (v : Word) : State :=
  if a.scalar then s.writeS r a.d v else s.putVals r a.d [(l, v)]

/-- A gust stays at an atomic until it has applied: one with an acquire part (R275), and one whose result is a mask word
(R102). -/
def PendAtom.blocks (a : PendAtom) : Bool := a.ord.acquires || (a.scalar && decide (78 ≤ a.d))

/-- A lane of an atomic reads and writes at its apply unit (R249): the old word. A request that has been taken keeps the word
it found where the line has become raw since; a machine check that it meets is that of the instruction (R397, R414). -/
def State.atomAt (s : State) (q : Squall) (a : PendAtom) (it : AtomItem) : Word × State :=
  let f := fun (old : Word) => a.kind.new old it.b it.dOld
  if it.took then (it.seen, s)
  else
    let p := match it.at_.loc with
      | .win core => (winReg (coreIsD core) it.at_.word).map fun w => Place.port core it.at_.word w
      | _ => some (.mem it.at_ a.lease)
    match p.map fun p => s.updatePlace q a.ord a.scope a.ev f p with
    | some (.ok v, s) => (v, s)
    | some (.error c, s) => (it.seen, if c < 0 then s.send (.machineCheck q.ctx c ⟨it.at_.phys, a.words⟩) else s)
    | none => (it.seen, s)

/-- A lane of an atomic applies, and its result lands. -/
def State.atomStep (s : State) (r : GustRef) (q : Squall) (a : PendAtom) (it : AtomItem) : State :=
  match s.atomAt q a it with
  | (v, s) => a.land s r it.lane v

/-- The unit at which a lane of an atomic applies (R248): a core's port, an L1 slice, a home slice or a rim port. -/
def PendAtom.unit (a : PendAtom) (it : AtomItem) : List Nat :=
  match it.at_.loc with
  | .win core => [0, core]
  | .dev p => if a.scope.wide then [1, homeSlice p] else [2, p % 27]
  | .host p => if a.scope.wide then [3] else [2, p % 27]
  | .remote dev p => if a.scope.wide then [4, dev] else [2, p % 27]

/-- A lane of an atomic can reach its unit: its request is not lost, no dead link lies between (R422), and no latch message of its
slice is on its way to the home where it applies (R260: messages from one slice to one home apply in the order sent). -/
def State.atomCan (s : State) (d : Nat) (a : PendAtom) (it : AtomItem) : Bool :=
  !a.lost && s.joined d it.at_.loc && match it.at_.loc with
    | .dev p => !(a.scope.wide && s.latchAhead d p)
    | _ => true

/-- The lanes of an atomic that apply next at a unit (R182, R249): the lowest one; at a core's port all of them, with no other access
between those that reach one word. -/
def PendAtom.next (a : PendAtom) (u : List Nat) : List AtomItem :=
  let its := a.items.filter fun it => a.unit it == u
  match u with
  | 0 :: _ => its
  | _ => its.take 1

/-- An atomic has left for its apply units (R249, R274): a seq-cst one takes its ticket and applies in one act (R286); one that
the gust stays at has it wait; any other is over, and its results land later. -/
def State.sendAtom (s : State) (g : Gust) (q : Squall) (a : PendAtom) : State :=
  if a.items.isEmpty then s
  else if a.ord = .sc then (s.ticketFor (dieOf q.core) a.ord a.scope).each a.items fun s it => s.atomStep g.ref q a it
  else s.onGust g.ref fun g => { g with atoms := g.atoms ++ [a] }

/-- The end of an atomic instruction, once no lane of it awaits replay: the gust waits for it, or its acquire part follows and
it completes (R275). -/
def State.endAtom (s : State) (g : Gust) (q : Squall) (o : Order) (sc : Scope) : Eff :=
  if (s.gust? g.ref).any fun h => h.atoms.any PendAtom.blocks then .wait s .atomic
  else .done (if o.acquires then s.acquirePart (dieOf q.core) sc else s)

/-- The lanes of an atomic instruction issued (R249, R253, R254, R308). -/
def State.atomLanes (s : State) (g : Gust) (q : Squall) (k : AtomKind) (i : Instr) (m : MOps) (items : List (Nat × Int × Place)) :
    Eff :=
  let a := State.runLanes g.ref (State.atomLane g q k m) items
    { st := s, vals := [], pend := [], waits := [], check := none, lease := none }
  match a.check with
  | some (c, d) => .check a.st c d
  | none =>
    let s := (a.st.putVals g.ref m.d a.vals).askSpans s (dieOf q.core) m m.scope.wide (memPlaces items)
    let s := s.sendAtom g q (atomOf g m k a)
    if a.waits.isEmpty then s.endAtom g q m.ord m.scope
    else .wait (s.onGust g.ref fun g => { g with replay := some { instr := i, lanes := a.waits } }) .replay

/-- An atomic of class 0 (R249, R253, R254), or an AMOP (R203, R204): the updates of the own core's stores apply at once, in
program order (R183). -/
def State.laneAtom (s : State) (g : Gust) (c : Ctl) (k : AtomKind) (i : Instr) (m : MOps) : Eff :=
  match s.squall? g.ref.sq with
  | none => .done s
  | some q =>
    let (items, s) := s.lanePlaces g q m true (g.activeLanes c.guard)
    let items := items.map fun x => (x.1, x.2.1, if updatable m.space x.2.1 then x.2.2 else .bad 20 0)
    if s.clashes g (items.map (·.2.2)) then .wait s .quiet
    else match s.before g (dieOf q.core) m.ord m.scope with
    | none => .wait s .quiet
    | some s =>
      let own := items.all fun x => match x.2.2 with
        | .port core _ _ => core == q.core
        | .mem _ _ => false
        | _ => true
      if own then State.endLanes (s.doLanes g q (.update k) m items) g q i m else s.atomLanes g q k i m items

/-- An atomic of class + (R253, R254). -/
def State.scalarAtom (s : State) (g : Gust) (k : AtomKind) (m : MOps) : Eff :=
  let x := baseAddr g m.bc m.a m.off
  if !updatable m.space x then .fault s 20 x
  else s.gustPlace g m.space x true fun s q p =>
    match s.before g (dieOf q.core) m.ord m.scope with
    | none => .wait s .quiet
    | some s =>
      let here := match p with
        | .port core _ _ => core == q.core
        | _ => false
      if here then endAccess (s.updatePlace q m.ord m.scope m.ev (fun old => k.new old (g.s m.b) (g.s m.d)) p) p x fun s v =>
        let s := s.ticketFor (dieOf q.core) m.ord m.scope
        .done ((if m.ord.acquires then s.acquirePart (dieOf q.core) m.scope else s).writeS g.ref m.d v)
      else match State.atomLane g q k m s 0 p with
        | (.pend a v lease, s) =>
          (s.sendAtom g q
            { kind := k, d := m.d, scalar := true, ord := m.ord, scope := m.scope, ev := m.ev, lease, sentAt := s.ptime,
              words := s.accessRec g.ref, items := [{ lane := 0, at_ := a, dOld := g.s m.d, b := g.s m.b, seen := v }] }).endAtom g q m.ord m.scope
        | (.fault c, s) => .fault s c x
        | (.check c, s) => .check s c p.detail
        | (.page e, s) => .wait (s.onGust g.ref fun g => { g with pageWait := some e }) .page
        | (.ok _, s) => .done s

/-- ATOM (R253); in window space the scratchpad region alone takes it (R187). -/
def execAtom (c : Ctl) (op : Rmw) (ty : ETy) (scalar : Bool) (m : MOps) (s : State) : Result :=
  if scalar then s.performGust c fun g => s.scalarAtom g (.rmw op ty) m
  else s.performAs c true fun g => s.laneAtom g c (.rmw op ty) (.atom c op ty scalar m) m

/-- CAS (R254). -/
def execCas (c : Ctl) (f : CasField) (scalar : Bool) (m : MOps) (s : State) : Result :=
  if scalar then s.performGust c fun g => s.scalarAtom g (.cas f) m
  else s.performAs c true fun g => s.laneAtom g c (.cas f) (.cas c f scalar m) m

/-- ATOMIC_APPLY (R249): the next lane of one of a gust's atomics on their way performs its read and write; which of the atomics, and at
which of its units, is a free choice (R274, log entry 3). A gust that stays at its atomic goes on once all of it has applied. -/
def State.atomicApply (s : State) (r : GustRef) : State :=
  match s.gust? r, s.squall? r.sq with
  | some g, some q =>
    let can := fun (a : PendAtom) (it : AtomItem) => s.atomCan (dieOf q.core) a it
    let open_ := (List.range g.atoms.length).filter fun k => (g.atoms[k]?).any fun a => a.items.any (can a)
    let (n, s) := s.pick open_.length
    let k := open_.getD n g.atoms.length
    (match g.atoms[k]? with
      | none => s
      | some a =>
        let units := ((a.items.filter (can a)).map a.unit).eraseDups
        let (u, s) := s.pick units.length
        let now := a.next (units.getD u [])
        let rest := { a with items := a.items.filter fun it => !now.contains it }
        let left := if rest.items.isEmpty then g.atoms.eraseIdx k else g.atoms.set k rest
        let s := s.onGust r fun g => { g with atoms := left }
        let s := s.each now fun s it => s.atomStep r q a it
        match g.status with
        | .waiting op .atomic =>
          if left.any PendAtom.blocks then s
          else
            let s := if a.ord.acquires then s.acquirePart (dieOf q.core) a.scope else s
            { (Eff.done { s with op }).settle ((s.gust? r).getD g) op with op := s.op }
        | _ => s)
  | _, _ => s

/-- PREF of one address (R255): what its request meets, and the fill it starts. -/
def State.prefetch (s : State) (q : Squall) (ev : Int) (line : Bool) (a : WLoc) : LaneOut × State :=
  let d := dieOf q.core
  let first := if line then 0 else sectorOf a.word
  let n := if line then 9 else 1
  match s.loadRequest d a ev 0 with
  | (.pend _ _ _, s) =>
    if ev ≠ -4 then (.ok none, s.send (.l1Fill d a.loc first n ev))
    else match a.loc with
    | .dev p => (.ok none, s.each (List.range n) fun s k => (s.fetchSector d p (first + k) (-4)).2)
    | _ => (.ok none, s)
  | (.check c, s) => (.check c, s)
  | (_, s) => (.ok none, s)

/-- An address of PREF or DEMOTE: address faults count, failures of translation are dropped (R255, R256). -/
def dropFailures (f : State → Nat → WLoc → LaneOut × State) (s : State) (l : Nat) (p : Place) : LaneOut × State :=
  match p with
  | .mem a _ => f s l a
  | .bad c _ => if c = 20 ∨ c = 21 then (.fault c, s) else if c < 0 then (.check c, s) else (.ok none, s)
  | _ => (.ok none, s)

/-- A form that asks about addresses and returns nothing: once for the gust, or in each participating lane (R255, R256). -/
def State.hintForm (s : State) (c : Ctl) (m : MOps) (f : Squall → State → Nat → WLoc → LaneOut × State) : Result :=
  s.performAs c (m.bc == .vector) fun g =>
    match s.squall? g.ref.sq with
    | none => .done s
    | some q =>
      if m.bc = .vector then
        let (items, s) := s.lanePlaces g q m false (g.activeLanes c.guard)
        let a := State.runLanes g.ref (dropFailures (f q)) items { st := s, vals := [], pend := [], waits := [], check := none,
                                                                             lease := none }
        match a.check with
        | some (c, d) => .check a.st c d
        | none => .done a.st
      else
        let x := baseAddr g m.bc m.a m.off
        let (p, s) := s.placeOf q g.priv m.space x false
        match dropFailures (f q) s 0 p with
        | (.fault c, s) => .fault s c x
        | (.check c, s) => .check s c p.detail
        | (_, s) => .done s

/-- PREF (R255). -/
def execPref (c : Ctl) (line : Bool) (m : MOps) (s : State) : Result :=
  s.hintForm c m fun q s _ a => s.prefetch q m.ev line a

/-- The lesser of a priority and a code (R245). -/
def demoted (prio ev : Int) : Int := min prio ev

/-- DEMOTE of one line (R256). -/
def State.demote (s : State) (d : Nat) (ev : Int) (loc : Loc) : State :=
  let s := if ev = -4 then (if (s.l1? d loc).isSome then s.evictL1 d loc else s)
    else s.onL1 d loc fun x => { x with prio := demoted x.prio ev }
  match loc with
  | .dev p =>
    let s := s.onDie d fun x => { x with near := x.near.map fun l =>
      if l.line == p then { l with prio := demoted l.prio (l2Prio ev) } else l }
    s.onHome p fun h => { h with prio := demoted h.prio (l2Prio ev) }
  | _ => s

/-- DEMOTE (R256). -/
def execDemote (c : Ctl) (m : MOps) (s : State) : Result :=
  s.hintForm c m fun q s _ a => (.ok none, s.demote (dieOf q.core) m.ev a.loc)

/-- FENCE (R290). -/
def execFence (c : Ctl) (o : Order) (sc : Scope) (s : State) : Result :=
  s.performGust c fun g =>
    match s.squall? g.ref.sq with
    | none => .done s
    | some q =>
      if o.acquires && !(g.loads.isEmpty && g.atoms.isEmpty) then .wait s .quiet
      else match s.before g (dieOf q.core) o sc with
      | none => .wait s .quiet
      | some s =>
        let s := s.ticketFor (dieOf q.core) o sc
        .done (if o.acquires then s.acquirePart (dieOf q.core) sc else s)

/-- IFENCE (R291): the gust's window writes to its own core have applied at once; what the gust had fetched beyond its packet
is fetched anew. -/
def execIfence (c : Ctl) (s : State) : Result :=
  s.performGust c fun g =>
    if g.unacked ≠ 0 then .wait s .quiet
    else .done (s.onGust g.ref fun g => { g with oldCode := [] })

/-- The word of a lane of a load that returns (R183, R238, R244, R246): the port's, or what L1 or the level below it gives. The
request has been taken, so where the line has become raw since the lane gets the word that it found; a machine check is that of the
instruction (R397, R414). -/
def State.itemWord (s : State) (q : Squall) (l : PendLoad) (at_ : WLoc) (seen : Word) : Word × State :=
  match at_.loc with
  | .win core => ((winReg (coreIsD core) at_.word).elim seen fun w => s.winGet core (some q.ctx) w, s)
  | _ => match s.readRelaxed (dieOf q.core) at_ l.ev with
    | (.ok v, s) => (v, s)
    | (.error c, s) => (seen, if c < 0 then s.send (.machineCheck q.ctx c ⟨at_.phys, l.words⟩) else s)

/-- What one LOAD_SECTOR_RETURN brings to a lane: a sector of a line, or a word of another core, at a code. -/
def itemKey (l : PendLoad) (at_ : WLoc) : Loc × Nat × Int :=
  (at_.loc, match at_.loc with
    | .win _ => at_.word
    | _ => sectorOf at_.word, l.ev)

/-- LOAD_SECTOR_RETURN (R183, R244): the n-th sector that a gust's loads wait for, or a word of another core, lands in every
lane that needs it. -/
def State.loadReturn (s : State) (r : GustRef) (n : Nat) : State :=
  match s.gust? r, s.squall? r.sq with
  | some g, some q =>
    let can := fun (l : PendLoad) (x : Nat × WLoc × Word) => !l.lost && s.joined (dieOf q.core) x.2.1.loc
    let keys := (g.loads.flatMap fun l => (l.items.filter (can l)).map fun x => itemKey l x.2.1).eraseDups
    (match keys[n]? with
      | none => s
      | some k =>
        let s := s.each g.loads fun s l => s.each (l.items.filter fun x => can l x && itemKey l x.2.1 == k) fun s x =>
          match s.itemWord q l x.2.1 x.2.2 with
          | (v, s) => if l.scalar then s.writeS r l.d v else s.putVals r l.d [(x.1, v)]
        s.onGust r fun g =>
          let left := g.loads.map fun (l : PendLoad) => { l with items := l.items.filter fun x => !(can l x && itemKey l x.2.1 == k) }
          { g with loads := left.filter fun l => !l.items.isEmpty })
  | _, _ => s

/-- The lane work of an instruction that can await replay (R308). -/
def replayWork : Instr → Option (Sum LaneOp AtomKind × MOps)
  | .ld _ m => some (.inl .load, m)
  | .st _ m => some (.inl .store, m)
  | .atom _ op ty _ m => some (.inr (.rmw op ty), m)
  | .cas _ f _ m => some (.inr (.cas f), m)
  | _ => none

/-- The waiting lanes of a gust retranslated (R309, R311): those whose fill has failed take its cause. -/
def State.replayLanes (s : State) (g : Gust) (q : Squall) (op : Int) (rp : Replay) : State :=
  let r := g.ref
  let s := { s with op := op }
  match replayWork rp.instr with
  | none => (Eff.done s).settle g op
  | some (work, m) =>
    let cause := fun (e : Nat) => (g.fillFaults.find? fun f => f.1 == e).map (·.2)
    let s := s.onGust r fun g =>
      { rp.lanes.foldl (fun g x => g.unparkTrit x.1) g with replay := none, fillFaults := [] }
    let s := s.each rp.lanes fun s x => match cause x.2 with
      | some c => s.laneFault r x.1 c (laneAddr g m x.1)
      | none => s
    let g' := (s.gust? r).getD g
    let ls := (rp.lanes.filter fun x => (cause x.2).isNone).map (·.1)
    match work with
    | .inl lop =>
      let (items, s) := s.lanePlaces g' q m (lop != .load) ls
      (State.endLanes (s.doLanes g' q lop m items) g' q rp.instr m).settle g' op
    | .inr k =>
      let (items, s) := s.lanePlaces g' q m true ls
      (s.atomLanes g' q k rp.instr m items).settle g' op

/-- LANE_RETRANSLATE (R311): a gust that waits on a page looks again. -/
def State.laneRetranslate (s : State) (r : GustRef) : State :=
  match s.gust? r, s.squall? r.sq with
  | some g, some q =>
    if g.halted then s
    else (match g.status, g.replay with
      | .waiting _ .page, _ => s.setGust { g with status := .running }
      | .waiting op .replay, some rp => s.replayLanes g q op rp
      | _, _ => s)
  | _, _ => s

/-- HOME_APPLY_WRITE (R239, R240, R276, R281): a write reaches its unit and is acknowledged: the L1 slice of its die, its home slice,
its owning port, or its core's store. A write to a raw line is dropped (R50), and a machine check that it meets is that of the
instruction (R51, R397, R414). A write that a dead link parts from its unit stays on its way (R422). -/
def State.homeApplyWrite (s : State) (m : WriteMsg) : State :=
  if !m.narrow && !s.joined m.die m.loc then s.send (.homeApplyWrite m)
  else if m.narrow then
    (match s.writeL1 m.ctx m.die ⟨m.loc, m.word⟩ m.val m.ev with
      | (.error c, s) => if c < 0 then s.send (.machineCheck m.ctx c ⟨WLoc.phys ⟨m.loc, m.word⟩, m.words⟩) else s
      | (_, s) => s).acked m.src
  else match m.loc with
  | .win core => (match winReg (coreIsD core) m.word with
    | some w => if (s.winOwners core w).contains m.ctx then s.windowWrite core (some m.ctx) m.val w else s
    | none => s).acked m.src
  | _ => s.finishWrite m

end Sys2Proof.Machine
end

