-- ==== Sys2Proof/Machine/Integer.lean ====
section
/-! DEFINITION. The integer forms of group +1 (R140 to R143). -/

namespace Sys2Proof.Machine

/-- Quotient of R142: nearest, a tie toward zero; 0 for a divisor of 0. -/
def quotI (x y : Int) : Int := if y = 0 then 0 else if y > 0 then nearestDiv x y else nearestDiv (-x) (-y)

/-- ADD (R141). -/
def addE (n : Nat) (v : Trit) : ElemFn := fun x y _ => narrow (x + y) n v
/-- SUB (R141). -/
def subE (n : Nat) (v : Trit) : ElemFn := fun x y _ => narrow (x - y) n v
/-- NEG (R141): on F9 and F27 the significand field alone is inverted (R36). -/
def negE (ty : ETy) : ElemFn := fun x _ _ =>
  match ty with
  | .f27 => (x - 2 * wrapT x 21, 0)
  | .f9 => (x - 2 * wrapT x 6, 0)
  | _ => (-x, 0)
/-- MUL (R141). -/
def mulE (n : Nat) (v : Trit) : ElemFn := fun x y _ => narrow (x * y) n v
/-- MULH (R141). -/
def mulhE (n : Nat) : ElemFn := fun x y _ => ((x * y - wrapT (x * y) n) / pow3 n, 0)
/-- MAD (R141). -/
def madE (n : Nat) (v : Trit) : ElemFn := fun x y z => narrow (z + x * y) n v
/-- DIV (R142); the status is plus for a zero divisor. -/
def divE : ElemFn := fun x y _ => (quotI x y, if y = 0 then 1 else 0)
/-- MOD (R142). -/
def modE : ElemFn := fun x y _ => (x - y * quotI x y, if y = 0 then 1 else 0)
/-- SHT (R143). -/
def shtE (n : Nat) (v : Trit) : ElemFn := fun x k _ =>
  if k ≥ 0 then (if k ≥ Int.ofNat n ∧ v ≠ .plus then (0, sgnI x) else narrow (x * pow3 (min k.toNat (2 * n))) n v)
  else if k ≤ -(Int.ofNat n) then (0, 0) else (dropT x (-k).toNat, 0)
/-- ABS (R141). -/
def absE : ElemFn := fun x _ _ => (if x < 0 then -x else x, 0)
/-- SGN (R141). -/
def sgnE : ElemFn := fun x _ _ => (sgnI x, 0)
/-- MIN (R141). -/
def minE : ElemFn := fun x y _ => (min x y, 0)
/-- MAX (R141). -/
def maxE : ElemFn := fun x y _ => (max x y, 0)
/-- CLAMP (R141). -/
def clampE : ElemFn := fun x y z => (min (max z x) y, 0)
/-- CMP (R141). -/
def cmpE : ElemFn := fun x y _ => (sgnI (x - y), 0)

/-- ADD. -/
def execAdd (c : Ctl) (o : TOps) (s : State) : Result := s.performElem c o o.isCy (addE o.ty.width o.var)
/-- SUB. -/
def execSub (c : Ctl) (o : TOps) (s : State) : Result := s.performElem c o o.isCy (subE o.ty.width o.var)
/-- NEG. -/
def execNeg (c : Ctl) (o : TOps) (s : State) : Result := s.performElem c o false (negE o.ty)
/-- MUL. -/
def execMul (c : Ctl) (o : TOps) (s : State) : Result := s.performElem c o o.isCy (mulE o.ty.width o.var)
/-- MULH. -/
def execMulh (c : Ctl) (o : TOps) (s : State) : Result := s.performElem c o false (mulhE o.ty.width)
/-- MAD. -/
def execMad (c : Ctl) (o : TOps) (s : State) : Result := s.performElem c o o.isCy (madE o.ty.width o.var)
/-- DIV. -/
def execDiv (c : Ctl) (o : TOps) (s : State) : Result := s.performElem c o o.isCy divE
/-- MOD. -/
def execMod (c : Ctl) (o : TOps) (s : State) : Result := s.performElem c o o.isCy modE
/-- SHT. -/
def execSht (c : Ctl) (o : TOps) (s : State) : Result := s.performElem c o o.isCy (shtE o.ty.width o.var)
/-- ABS. -/
def execAbs (c : Ctl) (o : TOps) (s : State) : Result := s.performElem c o false absE
/-- SGN. -/
def execSgn (c : Ctl) (o : TOps) (s : State) : Result := s.performElem c o false sgnE
/-- MIN. -/
def execMin (c : Ctl) (o : TOps) (s : State) : Result := s.performElem c o false minE
/-- MAX. -/
def execMax (c : Ctl) (o : TOps) (s : State) : Result := s.performElem c o false maxE
/-- CLAMP. -/
def execClamp (c : Ctl) (o : TOps) (s : State) : Result := s.performElem c o false clampE
/-- CMP. -/
def execCmp (c : Ctl) (o : TOps) (s : State) : Result := s.performElem c o false cmpE

end Sys2Proof.Machine
end

