-- ==== Sys2Proof/Machine/LatchForms.lean ====
section
/-! DEFINITION. The latch forms (R267 to R272), the grant that reaches a gust (R260), and the deadlock probes (R265, R266). -/

namespace Sys2Proof.Machine

/-- The addresses of a latch form (R269): one, or one per participating lane. -/
def latchAddrs (g : Gust) (c : Ctl) (bc : BaseCls) (a : Nat) (off : Int) : List Int :=
  match bc with
  | .vector => (g.activeLanes c.guard).map fun l => ((g.v a).get l).val + off
  | _ => [baseAddr g bc a off]

/-- How the search for a latch's line ends (R269). -/
inductive LatchFind where
  | at_ (line first cnt : Nat) (x : Int)
  | ends (e : Eff)
deriving DecidableEq, Repr

/-- The addresses translated in turn (R73, R269): the places, or the first failure. -/
def State.latchPlaces (s : State) (g : Gust) (q : Squall) (write : Bool) : List Int → Except Eff (List WLoc × State)
  | [] => .ok ([], s)
  | x :: xs => match s.placeOf q g.priv .g x write with
    | (.mem a _, s) => (match s.latchPlaces g q write xs with
      | .ok (ps, s) => .ok (a :: ps, s)
      | .error e => .error e)
    | (.page e, s) => .error (.wait (s.onGust g.ref fun g => { g with pageWait := some e }) .page)
    | (.bad c a, s) => .error (failAs s c x a)
    | (_, s) => .error (.fault s 20 x)

/-- The line and span of a latch form (R269), with the checks "latch lanes", "latch span" and "latch location". DESIGN CHOICE
(log entry 61): the last check reaches the home line, as a read with eviction code 0 would; and where several faults of R269 apply the
first in the order lanes in different lines, span, lane outside the span, location, limit, held twice is taken. -/
def State.latchFind (s : State) (g : Gust) (q : Squall) (xs : List Int) (n : Nat) (write : Bool) : LatchFind × State :=
  match g.fillFaults.head? with
  | some (_, c) => (.ends (.fault s c (xs.headD 0)), s)
  | none => match s.latchPlaces g q write xs with
    | .error e => (.ends e, s)
    | .ok (ps, s) =>
      match xs with
      | [] => (.ends (.fault s 60 0), s)
      | x :: _ =>
        let line := x / 45
        let words := xs.map fun y => (y % 45).toNat
        let first := if n = 0 then 0 else (words.map sectorOf).foldl min 8
        let cnt := if n = 0 then 9 else n
        let base := line * 45
        if xs.any fun y => y / 45 != line then (.ends (.fault s 60 x), s)
        else if first + cnt > 9 then (.ends (.fault s 61 x), s)
        else if words.any fun w => !decide (first ≤ sectorOf w ∧ sectorOf w < first + cnt) then (.ends (.fault s 60 x), s)
        else match ps with
        | ⟨.dev p, w⟩ :: _ =>
          if s.poisoned p (sectorOf w) then (.ends (.check s (-4) (Int.ofNat (45 * p + w))), s)
          else (match s.homeFill p 0 with
            | (.ok _, s) => (.at_ p first cnt base, s)
            | (.error c, s) => if c > 0 then (.ends (.fault s 62 x), s) else (.ends (.check s c (Int.ofNat (45 * p + w))), s))
        | _ => (.ends (.fault s 62 x), s)

/-- LATCH and LATCHT (R264, R269, R270): the request goes to the home, and the gust waits for its code (R261). -/
def State.latchForm (s : State) (c : Ctl) (ev : Int) (bc : BaseCls) (d a n : Nat) (off : Int) (t : Option Nat) : Result :=
  s.performGust c fun g =>
    match g.latchCode, s.squall? g.ref.sq with
    | some code, some q =>
      let s := s.onGust g.ref fun g => { g with latchCode := none }
      let s := if code = 0 ∨ code = 2 ∨ code = -2 then s else s.acquirePart (dieOf q.core) .dv
      .done (s.writeS g.ref d (Word.ofInt code))
    | none, some q =>
      (match s.latchFind g q (latchAddrs g c bc a off) n true with
        | (.ends e, _) => e
        | (.at_ line first cnt x, s) =>
          let held := s.latchesOf g.ref
          let at_ := (latchAddrs g c bc a off).headD x
          if held.length ≥ 9 then .fault s 63 at_
          else if held.any fun h => h.1 == line && spansMeet h.2.1 h.2.2 first cnt then .fault s 64 at_
          else
            let limit := match t with
              | some b => max 0 (g.s b).val
              | none => 0
            .wait (s.send (.latchRequest
              { who := g.ref, ctx := q.ctx, die := dieOf q.core, line, first, cnt, timed := t.isSome,
                deadline := s.ptime + limit.toNat, vaddr := x, ev, lease := s.leaseOf q.core q.ctx x,
                words := s.accessRec g.ref, sentAt := s.ptime })) (.latch at_ n))
    | _, none => .done s

/-- LATCH (R270). -/
def execLatch (c : Ctl) (ev : Int) (bc : BaseCls) (d a n : Nat) (off : Int) (s : State) : Result :=
  s.latchForm c ev bc d a n off none

/-- LATCHT (R264, R270). -/
def execLatcht (c : Ctl) (ev : Int) (bc : BaseCls) (d a b n : Nat) (off : Int) (s : State) : Result :=
  s.latchForm c ev bc d a n off (some b)

/-- UNLATCH (R260, R271): a release at device scope; then the release message leaves for the home. -/
def execUnlatch (c : Ctl) (sus : Bool) (bc : BaseCls) (a n : Nat) (off : Int) (s : State) : Result :=
  s.performGust c fun g =>
    match s.squall? g.ref.sq with
    | none => .done s
    | some q => match s.latchFind g q (latchAddrs g c bc a off) n false with
      | (.ends e, _) => e
      | (.at_ line first cnt x, s) =>
        if !(s.latchesOf g.ref).contains (line, first, cnt) then .fault s 65 ((latchAddrs g c bc a off).headD x)
        else if !g.quiet then .wait s .quiet
        else
          let s := s.releasePart (dieOf q.core) .dv
          .done (s.send (.latchRelease
            { who := g.ref, die := dieOf q.core, stamp := (s.die (dieOf q.core)).clock, line, first, cnt, sus }))

/-- The words of LATQ (R272). -/
def latqWords (who : GustRef) : Option QHead → Int × Int
  | none => (0, 0)
  | some h =>
    let sector := fun (k : Nat) =>
      match h.held.find? fun x => decide (x.2.1 ≤ k ∧ k < x.2.1 + x.2.2) with
      | some x => if h.holders.any fun y => y.who == who && y.first == x.2.1 && x.1 == who then (1 : Int) else -1
      | none => 0
    let count := fun (t : Trit) => Int.ofNat (h.entries.filter fun e => e.cls == t && e.st != .requeued).length
    let requeued := Int.ofNat (h.entries.filter fun e => e.st == .requeued).length
    (pow3 18 * ofTrits ((List.range 9).map sector) + pow3 15 * Int.ofNat h.holders.length,
     pow3 21 * count .plus + pow3 15 * count .zero + pow3 9 * count .minus + requeued)

/-- LATQ (R272). -/
def execLatq (c : Ctl) (bc : BaseCls) (d a : Nat) (off : Int) (s : State) : Result :=
  s.performGust c fun g =>
    match s.squall? g.ref.sq with
    | none => .done s
    | some q => match s.latchFind g q (latchAddrs g c bc a off) 1 false with
      | (.ends e, _) => e
      | (.at_ line _ _ _, s) =>
        let w := latqWords g.ref (s.head? line)
        .done (s.writeSs g.ref d [Word.ofInt w.1, Word.ofInt w.2])

/-- LATCH_GRANT (R260, R261): the span's words reach the grantee's L1, and the code its gust. A sector written at its home since
the grant is marked stale, as its invalidation finds it (R282). The code of a gust that has been shuttered meanwhile is owed
to it until it is bound again. -/
def State.latchGrant (s : State) (m : LatchGrant) : State :=
  let granted := m.status == 1 || m.status == 3 || m.status == -1
  match s.squall? m.who.sq with
  | some q =>
    let d := dieOf q.core
    let s := if !granted then s
      else
        let s := s.receive d m.clk
        s.each (List.range m.cnt) fun s k =>
          let sec := m.first + k
          if m.ev = -4 then (s.onL1 d (.dev m.line) fun x =>
            { x with words := x.words.filter fun e => sectorOf e.1 != sec || e.2.dirty.isSome }).settleHolders d
          else
            let s := s.l1Install d (.dev m.line) sec ((m.words.drop (5 * k)).take 5) m.ev
            if clockLe (s.secClock m.line sec) m.clk then s else s.onL1 d (.dev m.line) fun x => x.markStale sec
    s.onGust m.who fun g => { g with latchCode := some m.status }
  | none => { s with shuttered := s.shuttered.map fun (x : Shuttered) =>
      if x.q == m.who.sq then
        { x with gs := x.gs.map fun (g : Gust) => if g.ref == m.who then { g with lateCode := some m.status } else g } else x }

/-- The line and entry at which a gust waits for a latch. -/
def State.waitsAt (s : State) (who : GustRef) : Option (Nat × Waiter) :=
  s.heads.findSome? fun h => (h.entries.find? fun e => e.who == who).map fun e => (h.line, e)

/-- The holders of spans that conflict with an entry (R265). -/
def State.conflicts (s : State) (line : Nat) (e : Waiter) : List GustRef :=
  match s.head? line with
  | some h => ((h.held.filter fun x => spansMeet x.2.1 x.2.2 e.first e.cnt && x.1 != e.who).map (·.1)).eraseDups
  | none => []

/-- The stamp by which a probe sees that an entry has changed since it passed. -/
def Waiter.stamp (e : Waiter) : Nat := e.ver

/-- DEADLOCK_PROBE_SEND (R265): a waiter queued or requeued long enough sends a probe to the conflicting holders. -/
def State.probeSend (s : State) (line : Nat) (who : GustRef) : State :=
  match (s.head? line).bind fun h => h.entries.find? fun e => e.who == who with
  | some e =>
    if e.offered || decide (s.ptime < e.probeAt) then s
    else
      let s' := s.onHead line fun h => { h with entries := h.entries.map fun (x : Waiter) =>
        if x.who == who then { x with probeAt := x.probeAt + Config.probeInterval } else x }
      s'.each (s.conflicts line e) fun s h => s.send (.deadlockProbe ⟨[(who, line, e.stamp), (h, 0, 0)]⟩)
  | none => s

/-- A member of a cycle: its identity and its entry. -/
def State.member (s : State) (who : GustRef) : Option Waiter := (s.waitsAt who).map (·.2)

/-- The entry that a cycle loses: the latest entered, ties to the higher identity (R265). -/
def youngest (es : List Waiter) : Option Waiter :=
  es.foldl (fun a e => match a with
    | none => some e
    | some b =>
      let key := fun (x : Waiter) => [x.entered, x.ctx, x.who.front, x.who.lin, x.who.gust]
      if key b < key e then some e else some b) none

/-- A deadlock record (R266). -/
def State.deadlockRec (s : State) (es : List Waiter) (removed : Nat) : Rec :=
  [Word.ofInt (pow3 24 + pow3 20 * Int.ofNat es.length + pow3 16 * Int.ofNat removed), s.ptimeLow] ++
  es.flatMap fun e =>
    [Word.ofInt (pow3 24 * (Int.ofNat e.ctx - 13) + pow3 20 * Int.ofNat e.who.gust + pow3 16 * Int.ofNat e.first +
       pow3 11 * Int.ofNat e.cnt), Word.ofNat e.who.front, Word.ofNat e.who.lin, Word.ofInt e.vaddr]

/-- DEADLOCK_PROBE (R265): a probe is discarded, ended, forwarded, or names a cycle. The last of its path is the holder it
reaches. -/
def State.deadlockProbe (s : State) (p : Probe) : State :=
  let passed := p.path.dropLast
  let unchanged := passed.all fun x => (s.waitsAt x.1).any fun e => e.1 == x.2.1 && e.2.stamp == x.2.2 && !e.2.offered
  match p.path.head?, p.path.getLast? with
  | some (origin, _, _), some (here, _, _) =>
    if !unchanged then s
    else if here = origin then
      let es := passed.filterMap fun x => s.member x.1
      match youngest es with
      | none => s
      | some y =>
        let rec_ := s.deadlockRec es ((es.findIdx? fun e => e.who == y.who).getD 0)
        let line := ((s.waitsAt y.who).map (·.1)).getD 0
        let s := s.dropEntry line y.who (-2)
        let home := homeDie line
        let s := if home < 9 then s.onDie home fun d => { d with counters := d.counters.modify 5 countUp } else s
        s.each ((es.map (·.ctx)).eraseDups) fun s k => s.logRecord k rec_
    else if p.path.length > 27 || passed.any fun x => x.1 == here then s
    else match s.waitsAt here with
    | none => s
    | some (line, e) =>
      if e.offered then s
      else s.each (s.conflicts line e) fun s h => s.send (.deadlockProbe ⟨passed ++ [(here, line, e.stamp), (h, 0, 0)]⟩)
  | _, _ => s

end Sys2Proof.Machine
end

