-- ==== Sys2Proof/Machine/Bind.lean ====
section
/-! DEFINITION. From an accepted front to a bound squall (R24, R25, R360 to R365): bind records, the split of a die's range,
what a squall needs and where a core has it free (R21, R94, R125, R176, R188, R206), and the state at bind (R95, R128, R171,
R177, R188, R207, R217, R231, R323, R382, R394, R395). -/

namespace Sys2Proof.Machine

/-- What is held on a core: an allotment, where its runs begin, its issue slots and the vector bases of its gusts. -/
structure Held where
  alloc : Alloc
  bases : Bases
  slots : List Nat
  vbases : List Nat
deriving DecidableEq, Repr

/-- Everything held on a core: by its squalls, and by migrations from or to it (R391, R392). -/
def State.heldOn (s : State) (core : Nat) : List Held :=
  ((s.squallsOn core).map fun (q : Squall) =>
    { alloc := q.alloc, bases := q.bases, slots := (s.gustsOf q.q).map (·.slot), vbases := (s.gustsOf q.q).map (·.vbase) }) ++
  s.squalls.filterMap fun (q : Squall) => match q.migration with
    | some m => if m.target = core then some { alloc := q.alloc, bases := m.bases, slots := m.slots, vbases := m.vbases } else none
    | none => none

/-- The lowest place at which a run of `n` fits beside the runs in use. -/
def firstFit (used : List (Nat × Nat)) (total n : Nat) : Option Nat :=
  if n = 0 then some 0
  else
    let free := fun (b : Nat) => decide (b + n ≤ total) &&
      used.all fun u => u.2 == 0 || decide (b + n ≤ u.1 ∨ u.1 + u.2 ≤ b)
    ((0 :: used.map fun u => u.1 + u.2).filter free).min?

/-- Vector bases for `k` gusts of `v` registers each (R125). -/
def vectorRuns (used : List (Nat × Nat)) (total v : Nat) : Nat → Option (List Nat)
  | 0 => some []
  | k + 1 => match firstFit used total v with
    | none => none
    | some b => (vectorRuns (used ++ [(b, v)]) total v k).map fun l => b :: l

/-- Issue slots of a core (R94). -/
def slotsOf (core : Nat) : Nat := if coreIsD core then 27 else 9

/-- Vector registers of a core (R15). -/
def vectorsOf (core : Nat) : Nat := if coreIsD core then 2187 else 729

/-- Where a squall of `k` gusts fits on a core with its whole need (R21), by first fit (log entry 11). -/
def State.berth (s : State) (core : Nat) (a : Alloc) (k : Nat) : Option Held :=
  let hs := s.heldOn core
  let run := fun (b : Bases → Nat) (n : Alloc → Nat) (total : Nat) =>
    firstFit (hs.map fun (h : Held) => (b h.bases, n h.alloc)) total (n a)
  let free := (List.range (slotsOf core)).filter fun i => !hs.any fun (h : Held) => h.slots.contains i
  if free.length < k then none
  else match run Bases.scratch Alloc.scratch Config.scratchWords, run Bases.tile Alloc.tiles Config.tilesPerCore,
      run Bases.slot Alloc.slots Config.slotsPerCore, run Bases.bar Alloc.bars Config.tilesPerCore,
      vectorRuns (hs.flatMap fun (h : Held) => h.vbases.map fun b => (b, h.alloc.v)) (vectorsOf core) a.v k with
    | some scratch, some tile, some slot, some bar, some vbases =>
      some { alloc := a, bases := { scratch, tile, slot, bar }, slots := free.take k, vbases }
    | _, _, _, _, _ => none

/-- A barrier record at bind (R188). -/
def barrierInit : Word × Word := (Word.ofInt (pow3 25), Word.zero)

/-- A tile at bind (R207). -/
def tileInit : TileSt := { owner := none, status := .zero, releasing := false }

/-- A slot at bind (R207). -/
def slotInit : SlotSt := { owner := none, fill := .ready, count := 0, fault := none, releasing := false, wrote := 0 }

/-- The scalar file at bind (R128): the argument block, the index, the gust and the core; m0..m2 all plus. A register outside the
allotment keeps the word that its issue slot holds. -/
def scalarsAtBind (a : Alloc) (args : Int) (idx : Nat × Nat × Nat) (gust core : Nat) (old : List Word) : List Word :=
  let given := [Word.ofInt args, Word.ofNat idx.1, Word.ofNat idx.2.1, Word.ofNat idx.2.2, Word.ofNat gust, Word.ofNat core]
  (List.range 81).map fun j =>
    if j ≥ 78 then Word.ones else if j < a.s then given.getD j Word.zero else old.getD j Word.zero

/-- The predicate file at bind (R128). -/
def predsAtBind (a : Alloc) (old : List Mask) : List Mask :=
  (List.range 27).map fun j => if j < a.p then Mask.zero else old.getD j Mask.zero

/-- Vector register `n` at bind (R128). -/
def vectorAtBind (n : Nat) : Lanes := if n = 0 then Lanes.tab Word.ofNat else Lanes.splat Word.zero

/-- A gust at bind. -/
def gustAtBind (r : GustRef) (age slot vbase : Nat) (a : Alloc) (priv : Bool) (sreg : List Word) (preg : List Mask) : Gust :=
  { ref := r, age, slot, status := .running, halted := false, pc := 0, sreg,
    preg, vreg := (List.range a.v).map vectorAtBind, vbase, stack := [], priv,
    trapActive := false, stepBit := false, tvec := Word.ofInt (-1), tpc := Word.zero, tm := Mask.zero,
    gfr := List.replicate 9 Word.zero, laneRec := [], laneFaulted := [], ptimeh := Word.zero, nlast := none, kcount := 0,
    gangRows := 1, gangMap := Word.ofInt (pow3 r.gust), key := Word.zero, ctr := 0, liveTiles := (0, a.tiles),
    liveSlots := (0, a.slots), bnum := 0, doneUpto := 0, lost := 0, faults := [], lostIn := 0, far := [], opened := false,
    waited := 0, touched := [], unacked := 0, loads := [], atoms := [], replay := none, pageWait := none,
    fillFaults := [], reply := [], issued := false, latchCode := none, lateCode := none, packet := none, oldCode := [],
    dbgCmd := Word.zero, traceSync := false, traceCount := 0 }

/-- The index of a squall in the three dimensions (R353). -/
def FrontRec.index (f : FrontRec) (lin : Nat) : Nat × Nat × Nat :=
  (lin % f.n0, lin / f.n0 % f.n1, lin / f.n0 / f.n1)

/-- A squall at bind, but for its gusts. -/
def squallAtBind (s : State) (f : Front) (lin core : Nat) (h : Held) : Squall :=
  { q := ⟨f.num, lin⟩, ctx := f.ctx, idx := f.spec.index lin, core, isD := coreIsD core,
    image := if coreIsD core then f.spec.imgD else f.spec.imgL, count := f.spec.gusts, alloc := f.spec.alloc,
    bases := h.bases, boundAt := s.ptime, scratch := [], tileWords := [], tiles := List.replicate f.spec.alloc.tiles tileInit,
    slotWords := [], slots := List.replicate f.spec.alloc.slots slotInit,
    bars := List.replicate f.spec.alloc.bars barrierInit, guards := List.replicate f.spec.alloc.g .zero, shutter := none,
    migration := none }

/-- A bound gust writes a sync packet (R442). -/
def State.traceBind (s : State) (r : GustRef) : State :=
  match s.squall? r.sq with
  | some q => if s.traceOn q.ctx then s.packet q.ctx q.core r 0 0 else s
  | none => s

/-- THE BIND of one squall (R21, R95, R128): it takes its places and its gusts start at PC 0. -/
def State.bindAt (s : State) (f : Front) (lin core : Nat) (h : Held) : State :=
  let q := squallAtBind s f lin core h
  let priv := (s.image? q.image).any (·.priv)
  let s := ({ s with squalls := s.squalls ++ [q] } : State).orderPoint (dieOf core) false
  let s := s.each (List.zip (List.range q.count) (List.zip h.slots h.vbases)) fun s x =>
    let (age, s) := s.fresh
    let sreg := scalarsAtBind q.alloc f.spec.args q.idx x.1 core (s.slotScalars core x.2.1)
    let preg := predsAtBind q.alloc (s.slotPreds core x.2.1)
    { s with gusts := s.gusts ++ [gustAtBind ⟨f.num, lin, x.1⟩ age x.2.1 x.2.2 q.alloc priv sreg preg] }
  let s := s.occupy q (s.gustsOf q.q)
  s.each (s.gustsOf q.q) fun s g => s.traceBind g.ref

/-- The bind record of a front on a die. -/
def State.bindRec? (s : State) (die front : Nat) : Option BindRec := (s.die die).bindRecs.find? fun b => b.front == front

/-- The nine words of a live bind record (R362): words 5, 6 and 7, which the device writes, count the front's squalls bound and
shuttered on the die and the indices of the die not yet taken. -/
def State.bindRecWords (s : State) (die : Nat) (b : BindRec) : List Word :=
  let untaken := match (s.die die).dists.find? fun d => d.front == b.front with
    | some d => (d.subs.map fun e => e.2.2).sum + d.pool.2
    | none => (s.front? b.front).elim 0 fun f => (f.spec.ranges.getD die (0, 0)).2
  [Word.ofNat b.front, Word.ofInt (b.prio.val * pow3 26 + b.policy.val * pow3 25 + pow3 24), b.coreSet, Word.ofNat b.quantum,
   Word.ofInt b.save, Word.ofNat (s.squalls.filter fun q => q.q.front == b.front && dieOf q.core == die).length,
   Word.ofNat (s.shuttered.filter fun x => x.q.front == b.front && x.die == die).length, Word.ofNat untaken, Word.zero]

/-- A core is eligible for a front's squalls (R354, R360, R363): its kind is allowed and within the policy, and it is in
the core set. -/
def coreAllowed (f : FrontRec) (b : BindRec) (core : Nat) : Bool :=
  (if coreIsD core then f.kinds.2 && b.policy != .minus else f.kinds.1 && b.policy != .plus) &&
    b.coreSet.tritAt (core % 27) == .plus

/-- BIND_RECORD_WRITE (R362): firmware gives a front a record of its die's slot table. Places 72..80 are kept for urgent
fronts (log entry 28). -/
def State.bindRecordWrite (s : State) (b : BindChoice) : State :=
  match s.front? b.front with
  | none => s
  | some f =>
    let used := (s.die b.die).bindRecs.map (·.place)
    let free := fun (ps : List Nat) => ps.find? fun p => !used.contains p
    let place := if f.prio = .plus then free ((List.range 9).map (· + 72) ++ List.range 72) else free (List.range 72)
    let wanted := f.ending.isNone && (f.spec.ranges.getD b.die (0, 0)).2 != 0
    match place with
    | some p =>
      if wanted && (s.bindRec? b.die b.front).isNone && decide (b.quantum ≤ 1594323) && b.coreSet.trits.all (fun t => t != -1) then
        s.onDie b.die fun d =>
          { d with bindRecs := d.bindRecs ++ [{ place := p, front := b.front, prio := f.prio, policy := b.policy,
                                                coreSet := b.coreSet, quantum := b.quantum, save := f.spec.save }] }
      else s
    | none => s

/-- RANGE_DISTRIBUTE (R360): a die's entry is split among its eligible cores, and the rest is its common pool. -/
def State.rangeDistribute (s : State) (front die : Nat) : State :=
  match s.front? front, s.bindRec? die front with
  | some f, some b =>
    if f.sent.contains die then s
    else
      let (first, c) := f.spec.ranges.getD die (0, 0)
      let cores := ((List.range 27).map fun k => 27 * die + k).filter fun k => coreAllowed f.spec b k
      let per := c / cores.length
      let subs := (List.zip (List.range cores.length) cores).map fun e => (e.2, first + e.1 * per, per)
      let left := per * cores.length
      let d : Dist := { front, subs, pool := (first + left, c - left) }
      (s.onFront front fun f => { f with sent := f.sent ++ [die] }).onDie die fun x => { x with dists := x.dists ++ [d] }
  | _, _ => s

/-- The sub-range of a core. -/
def Dist.sub (d : Dist) (core : Nat) : Nat × Nat := ((d.subs.find? fun e => e.1 == core).map (·.2)).getD (0, 0)

/-- A distributor's sub-range of a core replaced. -/
def Dist.setSub (d : Dist) (core : Nat) (r : Nat × Nat) : Dist :=
  { d with subs := d.subs.map fun e => if e.1 == core then (core, r) else e }

/-- The largest sub-range that can be stolen from, the lowest core number on ties. -/
def Dist.richest (d : Dist) : Option (Nat × Nat × Nat) :=
  d.subs.foldl (fun m e => match m with
    | none => if e.2.2 ≥ 2 then some e else none
    | some x => if e.2.2 > x.2.2 then some e else some x) none

/-- The index a core distributor takes next (R361), and what is left. -/
def Dist.take (d : Dist) (core : Nat) : Option (Nat × Dist) :=
  let own := d.sub core
  if own.2 > 0 then some (own.1, d.setSub core (own.1 + 1, own.2 - 1))
  else if d.pool.2 > 0 then some (d.pool.1, { d with pool := (d.pool.1 + 1, d.pool.2 - 1) })
  else match d.richest with
    | some (c, first, r) =>
      let half := r / 2
      let at_ := first + (r - half)
      some (at_, (d.setSub c (first, r - half)).setSub core (at_ + 1, half - 1))
    | none => none

/-- Where the next index of a front would bind on a core, if it has one that fits there. -/
def State.bindPlan (s : State) (front core : Nat) : Option (Front × Nat × Dist × Held) :=
  let die := dieOf core
  match s.front? front, s.bindRec? die front, (s.die die).dists.find? fun d => d.front == front with
  | some f, some b, some d =>
    if coreAllowed f.spec b core then
      (match d.take core with
        | some (lin, d) => (s.berth core f.spec.alloc f.spec.gusts).map fun h => (f, lin, d, h)
        | none => none)
    else none
  | _, _, _ => none

/-- A shuttered squall may be restored (R311, R349, R365): no page it waited on is still absent. -/
def State.restorable (s : State) (x : Shuttered) : Bool :=
  x.waitEntries.all fun w => match s.readHome 9 (physWord w.2) with
    | (.ok v, _) => pteType v != -1
    | _ => true

/-- The class of a shuttered squall (R362). -/
def State.shutKlass (s : State) (x : Shuttered) : Trit := (s.bindRec? x.die x.q.front).elim .zero (·.prio)

/-- A shuttered squall fits a core of its die and kind now (R130, R365), which its front's bind record allows (R363). -/
def State.restorePlan (s : State) (x : Shuttered) (core : Nat) : Option Held :=
  let allowed : Bool := match s.front? x.q.front, s.bindRec? x.die x.q.front with
    | some f, some b => coreAllowed f.spec b core
    | _, _ => true
  if x.die = dieOf core ∧ x.isD = coreIsD core ∧ allowed ∧ s.restorable x then s.berth core x.alloc x.count else none

/-- A candidate of a higher class than `k` fits the core, or, with `same`, a restorable squall of class `k` does (R365). -/
def State.bindFirst (s : State) (core : Nat) (k : Trit) (same : Bool) : Bool :=
  (s.shuttered.any fun x => (decide ((s.shutKlass x).val > k.val) || (same && s.shutKlass x == k)) && (s.restorePlan x core).isSome) ||
  (s.die (dieOf core)).bindRecs.any fun b => decide (b.prio.val > k.val) && (s.bindPlan b.front core).isSome

/-- SQUALL_BIND (R21, R361, R363, R365). -/
def State.squallBind (s : State) (front core : Nat) : State :=
  match (if s.stopped then none else s.bindPlan front core) with
  | none => s
  | some (f, lin, d, h) =>
    let k := (s.bindRec? (dieOf core) front).elim .zero (·.prio)
    if s.bindFirst core k true then s
    else
      (s.onDie (dieOf core) fun x => { x with dists := x.dists.map fun e => if e.front == front then d else e }).bindAt
        f lin core h

/-- FRONT_RETIRE (R357): every squall and every child has retired. -/
def State.frontRetire (s : State) (n : Nat) : State :=
  match s.front? n with
  | some f => if f.left = 0 ∧ f.ending.isNone ∧ (s.childrenOf n).isEmpty then s.retireFront n (Int.ofNat n) else s
  | none => s

/-- BIND_RECORD_REWRITE (R379): a die's record of a front takes the front's priority trit. -/
def State.bindRecordRewrite (s : State) (die front : Nat) : State :=
  match s.front? front with
  | some f => s.onDie die fun d =>
      { d with bindRecs := d.bindRecs.map fun b => if b.front == front then { b with prio := f.prio } else b }
  | none => s

end Sys2Proof.Machine
end

