-- ==== Sys2Proof/Machine/Migration.lean ====
section
/-! DEFINITION. Equivalence points and migration (R380 to R393): MPOINT, MIGR, the rendezvous, the decision, the
state-mapping table, the transfer and its completion. -/

namespace Sys2Proof.Machine

/-- MPOINT (R382, R388). -/
def execMpoint (c : Ctl) (n : Nat) (s : State) : Result :=
  s.performGust c fun g =>
    if g.depth ≠ 0 then .fault s 103 0 else .done (s.setGust { g with nlast := some n, kcount := 0 })

/-- The MIGR at which a gust waits in the rendezvous, as status register and point: a gust stopped for a shutter request
has left it (R390). -/
def Gust.arrivedAt (g : Gust) : Option (Nat × Nat) :=
  if g.halted then none
  else match g.status with
    | .waiting _ (.migr (.migr _ d n)) => some (d, n)
    | _ => none

/-- The machine check of a failed transfer (R393): the record names the MIGR's PC, the target PC and a count of 0. -/
def State.failTransfer (s : State) (q : Squall) (g : Gust) (target : Int) (addr : Int := 0) : State :=
  let op := match g.status with
    | .waiting o _ => o
    | _ => s.op
  let rec_ := ((({ s with op } : State).mkRec g clsCheck (-7) 0 (-1) addr).set 2 (Word.ofInt target)).set 3 Word.zero
  s.machineCheck q.ctx rec_

/-- The address of the state-mapping table for a point and direction (R381, R480): 0 for none. -/
def State.tableAddr (s : State) (q : Squall) (n : Nat) : SysAns Int × State :=
  match s.image? q.image with
  | none => (.ok 0, s)
  | some im =>
    if im.dir = 0 then (.ok 0, s)
    else match s.sysRead q.ctx im.dir with
      | (.fail c a, s) => (.fail c a, s)
      | (.wait, s) => (.wait, s)
      | (.ok p, s) =>
        if p.val ≤ Int.ofNat n then (.ok 0, s)
        else match s.sysRead q.ctx (im.dir + 4 * Int.ofNat n + (if q.isD then 4 else 3)) with
          | (.ok a, s) => (.ok a.val, s)
          | (.fail c a, s) => (.fail c a, s)
          | (.wait, s) => (.wait, s)

/-- The cores that can take a squall (R391): of the target kind, in the bind record's core set, with the whole need free. -/
def State.migrCores (s : State) (q : Squall) (b : BindRec) : List (Nat × Held) :=
  ((List.range 27).map fun k => 27 * dieOf q.core + k).filterMap fun c =>
    if coreIsD c ≠ q.isD ∧ b.coreSet.tritAt (c % 27) = .plus then (s.berth c q.alloc q.count).map fun h => (c, h) else none

/-- The target kind is allowed (R354, R391): by the front, with an image, and by the policy of its bind record. -/
def migrAllowed (f : FrontRec) (b : BindRec) (isD : Bool) : Bool :=
  if isD then f.kinds.1 && b.policy != .plus else f.kinds.2 && b.policy != .minus

/-- A declined MIGR (R382, R391): every arrived gust gets its status and runs on in place. -/
def State.migrDecline (s : State) (gs : List Gust) (status : Int) : State :=
  s.each gs fun s g => match g.arrivedAt with
    | some (d, n) =>
      ((s.onGust g.ref fun (g : Gust) =>
        ({ g with nlast := some n, kcount := 0 } : Gust).withS d (Word.ofInt status)).trace g.ref 5 status).completeFor g.ref
    | none => s

/-- THE DECISION (R391), made when arrival is complete (R390). -/
def State.migrJudge (s : State) (r : SqRef) : State :=
  match s.squall? r with
  | none => s
  | some q =>
    let gs := s.gustsOf r
    let here := gs.filter fun g => g.arrivedAt.isSome
    match here with
    | [] => s
    | g0 :: _ =>
      if q.migration.isSome ∨ gs.any (fun g => g.status != .retired && g.arrivedAt.isNone) then s
      else
        let n := (g0.arrivedAt.getD (0, 0)).2
        match s.tableAddr q n with
        | (.wait, s) => s
        | (.fail _ a, s) => s.failTransfer q g0 (-1) a
        | (.ok a, s) =>
          match s.front? r.front, s.bindRec? (dieOf q.core) r.front with
          | some f, some b =>
            let image := if q.isD then f.spec.imgL else f.spec.imgD
            if a = 0 ∨ image = 0 ∨ !migrAllowed f.spec b q.isD then s.migrDecline here (-1)
            else (match s.migrCores q b with
              | [] => s.migrDecline here 0
              | cs =>
                let (k, s) := s.pick cs.length
                match cs[k]? with
                | none => s.migrDecline here 0
                | some (core, h) =>
                  s.onSquall r fun q =>
                    { q with migration := some { point := n, target := core, bases := h.bases, slots := h.slots,
                                                 vbases := h.vbases, moved := false, table := [] } })
          | _, _ => s.migrDecline here (-1)

/-- A gust arrives at the rendezvous (R390). -/
def State.migrArrive (s : State) (g : Gust) (q : Squall) (i : Instr) (n : Nat) : Eff :=
  let here := (s.gustsOf q.q).filter fun h => h.ref != g.ref && h.arrivedAt.isSome
  if here.any fun h => (h.arrivedAt.getD (0, 0)).2 != n then
    .fault (s.each here fun s h => s.faultFor h.ref 105 0) 105 0
  else
    .over (((s.onGust g.ref fun g => { g with status := .waiting s.op (.migr i) }).shutterStop g.ref).migrJudge q.q)

/-- MIGR (R389): it waits as BWAIT does, but orders no memory accesses; its second step counts as the wait of R216. -/
def execMigr (c : Ctl) (d n : Nat) (s : State) : Result :=
  s.squallForm c fun g q =>
    if g.depth ≠ 0 then .fault s 103 0
    else if g.doneUpto < g.bnum then .wait s (.batch g.bnum)
    else match s.reportBatches g g.bnum with
      | some s => .over s
      | none =>
        let s := s.onGust g.ref fun g =>
          { g with waited := max g.waited g.bnum, touched := g.touched.filter (fun x => decide (x.2 > max g.waited g.bnum)) }
        if g.opened then .fault s 104 0 else s.migrArrive g q (.migr c d n) n

/-- The header of a state-mapping table (R383). -/
structure MapHead where
  target : Int
  entries : Nat
  pairs : Nat
  tiles : Nat × Nat
  slots : Nat × Nat
  stride : Nat
deriving DecidableEq, Repr

/-- A run of tiles or slots within the limits of R383: first, at most `top`, and count. -/
def runIn (x : Int) (top : Nat) : Option (Nat × Nat) :=
  let f := fld x 26 18
  let n := fld x 17 9
  if 0 ≤ f ∧ f ≤ Int.ofNat top ∧ 0 ≤ n ∧ n ≤ Int.ofNat top + 1 ∧ fld x 8 0 = 0 then some (f.toNat, n.toNat) else none

/-- The header, where it keeps its limits and agrees with the MIGR (R383, R393). -/
def mapHead (ws : List Word) (q : Squall) (n : Nat) (pc : Int) : Option MapHead :=
  let w := fun (i : Nat) => (ws.getD i Word.zero).val
  let ok := w 0 == Int.ofNat n && w 1 == (if q.isD then -(pow3 26) else pow3 26) && w 2 == pc && decide (w 3 ≥ 0) &&
    (q.isD || w 3 % 3 == 0) && within (w 4) 0 19683 && within (w 5) 0 729 && within (w 8) 0 531441
  match runIn (w 6) 2186, runIn (w 7) 80 with
  | some tiles, some slots =>
    if ok then some { target := w 3, entries := (w 4).toNat, pairs := (w 5).toNat, tiles, slots, stride := (w 8).toNat } else none
  | _, _ => none

/-- What a table entry moves (R384). -/
inductive MapKind where
  | vec | scal | pred | bar | code
deriving DecidableEq, Repr

/-- One side of a table entry: a register or barrier, or a scratchpad spill. -/
structure MapSide where
  spill : Bool
  index : Nat
deriving DecidableEq, Repr

/-- An entry of a state-mapping table (R384). -/
structure MapEntry where
  kind : MapKind
  src : MapSide
  dst : MapSide
deriving DecidableEq, Repr

/-- The kind code of an entry. -/
def mapKind (x : Int) : Option MapKind :=
  if x = 1 then some .vec else if x = -1 then some .scal else if x = 2 then some .pred
  else if x = -2 then some .bar else if x = 3 then some .code else none

/-- Words of a kind's spill (R384). -/
def MapKind.words : MapKind → Nat
  | .vec => 81
  | .pred => 3
  | .bar => 2
  | _ => 1

/-- The registers of a kind that a squall has. -/
def MapKind.limit (k : MapKind) (a : Alloc) : Nat :=
  match k with
  | .vec => a.v
  | .scal | .code => a.s
  | .pred => a.p
  | .bar => a.bars

/-- One side within the squall's allotment. -/
def mapSide (k : MapKind) (q : Squall) (stride : Nat) (cls x : Int) : Option MapSide :=
  let reg := cls = 0 ∧ (x < Int.ofNat (k.limit q.alloc) ∨ ((k = .scal ∨ k = .code) ∧ 78 ≤ x ∧ x ≤ 80))
  let spill := cls = 1 ∧ k ≠ .bar ∧ x + Int.ofNat ((q.count - 1) * stride + k.words) ≤ Int.ofNat q.alloc.scratch
  if 0 ≤ x ∧ (reg ∨ spill) then some { spill := cls == 1, index := x.toNat } else none

/-- The two words of an entry (R384). -/
def mapEntry (q : Squall) (stride : Nat) (w0 w1 : Int) : Option MapEntry :=
  match mapKind (fld w0 26 24) with
  | none => none
  | some k =>
    match mapSide k q stride (tritI w0 23) (fld w1 26 14), mapSide k q stride (tritI w0 22) (fld w1 13 1) with
    | some src, some dst =>
      if fld w0 21 0 = 0 ∧ tritI w1 0 = 0 ∧ !(src.spill && dst.spill) then some { kind := k, src, dst } else none
    | _, _ => none

/-- The entries of a table, none where one is malformed. -/
def mapEntries (q : Squall) (stride : Nat) : List Word → Option (List MapEntry)
  | a :: b :: ws => match mapEntry q stride a.val b.val, mapEntries q stride ws with
    | some e, some es => some (e :: es)
    | _, _ => none
  | _ => some []

/-- The code-address pairs of a table (R384). -/
def mapPairs : List Word → List (Int × Int)
  | a :: b :: ws => (a.val, b.val) :: mapPairs ws
  | _ => []

/-- The source of an entry for a gust (R385). -/
def mapRead (q : Squall) (g : Gust) (stride : Nat) (pairs : List (Int × Int)) (e : MapEntry) : List Word :=
  let at_ := e.src.index + g.ref.gust * stride
  let ws :=
    if e.src.spill then (List.range e.kind.words).map fun i => readAt (fun _ => Word.zero) q.scratch (at_ + i)
    else match e.kind with
      | .vec => (g.v e.src.index).data
      | .pred => [(g.p e.src.index).b0, (g.p e.src.index).b1, (g.p e.src.index).b2]
      | .bar => (let r := q.bars.getD e.src.index barrierInit; [r.1, r.2])
      | _ => [g.s e.src.index]
  match e.kind with
  | .code => ws.map fun w => Word.ofInt (((pairs.find? fun p => p.1 == w.val).map (·.2)).getD (-1))
  | _ => ws

/-- The target of an entry written for a gust (R385); m0..m2 are carried unchanged (R386). -/
def mapWrite (stride : Nat) (x : Squall × Gust) (e : MapEntry) (ws : List Word) : Squall × Gust :=
  let (q, g) := x
  let w := fun (i : Nat) => ws.getD i Word.zero
  if e.dst.spill then
    let at_ := e.dst.index + g.ref.gust * stride
    ({ q with scratch := (List.range e.kind.words).foldl (fun m i => writeAt (fun _ => Word.zero) m (at_ + i) (w i)) q.scratch }, g)
  else match e.kind with
    | .vec => (q, g.withV e.dst.index (Lanes.ofList ws))
    | .pred => (q, g.withP e.dst.index ⟨w 0, w 1, w 2⟩)
    | .bar => ({ q with bars := q.bars.set e.dst.index (w 0, w 1) }, g)
    | _ => (q, if e.dst.index ≥ 78 then g else g.withS e.dst.index (w 0))

/-- `n` unspecified words by their number (R8). -/
def State.freeBlock (s : State) (n : Nat) : (Nat → Word) × State :=
  (fun i => Word.ofInt (Config.freeValue (s.freeCtr + i)), { s with freeCtr := s.freeCtr + n })

/-- Words of a store outside a live run take unspecified values (R386). -/
def liveWords (size count : Nat) (run : Nat × Nat) (old : Sparse) (u : Nat → Word) : Sparse :=
  (List.range (size * count)).filterMap fun i =>
    let k := i / size
    let w := if run.1 ≤ k ∧ k < run.1 + run.2 then readAt (fun _ => Word.zero) old i else u i
    if w = Word.zero then none else some (i, w)

/-- A gust's registers of the allotment, unspecified but for m0..m2 (R386); the others are those of its new issue slot. -/
def Gust.scramble (g : Gust) (a : Alloc) (scal : List Word) (preg : List Mask) (u : Nat → Word) : Gust :=
  { g with vreg := (List.range a.v).map (fun r => Lanes.tab fun l => u (81 * r + l)),
           sreg := (List.range 81).map (fun j =>
             if j ≥ 78 then g.s j else if j < a.s then u (81 * a.v + j) else scal.getD j Word.zero),
           preg := (List.range 27).map fun j =>
             let at_ := 81 * a.v + 81 + 3 * j
             if j < a.p then ⟨u at_, u (at_ + 1), u (at_ + 2)⟩ else preg.getD j Mask.zero }

/-- Unspecified words a gust's registers take. -/
def scrambleSize (a : Alloc) : Nat := 81 * a.v + 162

/-- A squall's stores on its target core, but for its barrier records and spills (R386). -/
def State.carryStores (s : State) (q : Squall) (h : MapHead) : Squall × State :=
  let (ut, s) := s.freeBlock (729 * q.alloc.tiles)
  let (us, s) := s.freeBlock q.alloc.tiles
  let (uo, s) := s.freeBlock (243 * q.alloc.slots)
  ({ q with tileWords := liveWords 729 q.alloc.tiles h.tiles q.tileWords ut,
            tiles := (List.range q.tiles.length).map (fun k =>
              let t := q.tile k
              if h.tiles.1 ≤ k ∧ k < h.tiles.1 + h.tiles.2 then t else { t with status := (us k).tritAt 0 }),
            slotWords := liveWords 243 q.alloc.slots h.slots q.slotWords uo,
            bars := List.replicate q.alloc.bars barrierInit }, s)

/-- The squall's stores and its gusts' registers as they arrive on the target core (R385, R386): every source is read first. -/
def State.applyMap (s : State) (q : Squall) (m : Migration) (h : MapHead) (es : List MapEntry) (pairs : List (Int × Int)) : State :=
  let gs := s.gustsOf q.q
  let vals := gs.map fun (g : Gust) => es.map (mapRead q g h.stride pairs)
  let step := fun (x : Squall × State) (y : (Gust × List (List Word)) × Nat × Nat) =>
    let ((g, ws), slot, vbase) := y
    let (u, s) := x.2.freeBlock (scrambleSize q.alloc)
    let (age, s) := s.fresh
    let g := { g.scramble q.alloc (s.slotScalars m.target slot) (s.slotPreds m.target slot) u with
      age, slot, vbase, tvec := Word.ofInt (-1), packet := none, oldCode := [], traceSync := true }
    if g.status = .retired then (x.1, s.setGust g)
    else
      let (q, g) := (List.zip es ws).foldl (fun x e => mapWrite h.stride x e.1 e.2) (x.1, g)
      (q, s.setGust g)
  let (q, s) := (List.zip (List.zip gs vals) (List.zip m.slots m.vbases)).foldl step (s.carryStores q h)
  s.setSquall q

/-- The table of a migration of a squall, read from its words (R383, R384), or the target PC of a malformed one (R393). -/
def Migration.parsed (m : Migration) (q : Squall) (pc : Int) : Except Int (MapHead × List MapEntry × List (Int × Int)) :=
  let bad := (m.table.getD 3 Word.zero).val
  match mapHead (m.table.take 9) q m.point pc with
  | none => .error bad
  | some h => match mapEntries q h.stride ((m.table.drop 9).take (2 * h.entries)) with
    | none => .error bad
    | some es => .ok (h, es, mapPairs (m.table.drop (9 + 2 * h.entries)))

/-- MIGRATION_TRANSFER (R385, R386, R392, R393), once no result of the gusts is still on its way and the copy engine of the core
runs no command: the state-mapping table is read and checked. DESIGN CHOICE (log entry 73): the words move when the migration
completes, so that an access to the old runs in the meantime is carried. A decision that waited on a page is made again. -/
def State.migrationTransfer (s : State) (r : SqRef) : State :=
  match s.squall? r with
  | none => s
  | some q => match q.migration, (s.gustsOf r).find? fun g => g.arrivedAt.isSome with
    | some m, some g0 =>
      let engineBusy := (s.core q.core).copyQ.any fun c => c.stage != .queued
      if m.moved ∨ engineBusy ∨ (s.gustsOf r).any (fun g => !g.loads.isEmpty || !g.atoms.isEmpty || !g.reply.isEmpty) then s
      else
        let s := s.releaseEffect r
        let q := (s.squall? r).getD q
        match s.tableAddr q m.point with
        | (.wait, s) => s
        | (.fail _ a, s) => s.failTransfer q g0 (-1) a
        | (.ok a, s) =>
          if a < 0 ∨ a % 9 ≠ 0 then s.failTransfer q g0 (-1)
          else match s.sysReads q.ctx a 9 with
            | (.wait, s) => s
            | (.fail _ a, s) => s.failTransfer q g0 (-1) a
            | (.ok hw, s) =>
              let target := (hw.getD 3 Word.zero).val
              match mapHead hw q m.point g0.pc with
              | none => s.failTransfer q g0 target
              | some h => match s.sysReads q.ctx (a + 9) (2 * h.entries + 2 * h.pairs) with
                | (.wait, s) => s
                | (.fail _ a, s) => s.failTransfer q g0 target a
                | (.ok ws, s) =>
                  let m := { m with moved := true, table := hw ++ ws }
                  match m.parsed q g0.pc with
                  | .error t => s.failTransfer q g0 t
                  | .ok _ => s.onSquall r fun q => { q with migration := some m }
    | none, some _ => s.migrJudge r
    | _, none => s

/-- MIGRATION_COMPLETE (R385, R386, R392, R395): the state moves, the source core's resources go, and every gust that has not
retired runs on at the target PC; a shutter request made meanwhile takes effect there (R409). -/
def State.migrationComplete (s : State) (r : SqRef) : State :=
  match s.squall? r, s.front? r.front, (s.gustsOf r).find? fun g => g.arrivedAt.isSome with
  | some q, some f, some g0 => (match q.migration with
    | some m =>
      if !m.moved then s
      else match m.parsed q g0.pc with
      | .error t => s.failTransfer q g0 t
      | .ok (h, es, pairs) =>
        let image := if coreIsD m.target then f.spec.imgD else f.spec.imgL
        let s := s.leaveCore r
        let s := s.applyMap ((s.squall? r).getD q) m h es pairs
        let s := s.onSquall r fun q =>
          { q with core := m.target, isD := coreIsD m.target, bases := m.bases, image, migration := none }
        let s := s.occupy ((s.squall? r).getD q) (s.gustsOf r)
        let s := s.each (s.gustsOf r) fun s g => match g.arrivedAt with
          | none => s
          | some (d, n) =>
            let s := s.onGust g.ref fun (g : Gust) =>
              ({ g with nlast := some n, kcount := 0, pc := h.target } : Gust).withS d (Word.ofInt 1)
            let s := s.trace g.ref 5 1
            let op := match g.status with
              | .waiting o _ => o
              | _ => s.op
            { ({ s with op } : State).complete g h.target 0 0 false with op := s.op }
        if q.shutter.isSome then { s with gusts := s.gusts.map fun g => if g.ref.sq == r then g.requestStop else g } else s
    | none => s)
  | _, _, _ => s

end Sys2Proof.Machine
end

