-- ==== Sys2Proof/Machine/Launch.lean ====
section
/-! DEFINITION. Device launches and the forms about fronts (R375 to R379): LAUNCH and its reply, LWAIT, LQRY, PRIO. -/

namespace Sys2Proof.Machine

/-- A release at device scope by the issuing gust before its effect (R277, R287, R395): the gust waits until its loads have
returned and its writes are acknowledged. -/
def State.released (s : State) (g : Gust) (q : Squall) (k : State → Eff) : Eff :=
  if g.quiet then k (s.releasePart (dieOf q.core) .dv) else .wait s .quiet

/-- LAUNCH (R376): the record's address goes to the chip scheduling core, and the result is pending until its reply. A result that is
a mask word governs the next instruction (R99, R102), so the gust goes on only with the reply. -/
def execLaunch (c : Ctl) (d a : Nat) (s : State) : Result :=
  s.squallForm c fun g q =>
    if g.ref.gust ≠ 0 then .fault s 100 0
    else s.released g q fun s =>
      let s := (s.onGust g.ref fun (h : Gust) => { h with reply := h.reply ++ [(d, g.s a)] }).send (.launchReply g.ref)
      if 78 ≤ d then .wait s .reply else .done s

/-- The page of a record is absent or has to be regenerated (R376): a device launch starts no fill for it. -/
def State.pageAway (s : State) (ctx : Nat) (x : Int) : Bool :=
  decide (0 < x ∧ x ≤ wordMax) && (match s.walk 9 ctx x with
    | (.leaf _ _ w0 _ _, _) => pteType w0 == -1 || pteType w0 == 2
    | _ => false)

/-- The chip scheduling core's answer to a LAUNCH (R376). -/
def State.launchChild (s : State) (f : Front) (x : Int) : Int × State :=
  if f.depth = 12 then (0, s)
  else if s.fronts.length ≥ Config.maxFronts then (-1, s)
  else if s.pageAway f.ctx x then (-2, s)
  else match s.launchAt f.ctx (.parent f.num) (f.depth + 1) (some f.prio) x with
    | (.accepted n, s) => (Int.ofNat n, s)
    | (.refused c, s) => (c, s)
    | (.wait, s) => (-2, s)

/-- LAUNCH_REPLY (R376): the oldest launch of the gust is answered. -/
def State.launchReply (s : State) (r : GustRef) : State :=
  match s.gust? r, s.front? r.front with
  | some g, some f => (match g.reply with
    | [] => s
    | (d, x) :: rest =>
      let (v, s) := s.launchChild f x.val
      let s := (s.onGust r fun (h : Gust) => { h with reply := rest }).writeS r d (Word.ofInt v)
      if 78 ≤ d then s.completeFor r else s)
  | _, _ => s

/-- The front that launched a front by LAUNCH. -/
def State.parent? (s : State) (n : Nat) : Option Nat :=
  (s.front? n).bind fun f => match f.by_ with
    | .parent p => some p
    | _ => none

/-- A front and its ancestors (R356, R377), at most `fuel` of them above it. -/
def State.lineage (s : State) : Nat → Nat → List Nat
  | 0, n => [n]
  | k + 1, n => match s.parent? n with
    | some p => n :: s.lineage k p
    | none => [n]

/-- The live front of a context with a number (R377, R378). -/
def State.liveFront (s : State) (ctx : Nat) (x : Int) : Option Front :=
  if x ≤ 0 then none else (s.front? x.toNat).filter fun f => f.ctx == ctx

/-- The accesses of the gusts of a context's retired fronts happen before what follows (R288): a write still on its way from a gust that
was discarded applies (R415 step 4), and every die's dirty words are written back (log entry 54). -/
def State.frontsDone (s : State) (ctx : Nat) : State :=
  let late := fun (i : Instr) => match i with
    | .homeApplyWrite m => m.ctx == ctx && m.src.any fun r => (s.gust? r).isNone
    | _ => false
  (({ s with flight := s.flight.filter fun i => !late i } : State).each (s.flight.filter late) fun s i => match i with
    | .homeApplyWrite m => s.homeApplyWrite m
    | _ => s).releaseDies

/-- LWAIT (R288, R377). -/
def execLwait (c : Ctl) (d a : Nat) (s : State) : Result :=
  s.squallForm c fun g q =>
    let x := (g.s a).val
    if 0 < x ∧ (s.lineage 12 g.ref.front).contains x.toNat then .fault s 101 0
    else match s.liveFront q.ctx x with
      | some f => .wait s (.front f.num)
      | none =>
        if 0 < x ∧ x < Int.ofNat s.nextFront then
          .done (((s.frontsDone q.ctx).orderedAfter (dieOf q.core) .dv).writeS g.ref d (Word.ofInt 1))
        else .done (s.writeS g.ref d Word.zero)

/-- LQRY (R378): a snapshot of a front, 0 for the own one. -/
def execLqry (c : Ctl) (d a : Nat) (s : State) : Result :=
  s.squallForm c fun g q =>
    let x := (g.s a).val
    .done (match s.liveFront q.ctx (if x = 0 then Int.ofNat g.ref.front else x) with
      | some f => s.writeSs g.ref d
          [Word.ofInt (pow3 26 + f.prio.val * pow3 25 + Int.ofNat f.depth * pow3 21), Word.ofNat f.left]
      | none => s.writeSs g.ref d [Word.zero, Word.zero])

/-- PRIO (R379): the front's trit changes, and its bind records are rewritten later. -/
def execPrio (c : Ctl) (d : Nat) (src : NumSrc) (s : State) : Result :=
  s.squallForm c fun g _ =>
    let v := g.num src
    if v < -1 ∨ v > 1 then .fault s 102 0
    else match s.front? g.ref.front with
      | none => .done s
      | some f =>
        let s := s.onFront f.num fun (f : Front) => { f with prio := Trit.least (Trit.sgn v) f.ceiling }
        let s := s.each (List.range 9) fun s k => if (s.bindRec? k f.num).isSome then s.send (.bindRecordRewrite k f.num) else s
        .done (s.writeS g.ref d (Word.ofTrit f.prio))

end Sys2Proof.Machine
end

