-- ==== Sys2Proof/Machine/System.lean ====
section
/-! DEFINITION. The system forms (R395, R402, R403, R405): TRAP, BRK, ERET, RDSR, WRSR, SNAP; and the entry into a trap and
the retirement of a gust as steps (R97, R211, R400). -/

namespace Sys2Proof.Machine

/-- A trap of a form whose TPC is the next instruction (R400, R403). -/
def State.trapNext (s : State) (g : Gust) (cause detail : Int) : State :=
  s.trapEntry g.ref cause [s.mkRec g clsGust cause 0 (-1) detail] true (g.pc + 1) g.pc

/-- TRAP (R403). -/
def execTrap (c : Ctl) (n : Nat) (s : State) : Result :=
  s.performGust c fun g => .over (s.trapNext g 9 (Int.ofNat n))

/-- BRK (R403, R430, R436). -/
def execBrk (c : Ctl) (n : Nat) (s : State) : Result :=
  s.performGust c fun g =>
    if s.routed g.ref then .over ((s.onGust g.ref fun (h : Gust) => { h with pc := g.pc + 1 }).stopGust g.ref 1)
    else .over (s.trapNext g 10 (Int.ofNat n))

/-- ERET (R402). -/
def execEret (c : Ctl) (s : State) : Result :=
  s.performGust c fun g =>
    if !g.trapActive then .fault s 13 0
    else if g.tpc.val < 0 then .over (s.endFrontOf g 113 [])
    else .back (s.setGust g.eret) g.tpc.val

/-- SPCA of a squall (R180). -/
def Squall.spca (q : Squall) : Int := -(pow3 15) + Int.ofNat (q.core % 27) * pow3 12 + Int.ofNat q.bases.scratch

/-- A system register may be reached only by a privileged gust (R395). -/
def privilegedReg (r : Nat) : Bool := decide ((810 ≤ r ∧ r ≤ 814) ∨ 19683 ≤ r)

/-- The snapshot register with a number (R431). -/
def State.snapReg (s : State) (r : Nat) : Word :=
  if r < 39366 then Word.ofNat ((s.core ((r - 19683) / 81)).snap.getD ((r - 19683) % 81) 0)
  else
    let d := (r - 39366) / 729
    let f := (r - 39366) % 729
    if d < 9 then Word.ofNat ((s.die d).snap.getD f 0)
    else Word.ofNat ((s.rimSnaps.getD (d - 9) []).getD f 0)

/-- A system register's contents (R395). -/
def State.sysReg (s : State) (g : Gust) (q : Squall) (r : Nat) : Word :=
  let b := fun (x : Bool) (n : Nat) => if x then pow3 n else 0
  if r = 0 then s.ptimeLow
  else if r = 1 then g.ptimeh
  else if r = 2 then Word.ofInt q.spca
  else if r = 3 then Word.ofInt (Int.ofNat q.core * pow3 18 + (if q.isD then pow3 17 else -(pow3 17)))
  else if r = 4 then Word.ofInt (b g.priv 26 + b g.trapActive 25)
  else if r = 5 then g.tvec
  else if r = 6 then g.tpc
  else if r = 7 then g.tm.b0
  else if r = 8 then g.tm.b1
  else if r = 9 then g.tm.b2
  else if r < 36 then g.gfr.getD (r - 27) Word.zero
  else if r < 810 then ((lookupAt g.laneRec ((r - 81) / 9)).getD []).getD ((r - 81) % 9) Word.zero
  else
    let x := s.context q.ctx
    if r = 810 then x.xroot
    else if r = 811 then x.xregen
    else if r = 812 then x.xlist
    else if r = 813 then x.xflog
    else if r = 814 then x.xdbg
    else s.snapReg r

/-- RDSR (R395): a read of PTIMEL also latches the upper trits of PTIME. -/
def execRdsr (c : Ctl) (d r : Nat) (s : State) : Result :=
  s.squallForm c fun g q =>
    if privilegedReg r ∧ !g.priv then .fault s 12 0
    else
      let v := s.sysReg g q r
      let s := if r = 0 then s.onGust g.ref fun (h : Gust) => { h with ptimeh := Word.ofInt (dropT (Int.ofNat s.ptime) 27) } else s
      .done (s.writeS g.ref d v)

/-- XDBG as a write leaves it: a reserved trit value reads as zero (R430). -/
def xdbgOf (w : Word) : Word :=
  let fix := fun (i : Nat) => if tritI w.val i = -1 then pow3 i else 0
  Word.ofInt (w.val + fix 26 + fix 25 + fix 24)

/-- A context's register replaced (R395). -/
def Context.put (x : Context) (r : Nat) (w : Word) : Context :=
  if r = 810 then { x with xroot := w }
  else if r = 811 then { x with xregen := w }
  else if r = 812 then { x with xlist := w }
  else if r = 813 then { x with xflog := w }
  else { x with xdbg := xdbgOf w }

/-- A context register written (R395, R442): where trace is turned on, every bound gust of the context writes a sync
packet. -/
def State.putContext (s : State) (ctx r : Nat) (w : Word) : State :=
  let was := s.traceOn ctx
  let s := { s with contexts := s.contexts.modify ctx fun (x : Context) => x.put r w }
  if !was ∧ s.traceOn ctx then
    s.each (s.gusts.filter fun g => s.ctxOf g.ref == ctx && (s.squall? g.ref.sq).isSome) fun s g => s.traceBind g.ref
  else s

/-- WRSR (R395). -/
def execWrsr (c : Ctl) (r a : Nat) (s : State) : Result :=
  s.squallForm c fun g q =>
    let w := g.s a
    if privilegedReg r ∧ !g.priv then .fault s 12 0
    else if r ≥ 810 then s.released g q fun s => .done (s.putContext q.ctx r w)
    else
      .done (s.onGust g.ref fun (h : Gust) =>
        if r = 5 then { h with tvec := w }
        else if r = 6 then { h with tpc := w }
        else if r = 7 then { h with tm := { h.tm with b0 := w } }
        else if r = 8 then { h with tm := { h.tm with b1 := w } }
        else { h with tm := { h.tm with b2 := w } })

/-- A snapshot trigger reaches the package-time reference (R432): it joins the snapshot that is under way, up to tick T itself, or
starts one. -/
def State.snapTrigger (s : State) : State :=
  if s.snapAt.isSome || s.snapped == some s.ptime then s else { s with snapAt := some (s.ptime + 729) }

/-- SNAP (R403, R405, R432). -/
def execSnap (c : Ctl) (s : State) : Result :=
  s.performGust c fun g => if !g.priv then .fault s 12 0 else .done s.snapTrigger

/-- TRAP_ENTRY (R400) as a step: the gust traps with a cause. Every instruction that traps makes this entry in its own
step. -/
def State.trapStep (s : State) (r : GustRef) (cause detail : Int) : State :=
  match s.gust? r with
  | none => s
  | some g =>
    if cause = 0 then s.trapParked r
    else if 9 ≤ cause ∧ cause ≤ 11 then s.trapNext g cause detail
    else s.gustFault r cause 0 detail

/-- The squall's retirement (R17, R357): its last gust has retired. -/
def State.squallRetire (s : State) (q : SqRef) : State :=
  if (s.gustsOf q).all (fun g => g.status == .retired) && (s.squall? q).isSome then
    (s.dropSquall q).onFront q.front fun (f : Front) => { f with left := f.left - 1 }
  else s

/-- A held command of a squall: guarded by a slot that nothing has resolved (R328). -/
def Squall.isHeld (q : Squall) (c : Cmd) : Bool :=
  let h := cmdGuard c.instr
  c.who.sq == q.q && c.record.isNone && c.stage == .queued && h != 0 && (q.guards.getD (h.natAbs - 1) .zero).val == 0

/-- The held commands of a squall are discarded (R328) once every gust of it is retiring or retired and nothing else of it is in a
queue (DEDUCED, log entry 74). -/
def State.dropHeld (s : State) (q : Squall) : State :=
  let mine := s.allCmds.filter fun c => c.who.sq == q.q && c.record.isNone
  if (s.gustsOf q.q).all (fun g => g.status == .retiring || g.status == .retired) && mine.all q.isHeld then
    s.each mine fun s c => (s.overlayEnd c false).endCmd c none
  else s

/-- GUST_RETIRE (R97, R211): once a retiring gust's commands have completed, it traps on an unreported fault or a held latch,
or it is retired, its slots and tiles are released and the rendezvous of its squall are judged again. DESIGN CHOICE (log entry 68):
the record of "latch held at exit" names no instruction by its op field, which is 0, and the gust's PC as native PC. -/
def State.gustRetire (s : State) (r : GustRef) : State :=
  let s := if (s.gust? r).any (fun g => g.status == .retiring && !g.halted) then
    (s.squall? r.sq).elim s fun q => s.dropHeld q else s
  match s.gust? r, s.squall? r.sq with
  | some g, some q =>
    if g.status ≠ .retiring ∨ g.halted ∨ s.cmdPending r (g.bnum + 1) ∨ !g.quiet ∨ !g.reply.isEmpty then s
    else
      let s := ({ s with op := 0 } : State)
      match s.reportBatches g (g.bnum + 1) with
      | some s => s
      | none =>
        if !(s.latchesOf r).isEmpty then s.gustFault r 8 0 0
        else
          let s := s.onGust r fun (h : Gust) => { h with status := .retired }
          let mine := fun (tiles : Bool) (n : Nat) => (List.range n).filter fun k => q.owner tiles k == some r.gust
          let s := s.onSquall r.sq fun (b : Squall) =>
            (mine false q.alloc.slots).foldl (fun b k => b.release false k 1)
              ((mine true q.alloc.tiles).foldl (fun b k => b.release true k 1) b)
          let s := s.releaseEffect r.sq
          let s := s.breakGangs r
          (s.migrJudge r.sq).squallRetire r.sq
  | _, _ => s

end Sys2Proof.Machine
end

