-- ==== Sys2Proof/Machine/Shutter.lean ====
section
/-! DEFINITION. Shuttering (R130, R364, R365, R409 to R413): requests, forced saves, the shutter image, the save and the
restore. -/

namespace Sys2Proof.Machine

/-- Ticks of a quantum in µs (R362). -/
def quantumTicks (us : Nat) : Nat := 1000 * us

/-- What waits to be bound on a die (R364, R365): the class, the allotment, the gust count and the cores that its bind record allows,
of each restorable squall and of each front with indices not yet taken. -/
def State.waiters (s : State) (die : Nat) : List (Trit × Alloc × Nat × List Nat) :=
  let cores := fun (front : Nat) (isD : Option Bool) => ((List.range 27).map fun k => 27 * die + k).filter fun c =>
    isD.all (· == coreIsD c) && (match s.front? front, s.bindRec? die front with
      | some f, some b => coreAllowed f.spec b c
      | _, _ => false)
  ((s.shuttered.filter fun x => x.die == die && s.restorable x).map fun (x : Shuttered) =>
    (s.shutKlass x, x.alloc, x.count, cores x.q.front (some x.isD))) ++
  (s.die die).bindRecs.filterMap fun b =>
    match s.front? b.front, (s.die die).dists.find? fun d => d.front == b.front && (d.pool.2 != 0 || d.subs.any fun e => e.2.2 != 0) with
    | some f, some _ => some (b.prio, f.spec.alloc, f.spec.gusts, cores b.front none)
    | _, _ => none

/-- A squall has been bound for its quantum (R362, R364). -/
def State.pastQuantum (s : State) (q : Squall) : Bool :=
  decide (q.boundAt + quantumTicks ((s.bindRec? (dieOf q.core) q.q.front).elim 0 (·.quantum)) ≤ s.ptime)

/-- A waiting squall gives cause to shutter a bound one (R364): it fits no allowed core now, its class is higher, or the same where
the bound squall's quantum has passed, and it would fit this core without the squalls that may give way to it. -/
def State.givesWay (s : State) (q : Squall) (w : Trit × Alloc × Nat × List Nat) : Bool :=
  let yields := fun (b : Squall) => b.core == q.core &&
    (decide ((s.klass b).val < w.1.val) || (s.klass b == w.1 && s.pastQuantum b))
  let rest : State := { s with squalls := s.squalls.filter fun b => !yields b }
  yields q && w.2.2.2.contains q.core && !(w.2.2.2.any fun c => (s.berth c w.2.1 w.2.2.1).isSome) &&
    (rest.berth q.core w.2.1 w.2.2.1).isSome

/-- Firmware may shutter a bound squall (R364). DESIGN CHOICE (log entry 76): past its quantum also where nothing waits on the die,
which is for no squall of a lower class. -/
def State.mayShutter (s : State) (q : Squall) : Bool :=
  let ws := s.waiters (dieOf q.core)
  ws.any (s.givesWay q) || (ws.isEmpty && s.pastQuantum q)

/-- SHUTTER_REQUEST (R364, R392, R409). -/
def State.shutterRequest (s : State) (r : SqRef) : State :=
  match s.squall? r with
  | none => s
  | some q =>
    if q.shutter.isSome || !s.mayShutter q then s
    else
      let s := s.setSquall { q with shutter := some (s.ptime, false) }
      if q.migration.isSome then s
      else
        { s with gusts := s.gusts.map fun g => if g.ref.sq == r then g.requestStop else g }

/-- FORCED_SAVE (R409): 9 µs after the request every gust stops at its next instruction boundary. A command that waits for
room leaves the wait, and its form is issued again. -/
def State.forcedSave (s : State) (r : SqRef) : State :=
  match s.squall? r with
  | none => s
  | some q => match q.shutter with
    | some (t, false) =>
      if s.ptime < t + Config.forcedTicks ∨ q.migration.isSome ∨ (s.gustsOf r).all (·.halted) then s
      else
        let stop := fun (g : Gust) => match g.status with
          | .waiting _ .atomic | .waiting _ .reply => g
          | .waiting _ w => { g with halted := true, status := if w.isStall then .running else g.status }
          | _ => { g with halted := true }
        let s := s.setSquall { q with shutter := some (t, true) }
        let mine := (s.core q.core).acceptQ.filter fun x => x.who.sq == r
        let s := (s.each mine fun s c => s.undoFills c).onCore q.core fun c =>
          { c with acceptQ := c.acceptQ.filter fun x => x.who.sq != r }
        let s := s.onDie (dieOf q.core) fun d => { d with counters := d.counters.modify 7 countUp }
        { s with gusts := s.gusts.map fun g => if g.ref.sq == r then stop g else g }
    | _ => s

/-- Step 2 of a save (R410): what the save waits for. -/
def State.drained (s : State) (q : Squall) : Bool :=
  let c := s.core q.core
  let mine := fun (x : Cmd) => x.who.sq == q.q
  !(c.matrixQ ++ c.fillQ ++ c.acceptQ).any mine &&
  !c.codecQ.any (fun x => mine x && x.stage != .queued && !x.fills.isEmpty) &&
  (s.gustsOf q.q).all fun g => g.halted && g.quiet && g.reply.isEmpty

/-- The first pages of a range that a transfer would wait for or fail on, line by line (R410, R480). -/
def State.areaReady (s : State) (ctx : Nat) (x : Int) (write : Bool) : Nat → SysAns Unit × State
  | 0 => (.ok (), s)
  | n + 1 => match s.sysTranslate ctx (x + 45 * Int.ofNat n) write with
    | (.ok _, s) => s.areaReady ctx x write n
    | (.wait _, s) => (.wait, s)
    | (.fault c a, s) => (.fail c (if c < 0 then a else 0), s)

/-- The lines that a range of words touches, at most. -/
def linesOf (n : Nat) : Nat := n / 45 + 2

/-- The image a squall takes (R411): the first, from i mod S_a on, whose word 0 is 0. -/
def State.findImage (s : State) (ctx : Nat) (save : Int) (z : Int) (i sa : Nat) : Nat → SysAns (Option Int) × State
  | 0 => (.ok none, s)
  | n + 1 =>
    let j := (i + (sa - (n + 1))) % sa
    let a := save + 9 + Int.ofNat j * z
    match s.sysRead ctx a with
    | (.fail c a, s) => (.fail c a, s)
    | (.wait, s) => (.wait, s)
    | (.ok w, s) => if w.val = 0 then (.ok (some a), s) else s.findImage ctx save z i sa n

/-- Words 3..5 of a front record, as the image's header holds the allotment (R352, R412). -/
def Alloc.regsWord (a : Alloc) : Word :=
  Word.ofInt (Int.ofNat a.v * pow3 18 + Int.ofNat a.s * pow3 13 + Int.ofNat a.p * pow3 9 + Int.ofNat a.g * pow3 5)
/-- The counts of tiles, slots and barriers. -/
def Alloc.poolWord (a : Alloc) : Word :=
  Word.ofInt (Int.ofNat a.tiles * pow3 18 + Int.ofNat a.slots * pow3 13 + Int.ofNat a.bars * pow3 4)

/-- A list of words cut or filled with zeros to `n`. -/
def padTo (n : Nat) (ws : List Word) : List Word := (ws ++ List.replicate n Word.zero).take n

/-- A saved command's 36 words (R412). -/
def Cmd.image (c : Cmd) : List Word :=
  let x := (encode c.instr).getD ⟨Word.zero, Word.zero, Word.zero⟩
  let list := match c.instr with
    | .mcast _ _ _ _ _ _ => c.words
    | _ => []
  [x.s0, x.s1, x.s2, Word.ofNat c.who.gust, Word.ofNat c.batch] ++ padTo 4 (c.scal.map Word.ofInt) ++ padTo 27 list

/-- A tile's state word (R412). -/
def TileSt.word (t : TileSt) (saved : Bool) : Word :=
  let owner := match t.owner with
    | some g => Int.ofNat g
    | none => -1
  Word.ofInt (owner * pow3 23 + t.status.val * pow3 22 + (if saved then pow3 21 else 0))

/-- A run holds an index. -/
def inRun (r : Nat × Nat) (k : Nat) : Bool := decide (r.1 ≤ k ∧ k < r.1 + r.2)

/-- The tile or slot is saved (R231, R409): it lies in a gust's live set, or the save is forced. -/
def savedBy (gs : List Gust) (forced tiles : Bool) (k : Nat) : Bool :=
  forced || gs.any fun g => inRun (if tiles then g.liveTiles else g.liveSlots) k

/-- A run of consecutive words of a sparse store. -/
def sparseRun (m : Sparse) (first n : Nat) : List Word := (List.range n).map fun i => readAt (fun _ => Word.zero) m (first + i)

/-- The header of an image (R412). -/
def imageHeader (s : State) (q : Squall) (forced page : Bool) (cmds : Nat) : List Word :=
  let f := fun (b : Bool) (n : Nat) => if b then pow3 n else 0
  padTo 27
    [Word.ofNat (q.q.lin + 1), Word.ofNat q.q.front, Word.ofNat q.q.lin,
     Word.ofInt ((if q.isD then pow3 26 else -(pow3 26)) + f forced 25 + f page 24 + Int.ofNat q.count * pow3 20),
     q.alloc.regsWord, Word.ofNat q.alloc.scratch, q.alloc.poolWord, Word.ofNat cmds, s.ptimeLow,
     Word.ofNat (imageMap q.count q.alloc).size]

/-- The image as runs of words at offsets (R412); a register outside the allotment is not saved (R130). -/
def imageRuns (s : State) (q : Squall) (gs : List Gust) (forced page : Bool) (cmds : List Cmd) : List (Nat × List Word) :=
  let m := imageMap q.count q.alloc
  let per := fun (at_ size : Nat) (f : Gust → List Word) => gs.map fun (g : Gust) => (at_ + size * g.ref.gust, f g)
  let tiles := List.range q.alloc.tiles
  let slots := List.range q.alloc.slots
  [(0, imageHeader s q forced page cmds.length)] ++
  per m.gusts 243 (fun g => g.words.set 194 Word.zero) ++
  per m.lanes 729 (fun g => (List.range 81).flatMap fun l => padTo 9 ((lookupAt g.laneRec l).getD [])) ++
  per m.faults 243 (fun g => padTo 243 ((g.faults.insertionSort fun a b => a.serial ≤ b.serial).flatMap (·.words))) ++
  per m.scal 81 (fun g => g.sreg.take q.alloc.s) ++
  per (m.scal + 78) 81 (fun g => g.sreg.drop 78) ++
  per m.pred 81 (fun g => (g.preg.take q.alloc.p).flatMap fun p => [p.b0, p.b1, p.b2]) ++
  per m.vec (81 * q.alloc.v) (fun g => g.vreg.flatMap (·.data)) ++
  [(m.guards, [Word.ofInt (ofTrits ((List.range 27).map fun i => (q.guards.getD i .zero).val))]),
   (m.bars, q.bars.flatMap fun b => [b.1, b.2])] ++
  (tiles.filter (savedBy gs forced true)).map (fun t => (m.tiles + 729 * t, sparseRun q.tileWords (729 * t) 729)) ++
  [(m.tileSt, tiles.map fun t => (q.tile t).word (savedBy gs forced true t))] ++
  (slots.filter (savedBy gs forced false)).map (fun o => (m.slots + 243 * o, sparseRun q.slotWords (243 * o) 243)) ++
  [(m.slotSt, slots.map fun o => (q.slot o).word (savedBy gs forced false o)),
   (m.scratch, sparseRun q.scratch 0 q.alloc.scratch),
   (m.cmds, padTo (36 * 297) (cmds.flatMap Cmd.image))]

/-- What of a gust the image has no place for. -/
def Gust.rest (g : Gust) : Gust := { g with sreg := [], preg := [], vreg := [], laneRec := [], packet := none }

/-- The page entries a waiting gust waits on (R365). -/
def Gust.entries (g : Gust) : List Nat :=
  match g.status with
  | .waiting _ .replay => ((g.replay.map fun (r : Replay) => r.lanes.map (·.2)).getD []).eraseDups
  | .waiting _ .page => g.pageWait.toList
  | _ => []

/-- A refused request (R410): every gust resumes where it stopped; one that stood at a rendezvous or in a claim arrives
again, and one that waits at a barrier applies its wait again (R191, R196). -/
def State.shutterRefuse (s : State) (q : Squall) : State :=
  let resume := fun (g : Gust) =>
    { g with halted := false, status := (match g.status with
      | .waiting _ (.gang _) | .waiting _ (.migr _) | .waiting _ (.claim _ _ _ _) => .running
      | x => x) }
  (({ s with gusts := s.gusts.map fun g => if g.ref.sq == q.q then resume g else g } : State).setSquall
    { q with shutter := none }).retestBarriers q.q

/-- The commands of a squall that have not started, in acceptance order (R322, R410). -/
def State.savedCmds (s : State) (q : Squall) : List Cmd :=
  let c := s.core q.core
  ((c.copyQ ++ c.codecQ ++ s.paging).filter fun x => x.who.sq == q.q && x.stage == .queued && x.record.isNone).insertionSort
    fun a b => a.id ≤ b.id

/-- A machine check of a transfer to or from a save area (R397, R410). -/
def State.areaCheck (s : State) (ctx : Nat) (cause addr : Int) : State :=
  s.machineCheck ctx (s.bareRec clsCheck cause addr)

/-- Step 1 of a save (R410, R411): the squall takes an image, whose word 0 becomes i + 1 in the act that found it 0. With images too small,
or none free, the request is refused. -/
def State.takeImage (s : State) (q : Squall) (f : Front) : State :=
  match s.sysReads q.ctx f.spec.save 2 with
  | (.wait, s) => s
  | (.fail _ a, s) => s.areaCheck q.ctx (-8) a
  | (.ok ws, s) =>
    let sa := (ws.getD 0 Word.zero).val
    let z := (ws.getD 1 Word.zero).val
    if sa < 1 ∨ z < Int.ofNat (imageMap q.count q.alloc).size then s.shutterRefuse q
    else match s.findImage q.ctx f.spec.save z q.q.lin sa.toNat sa.toNat with
      | (.wait, s) => s
      | (.fail _ a, s) => s.areaCheck q.ctx (-8) a
      | (.ok none, s) => s.shutterRefuse q
      | (.ok (some a), s) => match s.sysWrite q.ctx a (Word.ofNat (q.q.lin + 1)) with
        | (.wait, s) => s
        | (.fail _ a, s) => s.areaCheck q.ctx (-8) a
        | (.ok _, s) => s.onSquall q.q fun q => { q with saveTo := some a }

/-- Steps 3 and 4 of a save (R410): commands leave their queues, an overlay giving its segment entry back (log entry 30), the image
is written and the allotment released. -/
def State.saveAt (s : State) (q : Squall) (a : Int) (forced : Bool) : State :=
  let s := s.landInto q
  let q := (s.squall? q.q).getD q
  let gs := s.gustsOf q.q
  let waits := gs.flatMap fun (g : Gust) => g.entries.map fun e => (g.ref.gust, e)
  let cmds := s.savedCmds q
  let runs := imageRuns s q gs forced (!waits.isEmpty) cmds
  let w := runs.foldl (fun (x : SysAns Unit × State) r => match x with
    | (.ok _, s) => s.sysWrites q.ctx (a + Int.ofNat r.1) r.2
    | e => e) (.ok (), s)
  match w with
  | (.ok _, s) =>
    let marked := fun (tiles : Bool) (n : Nat) => (List.range n).filter fun k =>
      if tiles then (q.tile k).releasing else (q.slot k).releasing
    let x : Shuttered :=
      { q := q.q, ctx := q.ctx, die := dieOf q.core, isD := q.isD, image := q.image, at_ := s.ptime, area := a,
        count := q.count, alloc := q.alloc, gs := gs.map Gust.rest,
        releasing := (marked true q.alloc.tiles, marked false q.alloc.slots), waitEntries := waits, cmds, fails := [],
        slotFaults := (List.range q.alloc.slots).filterMap fun o => (q.slot o).fault.map fun f => (o, f),
        slotWrote := (List.range q.alloc.slots).map fun o => (q.slot o).wrote }
    let s := s.dropSquall q.q
    { s with shuttered := s.shuttered ++ [x] }
  | (.fail _ a, s) => s.areaCheck q.ctx (-8) a
  | (.wait, s) => s.areaCheck q.ctx (-8) 0

/-- SHUTTER_SAVE (R410, R411, R412): once every gust has stopped the squall takes an image; once it has drained, the image is
written. -/
def State.shutterSave (s : State) (r : SqRef) : State :=
  match s.squall? r, s.front? r.front with
  | some q, some f => (match q.shutter with
    | none => s
    | some (_, forced) =>
      if q.migration.isSome then s
      else match q.saveTo with
        | none => if (s.gustsOf q.q).all (·.halted) then s.takeImage q f else s
        | some a =>
          if !s.drained q then s
          else match s.areaReady q.ctx a true (linesOf (imageMap q.count q.alloc).size) with
            | (.wait, s) => s
            | (.fail _ a, s) => s.areaCheck q.ctx (-8) a
            | (.ok _, s) => s.saveAt q a forced)
  | _, _ => s

/-- Part of an image. -/
def part (ws : List Word) (at_ n : Nat) : List Word := padTo n ((ws.drop at_).take n)

/-- Words in groups of `n`, `k` of them. -/
def groups (n : Nat) : Nat → List Word → List (List Word)
  | 0, _ => []
  | k + 1, ws => ws.take n :: groups n k (ws.drop n)

/-- A sparse store from consecutive words. -/
def sparseOf (ws : List Word) : Sparse := (List.zip (List.range ws.length) ws).filter fun e => e.2 != Word.zero

/-- The status a restored gust has (R409, R436): a barrier, latch or replay wait stands; any other waiting instruction is
issued again. -/
def Gust.resumed (g : Gust) : Status :=
  match g.status with
  | .waiting op (.barrier b t) => .waiting op (.barrier b t)
  | .waiting op (.latch x n) => .waiting op (.latch x n)
  | .waiting op .replay => .waiting op .replay
  | .stopped => .stopped
  | .retiring => .retiring
  | .retired => .retired
  | _ => .running

/-- A gust from its image (R412, R413) and from what the image has no place for; `scal` and `pred` are its new issue slot's files,
which it keeps outside the allotment (R130). -/
def gustFrom (x : Shuttered) (ws : List Word) (g : Gust) (age slot vbase : Nat) (scal : List Word) (pred : List Mask) : Gust :=
  let m := imageMap x.count x.alloc
  let i := g.ref.gust
  let recs := (List.zip (List.range 81) (groups 9 81 (part ws (m.lanes + 729 * i) 729))).filter fun e =>
    e.2.any fun w => w != Word.zero
  let failed := (x.fails.filter fun f => f.1 == i).map (·.2)
  let preds := (groups 3 27 (part ws (m.pred + 81 * i) 81)).map fun p =>
    (⟨p.getD 0 Word.zero, p.getD 1 Word.zero, p.getD 2 Word.zero⟩ : Mask)
  let sw := part ws (m.scal + 81 * i) 81
  { g.ofWords (part ws (m.gusts + 243 * i) 243) with
    age, slot, vbase, status := g.resumed, halted := false,
    sreg := sw.take x.alloc.s ++ ((scal.drop x.alloc.s).take (78 - x.alloc.s) ++ sw.drop 78),
    preg := preds.take x.alloc.p ++ pred.drop x.alloc.p,
    vreg := (groups 81 x.alloc.v (part ws (m.vec + 81 * x.alloc.v * i) (81 * x.alloc.v))).map Lanes.ofList,
    laneRec := recs, dbgCmd := Word.zero, packet := none, oldCode := [], latchCode := g.lateCode.or g.latchCode,
    lateCode := none, fillFaults := failed ++ g.fillFaults, traceSync := true }

/-- A slot from its state word (R412). -/
def slotFrom (x : Shuttered) (o : Nat) (w : Word) : SlotSt :=
  let n := fld w.val 26 23
  let code := fld w.val 22 21
  { owner := if n < 0 then none else some n.toNat,
    fill := if code = 1 then .pending else if code = -1 then .unfenced else if code = 2 then .faulted else .ready,
    count := (fld w.val 20 14).toNat,
    fault := if fld w.val 13 8 = 0 then none
             else lookupAt x.slotFaults o,
    releasing := x.releasing.2.contains o, wrote := x.slotWrote.getD o 0 }

/-- A tile from its state word (R412). -/
def tileFrom (releasing : Bool) (w : Word) (u : Trit) : TileSt :=
  let n := fld w.val 26 23
  { owner := if n < 0 then none else some n.toNat, status := if tritI w.val 21 = 1 then w.tritAt 22 else u, releasing }

/-- Words of a store of which some parts were not saved: those hold unspecified values (R231). -/
def savedWords (ws : List Word) (size : Nat) (saved : Nat → Bool) (u : Nat → Word) : Sparse :=
  sparseOf ((List.zip (List.range ws.length) ws).map fun e => if saved (e.1 / size) then e.2 else u e.1)

/-- A squall from its image. -/
def State.squallFrom (s : State) (x : Shuttered) (f : Front) (core : Nat) (h : Held) (ws : List Word) : Squall × State :=
  let m := imageMap x.count x.alloc
  let tst := part ws m.tileSt x.alloc.tiles
  let sst := part ws m.slotSt x.alloc.slots
  let (ut, s) := s.freeBlock (729 * x.alloc.tiles)
  let (us, s) := s.freeBlock x.alloc.tiles
  let (uo, s) := s.freeBlock (243 * x.alloc.slots)
  let g := (ws.getD m.guards Word.zero)
  ({ q := x.q, ctx := x.ctx, idx := f.spec.index x.q.lin, core, isD := x.isD, image := x.image, count := x.count,
     alloc := x.alloc, bases := h.bases, boundAt := s.ptime, scratch := sparseOf (part ws m.scratch x.alloc.scratch),
     tileWords := savedWords (part ws m.tiles (729 * x.alloc.tiles)) 729 (fun t => tritI (tst.getD t Word.zero).val 21 == 1) ut,
     tiles := (List.zip (List.range x.alloc.tiles) tst).map fun e => tileFrom (x.releasing.1.contains e.1) e.2 ((us e.1).tritAt 0),
     slotWords := savedWords (part ws m.slots (243 * x.alloc.slots)) 243 (fun o => tritI (sst.getD o Word.zero).val 7 == 1) uo,
     slots := (List.zip (List.range x.alloc.slots) sst).map fun e => slotFrom x e.1 e.2,
     bars := (groups 2 x.alloc.bars (part ws m.bars (2 * x.alloc.bars))).map fun p => (p.getD 0 Word.zero, p.getD 1 Word.zero),
     guards := (List.range x.alloc.g).map fun k => g.tritAt k, shutter := none, migration := none }, s)

/-- A saved command queued again on the squall's new core (R322). An overlay is checked again there (R336, R338). DESIGN CHOICE (log
entry 30): one that fails the check with cause 72 or 73 gives its entry back too, whoever holds it then, as R338 frees the entry of an
overlay that cannot complete. -/
def State.requeue (s : State) (core : Nat) (c : Cmd) : State :=
  let c := { c with core }
  let c := { c with oldSeg := s.segOf c }
  let put := fun (s : State) (c : Cmd) => s.onQueue core (cmdQ c.instr) fun l => l ++ [c]
  match c.instr with
  | .ovl _ _ _ _ e _ =>
    let n := fun (i : Nat) => c.scal.getD i 0
    (match (s.squall? c.who.sq).bind fun q => s.overlayFault q e (n 0) (n 1) (n 3) with
      | some f => put s { c with stage := .ran, fault := some f }
      | none => (put s c).overlayPend c)
  | _ => put s c

/-- The restored squall takes its places (R95, R200, R262, R322, R411, R442). -/
def State.restoreAt (s : State) (x : Shuttered) (f : Front) (core : Nat) (h : Held) (ws : List Word) : State :=
  let s := { s with shuttered := s.shuttered.filter fun y => y.q != x.q }
  let (q, s) := s.squallFrom x f core h ws
  let s := ({ s with squalls := s.squalls ++ [q] } : State).orderPoint (dieOf core) false
  let s := s.each (List.zip x.gs (List.zip h.slots h.vbases)) fun s e =>
    let (age, s) := s.fresh
    { s with gusts := s.gusts ++ [gustFrom x ws e.1 age e.2.1 e.2.2 (s.slotScalars core e.2.1) (s.slotPreds core e.2.1)] }
  let s := s.occupy q (s.gustsOf x.q)
  let s := s.each x.cmds fun s c => s.requeue core c
  let s := s.each (s.gustsOf x.q) fun s g => if g.status = .retired then s else s.trace g.ref 5 0
  let s := s.retestBarriers x.q
  s.each (s.gustsOf x.q) fun s g => s.latchRebound g.ref

/-- SHUTTER_RESTORE (R365, R410, R411): the earliest restorable squall of the highest class that fits a core. -/
def State.shutterRestore (s : State) (r : SqRef) (core : Nat) : State :=
  match s.shut? r, s.front? r.front with
  | some x, some f => (match s.restorePlan x core with
    | none => s
    | some h =>
      if s.stopped then s else
      let k := s.shutKlass x
      let before := fun (y : Shuttered) => s.shutKlass y == k && decide (y.at_ < x.at_) && (s.restorePlan y core).isSome
      if s.bindFirst core k false || s.shuttered.any before then s
      else match s.sysReads x.ctx x.area (imageMap x.count x.alloc).size with
        | (.wait, s) => s
        | (.fail _ a, s) => s.areaCheck x.ctx (-9) a
        | (.ok ws, s) => match s.sysWrite x.ctx x.area Word.zero with
          | (.ok _, s) => s.restoreAt x f core h ws
          | (.wait, s) => s
          | (.fail _ a, s) => s.areaCheck x.ctx (-9) a)
  | _, _ => s

end Sys2Proof.Machine
end

