-- ==== Sys2Proof/Machine/Graphs.lean ====
section
/-! DEFINITION. The launch lists (R358, R359) and task graphs (R372 to R374). -/

namespace Sys2Proof.Machine

/-- A refused host launch (R359): its completion address, where it can be read, gets the code; false while its page is on its way
(R480). A read that a machine check's cause ends is checked (R414), here as in the launch lists and graphs below. -/
def State.refuseLaunch (s : State) (ctx : Nat) (x code : Int) : Bool × State :=
  match s.sysRead ctx (x + 29) with
  | (.ok w, s) => (true, if w.val > 0 then s.putWord ctx w.val (Word.ofInt code) else s)
  | (.wait, s) => (false, s)
  | (.fail c a, s) => (true, s.checkRead ctx c a)

/-- A node of a task graph, where it keeps its limits (R372). -/
def parseNode (n : Nat) (ws : List Word) : Option Node :=
  let w := fun (i : Nat) => (ws.getD i Word.zero).val
  let ty := fld (w 0) 26 24
  let need := fld (w 0) 23 18
  let succ := (List.range 7).map fun i => w (2 + i)
  let ok := [1, 2, 3, 4, -1, -2].contains ty && fld (w 0) 17 0 == 0 &&
    (if ty = -1 then within need 2 364 && w 1 == 0 else need == 0) && succ.all fun k => within k (-1) (Int.ofNat n - 1)
  if ok then some { ty, need := need.toNat, arg := w 1, succ } else none

/-- Nodes of nine words each; none where one is malformed. -/
def parseNodes (n : Nat) : Nat → List Word → Option (List Node)
  | 0, _ => some []
  | k + 1, ws => match parseNode n (ws.take 9), parseNodes n k (ws.drop 9) with
    | some a, some l => some (a :: l)
    | _, _ => none

/-- A graph's header keeps its limits (R372). -/
def graphHeadOk (h : List Word) : Bool :=
  let w := fun (i : Nat) => (h.getD i Word.zero).val
  within (w 0) 1 729 && within (w 1) 0 (w 0 - 1) && decide (w 2 ≥ 0) && within (w 3) (-1) 2047 &&
    (h.drop 4).all fun x => x.val == 0

/-- A graph that is not taken (R374): status −1, and then its signal. -/
def State.refuseGraph (s : State) (ctx : Nat) (h : List Word) : State :=
  let w := fun (i : Nat) => (h.getD i Word.zero).val
  let (id, s) := s.fresh
  let g : Graph := { id, ctx, nodes := [], st := [], done := max 0 (w 2), msix := if within (w 3) 0 2047 then w 3 else -1,
                     failed := -1, ending := none }
  ({ s with graphs := s.graphs ++ [g] } : State).endGraph g (-1)

/-- A graph becomes resident (R372): its entry node is ready. -/
def State.takeGraph (s : State) (ctx : Nat) (h : List Word) (nodes : List Node) : State :=
  let w := fun (i : Nat) => (h.getD i Word.zero).val
  let (id, s) := s.fresh
  let st := (List.range nodes.length).map fun i => ({ arrivals := 0, ready := decide (Int.ofNat i = w 1), acting := false } : NodeSt)
  { s with graphs := s.graphs ++ [{ id, ctx, nodes, st, done := w 2, msix := w 3, failed := 0, ending := none }] }

/-- The graph at `x` read and checked (R372, R374, R480); false while a page is on its way. DESIGN CHOICE (log entry 72): an address
that is no multiple of 9, or a header that cannot be read, gives neither a status nor a signal. -/
def State.launchGraph (s : State) (ctx : Nat) (x : Int) : Bool × State :=
  if x % 9 ≠ 0 then (true, s)
  else match s.sysReads ctx x 9 with
    | (.wait, s) => (false, s)
    | (.fail c a, s) => (true, s.checkRead ctx c a)
    | (.ok h, s) =>
      let n := (h.getD 0 Word.zero).val
      if !graphHeadOk h ∨ (s.graphs.filter fun g => !g.nodes.isEmpty).length ≥ 27 then (true, s.refuseGraph ctx h)
      else match s.sysReads ctx (x + 9) (9 * n.toNat) with
        | (.wait, s) => (false, s)
        | (.fail c a, s) => (true, (s.checkRead ctx c a).refuseGraph ctx h)
        | (.ok ws, s) => match parseNodes n.toNat n.toNat ws with
          | some nodes => (true, s.takeGraph ctx h nodes)
          | none => (true, s.refuseGraph ctx h)

/-- A host launch of the record at `x` (R356, R359); none while a page is on its way. -/
def State.launchRoot (s : State) (ctx : Nat) (by_ : Launcher) (x : Int) : Option Int × State :=
  match s.launchAt ctx by_ 1 none x with
  | (.accepted n, s) => (some (Int.ofNat n), s)
  | (.refused code, s) => (match s.refuseLaunch ctx x code with
    | (true, s) => (some code, s)
    | (false, s) => (none, s))
  | (.wait, s) => (none, s)

/-- The words at some addresses can be written now (R480). -/
def State.writableAll (s : State) (ctx : Nat) : List Int → Bool × State
  | [] => (true, s)
  | x :: xs => match s.sysTranslate ctx x true with
    | (.ok _, s) => s.writableAll ctx xs
    | (.wait _, s) => (false, s)
    | (.fault c a, s) => (false, s.checkRead ctx c a)

/-- LAUNCH_LIST_CONSUME (R358, R359, R420, R458, R463): the next launch word of a context's list is consumed. -/
def State.launchListConsume (s : State) (ctx : Nat) : State :=
  let x := (s.context ctx).xlist.val
  if s.stopped ∨ s.boot.bootst ≠ 2 ∨ s.boot.power = .d3hot ∨ x ≤ 0 ∨ x % 9 ≠ 0 then s
  else match s.sysRead ctx x with
    | (.wait, s) => s
    | (.fail c a, s) => s.checkRead ctx c a
    | (.ok n, s) =>
      let at_ := x + 1 + n.val % 243
      match s.sysRead ctx at_ with
      | (.wait, s) => s
      | (.fail c a, s) => s.checkRead ctx c a
      | (.ok w, s) =>
        if w.val = 0 then s
        else match s.writableAll ctx [at_, x] with
        | (false, s) => s
        | (true, s) =>
          let (taken, s) :=
            if w.val > 0 then (match s.launchRoot ctx .list w.val with
              | (some _, s) => (true, s)
              | (none, s) => (false, s))
            else s.launchGraph ctx (-w.val)
          if taken then (s.sysPut ctx at_ Word.zero).sysPut ctx x (Word.ofInt (n.val + 1)) else s

/-- A resident graph that has not ended. -/
def State.graph? (s : State) (id : Nat) : Option Graph := s.graphs.find? fun g => g.id == id && g.ending.isNone

/-- The node's state changed. -/
def Graph.mark (g : Graph) (i : Nat) (ready acting : Bool) : Graph :=
  { g with st := g.st.modify i fun x => { x with ready, acting } }

/-- A graph fails (R374): the first failure gives the status, and no further node starts. -/
def Graph.fail (g : Graph) (i : Nat) (code : Int) : Graph :=
  { g.mark i false false with failed := if g.failed = 0 then code else g.failed }

/-- The successor a condition chooses (R373). -/
def Node.chosen (n : Node) (v : Int) : Int :=
  let k := if n.ty = 2 then (if v > 0 then 0 else if v = 0 then 1 else 2)
    else if n.ty = 3 then (if v ≠ 0 then 0 else 1)
    else (min (max v 0) 6).toNat
  n.succ.getD k (-1)

/-- A wait-page node (R373): the fill it waits on has failed when its entry is idle again, or the address no longer
translates. DESIGN CHOICE (log entry 89): an address that does not translate at all fails the node as a failed fill does, with −3
(R374). -/
def State.waitPage (s : State) (g : Graph) (i : Nat) (n : Node) (acting : Bool) : State :=
  match s.sysTranslate g.ctx n.arg false with
  | (.ok _, s) => s.onGraph g.id fun x => x.finish i n.succ
  | (.wait _, s) => if acting then s else s.onGraph g.id fun x => x.mark i false true
  | (.fault c a, s) => (s.checkRead g.ctx c a).onGraph g.id fun x => x.fail i (-3)

/-- GRAPH_NODE_ACT (R373). -/
def State.graphNodeAct (s : State) (id i : Nat) : State :=
  match s.graph? id with
  | none => s
  | some g => match g.nodes[i]?, g.st[i]? with
    | some n, some st =>
      if n.ty = -2 ∧ (st.acting ∨ (st.ready ∧ g.failed = 0)) then s.waitPage g i n st.acting
      else if !st.ready ∨ g.failed ≠ 0 then s
      else if n.ty = 1 then
        (match s.launchRoot g.ctx (.graph id i) n.arg with
          | (none, s) => s
          | (some k, s) => if k > 0 then s.onGraph id fun x => x.mark i false true else s.onGraph id fun x => x.fail i (-4))
      else if n.ty = -1 then s.onGraph id fun x => x.finish i n.succ
      else (match s.sysRead g.ctx n.arg with
        | (.wait, s) => s
        | (.fail c a, s) => (s.checkRead g.ctx c a).onGraph id fun x => x.fail i (-1)
        | (.ok v, s) => s.onGraph id fun x => x.finish i [n.chosen v.val])
    | _, _ => s

/-- A front the graph launched is live. -/
def State.graphFronts (s : State) (id : Nat) : Bool :=
  s.fronts.any fun f => match f.by_ with
    | .graph g _ => g == id
    | _ => false

/-- GRAPH_COMPLETE (R374). DESIGN CHOICE (log entry 89): after a failure, nodes that are still acting hold the graph up, and those that
are ready, which no longer start, do not. -/
def State.graphComplete (s : State) (id : Nat) : State :=
  match s.graph? id with
  | none => s
  | some g =>
    let busy := g.st.any fun x => x.acting || (g.failed == 0 && x.ready)
    if busy || s.graphFronts id then s else s.endGraph g (if g.failed = 0 then 1 else g.failed)

end Sys2Proof.Machine
end

