-- ==== Sys2Proof/Machine/Caches.lean ====
section
/-! DEFINITION. The steps of the caches (R237 to R243, R282), of the walkers and translation caches (R303, R306, R310), and
a write through window space (R137). Each is the act by which the step that causes it does it too. -/

namespace Sys2Proof.Machine

/-- A line of the package's HBM4 (R296). -/
def isLine (p : Nat) : Bool := decide (p < Config.deviceLines)

/-- HOME_FILL (R238). -/
def State.homeFillStep (s : State) (line : Nat) : State := if isLine line then (s.homeFill line 0).2 else s

/-- L1_FILL of a span (R238, R241). -/
def State.l1FillStep (s : State) (die : Nat) (loc : Loc) (first n : Nat) (ev : Int) : State :=
  if die < 9 then s.each ((List.range n).filter fun k => decide (first + k < 9)) fun s k => (s.l1Fill die loc (first + k) ev).2 else s

/-- L1_WRITE_BACK (R239, R278). -/
def State.l1WriteBackStep (s : State) (die : Nat) (loc : Loc) (sector : Nat) : State :=
  if die < 9 then s.writeBack die loc sector else s

/-- INVALIDATION (R240, R282): every earlier one applies first. -/
def State.invalidationStep (s : State) (die line sector : Nat) (stamp : List Nat) : State :=
  if die < 9 then (s.deliver die stamp).applyInvalidation die line sector else s

/-- DIRTY_NOTICE (R242): the home notes whether the sector of the die's L1 copy holds a dirty word. -/
def State.dirtyNoticeStep (s : State) (die line sector : Nat) : State :=
  if die < 9 then
    s.note die line sector ((s.l1? die (.dev line)).any fun x => !(x.dirtyIn sector).isEmpty)
  else s

/-- FORCED_PUBLISH (R243): a noted die writes the sector back. -/
def State.forcedPublishStep (s : State) (die line sector : Nat) : State :=
  match s.home? line with
  | some h =>
    if die < 9 && h.noted.contains (sector, die) then
      (s.writeBack die (.dev line) sector).onDie (homeDie line) fun x => { x with counters := x.counters.modify 6 countUp }
    else s
  | none => s

/-- HOME_RECALL (R237). -/
def State.homeRecallStep (s : State) (line : Nat) : State := if isLine line then s.recall line else s

/-- The front that regenerates a page has been launched and is live (R310). DESIGN CHOICE (log entry 70): a page is known by the
entry at which the walk found it, so a page whose entry is kept in several copies has a fill trit, and a front, of each copy. -/
def State.regenLive (s : State) (ctx entry : Nat) : Bool := s.fronts.any fun f => f.by_ == .regen ctx entry

/-- The record a registry index names (R310): the table's first word is its length, and the records' addresses follow it
(log entry 32). Cause 25 for an index beyond it, 29 where the table cannot be read. -/
def State.regenRecord (s : State) (ctx i : Nat) : Except Int Int × State :=
  let t := (s.context ctx).xregen.val
  if t < 0 ∨ t + 1 + Int.ofNat i ≥ Int.ofNat physWords then (.error 29, s)
  else match s.readWide 9 (physWord t.toNat) 0 with
    | (.error _, s) => (.error 29, s)
    | (.ok n, s) =>
      if n.val ≤ Int.ofNat i then (.error 25, s)
      else match s.readWide 9 (physWord (t.toNat + 1 + i)) 0 with
        | (.ok x, s) => (.ok x.val, s)
        | (.error _, s) => (.error 29, s)

/-- The regeneration front of an entry is launched (R310): its argument block is word 1 of the entry. -/
def State.launchRegen (s : State) (core ctx entry : Nat) (w0 w1 : Word) (x : Int) : State :=
  match s.regenRecord ctx (fld w0.val 13 5).toNat with
  | (.error c, s) => s.failFill entry c
  | (.ok a, s) => match s.launchAt ctx (.regen ctx entry) 1 none a with
    | (.accepted n, s) => s.onFront n fun (f : Front) => { f with spec := { f.spec with args := w1.val } }
    | (.refused _, s) => s.failFill entry 29
    | (.wait, s) => s.send (.pageWalk core ctx x)

/-- PAGE_WALK (R303, R310): a walk for an access of a core; one that found a regenerate page whose fill it started launches
its front. -/
def State.pageWalkStep (s : State) (core ctx : Nat) (x : Int) : State :=
  if x < 1 ∨ x > wordMax ∨ core ≥ Config.cores then s
  else match s.walk (dieOf core) ctx x with
    | (.leaf _ entry w0 w1 _, s) =>
      if pteType w0 = 2 ∧ pteFill w0 = 1 then (if s.regenLive ctx entry then s else s.launchRegen core ctx entry w0 w1 x)
      else (s.translate core ctx x false true true).2
    | (_, s) => s

/-- Copies that a cache of translations keeps: those within their lease, or, with none to drop, all but the last. -/
def keepCopies (now : Nat) (es : List TlbEntry) : List TlbEntry :=
  let live := es.filter fun e => decide (now < e.expires)
  if live.length = es.length then es.dropLast else live

/-- TLB_LEASE_EXPIRY (R306): copies stop being used before their lease ends; a copy may be discarded sooner. -/
def State.leaseExpiry (s : State) (core : Nat) : State :=
  (s.onCore core fun c => { c with tlb := keepCopies s.ptime c.tlb, ahead := keepCopies s.ptime c.ahead }).onDie (dieOf core)
    fun d => { d with walks := keepCopies s.ptime d.walks }

/-- REGISTER_WINDOW_WRITE (R137): an outside write through window space lands whole, between two issues. -/
def State.windowStep (s : State) (core u : Nat) (w : Word) : State :=
  match winReg (coreIsD core) u with
  | some r => s.windowWrite core none w r
  | none => s

end Sys2Proof.Machine
end

