-- ==== Sys2Proof/Machine/Links.lean ====
section
/-! DEFINITION. Package time (R417 to R420), link failures (R422), timeouts (R414, R425), the Zargen port as owner (R424)
and the host port (R427 to R429, R458). -/

namespace Sys2Proof.Machine

/-- An access on its way was translated by a copy whose lease ends with the next tick (R306): it applies before that. -/
def State.leaseHeld (s : State) : Bool :=
  let ends := fun (t : Nat) => decide (t ≤ s.ptime + 1)
  (s.gusts.any fun g => (g.loads.any fun l => !l.lost && ends l.lease) || g.atoms.any fun a => !a.lost && ends a.lease) ||
  s.flight.any fun i => match i with
    | .homeApplyWrite m => ends m.lease && s.joined m.die m.loc
    | .latchRequest m => ends m.lease && s.joined m.die (.dev m.line)
    | _ => false

/-- PTIME_TICK (R417), once every access on its way whose lease ends has applied (R306): every die sees it (R420), and what of the
hardware waited on a page is tried again (R480). -/
def State.ptimeTick (s : State) : State :=
  if s.leaseHeld then s
  else ({ s with ptime := s.ptime + 1, cores := s.cores.map fun (c : Core) => { c with quiet := 0 } } : State).retryWrites

/-- A machine check that no instruction raised (R397, R414). -/
def State.bareCheck (s : State) (ctx : Nat) (cause addr : Int) : State := s.machineCheck ctx (s.bareRec clsCheck cause addr)

/-- A die has counted 729 of its cycles with no tick (R420). The cores' cycles stand for those of a compute die; a rim die's are not in
the state (DESIGN CHOICE, log entry 83). -/
def State.tickless (s : State) (die : Nat) : Bool :=
  decide (9 ≤ die) || (List.range Config.coresPerDie).any fun k => decide (729 ≤ (s.core (Config.coresPerDie * die + k)).quiet)

/-- PACKAGE_TIME_STOPPED (R420): every context is discarded, and the physical function reports the error. -/
def State.packageStopped (s : State) (die : Nat) : State :=
  if !s.tickless die then s
  else
    let s := { s with stopped := true }
    (s.each (List.range Config.contexts) fun s k => s.bareCheck k (-6) 0).emit (.aer .pf true)

/-- Ticks for which a request may stand unanswered (R414); one that goes on through a rim port has longer (R425). -/
def requestLimit : Loc → Nat
  | .remote _ _ | .host _ => Config.zargenTicks
  | _ => Config.requestTicks

/-- A request of a die goes to another die of the package, or through a rim port (R414, R425). -/
def crosses (d : Nat) : Loc → Bool
  | .dev p => homeDie p != d
  | .win core => dieOf core != d
  | _ => true

/-- The requests that no answer has come to yet: context, die, place, when it was sent, and its fault record (R397, R414). -/
def State.openRequests (s : State) : List (Nat × Nat × WLoc × Nat × Rec) :=
  (s.gusts.flatMap fun (g : Gust) => match s.squall? g.ref.sq with
    | some q =>
      (g.loads.flatMap fun l => l.items.map fun x => (q.ctx, dieOf q.core, x.2.1, l.sentAt, l.words)) ++
      g.atoms.flatMap fun a => (a.items.filter fun it => !it.took).map fun it => (q.ctx, dieOf q.core, it.at_, a.sentAt, a.words)
    | none => []) ++
  s.flight.filterMap fun i => match i with
    | .homeApplyWrite m => if m.narrow then none else some (m.ctx, m.die, ⟨m.loc, m.word⟩, m.sentAt, m.words)
    | .latchRequest m => some (m.ctx, m.die, ⟨.dev m.line, 5 * m.first⟩, m.sentAt, m.words)
    | _ => none

/-- The requests that have stood unanswered for their limit: context, fault record, and the physical word address (R414, R425). -/
def State.overdue (s : State) : List (Nat × Rec × Int) :=
  (s.openRequests.filterMap fun x =>
    if crosses x.2.1 x.2.2.1.loc && decide (x.2.2.2.1 + requestLimit x.2.2.1.loc ≤ s.ptime) then some (x.1, x.2.2.2.2, x.2.2.1.phys)
    else none) ++
  s.lostReqs.filterMap fun x => if x.at_ + Config.requestTicks ≤ s.ptime then some (x.ctx, x.words, x.addr) else none

/-- A machine check of an instruction whose record was kept with its access (R397), or of none. -/
def State.keptCheck (s : State) (ctx : Nat) (cause addr : Int) (words : Rec) : State :=
  if words.isEmpty then s.bareCheck ctx cause addr else s.machineCheck ctx (words.asCheck cause addr s.ptimeLow)

/-- An invalidation of a sector is on its way (R282). -/
def State.invalidating (s : State) (line q : Nat) : Bool :=
  s.flight.any fun i => match i with
    | .invalidation _ p k _ => p == line && k == q
    | _ => false

/-- REQUEST_TIMEOUT (R414, R425): a request of the context that has stood for its limit is a machine check of its instruction.
Directory traffic has no context, and poisons its sectors; how long it has stood is not in the state (DESIGN CHOICE, log entry 84). -/
def State.requestTimeout (s : State) : TimedOut → State
  | .ctx k => match s.overdue.find? fun x => x.1 == k with
    | some x => ({ s with lostReqs := s.lostReqs.filter fun y => y.ctx != k } : State).keptCheck k (-5) x.2.2 x.2.1
    | none => s
  | .directory line qs => s.addPoison line (qs.filter (s.invalidating line))

/-- ZARGEN_TIMEOUT (R425): a remote or host write unanswered for 2,187,000 ticks. -/
def State.zargenTimeout (s : State) (seq : Nat) : State :=
  match s.outstanding.find? fun (o : Outstanding) => o.seq == seq with
  | none => s
  | some o =>
    if s.ptime < o.at_ + Config.zargenTicks then s
    else
      let s := { s with outstanding := s.outstanding.filter fun (x : Outstanding) => x.seq != seq }
      if o.who.isSome then s.machineCheck o.ctx (o.words.set 5 s.ptimeLow) else s.bareCheck o.ctx (-5) 0

/-- A write on its way to a sector (R422). -/
def writeTo (line : Nat) (qs : List Nat) : Instr → Bool
  | .homeApplyWrite m => !m.narrow && m.loc == .dev line && qs.contains (sectorOf m.word)
  | _ => false

/-- A flit that replay cannot recover is counted at its die (R431). -/
def State.countLost (s : State) (d : Nat) : State := s.onDie d fun (x : Die) => { x with counters := x.counters.modify 3 countUp }

/-- The data of a result on its way to a context is lost (R422): the machine check of the access that receives it, chosen freely among
those on their way and the latch grants; of no instruction where the answer is one that the model gives within a step (log entry 84). -/
def State.dataLost (s : State) (ctx : Nat) : State :=
  let xs := (s.openRequests.filter fun x => x.1 == ctx).map fun x => (x.2.1, x.2.2.1.phys, x.2.2.2.2)
  let gs := s.flight.filterMap fun i => match i with
    | .latchGrant m => (s.squall? m.who.sq).bind fun q =>
        if q.ctx = ctx then some (dieOf q.core, Int.ofNat (45 * m.line), s.accessRec m.who) else none
    | _ => none
  let (k, s) := s.pick (xs ++ gs).length
  match (xs ++ gs)[k]? with
  | some x => (s.countLost x.1).keptCheck ctx (-1) x.2.1 x.2.2
  | none =>
    let (d, s) := s.pick 9
    (s.countLost d).bareCheck ctx (-1) 0

/-- The data of a write is lost (R422): it does not apply, and its sectors are poisoned. The write is one on its way; with none there
it is a write-back of words that some L1 slice holds dirty, which become clean. -/
def State.writeLost (s : State) (line : Nat) (qs : List Nat) : State :=
  let s := (s.countLost (homeDie line)).addPoison line qs
  match s.flight.find? (writeTo line qs) with
  | some (.homeApplyWrite m) => ({ s with flight := s.flight.erase (.homeApplyWrite m) } : State).acked m.src
  | _ =>
    let ds := (List.range 9).filter fun d => (s.l1? d (.dev line)).any fun x => qs.any fun q => !(x.dirtyIn q).isEmpty
    let (k, s) := s.pick ds.length
    match ds[k]? with
    | some d => s.each qs fun s q =>
        (s.onL1 d (.dev line) fun x => x.clean ((x.dirtyIn q).map (·.1))).note d line q false
    | none => s

/-- A request with no data is lost (R422): no answer will come to it. Which of the context's is a free choice. -/
def State.requestLost (s : State) (ctx : Nat) : State :=
  let loads := s.gusts.filterMap fun (g : Gust) =>
    if s.ctxOf g.ref = ctx ∧ g.loads.any (fun l => !l.lost) then some (Sum.inl (g.ref, true)) else none
  let atoms := s.gusts.filterMap fun (g : Gust) =>
    if s.ctxOf g.ref = ctx ∧ g.atoms.any (fun a => !a.lost) then some (Sum.inl (g.ref, false)) else none
  let latches := s.flight.filterMap fun i => match i with
    | .latchRequest m => if m.ctx = ctx then some (Sum.inr m) else none
    | _ => none
  let all : List (Sum (GustRef × Bool) LatchReq) := loads ++ atoms ++ latches
  let (k, s) := s.pick all.length
  match all[k]? with
  | some (.inl (r, true)) => s.onGust r fun g =>
      { g with loads := g.loads.modify (g.loads.findIdx fun l => !l.lost) fun l => { l with lost := true } }
  | some (.inl (r, false)) => s.onGust r fun g =>
      { g with atoms := g.atoms.modify (g.atoms.findIdx fun a => !a.lost) fun a => { a with lost := true } }
  | some (.inr m) =>
    { s with flight := s.flight.erase (.latchRequest m),
             lostReqs := s.lostReqs ++ [{ ctx, at_ := m.sentAt, words := m.words, addr := Int.ofNat (45 * m.line + 5 * m.first) }] }
  | none => s

/-- UCIE_FLIT_LOST (R421, R422). A lost request is answered by REQUEST_TIMEOUT. -/
def State.flitLost (s : State) (f : FlitKind) : State :=
  match f with
  | .data ctx => s.dataLost ctx
  | .write line qs => s.writeLost line qs
  | .directory line qs => (s.countLost (homeDie line)).addPoison line qs
  | .request ctx =>
    let (d, s) := s.pick 9
    (s.countLost d).requestLost ctx
  | .link a b => { s with cuts := s.cuts ++ [(a, b)] }
  | .recovered d =>
    if d < 9 then s.onDie d fun (x : Die) => { x with counters := x.counters.modify 2 countUp }
    else { s with rimCounters := s.rimCounters.modify (d - 9) fun c => c.modify 2 countUp }
  | .packet r => { s with rimCounters := s.rimCounters.modify r fun c => c.modify 8 countUp }

/-- A packet of another device is for this device, whose ports have trained (R457), and names a line of its HBM4. -/
def State.forMe (s : State) (m : ZPacket) : Bool := s.boot.bootst == 2 && m.dest == s.boot.device && isLine m.line && decide (m.word < 45)

/-- What other devices do to the memory of a third (R423): this device sees it when it reads there. -/
def State.otherDevice (s : State) (m : ZPacket) (f : Word → Option Word) : State :=
  let loc := Loc.remote m.dest m.line
  match readLine (s.portLine loc) with
  | .packed ws => (f (ws.getD m.word Word.zero)).elim s fun v => s.setPortLine loc (packedLine (ws.set m.word v))
  | _ => s

/-- The packet names a word of another device's memory. -/
def State.forOther (s : State) (m : ZPacket) : Bool := m.dest != s.boot.device && decide (m.dest ≤ 2186) && decide (m.word < 45)

/-- ZARGEN_WRITE at the owner port (R424): applied at the home slice as a write of a rim die, then acknowledged; one whose data
arrives poisoned does not apply, and its sector is poisoned (R422, R425). DESIGN CHOICE (log entry 81): rim die 0 serves the packets
of other devices, whichever port they arrive at. -/
def State.zargenWrite (s : State) (m : ZPacket) : State :=
  let ack := fun (s : State) => s.emit (.zargen { m with dest := m.src, src := m.dest })
  if s.forMe m then
    if m.bad then s.addPoison m.line [sectorOf m.word]
    else (match s.writeAtHome 9 ⟨.dev m.line, m.word⟩ m.val with
      | (.ok _, s) => ack s
      | (.error c, s) => if c = 22 then ack s else s)
  else if s.forOther m then s.otherDevice m fun _ => some m.val
  else s

/-- ZARGEN_READ at the owner port (R279, R424): the word goes back to the reader (log entry 81). -/
def State.zargenRead (s : State) (m : ZPacket) : State :=
  if s.forMe m then
    (match s.readWide 9 ⟨.dev m.line, m.word⟩ 0 with
      | (.ok v, s) => s.emit (.zargen { m with dest := m.src, src := m.dest, val := v })
      | (.error _, s) => s)
  else s

/-- ZARGEN_ATOMIC at the owner port (R248, R424): the old word goes back (log entry 81). -/
def State.zargenAtomic (s : State) (m : ZPacket) : State :=
  if s.forMe m then
    (match s.updateHome 9 ⟨.dev m.line, m.word⟩ 0 fun old => rmwNew m.op m.ty old m.val m.cmp with
      | (.ok old, s) => s.emit (.zargen { m with dest := m.src, src := m.dest, val := old })
      | (.error _, s) => s)
  else if s.forOther m then s.otherDevice m fun old => rmwNew m.op m.ty old m.val m.cmp
  else s

/-- HOST_COMPLETION (R427): an error status or poison is a "line integrity" check of the access of the context that awaits the line;
of no instruction where it is an access that the model answers within a step. -/
def State.hostCompletion (s : State) (ctx line : Nat) (good : Bool) : State :=
  if good then s
  else match s.openRequests.find? fun x => x.1 == ctx && x.2.2.1.loc == .host line with
    | some x => s.keptCheck ctx (-2) 0 x.2.2.2.2
    | none => s.bareCheck ctx (-2) 0

/-- The physical line a host access through a function reaches (R428): no access through a virtual function starts a fill. -/
def State.hostPlace (s : State) (fn : HostFn) (line : Nat) (write : Bool) : Option Nat × State :=
  if s.boot.bootst ≠ 2 then (none, s)
  else match fn with
  | .pf => (if isLine line then some line else none, s)
  | .vf k =>
    let x := 45 * Int.ofNat line
    if x > wordMax ∨ k ≥ Config.contexts then (none, s)
    else match s.walk 9 k x with
      | (.leaf _ _ w0 w1 _, s) =>
        if pteType w0 ≠ 1 ∨ (leafCheck w0 write true).isSome then (none, s)
        else (match (leafPlace w0 w1 x).loc with
          | .dev p => some p
          | _ => none, s)
      | (_, s) => (none, s)

/-- The function's own context (R426). -/
def hostCtx : HostFn → Option Nat
  | .pf => none
  | .vf k => some k

/-- Part of an access in one line: the line, the first byte in it, and how many. -/
def hostParts (off n : Nat) : List (Nat × Nat × Nat) :=
  if n = 0 then []
  else (List.range ((off % 256 + n + 255) / 256)).map fun i =>
    let line := off / 256 + i
    let first := if i = 0 then off % 256 else 0
    (line, first, min (256 - first) (off + n - (256 * line + first)))

/-- What one line gives a host read (R429): its bytes, or a check. -/
inductive HostLine where
  | bytes (bs : List (BitVec 8))
  | away
  | bad (cause addr : Int)
deriving DecidableEq, Repr

/-- One line for the host, in shell form, read as by rim die 0 (R281). -/
def State.hostLineRead (s : State) (p : Nat) : HostLine × State :=
  let at_ := Int.ofNat (45 * p)
  if s.poison.any fun e => e.1 == p then (.bad (-4) at_, s)
  else if (s.home? p).any fun h => !h.bad.isEmpty then (.bad (-1) at_, s)
  else
    let (bs, s) := s.readLineAt 9 (.dev p)
    (match readLine bs with
      | .broken c => .bad c at_
      | _ => .bytes (bs.map (BitVec.ofNat 8)), s)

/-- The lines of a host read in turn. -/
def State.hostReadParts (s : State) (fn : HostFn) : List (Nat × Nat × Nat) → HostLine × State
  | [] => (.bytes [], s)
  | (line, first, n) :: rest => match s.hostPlace fn line false with
    | (none, s) => (.away, s)
    | (some p, s) => match s.hostLineRead p with
      | (.bytes bs, s) => (match s.hostReadParts fn rest with
        | (.bytes more, s) => (.bytes ((bs.drop first).take n ++ more), s)
        | r => r)
      | r => r

/-- BAR2 of the physical function stands above BAR0's 2^40 bytes in the offsets of this model (log entry 33). -/
def bar2 : Nat := 1099511627776

/-- The bytes of BAR2 (R458): BOOTST, the configuration block and the image; DESIGN CHOICE (log entry 33): every other byte, the
snapshot trigger and BOOTGO too, reads as zero. -/
def State.bar2Bytes (s : State) (off n : Nat) : List (BitVec 8) :=
  (List.range n).map fun i =>
    let a := off + i
    if 16 ≤ a ∧ a < 20 then BitVec.ofNat 8 (s.boot.bootst / 256 ^ (a - 16))
    else if 4096 ≤ a ∧ a < 8192 then (lookupAt s.boot.config (a - 4096)).getD 0
    else if 1048576 ≤ a ∧ a < 68157440 then (lookupAt s.boot.image (a - 1048576)).getD 0
    else 0

/-- HOST_READ (R428, R429, R458). -/
def State.hostRead (s : State) (fn : HostFn) (off n : Nat) : State :=
  if fn = .pf ∧ bar2 ≤ off then s.emit (.readDone fn (s.bar2Bytes (off - bar2) n))
  else match s.hostReadParts fn (hostParts off n) with
    | (.bytes bs, s) => s.emit (.readDone fn bs)
    | (.away, s) =>
      let s := s.emit (.readUnsupported fn)
      if fn ≠ .pf ∧ s.boot.bootst = 2 then s.emit (.aer fn false) else s
    | (.bad c a, s) =>
      let s := s.emit (.readPoisoned fn (List.replicate n 0))
      match hostCtx fn with
      | some k => s.bareCheck k c a
      | none => s.emit (.readLogged c a)

/-- A part of a host write keeps the conditions of R429 on a line. -/
def State.hostWriteOk (s : State) (p first : Nat) (bs : List Nat) : Bool :=
  let old := s.lineBytes (.dev p)
  let data := (bs.take (243 - first))
  if first = 0 ∧ bs.length = 256 then
    decide (bs.getD 243 0 ≤ 1) && (bs.getD 243 0 == 1 || data.all fun b => decide (b ≤ 0xF2))
  else match readLine old with
    | .packed _ => data.all fun b => decide (b ≤ 0xF2)
    | .raw _ => true
    | .broken _ => data.isEmpty

/-- Bytes put over others from a place on. -/
def overlay (old : List Nat) (at_ : Nat) (new : List Nat) : List Nat := old.take at_ ++ new ++ old.drop (at_ + new.length)

/-- One part of a host write applied (R429), as writes of rim die 0. -/
def State.hostWritePart (s : State) (p first : Nat) (bs : List Nat) : State :=
  let old := s.lineBytes (.dev p)
  if first = 0 ∧ bs.length = 256 then
    let s := s.putLineAt 9 p (shellLine (bs.getD 243 0) (bs.take 243))
    { s with poison := s.poison.filter fun e => e.1 != p }
  else
    let data := overlay (old.take 243) first (bs.take (243 - first))
    match readLine old with
    | .packed ws =>
      let new := unpackWords data 45
      s.each ((List.range 45).filter fun w => ws.getD w Word.zero != new.getD w Word.zero) fun s w =>
        (s.writeAtHome 9 ⟨.dev p, w⟩ (new.getD w Word.zero)).2
    | .raw _ => s.putLineAt 9 p (shellLine 1 data)
    | .broken _ => s

/-- The places of the parts of a host write; or whether the write that is dropped is reported (R428, R429). -/
def State.hostWritePlaces (s : State) (fn : HostFn) (off : Nat) (bs : List Nat) :
    List (Nat × Nat × Nat) → Except Bool (List (Nat × Nat × List Nat)) × State
  | [] => (.ok [], s)
  | (line, first, n) :: rest => match s.hostPlace fn line true with
    | (none, s) => (.error (fn != .pf && s.boot.bootst == 2), s)
    | (some p, s) =>
      let mine := (bs.drop (256 * line + first - off)).take n
      if !s.hostWriteOk p first mine then (.error true, s)
      else match s.hostWritePlaces fn off bs rest with
        | (.ok l, s) => (.ok ((p, first, mine) :: l), s)
        | (.error e, s) => (.error e, s)

/-- A write to BAR2 (R432, R458). The check of an image is of what it was when BOOTGO was written (R459). -/
def State.bar2Write (s : State) (off : Nat) (bytes : List (BitVec 8)) : State :=
  let put := fun (m : List (Nat × BitVec 8)) (base : Nat) =>
    (List.zip (List.range bytes.length) bytes).foldl (fun m e => insertAt m (off - base + e.1) e.2) m
  let b := s.boot
  if off = 0 then s.snapTrigger
  else if off = 8 then
    (if bytes = [1, 0, 0, 0] ∧ b.bootst = 1 ∧ !b.checking ∧ !b.running then { s with boot := { b with checking := true, rom := b.image } } else s)
  else if 4096 ≤ off ∧ off + bytes.length ≤ 8192 then { s with boot := { b with config := put b.config 4096 } }
  else if 1048576 ≤ off ∧ off + bytes.length ≤ 1048576 + 67108864 then { s with boot := { b with image := put b.image 1048576 } }
  else s

/-- HOST_WRITE (R428, R429, R458). -/
def State.hostWrite (s : State) (fn : HostFn) (off : Nat) (bytes : List (BitVec 8)) : State :=
  if fn = .pf ∧ bar2 ≤ off then s.bar2Write (off - bar2) bytes
  else
    let bs := bytes.map BitVec.toNat
    match s.hostWritePlaces fn off bs (hostParts off bs.length) with
    | (.ok ps, s) => s.each ps fun s x => s.hostWritePart x.1 x.2.1 x.2.2
    | (.error told, s) => if told then s.emit (.aer fn false) else s

end Sys2Proof.Machine
end

