-- ==== Sys2Proof/Machine/Observe.lean ====
section
/-! DEFINITION. Snapshots (R431, R432) and the debug commands of a gust (R436 to R438). -/

namespace Sys2Proof.Machine

/-- A block's snapshot registers: its counters, with T in field 0, of which a read gives trits 26..0 (R395, R431, R432). -/
def snapOf (t : Nat) (cs : List Nat) : List Nat := cs.set 0 t

/-- SNAPSHOT_CAPTURE (R432): at tick T every block replaces its snapshot registers. -/
def State.snapCapture (s : State) : State :=
  match s.snapAt with
  | none => s
  | some t =>
    if s.ptime < t then s
    else
      { s with snapAt := none, snapped := some t,
               cores := s.cores.map fun (c : Core) => { c with snap := snapOf t c.counters },
               dies := s.dies.map fun (d : Die) => { d with snap := snapOf t d.counters },
               rimSnaps := s.rimCounters.map (snapOf t) }

/-- A gust with a debug command of a code. -/
def State.dbgGust (s : State) (r : GustRef) (code : Int) : Option Gust := (s.gust? r).filter fun g => g.cmdCode == code

/-- DEBUG_STOP (R436, R437): the gust stops at the next instruction boundary; a gust that waits at an instruction has none
yet. -/
def State.debugStop (s : State) (r : GustRef) : State :=
  match s.dbgGust r 1 with
  | none => s
  | some g => match g.status with
    | .stopped => s.dbgEnd r false
    | .running => s.stopOrdered r
    | .yielded _ => (s.dbgEnd r true).stopGust r 3
    | _ => s

/-- A stopped gust runs on: a path with no plus trit ends at once, but for a gust that a path end has sent to a JOIN (R106,
R108). -/
def State.runOn (s : State) (r : GustRef) : State :=
  match s.gust? r with
  | none => s
  | some g =>
    let s := (s.setGust { g with status := .running }).trace r 7 0
    if g.mask.has 1 || g.sent then s else s.pathEnd r g.pc pathFuel

/-- DEBUG_RESUME (R437). -/
def State.debugResume (s : State) (r : GustRef) : State :=
  match s.dbgGust r 2 with
  | none => s
  | some g => if g.status = .stopped then (s.dbgEnd r true).runOn r else s.dbgEnd r false

/-- The stopped path and the path entry on top of the stack change places (R438). -/
def Gust.swapHeld (g : Gust) : Option Gust :=
  match g.stack with
  | e :: rest =>
    if e.kind = .minus then
      some ({ g with pc := e.pc, packet := none, sent := false, stack := { e with hold := true, pc := g.pc, mask := g.mask } :: rest }.withMask e.mask)
    else none
  | [] => none

/-- DEBUG_HOLD (R437, R438). -/
def State.debugHold (s : State) (r : GustRef) : State :=
  match s.dbgGust r 3 with
  | none => s
  | some g => match (if g.status = .stopped then g.swapHeld else none) with
    | some g' => ((s.setGust g').dbgEnd r true).runOn r
    | none => s.dbgEnd r false

/-- DEBUG_RELEASE (R437, R438). -/
def State.debugRelease (s : State) (r : GustRef) : State :=
  match s.dbgGust r 4 with
  | none => s
  | some g =>
    if g.stack.any fun (e : StackEntry) => e.hold then
      (s.setGust { g with stack := g.stack.map fun (e : StackEntry) => { e with hold := false } }).dbgEnd r true
    else s.dbgEnd r false

end Sys2Proof.Machine
end

