-- ==== Sys2Proof/Machine/Scratch.lean ====
section
/-! DEFINITION. The scratchpad forms (R201 to R204). -/

namespace Sys2Proof.Machine

/-- LDP (R202). -/
def execLdp (c : Ctl) (m : MOps) (s : State) : Result := s.performAs c true fun g => s.laneMemory g c .load (.ldp c m) m

/-- STP (R202). -/
def execStp (c : Ctl) (m : MOps) (s : State) : Result := s.performAs c true fun g => s.laneMemory g c .store (.stp c m) m

/-- LDPS (R202). -/
def execLdps (c : Ctl) (m : MOps) (s : State) : Result := s.performGust c fun g => s.scalarLoad g m

/-- STPS (R202). -/
def execStps (c : Ctl) (m : MOps) (s : State) : Result := s.performGust c fun g => s.scalarStore g m

/-- AMOP (R203, R204). -/
def execAmop (c : Ctl) (op : Rmw) (ty : ETy) (m : MOps) (s : State) : Result :=
  s.performAs c true fun g => s.laneAtom g c (.rmw op ty) (.amop c op ty m) m

end Sys2Proof.Machine
end

