-- ==== Sys2Proof/Machine/Special.lean ====
section
/-! DEFINITION. The special functions of group +5 (R161, R162). The exact value is stood for by a rational number so close to
it that narrowing gives the same trits (log entry 7); which of the two neighbours an F27 result is, R161 leaves open (log
entry 8). -/

namespace Sys2Proof.Machine

/-- A function value: a special value, or num/den with den positive. -/
inductive SVal where
  | special (v : FVal)
  | rat (num : Int) (den : Nat)
deriving DecidableEq, Repr

/-- Trits after the point of the fixed-point numbers. -/
def fxTrits : Nat := 200

/-- Fixed-point one. -/
def fxOne : Int := pow3 fxTrits

/-- Σ ± one/((2i+1)·q^(2i+1)) for i from `i` on, over `n` terms. -/
def invSeries (one : Int) (q : Int) (alternate : Bool) (i : Nat) : Nat → Int
  | 0 => 0
  | n + 1 =>
    let k := 2 * i + 1
    let t := one / (Int.ofNat k * q ^ k)
    (if alternate && i % 2 == 1 then -t else t) + invSeries one q alternate (i + 1) n

/-- ln 3 = 2·artanh(1/2). -/
def fxLn3 : Int := 2 * invSeries fxOne 2 false 0 170

/-- π by Machin's formula, scaled by `one`, with `n` terms. -/
def fxPi (one : Int) (n : Nat) : Int := 4 * (4 * invSeries one 5 true 0 n - invSeries one 239 true 0 n)

/-- Taylor sum of e^r in fixed point: term `t` of index `i` and `n` more. -/
def expTail (r t : Int) (i : Nat) : Nat → Int
  | 0 => 0
  | n + 1 => t + expTail r (t * r / (Int.ofNat (i + 1) * fxOne)) (i + 1) n

/-- Taylor sum of sin r in fixed point. -/
def sinTail (r2 t : Int) (i : Nat) : Nat → Int
  | 0 => 0
  | n + 1 => t + sinTail r2 (-(t * r2 / (Int.ofNat ((2 * i + 2) * (2 * i + 3)) * fxOne))) (i + 1) n

/-- Σ z^(2i+1)/(2i+1) in fixed point. -/
def atanhTail (z2 p : Int) (i : Nat) : Nat → Int
  | 0 => 0
  | n + 1 => p / Int.ofNat (2 * i + 1) + atanhTail z2 (p * z2 / fxOne) (i + 1) n

/-- num · 3^k / den. -/
def ratShift (num : Int) (den : Nat) (k : Int) : Int × Nat :=
  if k ≥ 0 then (num * pow3 k.toNat, den) else (num, den * 3 ^ (-k).toNat)

/-- m · 3^e as a fraction. -/
def triRat (m e : Int) : Int × Nat := ratShift m 1 e

/-- |m · 3^e| < 3^k. -/
def triBelow (m e k : Int) : Bool :=
  let e0 := min e k
  decide ((if m < 0 then -m else m) * pow3 (e - e0).toNat < pow3 (k - e0).toNat)

/-- The fixed-point value of m · 3^e. -/
def fxOf (m e : Int) : Int :=
  let k := e + Int.ofNat fxTrits
  if k ≥ 0 then m * pow3 k.toNat else m / pow3 (-k).toNat

/-- e^x of a fixed-point x as a fraction. -/
def fxExp (x : Int) : Int × Nat :=
  let k := nearestDiv x fxLn3
  ratShift (expTail (x - k * fxLn3) fxOne 0 100) (3 ^ fxTrits) k

/-- The exact polynomial c0 + c1·x + c3·x³ + c5·x⁵ over `den`, for a small x = p/q. -/
def smallPoly (p : Int) (q : Nat) (c0 c1 c2 c3 c5 : Int) (den : Nat) : Int × Nat :=
  let q' := Int.ofNat q
  (c0 * q' ^ 5 + c1 * p * q' ^ 4 + c2 * p ^ 2 * q' ^ 3 + c3 * p ^ 3 * q' ^ 2 + c5 * p ^ 5, den * q ^ 5)

/-- A fraction as a function value. -/
def SVal.of (x : Int × Nat) : SVal := .rat x.1 x.2

/-- FEXP of a finite value. -/
def expV (m e : Int) : SVal :=
  let (p, q) := triRat m e
  if triBelow m e (-20) then .of (smallPoly p q 6 6 3 1 0 6)
  else if !triBelow m e 7 then (if m > 0 then .rat (pow3 400) 1 else .rat 1 (3 ^ 1000))
  else .of (fxExp (fxOf m e))

/-- 1/(1 + t) of a fraction. -/
def logistic (t : Int × Nat) : SVal := .rat (Int.ofNat t.2) (Int.ofNat t.2 + t.1).toNat

/-- FSIGM of a finite value. -/
def sigmV (m e : Int) : SVal :=
  let (p, q) := triRat m e
  if triBelow m e (-20) then .of (smallPoly p q 24 12 0 (-1) 0 48)
  else if !triBelow m e 7 then (if m > 0 then .rat (pow3 1000 - 1) (3 ^ 1000) else .rat 1 (3 ^ 1000))
  else logistic (fxExp (fxOf (-m) e))

/-- FTANH of a finite value. -/
def tanhV (m e : Int) : SVal :=
  let (p, q) := triRat m e
  if triBelow m e (-20) then .of (smallPoly p q 0 15 0 (-5) 2 15)
  else if !triBelow m e 6 then .rat (if m > 0 then pow3 1000 - 1 else 1 - pow3 1000) (3 ^ 1000)
  else
    let t := fxExp (fxOf (-2 * m) e)
    .rat (Int.ofNat t.2 - t.1) (Int.ofNat t.2 + t.1).toNat

/-- FLOG of a positive finite value: k·ln 3 + 2·artanh((y − 1)/(y + 1)) for x = 3^k·y with y near 1. -/
def logV (m e : Int) : SVal :=
  let k := leadPos m.natAbs 1
  let y := fxOf m (-k)
  let z := (y - fxOne) * fxOne / (y + fxOne)
  .rat ((k + e) * fxLn3 + 2 * atanhTail (z * z / fxOne) z 0 120) (3 ^ fxTrits)

/-- FSIN of a finite value: the argument is reduced by π exactly enough for its whole range. -/
def sinV (m e : Int) : SVal :=
  let (p, q) := triRat m e
  if triBelow m e (-20) then .of (smallPoly p q 0 120 0 (-20) 1 120)
  else
    let k := fxTrits + max 0 (e + 40).toNat
    let one := pow3 k
    let pi := fxPi one (2 * k)
    let x := if e + Int.ofNat k ≥ 0 then m * pow3 (e + Int.ofNat k).toNat else m / pow3 (-(e + Int.ofNat k)).toNat
    let n := nearestDiv x pi
    let r := (x - n * pi) / pow3 (k - fxTrits)
    let v := sinTail (r * r / fxOne) r 0 60
    .rat (if n % 2 = 0 then v else -v) (3 ^ fxTrits)

/-- Integer square root, at most `fuel` base-4 digits. -/
def isqrt : Nat → Nat → Nat
  | 0, _ => 0
  | k + 1, n =>
    let r := 2 * isqrt k (n / 4)
    if (r + 1) * (r + 1) ≤ n then r + 1 else r

/-- √(num/den) for positive num and den: exact where it is a multiple of 3^−K/2, else the middle of the half step that
holds it, which no finite trit string and no midpoint of two lies in. -/
def sqrtRat (num den : Nat) : SVal :=
  let k := 450
  let y := 4 * num * 9 ^ k / den
  let f := isqrt 2000 y
  if f * f * den = 4 * num * 9 ^ k then .rat (Int.ofNat f) (2 * 3 ^ k)
  else .rat (Int.ofNat (2 * f + 1)) (4 * 3 ^ k)

/-- Narrowing a function value (R161): exactly in F9; in F27 the nearest, or the other neighbour with its exponent. -/
def roundFn (f : FFmt) (op : Nat) (x : Int) : SVal → Int
  | .special v => f.enc v
  | .rat num den =>
    let y := f.roundRat num den
    if f.p = 6 ∨ y = 0 then y
    else match f.decode y with
    | .fin m e =>
      let (p, q) := triRat m e
      let diff := num * Int.ofNat q - p * Int.ofNat den
      let m' := m + sgnI diff
      let exp := fld y 26 21
      let keeps := decide (-(maxT 21) ≤ m' ∧ m' ≤ maxT 21) && m' != 0 && (exp == -364 || tritI m' 20 != 0)
      if diff ≠ 0 && keeps && Config.freeNeighbour op x then f.make exp m' else y
    | _ => y

/-- A special function on an element: its NaN rule, its value, its narrowing (R36, R161, R162). The neighbour it takes is that of the
value, however it is encoded (R153). -/
def fnE (f : FFmt) (op : Nat) (v : FVal → SVal) : ElemFn := fun x _ _ =>
  (match f.decode x with
    | .nan p => f.encNan p
    | y => roundFn f op (f.enc y) (v y), 0)

/-- FRCP (R162). -/
def rcpS : FVal → SVal
  | .fin m e =>
    if m = 0 then .special FVal.dflt
    else
      let (p, q) := triRat m e
      .rat (if p < 0 then -(Int.ofNat q) else Int.ofNat q) p.natAbs
  | .inf _ => .rat 0 1
  | x => .special x

/-- FRSQ (R162). -/
def rsqS : FVal → SVal
  | .fin m e =>
    if m < 0 then .special FVal.dflt
    else if m = 0 then .special (.inf false)
    else
      let (p, q) := triRat m e
      sqrtRat q p.natAbs
  | .inf n => if n then .special FVal.dflt else .rat 0 1
  | x => .special x

/-- FSQT (R162). -/
def sqtS : FVal → SVal
  | .fin m e =>
    if m < 0 then .special FVal.dflt
    else if m = 0 then .rat 0 1
    else
      let (p, q) := triRat m e
      sqrtRat p.natAbs q
  | .inf n => if n then .special FVal.dflt else .special (.inf false)
  | x => .special x

/-- FEXP (R162). -/
def expS : FVal → SVal
  | .fin m e => expV m e
  | .inf n => if n then .rat 0 1 else .special (.inf false)
  | x => .special x

/-- FLOG (R162). -/
def logS : FVal → SVal
  | .fin m e =>
    if m < 0 then .special FVal.dflt
    else if m = 0 then .special (.inf true)
    else logV m e
  | .inf n => if n then .special FVal.dflt else .special (.inf false)
  | x => .special x

/-- FTANH (R162). -/
def tanhS : FVal → SVal
  | .fin m e => tanhV m e
  | .inf n => .rat (if n then -1 else 1) 1
  | x => .special x

/-- FSIGM (R162). -/
def sigmS : FVal → SVal
  | .fin m e => sigmV m e
  | .inf n => .rat (if n then 0 else 1) 1
  | x => .special x

/-- FSIN (R162). -/
def sinS : FVal → SVal
  | .fin m e => sinV m e
  | .inf _ => .special FVal.dflt
  | x => .special x

/-- FRCP. -/
def execFrcp (c : Ctl) (o : TOps) (s : State) : Result := s.performElem c o false (fnE o.ty.fmt 136 rcpS)
/-- FRSQ. -/
def execFrsq (c : Ctl) (o : TOps) (s : State) : Result := s.performElem c o false (fnE o.ty.fmt 137 rsqS)
/-- FSQT. -/
def execFsqt (c : Ctl) (o : TOps) (s : State) : Result := s.performElem c o false (fnE o.ty.fmt 138 sqtS)
/-- FEXP. -/
def execFexp (c : Ctl) (o : TOps) (s : State) : Result := s.performElem c o false (fnE o.ty.fmt 139 expS)
/-- FLOG. -/
def execFlog (c : Ctl) (o : TOps) (s : State) : Result := s.performElem c o false (fnE o.ty.fmt 140 logS)
/-- FTANH. -/
def execFtanh (c : Ctl) (o : TOps) (s : State) : Result := s.performElem c o false (fnE o.ty.fmt 141 tanhS)
/-- FSIGM. -/
def execFsigm (c : Ctl) (o : TOps) (s : State) : Result := s.performElem c o false (fnE o.ty.fmt 142 sigmS)
/-- FSIN. -/
def execFsin (c : Ctl) (o : TOps) (s : State) : Result := s.performElem c o false (fnE o.ty.fmt 143 sinS)

end Sys2Proof.Machine
end

