-- ==== Sys2Proof/Machine/Container.lean ====
section
/-! DEFINITION. The container of a module (R446 to R451): its checks, the layout of its code (R89, R444, R449), the loader's
PPOINTs (R453), and what a load places in the context's space (R381, R383, R455). Nothing here reads the machine's state. -/

namespace Sys2Proof.Machine

/-- The integer of word `i` of some words. -/
def intAt (ws : List Word) (i : Nat) : Int := (ws.getD i Word.zero).val

/-- `n` words from word `i` on are zero. -/
def zerosFrom (ws : List Word) (i n : Nat) : Bool := ((ws.drop i).take n).all fun w => w.val == 0

/-- `n` records of 9 words each. -/
def records (ws : List Word) : Nat → List (List Word)
  | 0 => []
  | n + 1 => ws.take 9 :: records (ws.drop 9) n

/-- Every value, where each has one. -/
def everyOne {α : Type} : List (Option α) → Option (List α)
  | [] => some []
  | none :: _ => none
  | some x :: xs => (everyOne xs).map (x :: ·)

/-! ## The parts of a container -/

/-- The magic word, 0t+-0+-0+-0+-0 (R446). -/
def containerMagic : Int := 122640

/-- An entry of the section directory (R447). -/
structure Section where
  kind : Int
  major : Int
  minor : Int
  off : Nat
  len : Nat
  count : Nat
deriving DecidableEq, Repr

/-- An entry of the function table (R448). -/
structure FnEntry where
  kernel : Bool
  onCall : Bool
  layouts : Int
  dims : Nat
  gusts : Nat
  alloc : Alloc
  first : Nat
  count : Nat
deriving DecidableEq, Repr

/-- A scalar record (R449): its syllables, its marks (label, point, lazy segment), and its point number or −1. -/
structure ScalRec where
  code : Syllables
  label : Bool
  point : Bool
  onCall : Bool
  pt : Int
deriving DecidableEq, Repr

/-- The records that a tile or loop record covers: the first, their number, and whether the record's level is understood (R444, R449). -/
structure Cover where
  first : Nat
  count : Nat
  known : Bool
deriving DecidableEq, Repr

/-- A container that keeps R446 to R450: its functions, what each tile and each loop record covers, the scalar records and whether
their level is understood (R444), the cross-reference entries, the data blocks, whether native images are version 3.0 (R443), and
their words, image by image. -/
structure Container where
  fns : List FnEntry
  tiles : List Cover
  loops : List Cover
  scal : List ScalRec
  scalKnown : Bool
  xref : List (List Word)
  data : List (List Word)
  native : Bool
  nativeL : List (List Word)
  nativeD : List (List Word)
deriving DecidableEq, Repr

/-- A directory entry (R447). Only levels carry a version, and the records of the kinds that hold records lie within the section. -/
def parseSection (total : Nat) (e : List Word) : Option Section :=
  let w := intAt e
  let kind := fld (w 0) 26 24
  let major := fld (w 0) 23 18
  let recs := [1, 2, 3, 6, 7].contains kind
  let ok := [1, 2, 3, 4, -4, 5, 6, 7].contains kind && ([1, 2, 3].contains kind || major == 0) && fld (w 0) 11 0 == 0 &&
    decide (0 ≤ w 1 ∧ w 1 % 45 = 0 ∧ 0 ≤ w 2 ∧ w 1 + w 2 ≤ Int.ofNat total ∧ 0 ≤ w 3) && (!recs || decide (9 * w 3 ≤ w 2)) &&
    zerosFrom e 4 5
  if ok then some { kind, major, minor := fld (w 0) 17 12, off := (w 1).toNat, len := (w 2).toNat, count := (w 3).toNat } else none

/-- The words of a section. -/
def Section.words (c : List Word) (x : Section) : List Word := (c.drop x.off).take x.len

/-- The records of the sections of one kind, in the directory's order. -/
def recordsOf (c : List Word) (secs : List Section) (kind : Int) : List (List Word) :=
  (secs.filter fun x => x.kind == kind).flatMap fun x => records (x.words c) x.count

/-- The level that a section holds is understood (R444). -/
def Section.known (x : Section) : Bool := x.major == 3 && x.minor == 0

/-- The records of the levels of one kind, each with whether its level is understood. -/
def levelsOf (c : List Word) (secs : List Section) (kind : Int) : List (Bool × List Word) :=
  (secs.filter fun x => x.kind == kind).flatMap fun x => (records (x.words c) x.count).map fun r => (x.known, r)

/-- The words of the sections of one kind, in the directory's order. -/
def wordsOf (c : List Word) (secs : List Section) (kind : Int) : List Word :=
  (secs.filter fun x => x.kind == kind).flatMap fun x => x.words c

/-- A name stands from word `i` of the function table's section: one character code in each tryte-field, ended by a zero field
(R448). -/
def nameOk (ws : List Word) (i : Int) : Bool :=
  decide (0 ≤ i) && (ws.drop i.toNat).any fun w => [0, 1, 2].any fun k => fld w.val (9 * k + 8) (9 * k) == 0

/-- A run of records lies among `n`. -/
def runOk (first count : Int) (n : Nat) : Bool := decide (0 ≤ first ∧ 0 ≤ count ∧ first + count ≤ Int.ofNat n)

/-- A record number among `n`, or −1 (R449, R450). -/
def refOk (x : Int) (n : Nat) : Bool := within x (-1) (Int.ofNat n - 1)

/-- A function table entry (R448). DESIGN CHOICE (log entry 77): a callee's dimensions, gusts and vector registers, which no front
record names, may also be 0. -/
def parseFn (table : List Word) (nscal : Nat) (e : List Word) : Option FnEntry :=
  let w := intAt e
  let kernel := tritI (w 0) 26 == 1
  let low : Int := if kernel then 1 else 0
  let dims := fld (w 0) 22 21
  let gusts := fld (w 0) 20 17
  let v := fld (w 2) 26 18
  let sc := fld (w 2) 17 13
  let p := fld (w 2) 12 9
  let g := fld (w 2) 8 5
  let nt := fld (w 4) 26 18
  let no := fld (w 4) 17 13
  let nb := fld (w 4) 12 4
  let ok := tritI (w 0) 26 ≥ 0 && tritI (w 0) 25 ≥ 0 && within (fld (w 0) 24 23) (-1) 1 && within dims low 3 &&
    within gusts low 27 && fld (w 0) 16 0 == 0 && nameOk table (w 1) && within v low 2187 && within sc 0 78 && within p 0 27 &&
    within g 0 27 && fld (w 2) 4 0 == 0 && within (w 3) 0 531441 && within nt 0 2187 && within no 0 81 && within nb 0 2187 &&
    fld (w 4) 3 0 == 0 && runOk (w 5) (w 6) nscal && w 7 == 0 && w 8 == 0
  if ok then
    some { kernel, onCall := tritI (w 0) 25 == 1, layouts := fld (w 0) 24 23, dims := dims.toNat, gusts := gusts.toNat,
           alloc := { v := v.toNat, s := sc.toNat, p := p.toNat, g := g.toNat, scratch := (w 3).toNat, tiles := nt.toNat,
                      slots := no.toNat, bars := nb.toNat },
           first := (w 5).toNat, count := (w 6).toNat }
  else none

/-- The op and mod of a matrix or engine form (R92), in some space. -/
def tileFormOk (op mod : Int) : Bool :=
  let group := fld op 5 3
  (group == 9 || group == 13) && opAssigned op &&
    [0, pow3 37].any fun imm => modOk { op, mod, guard := 0, hint := 0, d := 0, a := 0, b := 0, imm }

/-- A tile record (R449): of a matrix or engine form, it covers loop records. -/
def parseTile (nloop : Nat) (known : Bool) (e : List Word) : Option Cover :=
  let w := intAt e
  if tileFormOk (fld (w 0) 26 21) (fld (w 0) 20 15) && fld (w 0) 14 0 == 0 && refOk (w 4) nloop && runOk (w 5) (w 6) nloop && w 7 == 0 && w 8 == 0
  then some ⟨(w 5).toNat, (w 6).toNat, known⟩ else none

/-- A loop record (R449): it covers scalar records. -/
def parseLoop (nloop nscal : Nat) (known : Bool) (e : List Word) : Option Cover :=
  let w := intAt e
  if within (fld (w 0) 26 24) 1 4 && fld (w 0) 23 0 == 0 && within (w 1) 1 (pow3 18) && refOk (w 4) nloop &&
    runOk (w 5) (w 6) nscal && w 7 == 0 && w 8 == 0
  then some ⟨(w 5).toNat, (w 6).toNat, known⟩ else none

/-- A scalar record (R449). -/
def parseScal (nloop : Nat) (e : List Word) : Option ScalRec :=
  let w := intAt e
  let mark := fun (i : Nat) => tritI (w 3) i
  if mark 26 ≥ 0 && mark 25 ≥ 0 && mark 24 ≥ 0 && fld (w 3) 23 0 == 0 && within (w 4) (-1) 19682 && refOk (w 5) nloop &&
    w 6 == 0 && w 7 == 0 && w 8 == 0
  then some { code := ⟨e.getD 0 Word.zero, e.getD 1 Word.zero, e.getD 2 Word.zero⟩, label := mark 26 == 1, point := mark 25 == 1,
              onCall := mark 24 == 1, pt := w 4 }
  else none

/-- A cross-reference entry (R450). -/
def xrefOk (nfn ntile nloop nscal : Nat) (e : List Word) : Bool :=
  let w := intAt e
  within (w 0) 0 (Int.ofNat nfn - 1) && refOk (w 1) ntile && refOk (w 2) nloop && refOk (w 3) nscal && zerosFrom e 6 3

/-- The header of a container (R446), with its section and function counts. -/
def parseHeader (c : List Word) : Option (Nat × Nat) :=
  let w := intAt c
  if w 0 == containerMagic && fld (w 1) 8 0 == 0 && within (w 2) 1 729 && within (w 3) 1 19683 &&
    decide (w 4 = Int.ofNat c.length ∧ c.length % 45 = 0) && zerosFrom c 5 40
  then some ((w 2).toNat, (w 3).toNat) else none

/-- The words of a container in shell form (R48, R51, R446): none where some line is not a packed line with tag 0. -/
def containerWords (ls : List (List (BitVec 8))) : Option (List Word) :=
  (everyOne (ls.map fun l =>
    match readLine (l.map BitVec.toNat) with
    | .packed ws => if l.length = 256 then some ws else none
    | _ => none)).map List.flatten

/-- The check of a container (R446 to R451): none where it breaks one of the rules. DESIGN CHOICE (log entry 77): the scalar records
are read in the form of R449 whatever their level version, as the reference form that native images and the other levels are laid
out by. -/
def parseContainer (c : List Word) : Option Container :=
  match parseHeader c with
  | none => none
  | some (m, f) =>
    if c.length < 45 + 9 * m then none
    else match everyOne ((records (c.drop 45) m).map (parseSection c.length)) with
      | none => none
      | some secs =>
        let one := fun (k : Int) => (secs.filter fun x => x.kind == k).length == 1
        let imgs := secs.any fun x => x.kind == 4 || x.kind == -4
        let fnRecs := recordsOf c secs 6
        let scalRecs := recordsOf c secs 3
        let loopRecs := levelsOf c secs 2
        let tileRecs := levelsOf c secs 1
        let xref := recordsOf c secs 7
        let isaMajor := fld (intAt c 1) 26 18
        if one 6 && one 3 && one 7 && fnRecs.length == f && (imgs || isaMajor == 0) &&
          xref.all (xrefOk f tileRecs.length loopRecs.length scalRecs.length) then
          match everyOne (fnRecs.map (parseFn (wordsOf c secs 6) scalRecs.length)),
                everyOne (tileRecs.map fun r => parseTile loopRecs.length r.1 r.2),
                everyOne (loopRecs.map fun r => parseLoop loopRecs.length scalRecs.length r.1 r.2),
                everyOne (scalRecs.map (parseScal loopRecs.length)) with
          | some fns, some tiles, some loops, some scal =>
            let blocks := fun (k : Int) => (secs.filter fun x => x.kind == k).map (·.words c)
            some { fns, tiles, loops, scal, scalKnown := secs.any fun x => x.kind == 3 && x.known, xref, data := blocks 5,
                   native := imgs && isaMajor == 3 && fld (intAt c 1) 17 9 == 0, nativeL := blocks 4, nativeD := blocks (-4) }
          | _, _, _, _ => none
        else none

/-! ## The layout of code (R89) -/

/-- One instruction of a laid-out image: its word, the scalar record it comes from, its function, whether its segment is bound on
the first call, and whether a segment of its own starts here. -/
structure Cell where
  code : Syllables
  rec_ : Option Nat
  fn : Nat
  onCall : Bool
  cut : Bool
deriving DecidableEq, Repr

/-- The NOP word (R92). -/
def nopCode : Syllables := ⟨Word.zero, Word.zero, Word.zero⟩

/-- The function stands in an image of this layout (R448). -/
def FnEntry.in_ (f : FnEntry) (isD : Bool) : Bool := f.layouts == 0 || f.layouts == (if isD then 1 else -1)

/-- NOPs up to slot `k` of a packet. -/
def padSlots (k fn : Nat) (onCall : Bool) (cs : List Cell) : List Cell :=
  cs ++ List.replicate ((k + 3 - cs.length % 3) % 3) ⟨nopCode, none, fn, onCall, false⟩

/-- A function being laid out: its instructions so far, whether a new packet starts, whether its segment is bound on call. -/
structure Laying where
  cells : List Cell
  fresh : Bool
  onCall : Bool
deriving DecidableEq, Repr

/-- One more scalar record placed (R89). A lazy segment starts a packet. -/
def Laying.place (isD : Bool) (fn : Nat) (x : Laying) (r : Nat × ScalRec) : Laying :=
  let i := decode? r.2.code
  let last := i.any Instr.slot2Only
  let start := r.2.label || r.2.point || r.2.onCall || x.fresh || i.any Instr.slot0Only
  let cs := if isD && start then padSlots 0 fn x.onCall x.cells else x.cells
  let lz := x.onCall || r.2.onCall
  let at_ := cs.length
  let cs := if isD && last then padSlots 2 fn lz cs else cs
  let cs := cs ++ [⟨r.2.code, some r.1, fn, lz, false⟩]
  { cells := if r.2.onCall then cs.modify at_ (fun c => { c with cut := true }) else cs, fresh := last, onCall := lz }

/-- A function laid out by R89 from its scalar records. -/
def layFn (c : Container) (isD : Bool) (fn : Nat) (f : FnEntry) : List Cell :=
  let rs := (List.range f.count).filterMap fun k => (c.scal[f.first + k]?).map fun r => (f.first + k, r)
  let x := rs.foldl (Laying.place isD fn) { cells := [], fresh := true, onCall := f.onCall }
  let cs := if isD then padSlots 0 fn x.onCall x.cells else x.cells
  if f.onCall then cs.modify 0 fun y => { y with cut := true } else cs

/-- The functions of each image of the module: a kernel, whose code begins at PC 0 (R75, R95), with the callees of the function
table after it. DESIGN CHOICE (log entry 77): the spec does not say which image a callee stands in; the model puts it into every
kernel's, and a module without kernels makes one image. -/
def Container.programs (c : Container) : List (List Nat) :=
  let is_ := fun (b : Bool) => (List.range c.fns.length).filter fun k => (c.fns[k]?).any fun f => f.kernel == b
  if (is_ true).isEmpty then [is_ false] else (is_ true).map fun k => k :: is_ false

/-- An image stands in this layout: its kernel does. -/
def Container.stands (c : Container) (fns : List Nat) (isD : Bool) : Bool := (fns.head?.bind fun k => c.fns[k]?).any fun f => f.in_ isD

/-- The resources of an image's squalls (R448): the kernel's. -/
def Container.allotment (c : Container) (fns : List Nat) : Alloc :=
  ((fns.head?.bind fun k => c.fns[k]?).map (·.alloc)).getD ⟨0, 0, 0, 0, 0, 0, 0, 0⟩

/-- The instructions of the image of one layout, function after function. -/
def layImage (c : Container) (isD : Bool) (fns : List Nat) : List Cell :=
  fns.flatMap fun k => match c.fns[k]? with
    | some f => if f.in_ isD then layFn c isD k f else []
    | none => []

/-- The PC that names a scalar record, or, for the end of a function's records, the PC after the function. A label names the start of the
packet that its instruction begins (R74, R89), the NOPs before a form of slot 2 included (R467). -/
def recPc (c : Container) (isD : Bool) (cs : List Cell) (j : Nat) : Option Nat :=
  match cs.findIdx? (fun x => x.rec_ == some j) with
  | some p => some (if isD && (c.scal[j]?).any (·.label) then p - p % 3 else p)
  | none =>
    (c.fns.findIdx? fun (f : FnEntry) => f.first + f.count == j).bind fun fn =>
      if cs.any (fun x => x.fn == fn) then some (cs.length - cs.reverse.findIdx fun x => x.fn == fn) else none

/-- The code-label offsets of an instruction (R74, R113). -/
def labelsOf : Instr → List Int
  | .bra _ o => [o]
  | .brp _ _ _ o => [o]
  | .btri _ _ p m => [p, m]
  | .split _ _ j e => [j, e]
  | .call _ _ o => [o]
  | _ => []

/-- An instruction with other code-label offsets. -/
def relabelled (i : Instr) (os : List Int) : Instr :=
  let o := os.getD 0 0
  match i with
  | .bra c _ => .bra c o
  | .brp c m p _ => .brp c m p o
  | .btri c a _ _ => .btri c a o (os.getD 1 0)
  | .split c p _ _ => .split c p o (os.getD 1 0)
  | .call c d _ => .call c d o
  | i => i

/-- Which of the offsets of an instruction is that of a JOIN: the first of a SPLIT. -/
def joinOffset : Instr → Bool
  | .split .. => true
  | _ => false

/-- The word of an instruction with other code-label offsets, none where its fields cannot hold them. `f` is told whether the offset is
that of a JOIN. -/
def relinked (x : Syllables) (f : Bool → Int → Option Int) : Option Syllables :=
  match decode? x with
  | none => some x
  | some i =>
    if (labelsOf i).isEmpty then some x
    else (everyOne ((List.zip (List.range 2) (labelsOf i)).map fun o => f (joinOffset i && o.1 == 0) o.2)).bind fun os =>
      let j := relabelled i os
      if j.fieldsOk then encode j else none

/-- The PC that the offsets of the instruction at a PC count from (R74). -/
def labelBase (isD : Bool) (pc : Nat) : Int := Int.ofNat (if isD then pc - pc % 3 else pc)

/-- Offsets of scalar records turned into offsets of PCs (R449). -/
def linkRecords (c : Container) (isD : Bool) (cs : List Cell) : Option (List Cell) :=
  everyOne ((List.zip (List.range cs.length) cs).map fun x =>
    match x.2.rec_ with
    | none => some x.2
    | some j => (relinked x.2.code fun _ o =>
        let t := Int.ofNat j + o
        if t < 0 then none else (recPc c isD cs t.toNat).map fun p => Int.ofNat p - labelBase isD x.1).map fun w => { x.2 with code := w })

/-- The instructions of some words (R54). -/
def syllablesOf : List Word → List Syllables
  | a :: b :: c :: ws => ⟨a, b, c⟩ :: syllablesOf ws
  | _ => []

/-- The native words of the image of some functions: the images of a layout stand in the order of their kernels. -/
def Container.nativeOf (c : Container) (isD : Bool) (fns : List Nat) : List Syllables :=
  let before := (c.programs.takeWhile (· != fns)).filter fun p => c.stands p isD
  syllablesOf (((if isD then c.nativeD else c.nativeL)[before.length]?).getD [])

/-- The native images are version 3.0 and cover the function in each layout that its entry demands (R444). -/
def Container.covered (c : Container) (fns : List Nat) (fn : Nat) : Bool :=
  c.native && [false, true].all fun d =>
    !c.stands fns d || (List.zip (List.range (layImage c d fns).length) (layImage c d fns)).all fun x =>
      x.2.fn != fn || decide (x.1 < (c.nativeOf d fns).length)

/-- Scalar record `j` is covered by a record of an understood tile or loop level (R444, R449). -/
def Container.coversRec (c : Container) (j : Nat) : Bool :=
  let in_ := fun (x : Cover) (k : Nat) => decide (x.first ≤ k ∧ k < x.first + x.count)
  (List.zip (List.range c.loops.length) c.loops).any fun x =>
    in_ x.2 j && (x.2.known || c.tiles.any fun t => t.known && in_ t x.1)

/-- Some level that the driver understands holds the function (R444). DESIGN CHOICE (log entry 77): a tile or loop level holds it where
its records cover every scalar record of the function. -/
def Container.understood (c : Container) (fn : Nat) : Bool :=
  c.scalKnown || (c.fns[fn]?).any fun f => (List.range f.count).all fun k => c.coversRec (f.first + k)

/-- The code of an image before the loader's PPOINTs (R444, R449): each function's native words, or its translation, which takes the
scalar records in order (R445). DESIGN CHOICE (log entry 77): the native images hold the functions at the PCs of R89, and a
translation from any level is that of the scalar records it covers. -/
def Container.image (c : Container) (isD : Bool) (fns : List Nat) : Option (List Cell) :=
  let cs := layImage c isD fns
  let native := fns.filter (c.covered fns)
  if fns.all fun f => native.contains f || c.understood f || !(c.fns[f]?).any fun x => x.in_ isD then
    (linkRecords c isD cs).map fun ls => (List.zip (List.range ls.length) ls).map fun x =>
      if native.contains x.2.fn then { x.2 with code := (c.nativeOf isD fns).getD x.1 nopCode } else x.2
  else none

/-! ## The loader's PPOINTs (R453) -/

/-- The unit in which code moves: an instruction in L layout, a packet in D layout. -/
def unitOf (isD : Bool) : Nat := if isD then 3 else 1

/-- Cells cut into units. -/
def unitsOf (isD : Bool) : List Cell → List (List Cell)
  | [] => []
  | [a] => [[a]]
  | [a, b] => if isD then [[a, b]] else [[a], [b]]
  | a :: b :: c :: r => if isD then [a, b, c] :: unitsOf isD r else [a] :: unitsOf isD (b :: c :: r)

/-- What the placing of PPOINTs asks of a unit: the units its labels name, and those that the join label of a SPLIT names; whether it is
a SPLIT, a call or a return; whether a straight run may leave it, and whether control never falls through it; whether it already
holds a PPOINT, and whether a function starts with it. -/
structure UnitInfo where
  targets : List Nat
  joins : List Nat
  split : Bool
  call : Bool
  ret : Bool
  leaves : Bool
  ends : Bool
  ppoint : Bool
  entry : Bool
  fn : Nat
deriving DecidableEq, Repr

/-- Control never falls through an instruction: an unguarded branch, call, return, end or return from a handler. -/
def Instr.endsRun : Instr → Bool
  | .bra c _ | .call c _ _ | .calli c _ _ | .ret c _ | .exit c | .eret c => c.guard == 0
  | _ => false

/-- A straight run may leave an instruction: a form of slot 2 (R78) other than YIELD, which goes on behind itself (R122). -/
def Instr.leavesRun : Instr → Bool
  | .yield .. => false
  | i => i.slot2Only

/-- The unit `n` looked at. -/
def unitInfo (isD : Bool) (n : Nat) (before : Option Nat) (cs : List Cell) : UnitInfo :=
  let is := cs.filterMap fun c => decode? c.code
  let at_ := fun (o : Int) =>
    let t := Int.ofNat (unitOf isD * n) + o
    if t < 0 then none else some (t.toNat / unitOf isD)
  let ts := fun (join : Bool) => is.flatMap fun i =>
    (List.zip (List.range 2) (labelsOf i)).filterMap fun o => if (joinOffset i && o.1 == 0) == join then at_ o.2 else none
  let fn := (cs.head?.map (·.fn)).getD 0
  { targets := ts false, joins := ts true, fn, entry := before != some fn,
    split := is.any joinOffset,
    call := is.any fun i => match i with | .call .. => true | .calli .. => true | _ => false,
    ret := is.any fun i => match i with | .ret .. => true | .calli .. => true | _ => false,
    leaves := is.any Instr.leavesRun, ends := is.any Instr.endsRun,
    ppoint := is.any fun i => match i with | .ppoint .. => true | _ => false }

/-- The units of an image looked at, each with the function of the unit before it. -/
def unitInfos (isD : Bool) (us : List (List Cell)) : List UnitInfo :=
  (List.zip (List.range us.length) us).map fun x =>
    unitInfo isD x.1 (if x.1 = 0 then none else (us[x.1 - 1]?.bind (·.head?)).map (·.fn)) x.2

/-- How many instructions a straight run issues before it reaches a PPOINT the code holds. -/
def runToPpoint (u : Nat) : List UnitInfo → Nat → Option Nat
  | [], _ => none
  | x :: xs, d => if x.ppoint then some d else if x.leaves then none else runToPpoint u xs (d + u)

/-- The most instructions a gust issues between two PPOINTs (R453). -/
def ppointLimit : Nat := 6561

/-- The units R453 names, each with whether a PPOINT has to be placed there or, where the code's own is reached in time, how far it
is: targets of backward branches (a label at or before its own unit), entries of callees, and return addresses. -/
def ppointPlaces (c : Container) (isD : Bool) (xs : List UnitInfo) : List (Option (Option Nat)) :=
  (List.range xs.length).map fun n =>
    match xs[n]? with
    | none => none
    | some x =>
      let back := (List.zip (List.range xs.length) xs).any fun y => decide (n ≤ y.1) && y.2.targets.contains n
      let callee := x.entry && !((c.fns[x.fn]?).any (·.kernel))
      let after := decide (0 < n) && (xs[n - 1]?.any (·.call))
      if back || callee || after then
        some ((runToPpoint (unitOf isD) (xs.drop n) 0).filter fun d => decide (d + 3 ≤ ppointLimit))
      else none

/-- A count of instructions carried to a unit ahead: by a label, or by the end of any path of a SPLIT's region, and then, where the unit
is the region's JOIN, past a PPOINT that stands before it (R108, R118). -/
structure Ahead where
  unit : Nat
  cnt : Nat
  split : Bool
  join : Bool
deriving DecidableEq, Repr

/-- The pass over the units: the most instructions issued since a PPOINT where control falls through, those carried to units ahead, and
where a PPOINT is inserted. -/
structure Pass where
  cnt : Nat
  ahead : List Ahead
  ins : List Bool
deriving DecidableEq, Repr

/-- One unit of the pass. A run leaves room for the JOIN of each region that is open, at which a path that ends arrives at once. -/
def Pass.unit (isD : Bool) (places : List (Option (Option Nat))) (p : Pass) (x : Nat × UnitInfo) : Pass :=
  let u := unitOf isD
  let n := x.1
  let far := fun (t : Nat) => ((places.getD t none).bind id).getD 0
  let owed := if x.2.call || x.2.ret then (places.map fun y => (y.bind id).getD 0).foldl max 0
    else ((x.2.targets.filter fun t => decide (t ≤ n)).map far).foldl max 0
  let room := u * (p.ahead.filter fun a => a.join && decide (n < a.unit)).length
  let here := p.ahead.filter fun a => a.unit == n
  let in_ := ((here.filter fun a => !a.join).map (·.cnt)).foldl max (if x.2.entry then 0 else p.cnt)
  let past := ((here.filter (·.join)).map fun a => a.cnt + u).foldl max 0
  let put := places.getD n none == some none || (!x.2.ppoint && decide (in_ + u + owed + room > ppointLimit))
  let out := if x.2.ppoint && !put then u - 1 else max (if put then 2 * u - 1 else in_ + u) past
  let sent := fun (join : Bool) (ts : List Nat) => (ts.filter fun t => decide (n < t)).map fun t => (⟨t, out, x.2.split, join⟩ : Ahead)
  { cnt := if x.2.ends then 0 else out, ins := p.ins ++ [put],
    ahead := (p.ahead.filter fun a => decide (n < a.unit)).map (fun a => if a.split then { a with cnt := max a.cnt out } else a) ++
      sent false x.2.targets ++ sent true x.2.joins }

/-- Where the loader inserts a PPOINT, one answer for each unit (R453). -/
def ppointsAt (c : Container) (isD : Bool) (us : List (List Cell)) : List Bool :=
  let xs := unitInfos isD us
  let places := ppointPlaces c isD xs
  ((List.zip (List.range xs.length) xs).foldl (Pass.unit isD places) { cnt := 0, ahead := [], ins := [] }).ins

/-- The PPOINTs inserted before unit `n`. -/
def insBefore (ins : List Bool) (n : Nat) : Nat := (ins.take n).count true

/-- A unit with its offsets relinked (R453): a label still names the unit it named, with the PPOINT before it; the join label of a SPLIT
names its JOIN itself (R106, R119). -/
def relinkUnit (isD : Bool) (ins : List Bool) (n : Nat) (cs : List Cell) : Option (List Cell) :=
  let u := unitOf isD
  everyOne (cs.map fun x => (relinked x.code fun join o =>
    let t := Int.ofNat (u * n) + o
    let k := t.toNat / u
    let t' := if t < 0 then t else t + Int.ofNat (u * insBefore ins (if join then k + 1 else k))
    some (t' - Int.ofNat (u * (n + insBefore ins (n + 1))))).map fun w => { x with code := w })

/-- The unit of an inserted PPOINT: it names the whole allotment (R453). -/
def ppointUnit (isD : Bool) (a : Alloc) (x : Cell) : Option (List Cell) :=
  (encode (.ppoint ⟨0, 0⟩ 0 a.tiles 0 a.slots)).map fun w =>
    { x with code := w, rec_ := none } :: List.replicate (unitOf isD - 1) { x with code := nopCode, rec_ := none, cut := false }

/-- An image with the loader's PPOINTs in it (R453). -/
def withPpoints (c : Container) (isD : Bool) (a : Alloc) (cs : List Cell) : Option (List Cell) :=
  let us := unitsOf isD cs
  let ins := ppointsAt c isD us
  (everyOne ((List.zip (List.range us.length) us).map fun x =>
    (relinkUnit isD ins x.1 x.2).bind fun cs =>
      if !ins.getD x.1 false then some cs
      else match cs with
        | [] => some []
        | y :: ys => (ppointUnit isD a y).map fun p =>
            p ++ { y with cut := false } :: ys)).map List.flatten

/-! ## What is installed -/

/-- A run of an image that is one segment (R336, R452): whether it is bound on call, its first PC, the first scalar record in it, its
code. -/
structure SegRun where
  onCall : Bool
  first : Nat
  key : Option Nat
  code : List Syllables
deriving DecidableEq, Repr

/-- The runs of an image that are one segment each, from PC `n`. -/
def segmentsOf : Nat → List Cell → List SegRun
  | _, [] => []
  | n, x :: xs => match segmentsOf (n + 1) xs, xs with
    | r :: rest, y :: _ =>
      if !y.cut && y.onCall == x.onCall then ⟨r.onCall, n, x.rec_.or r.key, x.code :: r.code⟩ :: rest
      else ⟨x.onCall, n, x.rec_, [x.code]⟩ :: r :: rest
    | _, _ => [⟨x.onCall, n, x.rec_, [x.code]⟩]

/-- A segment that is bound on call: the first scalar record in it, by which the two layouts name one segment, its first PC, its count,
and the segment-table entry that the code names for it, if any. -/
structure Lazy where
  key : Option Nat
  first : Nat
  count : Nat
  entry : Option Nat
deriving DecidableEq, Repr

/-- The segment-table entries that the OVLs of some code name, each once, in order. -/
def ovlEntries (cs : List Cell) : List Nat :=
  (cs.filterMap fun c => match decode? c.code with
    | some (.ovl _ _ _ _ e _) => some e
    | _ => none).eraseDups

/-- A laid-out image: the number of its kernel's image in the module, its layout, its code, its resident segments (first PC and code),
those bound on call, and the address of its point directory, 0 for none. -/
structure LaidImage where
  prog : Nat
  isD : Bool
  code : List Syllables
  segs : List (Nat × List Syllables)
  lazies : List Lazy
  dir : Int
deriving DecidableEq, Repr

/-- What of an image goes to a core. DESIGN CHOICE (log entry 79): the segments bound on call take the entries that the code's OVLs
name, in order. -/
def laidImage (prog : Nat) (isD : Bool) (dir : Int) (cs : List Cell) : LaidImage :=
  let segs := segmentsOf 0 cs
  let es := ovlEntries cs
  let lz := segs.filter (·.onCall)
  { prog, isD, dir, code := cs.map (·.code), segs := (segs.filter (fun x => !x.onCall)).map fun x => (x.first, x.code),
    lazies := (List.zip (List.range lz.length) lz).map fun x => ⟨x.2.key, x.2.first, x.2.code.length, es[x.1]?⟩ }

/-- Both images of a kernel with its callees, each where the kernel stands in that layout, and the resources of its squalls. -/
structure Images where
  alloc : Alloc
  l : Option (List Cell)
  d : Option (List Cell)
deriving DecidableEq, Repr

/-- The image of one layout: none where a function is refused, `some none` where the kernel does not stand in it. -/
def Container.finished (c : Container) (fns : List Nat) (isD : Bool) : Option (Option (List Cell)) :=
  if c.stands fns isD then ((c.image isD fns).bind (withPpoints c isD (c.allotment fns))).map some else some none

/-- The images of a kernel, none where a function is refused. -/
def Container.imagesOf (c : Container) (fns : List Nat) : Option Images :=
  match c.finished fns false, c.finished fns true with
  | some l, some d => some ⟨c.allotment fns, l, d⟩
  | _, _ => none

/-- The PC of a scalar record in an image, −1 where absent. -/
def pcIn (cs : Option (List Cell)) (j : Int) : Int :=
  match cs with
  | some cs => if j < 0 then -1 else ((cs.findIdx? fun x => x.rec_ == some j.toNat).map Int.ofNat).getD (-1)
  | none => -1

/-- The scalar record a cross-reference entry is about: its own, or the first that its loop or tile record covers. -/
def xrefRec (c : Container) (e : List Word) : Int :=
  let loop := if intAt e 2 ≥ 0 then intAt e 2
    else if intAt e 1 ≥ 0 then ((c.tiles[(intAt e 1).toNat]?).map fun x => Int.ofNat x.first).getD (-1) else -1
  if intAt e 3 ≥ 0 then intAt e 3
  else if loop ≥ 0 then ((c.loops[loop.toNat]?).map fun x => Int.ofNat x.first).getD (-1) else -1

/-- A cross-reference entry with its PCs (R450), those of the first kernel's images that hold its record. -/
def xrefDone (c : Container) (ims : List Images) (e : List Word) : List Word :=
  let j := xrefRec c e
  let pc := fun (at_ : Images → Option (List Cell)) => ((ims.map fun im => pcIn (at_ im) j).find? (· != -1)).getD (-1)
  (e.set 4 (Word.ofInt (pc (·.l)))).set 5 (Word.ofInt (pc (·.d)))

/-- An equivalence point in a kernel's images: its number, its PCs in the L and the D image, and whether it is a MIGR. -/
structure Point where
  num : Nat
  l : Int
  d : Int
  migr : Bool
deriving DecidableEq, Repr

/-- The points of the cross-reference table that stand in a kernel's images (R381, R450). -/
def pointsOf (c : Container) (im : Images) : List Point :=
  c.xref.filterMap fun e => (c.scal[(intAt e 3).toNat]?).bind fun r =>
    let l := pcIn im.l (intAt e 3)
    let d := pcIn im.d (intAt e 3)
    if intAt e 3 < 0 ∨ r.pt < 0 ∨ (l = -1 ∧ d = -1) then none
    else some ⟨r.pt.toNat, l, d, match decode? r.code with
      | some (.migr ..) => true
      | _ => false⟩

/-- The scalars that CALL and CALLI write, which hold code addresses (R384). -/
def linkScalars (c : Container) : List Nat :=
  (c.scal.filterMap fun r => match decode? r.code with
    | some (.call _ d _) => some d
    | some (.calli _ d _) => some d
    | _ => none).eraseDups

/-- The code addresses of an image that the other has too: the return address after each call, and each function's entry. -/
def codePairs (c : Container) (src dst : List Cell) : List (Int × Int) :=
  let calls := (List.range c.scal.length).filterMap fun j => match (c.scal[j]?).bind fun r => decode? r.code with
    | some (.call ..) => some (pcIn (some src) (Int.ofNat j) + 1, pcIn (some dst) (Int.ofNat j) + 1)
    | some (.calli ..) => some (pcIn (some src) (Int.ofNat j) + 1, pcIn (some dst) (Int.ofNat j) + 1)
    | _ => none
  let entries := (List.range c.fns.length).filterMap fun fn =>
    match src.findIdx? (fun x => x.fn == fn), dst.findIdx? (fun x => x.fn == fn) with
    | some a, some b => some (Int.ofNat a, Int.ofNat b)
    | _, _ => none
  ((calls.filter fun p => p.1 > 0 && p.2 > 0) ++ entries).take 729

/-- One entry of a state-mapping table, from a register or record to the same one (R384). -/
def mapSame (kind : Int) (i : Nat) : List Word := [Word.ofInt (pow3 24 * kind), Word.ofInt (pow3 14 * Int.ofNat i + 3 * Int.ofNat i)]

/-- The state-mapping table of a MIGR point and direction (R383, R384). DESIGN CHOICE (log entry 80): every register, predicate and
barrier record of the resources that the driver does not leave out maps to itself, a scalar that calls write as a code address, and
every tile and slot is live. -/
def mapTable (c : Container) (a : Alloc) (n : Nat) (toD : Bool) (regs : Option (List (Int × Nat))) (src dst : Int) (ps : List (Int × Int)) :
    List Word :=
  let links := linkScalars c
  let of := fun (kind : Int) (n : Nat) => ((List.range n).filter fun i => regs.all fun rs => rs.contains (kind, i)).flatMap fun i =>
    mapSame (if kind == -1 && links.contains i then 3 else kind) i
  let es := of 1 a.v ++ of (-1) a.s ++ of 2 a.p ++ of (-2) a.bars
  [Word.ofNat n, Word.ofInt (if toD then pow3 26 else -(pow3 26)), Word.ofInt src, Word.ofInt (dst + 1), Word.ofNat (es.length / 2),
   Word.ofNat ps.length, Word.ofInt (pow3 9 * Int.ofNat a.tiles), Word.ofInt (pow3 9 * Int.ofNat a.slots), Word.zero] ++
  es ++ ps.flatMap fun p => [Word.ofInt p.1, Word.ofInt p.2]

/-- Blocks placed one after another, each at a multiple of 45. -/
def placedFrom : Int → List (List Word) → List (Int × List Word)
  | _, [] => []
  | a, ws :: r => (a, ws) :: placedFrom (a + 45 * Int.ofNat ((ws.length + 44) / 45)) r

/-- The first multiple of 45 after some placed blocks. -/
def placedEnd (a : Int) (bs : List (Int × List Word)) : Int :=
  match bs.getLast? with
  | some b => b.1 + 45 * Int.ofNat ((b.2.length + 44) / 45)
  | none => a

/-- The words of some instructions (R54). -/
def codeWords (ss : List Syllables) : List Word := ss.flatMap fun x => [x.s0, x.s1, x.s2]

/-- A table of binding records (R455): the kernel and the segment it is of, and its address. -/
structure BindTable where
  prog : Nat
  key : Option Nat
  base : Int
deriving DecidableEq, Repr

/-- What a load installs (R452): the images; the blocks it writes into the context's space; the addresses of the data blocks, of each
image's code, and the tables of binding records, one for each segment bound on call; and the completed cross-reference table. -/
structure LoadPlan where
  images : List LaidImage
  writes : List (Int × List Word)
  data : List Int
  codeAt : List Int
  tables : List BindTable
  xref : List Word
deriving DecidableEq, Repr

/-- The state-mapping tables of a kernel's MIGR points (R381, R383): point, direction, words. DESIGN CHOICE (log entry 80): the driver
builds a table unless it decides otherwise. -/
def mapTables (c : Container) (picks : List MapPick) (im : Images) : List (Nat × Bool × List Word) :=
  match im.l, im.d with
  | some l, some d =>
    ((pointsOf c im).filter fun p => p.migr && decide (0 ≤ p.l ∧ 0 ≤ p.d)).flatMap fun p => [true, false].filterMap fun toD =>
      let pick := picks.find? fun k => k.point == p.num && k.toD == toD
      if pick.all (·.made) then
        some (p.num, toD, mapTable c im.alloc p.num toD (pick.bind (·.regs)) (if toD then p.l else p.d) (if toD then p.d else p.l)
          (if toD then codePairs c l d else codePairs c d l))
      else none
  | _, _ => []

/-- The point directory of a kernel (R381), given the addresses of its tables. DESIGN CHOICE (log entry 80): word 0 is one more than the
highest point number, the numbers that no point has being absent in both layouts, and every kernel has a directory of its own. -/
def directory (pts : List Point) (tabs : List ((Nat × Bool) × Int)) : List Word :=
  let count := (pts.map fun p => p.num + 1).foldl max 0
  Word.ofNat count :: (List.range count).flatMap fun n =>
    let p := pts.find? fun p => p.num == n
    let t := fun (toD : Bool) => (tabs.find? fun e => e.1 == (n, toD)).elim 0 (·.2)
    [Word.ofInt ((p.map (·.l)).getD (-1)), Word.ofInt ((p.map (·.d)).getD (-1)), Word.ofInt (t true), Word.ofInt (t false)]

/-- The place of a block among placed ones, 0 for none. -/
def placeAt (bs : List (Int × List Word)) (i : Nat) : Int := ((bs[i]?).map (·.1)).getD 0

/-- What a module load installs, or none where the driver refuses it (R444, R446 to R453, R455). DESIGN CHOICE (log entry 78): the
blocks stand one after another from the driver's address: data blocks, state-mapping tables, point directories, code, binding
records. -/
def loadPlan (m : ModuleLoad) : Option LoadPlan :=
  match (containerWords m.code).bind parseContainer with
  | none => none
  | some c => match everyOne (c.programs.map c.imagesOf) with
    | none => none
    | some ims =>
      if m.base ≤ 0 ∨ m.base % 45 ≠ 0 then none
      else
        let nums := List.range ims.length
        let data := placedFrom m.base c.data
        let maps := (List.zip nums ims).flatMap fun x => (mapTables c m.maps x.2).map fun t => (x.1, t)
        let tabs := placedFrom (placedEnd m.base data) (maps.map fun t => t.2.2.2)
        let refs := (List.zip (List.range maps.length) maps).map fun t => (t.2.1, (t.2.2.1, t.2.2.2.1), placeAt tabs t.1)
        let here := placedEnd (placedEnd m.base data) tabs
        let both := (List.zip nums ims).filter fun x => x.2.l.isSome && x.2.d.isSome
        let dirs := placedFrom here (both.map fun x =>
          directory (pointsOf c x.2) ((refs.filter fun r => r.1 == x.1).map fun r => (r.2.1, r.2.2)))
        let dirOf := fun (k : Nat) => (both.findIdx? fun x => x.1 == k).elim 0 (placeAt dirs)
        let images := (List.zip nums ims).flatMap fun x =>
          (x.2.l.toList.map (laidImage x.1 false (dirOf x.1))) ++ (x.2.d.toList.map (laidImage x.1 true (dirOf x.1)))
        let here := placedEnd here dirs
        let code := placedFrom here (images.map fun i => codeWords i.code)
        let here := placedEnd here code
        let segs := (images.flatMap fun i => i.lazies.map fun z => (i.prog, z.key)).eraseDups
        some { images, writes := data ++ tabs ++ dirs ++ code, data := data.map (·.1), codeAt := code.map (·.1),
               tables := (List.zip (List.range segs.length) segs).map fun x => ⟨x.2.1, x.2.2, here + 45 * 243 * Int.ofNat x.1⟩,
               xref := (c.xref.map (xrefDone c ims)).flatten }

end Sys2Proof.Machine
end

