-- ==== Sys2Proof/Machine/Boot.lean ====
section
/-! DEFINITION. Bring-up, attestation and power (R457 to R463), loading (R394, R452, R454), soft errors (R53). -/

namespace Sys2Proof.Machine

/-- RESET (R457): the device starts over. What stands outside it (host memory, flash, the other devices) and what the model
keeps for itself stay. -/
def State.resetDevice (s : State) : State :=
  { State.reset with hostMem := s.hostMem, peers := s.peers, unreached := s.unreached, flash := s.flash, inputs := s.inputs, out := s.out,
                     choice := s.choice, freeCtr := s.freeCtr, serial := s.serial }

/-- BOOTGO (R458, R459): a write of 1 starts the check of the image as it stands; any other value, and a second write, are ignored. -/
def State.bootgo (s : State) (v : Nat) : State :=
  if v = 1 ∧ s.boot.bootst = 1 ∧ !s.boot.checking ∧ !s.boot.running then { s with boot := { s.boot with checking := true, rom := s.boot.image } }
  else s

/-- BOOTST's value for a failed bring-up (R458). -/
def bootFailed : Nat := 4294967295

/-- The bytes of an image as it was written, holes as zero. -/
def bytesOf (m : List (Nat × BitVec 8)) : List (BitVec 8) :=
  (List.range ((m.map fun e => e.1 + 1).foldl max 0)).map fun i => (lookupAt m i).getD 0

/-- FIRMWARE_CHECK (R459). -/
def State.firmwareCheck (s : State) : State :=
  if !s.boot.checking then s
  else if Config.signatureOk (bytesOf s.boot.rom) then { s with boot := { s.boot with checking := false, running := true } }
  else { s with boot := { s.boot with checking := false, bootst := bootFailed } }

/-- ATTESTATION (R461): the running firmware signs a 32-byte nonce with the digest, the configuration and the ROM version. -/
def State.attestation (s : State) (nonce : List (BitVec 8)) : State :=
  if s.boot.running ∧ nonce.length = 32 then
    s.emit (.attested (Config.attestationSignature nonce (bytesOf s.boot.rom) (bytesOf s.boot.config)))
  else s

/-- BRING_UP_COMPLETE (R457 steps 5 to 7, R460): memory holds packed zero lines and on-chip words zero, the settings are taken, BOOTST becomes 2, or
failed on a value outside its limits. -/
def State.bringUp (s : State) : State :=
  if s.boot.running ∧ s.boot.bootst = 1 then
    let (device, controllers, limit) := Config.configSettings s.boot.config
    let watts := limit.getD 2200
    let ok := decide (device ≤ 2186) && (decide (controllers.length ≤ 27) && controllers.all fun k => decide (k ≤ 26)) &&
      decide (600 ≤ watts ∧ watts ≤ 2200)
    let s := { s with hbm := [], homes := [], poison := [], portPoison := [], secClocks := [],
                      cores := s.cores.map (fun (c : Core) => { c with free := [], isp := [] }),
                      dies := s.dies.map fun (d : Die) => { d with l1 := [], near := [] } }
    if ok then { s with boot := { s.boot with bootst := 2, device, controllers, watts } }
    else { s with boot := { s.boot with bootst := bootFailed } }
  else s

/-- D3HOT_REQUEST (R463): completed at once. -/
def State.d3hotRequest (s : State) : State :=
  if s.boot.power = .d0 then ({ s with boot := { s.boot with power := .d3hotWanted } } : State).emit .powerDone
  else s.emit .powerDone

/-- No front is live and no engine command is queued (R463). -/
def State.idle (s : State) : Bool :=
  s.fronts.isEmpty && s.allCmds.isEmpty && s.pagingWait.isEmpty && s.cores.all fun c => c.acceptQ.isEmpty

/-- D3HOT_ENTER (R463). -/
def State.d3hotEnter (s : State) : State :=
  if s.boot.power = .d3hotWanted ∧ s.idle then { s with boot := { s.boot with power := .d3hot } } else s

/-- D0_RETURN (R463): without a reset. -/
def State.d0Return (s : State) : State :=
  match s.boot.power with
  | .d3cold => s
  | _ => { s with boot := { s.boot with power := .d0 } }

/-- D3COLD_ENTRY (R463): all state is lost; the return is a reset. -/
def State.d3cold (s : State) : State :=
  let t := s.resetDevice
  { t with boot := { t.boot with bootst := 0, power := .d3cold } }

/-- An image number that no loaded image has (R452). -/
def State.freeImage (s : State) : Option Nat :=
  ((List.range 9841).map (· + 1)).find? fun n => !(s.images.any fun (i : Image) => i.num == n)

/-- The index runs of a core that its segment entries hold, the old ones of pending entries too (R336, R338). -/
def segRuns (c : Core) : List (Nat × Nat) :=
  c.segs.flatMap fun e => e.toList.flatMap fun (g : Seg) =>
    (g.index, g.count) :: (if g.pending then [(g.oldIndex, g.oldCount)] else [])

/-- A segment or reservation placed into a free entry, the named one where one is named, and a free range of a core (R452, R454). -/
def State.placeSeg (s : State) (core image first count : Nat) (entry : Option Nat) (lazy_ : Bool) (code : List Syllables) : Option State :=
  let c := s.core core
  let e := match entry with
    | some e => if c.segs[e]? = some none then some e else none
    | none => c.segs.findIdx? Option.isNone
  match e, firstFit (segRuns c) Config.codePerCore count with
  | some e, some i =>
    let g : Seg := { image, first := Int.ofNat first, count, index := i, pending := false, reserved := lazy_, oldFirst := 0,
                     oldCount := 0, oldIndex := 0 }
    let s := s.setSeg core e (some g)
    let ws := codeWords code
    some (s.each (List.zip (List.range ws.length) ws) fun s w => s.putCode core (3 * i + w.1) w.2)
  | _, _ => none

/-- An image's reservations and resident segments placed on a core, none where one does not fit. -/
def State.placeImage (s : State) (core num : Nat) (i : LaidImage) : Option State :=
  let t := i.lazies.foldl (fun (t : Option State) x => t.bind fun s => s.placeSeg core num x.first x.count x.entry true []) (some s)
  i.segs.foldl (fun (t : Option State) x => t.bind fun s => s.placeSeg core num x.1 x.2.length none false x.2) t

/-- One image loaded on every core of its kind (R452); it is privileged only where the physical function loads it and asks for
that (R394). -/
def State.loadImage (s : State) (m : ModuleLoad) (i : LaidImage) : Option (Nat × State) :=
  match s.freeImage with
  | none => none
  | some n =>
    let cores := (List.range Config.cores).filter fun c => coreIsD c == i.isD
    let t := cores.foldl (fun (t : Option State) c => t.bind fun s => s.placeImage c n i) (some s)
    t.map fun s => (n, { s with images := s.images ++
      [{ num := n, ctx := m.ctx, isD := i.isD, priv := m.priv && m.fn == .pf, dir := i.dir }] })

/-- The images of a load, with their numbers in order. -/
def State.loadImages (s : State) (m : ModuleLoad) : List LaidImage → Option (List Nat × State)
  | [] => some ([], s)
  | i :: is => (s.loadImage m i).bind fun x => (x.2.loadImages m is).map fun y => (x.1 :: y.1, y.2)

/-- Blocks of words written into a context's space, none where one cannot be. DESIGN CHOICE (log entry 78): a load does not wait for
a page fill; it is refused. -/
def State.writeBlocks (s : State) (ctx : Nat) (bs : List (Int × List Word)) : Option State :=
  bs.foldl (fun (t : Option State) b => t.bind fun s => match s.sysWrites ctx b.1 b.2 with
    | (.ok _, s) => some s
    | _ => none) (some s)

/-- The binding record of one core in a table of a load (R455): unbound, with the code's address, its count, its first PC and the index
reserved on the core; zero on a core whose layout does not hold the segment. -/
def State.bindingWords (s : State) (p : LoadPlan) (nums : List Nat) (t : BindTable) (core : Nat) : List Word :=
  let k := (p.images.findIdx? fun i => i.prog == t.prog && i.isD == coreIsD core).getD p.images.length
  match p.images[k]?, p.codeAt[k]?, nums[k]? with
  | some i, some a, some n => (match i.lazies.find? fun z => z.key == t.key with
    | some z =>
      let g := (s.core core).segs.find? fun e => e.any fun g => g.image == n && g.first == Int.ofNat z.first && g.reserved
      [Word.zero, Word.ofInt (a + 3 * Int.ofNat z.first), Word.ofNat z.count, Word.ofNat z.first,
       Word.ofNat ((g.bind id).map (·.index) |>.getD 0)] ++ List.replicate 40 Word.zero
    | none => List.replicate 45 Word.zero)
  | _, _, _ => List.replicate 45 Word.zero

/-- The tables of binding records of a load (R455). -/
def State.bindingTables (s : State) (p : LoadPlan) (nums : List Nat) : List (Int × List Word) :=
  p.tables.flatMap fun t => (List.range Config.cores).map fun k => (t.base + 45 * Int.ofNat k, s.bindingWords p nums t k)

/-- The image numbers of a load (R452 step 6), the L and the D image of each kernel, 0 for none. -/
def LoadPlan.numbers (p : LoadPlan) (nums : List Nat) : List (Nat × Nat) :=
  let num := fun (k : Nat) (d : Bool) => ((List.zip p.images nums).find? fun y => y.1.prog == k && y.1.isD == d).elim 0 (·.2)
  ((p.images.map (·.prog)).eraseDups).map fun k => (num k false, num k true)

/-- A planned load installed (R452 steps 3 to 6), none where a step fails. -/
def State.install (s : State) (m : ModuleLoad) (p : LoadPlan) : Option State :=
  (s.loadImages m p.images).bind fun x =>
    (x.2.writeBlocks m.ctx (p.writes ++ x.2.bindingTables p x.1)).map fun s =>
      s.emit (.loaded (p.numbers x.1) p.data (p.tables.map (·.base)) p.xref)

/-- MODULE_LOAD (R444, R451, R452): the container is checked, laid out and installed; a failure at any step undoes the whole load. -/
def State.moduleLoad (s : State) (m : ModuleLoad) : State :=
  if s.boot.bootst ≠ 2 then s.emit .loadRefused
  else match loadPlan m with
    | none => s.emit .loadRefused
    | some p => (s.install m p).getD (s.emit .loadRefused)

/-- MODULE_UNLOAD (R454): refused while a live front names the image. -/
def State.moduleUnload (s : State) (n : Nat) : State :=
  if s.fronts.any fun f => f.spec.imgL == n || f.spec.imgD == n then s.emit .unloadRefused
  else
    { s with images := s.images.filter (fun (i : Image) => i.num != n),
             cores := s.cores.map fun (c : Core) =>
               { c with segs := c.segs.map fun e => e.filter fun (g : Seg) => g.image != n } }

/-- A word of on-chip SRAM replaced by an unspecified one (R53). -/
def State.strikeWord (s : State) (p : SoftPlace) : State :=
  let (w, s) := s.unspecified
  match p with
  | .core c u => (match winReg (coreIsD c) u with
    | some r => s.windowWrite c none w r
    | none => s)
  | .l1 d loc k => s.onL1 d loc fun x =>
      { x with words := x.words.map fun e => if e.1 == k then (e.1, { e.2 with val := w }) else e }
  | .near d p k => s.onDie d fun x => { x with near := x.near.map fun n =>
      if n.line == p then
        { n with sectors := n.sectors.map fun e => if e.1 == sectorOf k then (e.1, e.2.set (k % 5) w) else e }
      else n }
  | .home p k => s.onHome p fun h => { h with words := h.words.set k w }

/-- An uncorrectable word (R53, R414). The contexts that own a word of a core's stores are discarded, its next read being taken to
follow at once (log entry 34). A word of a cache is marked: a read of it is the machine check of the reading access's context,
a write-back of it poisons its sector, and a word written over it is sound. -/
def State.uncorrectable (s : State) (p : SoftPlace) : State :=
  match p with
  | .core c u => (match winReg (coreIsD c) u with
    | some r => s.each (s.winOwners c r).eraseDups fun s k => s.bareCheck k (-1) 0
    | none => s)
  | .l1 d loc k => s.onL1 d loc fun x =>
      { x with words := x.words.map fun e => if e.1 == k then (e.1, { e.2 with bad := true }) else e }
  | .near d p k => s.onDie d fun x => { x with near := x.near.map fun n =>
      if n.line == p && (lookupAt n.sectors (sectorOf k)).isSome && !n.bad.contains k then { n with bad := k :: n.bad } else n }
  | .home p k => s.onHome p fun h => if k < 45 ∧ !h.bad.contains k then { h with bad := k :: h.bad } else h

/-- The die a soft error strikes. -/
def softDie : SoftPlace → Nat
  | .core c _ => dieOf c
  | .l1 d _ _ => d
  | .near d _ _ => d
  | .home p _ => homeDie p

/-- SOFT_ERROR (R53): one trit is corrected and counted; two are detected; three or more are either. -/
def State.softError (s : State) (p : SoftPlace) (trits : Nat) : State :=
  if trits = 0 then s
  else if trits = 1 then
    s.onDie (softDie p) fun (d : Die) => { d with counters := d.counters.modify 1 countUp }
  else if trits = 2 then s.uncorrectable p
  else
    match s.pick 2 with
    | (0, s) => s.uncorrectable p
    | (_, s) => s.strikeWord p

end Sys2Proof.Machine
end

