-- ==== Sys2Proof/Machine/Steps.lean ====
section
/-! DEFINITION. The steps of the machine's other agents: one meaning for each of their rows of the opcode table. A step that
has no occasion in the state leaves it as it is (log entry 4); one that names a core, die or context that does not exist is a
fault. -/

namespace Sys2Proof.Machine

/-- A step of an agent that exists (R13, R15, R20). -/
def agent (exists_ : Bool) (s : State) : Result := if exists_ then .next s else .fault .noSuchAgent

/-- FRONT_END as a step (R404): the records name the front's first bound gust, if it has one. -/
def State.frontEndStep (s : State) (front : Nat) (cause : Int) : State :=
  match s.gusts.find? fun g => g.ref.front == front with
  | some g => s.endFrontOf g cause (if cause = 110 ∨ cause = 111 then [s.mkRec g clsGust cause 0 (-1) 0] else [])
  | none => s.endFront front [] (s.bareRec clsEnded cause 0)

/-- YIELD_EXPIRY (R96, R123). -/
def execYieldExpiry (r : GustRef) (s : State) : Result := .next (s.yieldExpiry r)

/-- CLAIM_RELEASE_EFFECT (R209, R210). -/
def execClaimReleaseEffect (q : SqRef) (s : State) : Result := .next (s.releaseEffect q)

/-- LAUNCH_REPLY (R376). -/
def execLaunchReply (r : GustRef) (s : State) : Result := .next (s.launchReply r)

/-- BIND_RECORD_REWRITE (R379). -/
def execBindRecordRewrite (die front : Nat) (s : State) : Result :=
  agent (decide (die < 9)) (s.bindRecordRewrite die front)

/-- ISSUE_CHOICE (R366, R434, R435). -/
def execIssueChoice (core : Nat) (s : State) : Result := agent (decide (core < Config.cores)) (s.issueChoice core)

/-- TRAP_ENTRY (R400). -/
def execTrapEntry (r : GustRef) (cause detail : Int) (s : State) : Result := .next (s.trapStep r cause detail)

/-- GUST_RETIRE (R97). -/
def execGustRetire (r : GustRef) (s : State) : Result := .next (s.gustRetire r)

/-- LOAD_SECTOR_RETURN (R244). -/
def execLoadSectorReturn (r : GustRef) (n : Nat) (s : State) : Result := .next (s.loadReturn r n)

/-- REGISTER_WINDOW_WRITE (R137). -/
def execRegisterWindowWrite (core u : Nat) (w : Word) (s : State) : Result :=
  agent (decide (core < Config.cores)) (s.windowStep core u w)

/-- COMMAND_ACCEPT (R22, R222, R319). -/
def execCommandAccept (core : Nat) (s : State) : Result := agent (decide (core < Config.cores)) (s.acceptNext core)

/-- MATRIX_COMMAND_RUN (R222, R224). -/
def execMatrixCommandRun (core : Nat) (s : State) : Result :=
  agent (decide (core < Config.cores)) (s.matrixCommandRun core)

/-- MATRIX_COMMAND_COMPLETE (R223). -/
def execMatrixCommandComplete (core : Nat) (s : State) : Result :=
  agent (decide (core < Config.cores)) (s.completeHead core .matrix)

/-- FILL_COMPLETE (R214). -/
def execFillComplete (core : Nat) (s : State) : Result := agent (decide (core < Config.cores)) (s.fillComplete core)

/-- DRAIN_APPLY (R228). -/
def execDrainApply (core : Nat) (s : State) : Result := agent (decide (core < Config.cores)) (s.drainApply core)

/-- ENGINE_COMMAND_START (R320, R328). -/
def execEngineCommandStart (e : EngQ) (s : State) : Result := .next (s.engineStart e)

/-- THAW_RING_POLL (R343). -/
def execThawRingPoll (core : Nat) (s : State) : Result := agent (decide (core < Config.cores)) (s.thawRingPoll core)

/-- ENGINE_COMMAND_COMPLETE (R321). -/
def execEngineCommandComplete (e : EngQ) (s : State) : Result := .next (s.engineComplete e)

/-- BATCH_COMPLETE (R323). -/
def execBatchComplete (r : GustRef) (s : State) : Result := .next (s.batchComplete r)

/-- HOME_FILL (R238). -/
def execHomeFill (line : Nat) (s : State) : Result := .next (s.homeFillStep line)

/-- L1_FILL (R238). -/
def execL1Fill (die : Nat) (loc : Loc) (first n : Nat) (ev : Int) (s : State) : Result :=
  agent (decide (die < 9)) (s.l1FillStep die loc first n ev)

/-- L1_WRITE_BACK (R239). -/
def execL1WriteBack (die : Nat) (loc : Loc) (sector : Nat) (s : State) : Result :=
  agent (decide (die < 9)) (s.l1WriteBackStep die loc sector)

/-- HOME_APPLY_WRITE (R240). -/
def execHomeApplyWrite (m : WriteMsg) (s : State) : Result := .next (s.homeApplyWrite m)

/-- INVALIDATION (R240, R282). -/
def execInvalidation (die line sector : Nat) (stamp : List Nat) (s : State) : Result :=
  agent (decide (die < 9)) (s.invalidationStep die line sector stamp)

/-- DIRTY_NOTICE (R242). -/
def execDirtyNotice (die line sector : Nat) (s : State) : Result :=
  agent (decide (die < 9)) (s.dirtyNoticeStep die line sector)

/-- FORCED_PUBLISH (R243). -/
def execForcedPublish (die line sector : Nat) (s : State) : Result :=
  agent (decide (die < 9)) (s.forcedPublishStep die line sector)

/-- HOME_RECALL (R237). -/
def execHomeRecall (line : Nat) (s : State) : Result := .next (s.homeRecallStep line)

/-- ATOMIC_APPLY (R249). -/
def execAtomicApply (r : GustRef) (s : State) : Result := .next (s.atomicApply r)

/-- LATCH_REQUEST (R270). -/
def execLatchRequest (m : LatchReq) (s : State) : Result := .next (s.latchRequest m)

/-- LATCH_RELEASE (R260, R271). -/
def execLatchRelease (m : LatchRel) (s : State) : Result := .next (s.latchRelease m)

/-- LATCH_GRANT (R260, R261). -/
def execLatchGrant (m : LatchGrant) (s : State) : Result := .next (s.latchGrant m)

/-- LATCH_LEASE_LAPSE (R262). -/
def execLatchLeaseLapse (line : Nat) (who : GustRef) (s : State) : Result := .next (s.latchLapse line who)

/-- LATCHT_DEADLINE (R262, R264). -/
def execLatchtDeadline (line : Nat) (who : GustRef) (s : State) : Result := .next (s.latchDeadline line who)

/-- DEADLOCK_PROBE_SEND (R265). -/
def execDeadlockProbeSend (line : Nat) (who : GustRef) (s : State) : Result := .next (s.probeSend line who)

/-- DEADLOCK_PROBE (R265). -/
def execDeadlockProbe (p : Probe) (s : State) : Result := .next (s.deadlockProbe p)

/-- PAGE_WALK (R303, R310). -/
def execPageWalk (core ctx : Nat) (x : Int) (s : State) : Result :=
  agent (decide (core < Config.cores ∧ ctx < Config.contexts)) (s.pageWalkStep core ctx x)

/-- LANE_RETRANSLATE (R311). -/
def execLaneRetranslate (r : GustRef) (s : State) : Result := .next (s.laneRetranslate r)

/-- TLB_LEASE_EXPIRY (R306). -/
def execTlbLeaseExpiry (core : Nat) (s : State) : Result := agent (decide (core < Config.cores)) (s.leaseExpiry core)

/-- PAGE_IN (R349). -/
def execPageIn (n : Nat) (s : State) : Result := .next (s.pageIn n)

/-- PAGE_OUT (R350). -/
def execPageOut (n : Nat) (s : State) : Result := .next (s.pageOut n)

/-- LAUNCH_LIST_CONSUME (R358). -/
def execLaunchListConsume (ctx : Nat) (s : State) : Result :=
  agent (decide (ctx < Config.contexts)) (s.launchListConsume ctx)

/-- RANGE_DISTRIBUTE (R360). -/
def execRangeDistribute (front die : Nat) (s : State) : Result :=
  agent (decide (die < 9)) (s.rangeDistribute front die)

/-- BIND_RECORD_WRITE (R362). -/
def execBindRecordWrite (b : BindChoice) (s : State) : Result := agent (decide (b.die < 9)) (s.bindRecordWrite b)

/-- SQUALL_BIND (R363). -/
def execSquallBind (front core : Nat) (s : State) : Result :=
  agent (decide (core < Config.cores)) (s.squallBind front core)

/-- FRONT_RETIRE (R357). -/
def execFrontRetire (front : Nat) (s : State) : Result := .next (s.frontRetire front)

/-- GRAPH_NODE_ACT (R373). -/
def execGraphNodeAct (g node : Nat) (s : State) : Result := .next (s.graphNodeAct g node)

/-- GRAPH_COMPLETE (R374). -/
def execGraphComplete (g : Nat) (s : State) : Result := .next (s.graphComplete g)

/-- SHUTTER_REQUEST (R409). -/
def execShutterRequest (q : SqRef) (s : State) : Result := .next (s.shutterRequest q)

/-- FORCED_SAVE (R409). -/
def execForcedSave (q : SqRef) (s : State) : Result := .next (s.forcedSave q)

/-- SHUTTER_SAVE (R410). -/
def execShutterSave (q : SqRef) (s : State) : Result := .next (s.shutterSave q)

/-- SHUTTER_RESTORE (R411). -/
def execShutterRestore (q : SqRef) (core : Nat) (s : State) : Result :=
  agent (decide (core < Config.cores)) (s.shutterRestore q core)

/-- MIGRATION_TRANSFER (R392). -/
def execMigrationTransfer (q : SqRef) (s : State) : Result := .next (s.migrationTransfer q)

/-- MIGRATION_COMPLETE (R392). -/
def execMigrationComplete (q : SqRef) (s : State) : Result := .next (s.migrationComplete q)

/-- MACHINE_CHECK (R415): of the instruction whose record it carries (R397), or of none. -/
def execMachineCheck (ctx : Nat) (cause : Int) (addr : CheckAt) (s : State) : Result :=
  agent (decide (ctx < Config.contexts)) (s.keptCheck ctx cause addr.addr addr.words)

/-- FRONT_END (R404). -/
def execFrontEnd (front : Nat) (cause : Int) (s : State) : Result := .next (s.frontEndStep front cause)

/-- PTIME_TICK (R417). -/
def execPtimeTick (s : State) : Result := .next s.ptimeTick

/-- PACKAGE_TIME_STOPPED (R420). -/
def execPackageTimeStopped (die : Nat) (s : State) : Result := agent (decide (die < 12)) (s.packageStopped die)

/-- REQUEST_TIMEOUT (R414). -/
def execRequestTimeout (r : TimedOut) (s : State) : Result :=
  agent (match r with
    | .ctx k => decide (k < Config.contexts)
    | .directory _ _ => true) (s.requestTimeout r)

/-- ZARGEN_TIMEOUT (R425). -/
def execZargenTimeout (seq : Nat) (s : State) : Result := .next (s.zargenTimeout seq)

/-- UCIE_FLIT_LOST (R422). -/
def execUcieFlitLost (f : FlitKind) (s : State) : Result := .next (s.flitLost f)

/-- ZARGEN_WRITE (R424). -/
def execZargenWrite (m : ZPacket) (s : State) : Result := .next (s.zargenWrite m)

/-- ZARGEN_READ (R424). -/
def execZargenRead (m : ZPacket) (s : State) : Result := .next (s.zargenRead m)

/-- ZARGEN_ATOMIC (R424). -/
def execZargenAtomic (m : ZPacket) (s : State) : Result := .next (s.zargenAtomic m)

/-- ZARGEN_ACK (R424). -/
def execZargenAck (seq : Nat) (s : State) : Result := .next (s.zargenAck seq)

/-- HOST_READ (R429). -/
def execHostRead (fn : HostFn) (off n : Nat) (s : State) : Result := .next (s.hostRead fn off n)

/-- HOST_WRITE (R429). -/
def execHostWrite (fn : HostFn) (off : Nat) (bytes : List (BitVec 8)) (s : State) : Result :=
  .next (s.hostWrite fn off bytes)

/-- HOST_COMPLETION (R427). -/
def execHostCompletion (ctx die line : Nat) (good : Bool) (s : State) : Result :=
  agent (decide (ctx < Config.contexts ∧ die < 12)) (s.hostCompletion ctx line good)

/-- SNAPIN_EDGE (R432). -/
def execSnapinEdge (s : State) : Result := .next s.snapTrigger

/-- SNAPSHOT_TRIGGER_WRITE (R432). -/
def execSnapshotTriggerWrite (s : State) : Result := .next s.snapTrigger

/-- SNAPSHOT_CAPTURE (R432). -/
def execSnapshotCapture (s : State) : Result := .next s.snapCapture

/-- DEBUG_STOP (R437). -/
def execDebugStop (r : GustRef) (s : State) : Result := .next (s.debugStop r)

/-- DEBUG_RESUME (R437). -/
def execDebugResume (r : GustRef) (s : State) : Result := .next (s.debugResume r)

/-- DEBUG_HOLD (R438). -/
def execDebugHold (r : GustRef) (s : State) : Result := .next (s.debugHold r)

/-- DEBUG_RELEASE (R437). -/
def execDebugRelease (r : GustRef) (s : State) : Result := .next (s.debugRelease r)

/-- RESET (R457). -/
def execReset (s : State) : Result := .next s.resetDevice

/-- BOOTGO (R458). -/
def execBootgo (v : Nat) (s : State) : Result := .next (s.bootgo v)

/-- FIRMWARE_CHECK (R459). -/
def execFirmwareCheck (s : State) : Result := .next s.firmwareCheck

/-- ATTESTATION (R461). -/
def execAttestation (nonce : List (BitVec 8)) (s : State) : Result := .next (s.attestation nonce)

/-- D3HOT_REQUEST (R463). -/
def execD3hotRequest (s : State) : Result := .next s.d3hotRequest

/-- D3HOT_ENTER (R463). -/
def execD3hotEnter (s : State) : Result := .next s.d3hotEnter

/-- D0_RETURN (R463). -/
def execD0Return (s : State) : Result := .next s.d0Return

/-- MODULE_LOAD (R452). -/
def execModuleLoad (l : ModuleLoad) (s : State) : Result := .next (s.moduleLoad l)

/-- MODULE_UNLOAD (R454). -/
def execModuleUnload (image : Nat) (s : State) : Result := .next (s.moduleUnload image)

/-- SOFT_ERROR (R53). -/
def execSoftError (p : SoftPlace) (trits : Nat) (s : State) : Result := .next (s.softError p trits)

/-- BRING_UP_COMPLETE (R457). -/
def execBringUpComplete (s : State) : Result := .next s.bringUp

/-- D3COLD_ENTRY (R463). -/
def execD3coldEntry (s : State) : Result := .next s.d3cold

end Sys2Proof.Machine
end

