-- ==== Sys2Proof/Machine/TritForms.lean ====
section
/-! DEFINITION. The trit-wise forms of group +2 (R144 to R146). -/

namespace Sys2Proof.Machine

/-- A two-input trit function on two words, trit by trit (R144). -/
def tritwise (f : Int → Int → Int) : LaneFn := fun a b _ =>
  ([Word.ofInt (ofTrits (List.zipWith f (a.getD 0 Word.zero).trits (b.getD 0 Word.zero).trits))], .zero)

/-- TCON's table (R144): the common trit, or zero. -/
def conTrit (a b : Int) : Int := if a = b then a else 0

/-- TROT (R145). -/
def trotE (n : Nat) : ElemFn := fun x k _ =>
  let k := (k % Int.ofNat n).toNat
  let ts := tritsOf x n
  (ofTrits ((List.range n).map fun i => ts.getD ((i + n - k) % n) 0), 0)

/-- TCNT (R145): by variant the nonzero, plus or minus trits. -/
def tcntE (n : Nat) (v : Trit) : ElemFn := fun x _ _ =>
  (Int.ofNat ((tritsOf x n).filter fun t => match v with
    | .zero => t != 0
    | .plus => t == 1
    | .minus => t == -1).length, 0)

/-- The field of a TEXT or TINS control: origin and width, where it is valid (R145). -/
def fieldOf (n : Nat) (c : Int) : Option (Nat × Nat) :=
  let lo := c % 27
  let w := (c - lo) / 27
  if 1 ≤ w ∧ lo + w ≤ Int.ofNat n then some (lo.toNat, w.toNat) else none

/-- TEXT (R145). -/
def textE (n : Nat) : ElemFn := fun x c _ =>
  match fieldOf n c with
  | some (lo, w) => (fld x (lo + w - 1) lo, 0)
  | none => (0, 0)

/-- TINS (R145). -/
def tinsE (n : Nat) : ElemFn := fun x c z =>
  match fieldOf n c with
  | some (lo, w) => (setFld z (lo + w - 1) lo (wrapT x w), 0)
  | none => (z, 0)

/-- PACK3 (R146). -/
def pack3W (ty : ETy) (v : Trit) : LaneFn := fun a _ _ =>
  let src : List Int := match ty with
    | .i9 => a.map Word.val
    | _ => a.flatMap fun w => elems w.val 9 3
  let rs : List (Int × Int) := src.map fun x => narrow x ty.width v
  ([Word.ofInt (packElems ty.width (rs.map (·.1)))], Trit.sgn (firstStatus (rs.map (·.2))))

/-- UNPK3 (R146). -/
def unpk3W (ty : ETy) : LaneFn := fun a _ _ =>
  let x := (a.getD 0 Word.zero).val
  let es := elems x ty.width ty.count
  (match ty with
    | .i9 => es.map Word.ofInt
    | _ => (List.range 3).map fun j => Word.ofInt (packElems 9 ((es.drop (3 * j)).take 3)), .zero)

/-- TAND. -/
def execTand (c : Ctl) (o : TOps) (s : State) : Result := s.performT c o false 1 1 1 (tritwise min)
/-- TOR. -/
def execTor (c : Ctl) (o : TOps) (s : State) : Result := s.performT c o false 1 1 1 (tritwise max)
/-- TSUM. -/
def execTsum (c : Ctl) (o : TOps) (s : State) : Result :=
  s.performT c o false 1 1 1 (tritwise fun a b => wrapT (a + b) 1)
/-- TMUL. -/
def execTmul (c : Ctl) (o : TOps) (s : State) : Result := s.performT c o false 1 1 1 (tritwise fun a b => a * b)
/-- TCON. -/
def execTcon (c : Ctl) (o : TOps) (s : State) : Result := s.performT c o false 1 1 1 (tritwise conTrit)
/-- TROT. -/
def execTrot (c : Ctl) (o : TOps) (s : State) : Result := s.performElem c o false (trotE o.ty.width)
/-- TCNT. -/
def execTcnt (c : Ctl) (o : TOps) (s : State) : Result := s.performElem c o false (tcntE o.ty.width o.var)
/-- TEXT. -/
def execText (c : Ctl) (o : TOps) (s : State) : Result := s.performElem c o false (textE o.ty.width)
/-- TINS. -/
def execTins (c : Ctl) (o : TOps) (s : State) : Result := s.performElem c o false (tinsE o.ty.width)
/-- PACK3. -/
def execPack3 (c : Ctl) (o : TOps) (s : State) : Result := s.performT c o o.isCy 1 3 1 (pack3W o.ty o.var)
/-- UNPK3. -/
def execUnpk3 (c : Ctl) (o : TOps) (s : State) : Result := s.performT c o false 3 1 1 (unpk3W o.ty)

end Sys2Proof.Machine
end

