-- ==== Sys2Proof/Machine/Dispatch.lean ====
section
/-! DEFINITION. `exec`: one arm per constructor of `Instr`, each a direct call of that row's meaning. -/

namespace Sys2Proof.Machine

def exec (i : Instr) (s : State) : Host.Outcome State Fault Refusal :=
  match i with
  | .nop c => Sys2Proof.Machine.execNop c s
  | .bra c off => Sys2Proof.Machine.execBra c off s
  | .brp c mode p off => Sys2Proof.Machine.execBrp c mode p off s
  | .btri c a plus minus => Sys2Proof.Machine.execBtri c a plus minus s
  | .split c p join els => Sys2Proof.Machine.execSplit c p join els s
  | .join c => Sys2Proof.Machine.execJoin c s
  | .breakOut c n => Sys2Proof.Machine.execBreak c n s
  | .call c d off => Sys2Proof.Machine.execCall c d off s
  | .calli c d a => Sys2Proof.Machine.execCalli c d a s
  | .ret c a => Sys2Proof.Machine.execRet c a s
  | .exit c => Sys2Proof.Machine.execExit c s
  | .yield c n => Sys2Proof.Machine.execYield c n s
  | .yieldExpiry r => Sys2Proof.Machine.execYieldExpiry r s
  | .add c o => Sys2Proof.Machine.execAdd c o s
  | .sub c o => Sys2Proof.Machine.execSub c o s
  | .neg c o => Sys2Proof.Machine.execNeg c o s
  | .mul c o => Sys2Proof.Machine.execMul c o s
  | .mulh c o => Sys2Proof.Machine.execMulh c o s
  | .mad c o => Sys2Proof.Machine.execMad c o s
  | .div c o => Sys2Proof.Machine.execDiv c o s
  | .mod c o => Sys2Proof.Machine.execMod c o s
  | .sht c o => Sys2Proof.Machine.execSht c o s
  | .abs c o => Sys2Proof.Machine.execAbs c o s
  | .sgn c o => Sys2Proof.Machine.execSgn c o s
  | .min c o => Sys2Proof.Machine.execMin c o s
  | .max c o => Sys2Proof.Machine.execMax c o s
  | .clamp c o => Sys2Proof.Machine.execClamp c o s
  | .cmp c o => Sys2Proof.Machine.execCmp c o s
  | .tand c o => Sys2Proof.Machine.execTand c o s
  | .tor c o => Sys2Proof.Machine.execTor c o s
  | .tsum c o => Sys2Proof.Machine.execTsum c o s
  | .tmul c o => Sys2Proof.Machine.execTmul c o s
  | .tcon c o => Sys2Proof.Machine.execTcon c o s
  | .trot c o => Sys2Proof.Machine.execTrot c o s
  | .tcnt c o => Sys2Proof.Machine.execTcnt c o s
  | .text c o => Sys2Proof.Machine.execText c o s
  | .tins c o => Sys2Proof.Machine.execTins c o s
  | .pack3 c o => Sys2Proof.Machine.execPack3 c o s
  | .unpk3 c o => Sys2Proof.Machine.execUnpk3 c o s
  | .mov c o => Sys2Proof.Machine.execMov c o s
  | .movi c o => Sys2Proof.Machine.execMovi c o s
  | .pset c o => Sys2Proof.Machine.execPset c o s
  | .pand c d a b => Sys2Proof.Machine.execPand c d a b s
  | .por c d a b => Sys2Proof.Machine.execPor c d a b s
  | .pnot c d a => Sys2Proof.Machine.execPnot c d a s
  | .fadd c o => Sys2Proof.Machine.execFadd c o s
  | .fsub c o => Sys2Proof.Machine.execFsub c o s
  | .fmul c o => Sys2Proof.Machine.execFmul c o s
  | .fma c o => Sys2Proof.Machine.execFma c o s
  | .fmin c o => Sys2Proof.Machine.execFmin c o s
  | .fmax c o => Sys2Proof.Machine.execFmax c o s
  | .fcmp c o => Sys2Proof.Machine.execFcmp c o s
  | .fcls c o => Sys2Proof.Machine.execFcls c o s
  | .cvt c o => Sys2Proof.Machine.execCvt c o s
  | .frnd c o => Sys2Proof.Machine.execFrnd c o s
  | .frcp c o => Sys2Proof.Machine.execFrcp c o s
  | .frsq c o => Sys2Proof.Machine.execFrsq c o s
  | .fsqt c o => Sys2Proof.Machine.execFsqt c o s
  | .fexp c o => Sys2Proof.Machine.execFexp c o s
  | .flog c o => Sys2Proof.Machine.execFlog c o s
  | .ftanh c o => Sys2Proof.Machine.execFtanh c o s
  | .fsigm c o => Sys2Proof.Machine.execFsigm c o s
  | .fsin c o => Sys2Proof.Machine.execFsin c o s
  | .shfl c o => Sys2Proof.Machine.execShfl c o s
  | .bcast c o => Sys2Proof.Machine.execBcast c o s
  | .red c o => Sys2Proof.Machine.execRed c o s
  | .scan c o => Sys2Proof.Machine.execScan c o s
  | .sort c o => Sys2Proof.Machine.execSort c o s
  | .vtriad c o => Sys2Proof.Machine.execVtriad c o s
  | .qnt c o => Sys2Proof.Machine.execQnt c o s
  | .dqnt c o => Sys2Proof.Machine.execDqnt c o s
  | .rand c o => Sys2Proof.Machine.execRand c o s
  | .rseed c a b => Sys2Proof.Machine.execRseed c a b s
  | .ldp c m => Sys2Proof.Machine.execLdp c m s
  | .stp c m => Sys2Proof.Machine.execStp c m s
  | .ldps c m => Sys2Proof.Machine.execLdps c m s
  | .stps c m => Sys2Proof.Machine.execStps c m s
  | .amop c op ty m => Sys2Proof.Machine.execAmop c op ty m s
  | .barinit c b n => Sys2Proof.Machine.execBarinit c b n s
  | .bararr c d b p n => Sys2Proof.Machine.execBararr c d b p n s
  | .barwait c b t => Sys2Proof.Machine.execBarwait c b t s
  | .barsync c b => Sys2Proof.Machine.execBarsync c b s
  | .bardrop c b p n => Sys2Proof.Machine.execBardrop c b p n s
  | .barqry c d b => Sys2Proof.Machine.execBarqry c d b s
  | .gang c rows map => Sys2Proof.Machine.execGang c rows map s
  | .oclaim c o n => Sys2Proof.Machine.execOclaim c o n s
  | .orlse c o n => Sys2Proof.Machine.execOrlse c o n s
  | .ofill c o a b src => Sys2Proof.Machine.execOfill c o a b src s
  | .ofence c o n => Sys2Proof.Machine.execOfence c o n s
  | .mma c fmt t a b third => Sys2Proof.Machine.execMma c fmt t a b third s
  | .aclaim c t n => Sys2Proof.Machine.execAclaim c t n s
  | .arlse c t n => Sys2Proof.Machine.execArlse c t n s
  | .claimReleaseEffect q => Sys2Proof.Machine.execClaimReleaseEffect q s
  | .azero c t n => Sys2Proof.Machine.execAzero c t n s
  | .ald c t a b src => Sys2Proof.Machine.execAld c t a b src s
  | .ast c d t status => Sys2Proof.Machine.execAst c d t status s
  | .drain c t a b sp off scope ev addTy count => Sys2Proof.Machine.execDrain c t a b sp off scope ev addTy count s
  | .rwait c a sp off scope clr => Sys2Proof.Machine.execRwait c a sp off scope clr s
  | .ppoint c t n o m => Sys2Proof.Machine.execPpoint c t n o m s
  | .ld c m => Sys2Proof.Machine.execLd c m s
  | .st c m => Sys2Proof.Machine.execSt c m s
  | .lds c m => Sys2Proof.Machine.execLds c m s
  | .sts c m => Sys2Proof.Machine.execSts c m s
  | .atom c op ty scalar m => Sys2Proof.Machine.execAtom c op ty scalar m s
  | .cas c f scalar m => Sys2Proof.Machine.execCas c f scalar m s
  | .pref c line m => Sys2Proof.Machine.execPref c line m s
  | .demote c m => Sys2Proof.Machine.execDemote c m s
  | .latch c ev bc d a n off => Sys2Proof.Machine.execLatch c ev bc d a n off s
  | .latcht c ev bc d a b n off => Sys2Proof.Machine.execLatcht c ev bc d a b n off s
  | .unlatch c sus bc a n off => Sys2Proof.Machine.execUnlatch c sus bc a n off s
  | .latq c bc d a off => Sys2Proof.Machine.execLatq c bc d a off s
  | .fence c ord scope => Sys2Proof.Machine.execFence c ord scope s
  | .ifence c => Sys2Proof.Machine.execIfence c s
  | .probe c bc d a start off => Sys2Proof.Machine.execProbe c bc d a start off s
  | .fref c d a b warm => Sys2Proof.Machine.execFref c d a b warm s
  | .migr c d n => Sys2Proof.Machine.execMigr c d n s
  | .mpoint c n => Sys2Proof.Machine.execMpoint c n s
  | .cpy c conv ssp dsp d a b h => Sys2Proof.Machine.execCpy c conv ssp dsp d a b h s
  | .cpyFrame c d a b h => Sys2Proof.Machine.execCpyFrame c d a b h s
  | .mcast c ssp d a b h => Sys2Proof.Machine.execMcast c ssp d a b h s
  | .ovl c d a b e h => Sys2Proof.Machine.execOvl c d a b e h s
  | .thaw c ty kind d a b n h => Sys2Proof.Machine.execThaw c ty kind d a b n h s
  | .freeze c ty ssp tab d a b m h => Sys2Proof.Machine.execFreeze c ty ssp tab d a b m h s
  | .pgin c a h => Sys2Proof.Machine.execPgin c a h s
  | .pgout c a h => Sys2Proof.Machine.execPgout c a h s
  | .bclose c d => Sys2Proof.Machine.execBclose c d s
  | .bwait c src => Sys2Proof.Machine.execBwait c src s
  | .bqry c d => Sys2Proof.Machine.execBqry c d s
  | .gset c q v => Sys2Proof.Machine.execGset c q v s
  | .gclr c q => Sys2Proof.Machine.execGclr c q s
  | .launch c d a => Sys2Proof.Machine.execLaunch c d a s
  | .launchReply r => Sys2Proof.Machine.execLaunchReply r s
  | .lwait c d a => Sys2Proof.Machine.execLwait c d a s
  | .lqry c d a => Sys2Proof.Machine.execLqry c d a s
  | .prio c d src => Sys2Proof.Machine.execPrio c d src s
  | .bindRecordRewrite die front => Sys2Proof.Machine.execBindRecordRewrite die front s
  | .trap c n => Sys2Proof.Machine.execTrap c n s
  | .eret c => Sys2Proof.Machine.execEret c s
  | .rdsr c d r => Sys2Proof.Machine.execRdsr c d r s
  | .wrsr c r a => Sys2Proof.Machine.execWrsr c r a s
  | .snap c => Sys2Proof.Machine.execSnap c s
  | .brk c n => Sys2Proof.Machine.execBrk c n s
  | .issueChoice core => Sys2Proof.Machine.execIssueChoice core s
  | .trapEntry r cause detail => Sys2Proof.Machine.execTrapEntry r cause detail s
  | .gustRetire r => Sys2Proof.Machine.execGustRetire r s
  | .loadSectorReturn r n => Sys2Proof.Machine.execLoadSectorReturn r n s
  | .registerWindowWrite core u w => Sys2Proof.Machine.execRegisterWindowWrite core u w s
  | .commandAccept core => Sys2Proof.Machine.execCommandAccept core s
  | .matrixCommandRun core => Sys2Proof.Machine.execMatrixCommandRun core s
  | .matrixCommandComplete core => Sys2Proof.Machine.execMatrixCommandComplete core s
  | .fillComplete core => Sys2Proof.Machine.execFillComplete core s
  | .drainApply core => Sys2Proof.Machine.execDrainApply core s
  | .engineCommandStart q => Sys2Proof.Machine.execEngineCommandStart q s
  | .thawRingPoll core => Sys2Proof.Machine.execThawRingPoll core s
  | .engineCommandComplete q => Sys2Proof.Machine.execEngineCommandComplete q s
  | .batchComplete r => Sys2Proof.Machine.execBatchComplete r s
  | .homeFill line => Sys2Proof.Machine.execHomeFill line s
  | .l1Fill die loc first n ev => Sys2Proof.Machine.execL1Fill die loc first n ev s
  | .l1WriteBack die loc sector => Sys2Proof.Machine.execL1WriteBack die loc sector s
  | .homeApplyWrite m => Sys2Proof.Machine.execHomeApplyWrite m s
  | .invalidation die line sector stamp => Sys2Proof.Machine.execInvalidation die line sector stamp s
  | .dirtyNotice die line sector => Sys2Proof.Machine.execDirtyNotice die line sector s
  | .forcedPublish die line sector => Sys2Proof.Machine.execForcedPublish die line sector s
  | .homeRecall line => Sys2Proof.Machine.execHomeRecall line s
  | .atomicApply r => Sys2Proof.Machine.execAtomicApply r s
  | .latchRequest m => Sys2Proof.Machine.execLatchRequest m s
  | .latchRelease m => Sys2Proof.Machine.execLatchRelease m s
  | .latchGrant m => Sys2Proof.Machine.execLatchGrant m s
  | .latchLeaseLapse line who => Sys2Proof.Machine.execLatchLeaseLapse line who s
  | .latchtDeadline line who => Sys2Proof.Machine.execLatchtDeadline line who s
  | .deadlockProbeSend line who => Sys2Proof.Machine.execDeadlockProbeSend line who s
  | .deadlockProbe m => Sys2Proof.Machine.execDeadlockProbe m s
  | .pageWalk core ctx x => Sys2Proof.Machine.execPageWalk core ctx x s
  | .laneRetranslate r => Sys2Proof.Machine.execLaneRetranslate r s
  | .tlbLeaseExpiry core => Sys2Proof.Machine.execTlbLeaseExpiry core s
  | .pageIn n => Sys2Proof.Machine.execPageIn n s
  | .pageOut n => Sys2Proof.Machine.execPageOut n s
  | .launchListConsume ctx => Sys2Proof.Machine.execLaunchListConsume ctx s
  | .rangeDistribute front die => Sys2Proof.Machine.execRangeDistribute front die s
  | .bindRecordWrite b => Sys2Proof.Machine.execBindRecordWrite b s
  | .squallBind front core => Sys2Proof.Machine.execSquallBind front core s
  | .frontRetire front => Sys2Proof.Machine.execFrontRetire front s
  | .graphNodeAct g node => Sys2Proof.Machine.execGraphNodeAct g node s
  | .graphComplete g => Sys2Proof.Machine.execGraphComplete g s
  | .shutterRequest q => Sys2Proof.Machine.execShutterRequest q s
  | .forcedSave q => Sys2Proof.Machine.execForcedSave q s
  | .shutterSave q => Sys2Proof.Machine.execShutterSave q s
  | .shutterRestore q core => Sys2Proof.Machine.execShutterRestore q core s
  | .migrationTransfer q => Sys2Proof.Machine.execMigrationTransfer q s
  | .migrationComplete q => Sys2Proof.Machine.execMigrationComplete q s
  | .machineCheck ctx cause addr => Sys2Proof.Machine.execMachineCheck ctx cause addr s
  | .frontEnd front cause => Sys2Proof.Machine.execFrontEnd front cause s
  | .ptimeTick => Sys2Proof.Machine.execPtimeTick s
  | .packageTimeStopped die => Sys2Proof.Machine.execPackageTimeStopped die s
  | .requestTimeout r => Sys2Proof.Machine.execRequestTimeout r s
  | .zargenTimeout seq => Sys2Proof.Machine.execZargenTimeout seq s
  | .ucieFlitLost f => Sys2Proof.Machine.execUcieFlitLost f s
  | .zargenWrite m => Sys2Proof.Machine.execZargenWrite m s
  | .zargenRead m => Sys2Proof.Machine.execZargenRead m s
  | .zargenAtomic m => Sys2Proof.Machine.execZargenAtomic m s
  | .zargenAck seq => Sys2Proof.Machine.execZargenAck seq s
  | .hostRead fn off n => Sys2Proof.Machine.execHostRead fn off n s
  | .hostWrite fn off bytes => Sys2Proof.Machine.execHostWrite fn off bytes s
  | .hostCompletion ctx die line good => Sys2Proof.Machine.execHostCompletion ctx die line good s
  | .snapinEdge => Sys2Proof.Machine.execSnapinEdge s
  | .snapshotTriggerWrite => Sys2Proof.Machine.execSnapshotTriggerWrite s
  | .snapshotCapture => Sys2Proof.Machine.execSnapshotCapture s
  | .debugStop r => Sys2Proof.Machine.execDebugStop r s
  | .debugResume r => Sys2Proof.Machine.execDebugResume r s
  | .debugHold r => Sys2Proof.Machine.execDebugHold r s
  | .debugRelease r => Sys2Proof.Machine.execDebugRelease r s
  | .reset => Sys2Proof.Machine.execReset s
  | .bootgo v => Sys2Proof.Machine.execBootgo v s
  | .firmwareCheck => Sys2Proof.Machine.execFirmwareCheck s
  | .attestation nonce => Sys2Proof.Machine.execAttestation nonce s
  | .d3hotRequest => Sys2Proof.Machine.execD3hotRequest s
  | .d3hotEnter => Sys2Proof.Machine.execD3hotEnter s
  | .d0Return => Sys2Proof.Machine.execD0Return s
  | .moduleLoad l => Sys2Proof.Machine.execModuleLoad l s
  | .moduleUnload image => Sys2Proof.Machine.execModuleUnload image s
  | .softError p trits => Sys2Proof.Machine.execSoftError p trits s
  | .bringUpComplete => Sys2Proof.Machine.execBringUpComplete s
  | .d3coldEntry => Sys2Proof.Machine.execD3coldEntry s

end Sys2Proof.Machine
end

