-- ==== Sys2Proof/Machine/Step.lean ====
section
/-! DEFINITION. One step of the machine: the gust that issues executes its instruction; with no gust issuing, one of the acts
that can happen next happens, and which one is a free choice (log entry 3). The acts are those of the device's own agents,
the messages in flight, and the next act of the outside world (log entry 2). -/

namespace Sys2Proof.Machine

/-- Where an act comes from. -/
inductive Source where
  | agent
  | message
  | outside
deriving DecidableEq, Repr

/-- An act that can happen next. -/
structure Act where
  src : Source
  act : Instr
deriving DecidableEq, Repr

/-- Messages that are taken in the order they were sent share a key: what one L1 slice of a die tells one home slice (R260, R270,
R271), what a home tells one gust of a line, the writes of this device to a remote line (R424), and a gust's writes to barrier records
(R190). A store on its way to its own L1 slice has none (R274). -/
def msgKey : Instr → Option (List Nat)
  | .latchRequest m => some [0, m.die, m.line % 27, homeSlice m.line]
  | .latchRelease m => some [0, m.die, m.line % 27, homeSlice m.line]
  | .latchGrant m => some [1, m.who.front, m.who.lin, m.who.gust, m.line]
  | .homeApplyWrite m => if m.narrow then none else (match m.loc with
    | .dev p => some [0, m.die, p % 27, homeSlice p]
    | .remote dev p => some [2, dev, p]
    | .win core => (match winReg (coreIsD core) m.word with
      | some (.bar _ _) => m.src.map fun r => [3, r.front, r.lin, r.gust]
      | _ => none)
    | _ => none)
  | _ => none

/-- The messages that can be taken next: those with no earlier one of their key. -/
def firstOfKind : List (List Nat) → List Instr → List Instr
  | _, [] => []
  | seen, i :: is => match msgKey i with
    | none => i :: firstOfKind seen is
    | some k => if seen.contains k then firstOfKind seen is else i :: firstOfKind (k :: seen) is

/-- A write to a remote line leaves only once every earlier one is acknowledged (R424). -/
def State.mayLeave (s : State) : Instr → Bool
  | .homeApplyWrite m => (match m.loc with
    | .remote _ _ => !s.flight.any fun i => (match i with
      | .zargenAck n => s.outstanding.any fun (o : Outstanding) => o.seq == n && (match m.loc with
        | .remote dev p => o.dest == dev && o.line == p
        | _ => false)
      | _ => false)
    | _ => true)
  | _ => true

/-- Timed acts that are due at this tick (R262, R264, R265, R311, R409, R414, R420, R425, R432). -/
def State.due (s : State) : List Instr :=
  (s.heads.flatMap fun (h : QHead) => h.entries.flatMap fun (e : Waiter) =>
    (match e.st with
      | .offered t => if t + Config.latchLease ≤ s.ptime then [Instr.latchLeaseLapse h.line e.who] else []
      | _ => (match e.deadline with
          | some t => if t < s.ptime then [Instr.latchtDeadline h.line e.who] else []
          | none => []) ++
        (if e.probeAt ≤ s.ptime then [Instr.deadlockProbeSend h.line e.who] else []))) ++
  (s.squalls.filterMap fun (q : Squall) => match q.shutter with
    | some (t, false) =>
      if t + Config.forcedTicks ≤ s.ptime ∧ q.migration.isNone ∧ !(s.gustsOf q.q).all (·.halted) then some (.forcedSave q.q)
      else none
    | _ => none) ++
  (s.outstanding.filterMap fun (o : Outstanding) =>
    if o.at_ + Config.zargenTicks ≤ s.ptime then some (.zargenTimeout o.seq) else none) ++
  ((s.overdue.map (·.1)).eraseDups.map fun k => Instr.requestTimeout (.ctx k)) ++
  (s.gusts.filterMap fun (g : Gust) => match g.status with
    | .waiting _ .replay | .waiting _ .page =>
      if !g.halted && decide (g.since + Config.retranslateTicks ≤ s.ptime) then some (.laneRetranslate g.ref) else none
    | _ => none) ++
  (if s.stopped then [] else ((List.range 9).filter s.tickless).map Instr.packageTimeStopped) ++
  (match s.snapAt with
    | some t => if t ≤ s.ptime then [Instr.snapshotCapture] else []
    | none => [])

/-- Acts about one gust (R96, R97, R244, R249, R311, R323, R437). -/
def State.gustActs (s : State) (g : Gust) : List Instr :=
  let core := (s.squall? g.ref.sq).elim 0 (·.core)
  (match g.status with
    | .yielded t => if t ≤ (s.core core).cycle then [Instr.yieldExpiry g.ref] else []
    | .retiring => [Instr.gustRetire g.ref]
    | .waiting _ .replay | .waiting _ .page => if g.halted then [] else [Instr.laneRetranslate g.ref]
    | _ => []) ++
  ((List.range (g.loads.flatMap fun (l : PendLoad) => l.items).length).map fun n => Instr.loadSectorReturn g.ref n) ++
  (if g.atoms.isEmpty then [] else [Instr.atomicApply g.ref]) ++
  (if g.doneUpto < g.bnum then [Instr.batchComplete g.ref] else []) ++
  (if g.cmdCode = 1 then [Instr.debugStop g.ref]
   else if g.cmdCode = 2 then [Instr.debugResume g.ref]
   else if g.cmdCode = 3 then [Instr.debugHold g.ref]
   else if g.cmdCode = 4 then [Instr.debugRelease g.ref]
   else [])

/-- Acts about one bound squall (R210, R364, R392, R410). -/
def State.squallActs (s : State) (q : Squall) : List Instr :=
  (if q.tiles.any (·.releasing) || q.slots.any (·.releasing) then [Instr.claimReleaseEffect q.q] else []) ++
  (match q.migration with
    | some m => if m.moved then [Instr.migrationComplete q.q] else [Instr.migrationTransfer q.q]
    | none => if (s.gustsOf q.q).any fun g => g.arrivedAt.isSome then [Instr.migrationTransfer q.q] else []) ++
  (match q.shutter with
    | none => [Instr.shutterRequest q.q]
    | some _ => [Instr.shutterSave q.q])

/-- The stage of a queue's head. -/
def headStage (l : List Cmd) : Option Stage := l.head?.map (·.stage)

/-- Acts of one core (R222, R228, R306, R319 to R321, R343, R366). -/
def State.coreActs (s : State) (core : Nat) : List Instr :=
  let c := s.core core
  let engine := fun (l : List Cmd) (e : EngQ) => match headStage l with
    | none => []
    | some .queued => [Instr.engineCommandStart e]
    | some _ => [Instr.engineCommandComplete e]
  [Instr.issueChoice core] ++
  (if c.acceptQ.isEmpty then [] else [Instr.commandAccept core]) ++
  (match headStage c.matrixQ with
    | none => []
    | some .queued => [Instr.matrixCommandRun core]
    | some .started => [Instr.drainApply core]
    | some .ran => [Instr.matrixCommandComplete core]) ++
  (if c.fillQ.isEmpty then [] else [Instr.fillComplete core]) ++
  engine c.copyQ (.copy core) ++ engine c.codecQ (.codec core) ++
  (if headStage c.codecQ = some .started then [Instr.thawRingPoll core] else []) ++
  (if c.tlb.isEmpty && c.ahead.isEmpty && (s.die (dieOf core)).walks.isEmpty then [] else [Instr.tlbLeaseExpiry core])

/-- Acts of the context-paging engine (R319, R320, R347 to R350). -/
def State.pagingActs (s : State) : List Instr :=
  (if s.paging.any fun c => c.stage == .queued then [Instr.engineCommandStart .paging] else []) ++
  (if s.paging.any fun c => c.stage == .ran then [Instr.engineCommandComplete .paging] else []) ++
  s.paging.filterMap fun (c : Cmd) =>
    if c.stage ≠ .started then none
    else match c.instr with
      | .pgout _ _ _ => some (.pageOut c.recordOf)
      | _ => some (.pageIn c.recordOf)

/-- A bind record as firmware's policy chooses it (R362): the policy's free choices (log entry 3). -/
def State.bindChoice (s : State) (die front : Nat) : BindChoice :=
  let x := fun (k : Nat) => Config.freeChoice (s.choice + 1 + k)
  { die, front, policy := Trit.sgn (Int.ofNat (x 0 % 3) - 1),
    coreSet := Word.ofInt (ofTrits ((List.range 27).map fun i => if (x 1).testBit i then 1 else 0)),
    quantum := x 2 % 1594324 }

/-- Acts of one die's scheduling core, distributors and dispatch (R360 to R365, R410). -/
def State.dieActs (s : State) (die : Nat) : List Instr :=
  let d := s.die die
  let cores := (List.range Config.coresPerDie).map fun k => Config.coresPerDie * die + k
  (s.fronts.filterMap fun (f : Front) =>
    if (s.bindRec? die f.num).isNone then some (.bindRecordWrite (s.bindChoice die f.num)) else none) ++
  (d.bindRecs.map fun (b : BindRec) => Instr.rangeDistribute b.front die) ++
  (d.dists.flatMap fun (x : Dist) => cores.map fun k => Instr.squallBind x.front k) ++
  ((s.shuttered.filter fun (x : Shuttered) => x.die == die).flatMap fun (x : Shuttered) =>
    cores.map fun k => Instr.shutterRestore x.q k) ++
  (d.l1.flatMap fun (l : L1Line) => ((List.range 9).filter fun q => !(l.dirtyIn q).isEmpty && !(match l.loc with
    | .dev p => s.latchAhead die p
    | _ => false)).map fun q =>
    Instr.l1WriteBack die l.loc q)

/-- Acts of the chip scheduling core (R357, R358, R373, R374). -/
def State.chipActs (s : State) : List Instr :=
  ((List.range Config.contexts).filterMap fun k =>
    if (s.context k).xlist.val > 0 then some (Instr.launchListConsume k) else none) ++
  (s.fronts.filterMap fun (f : Front) => if f.left = 0 ∧ f.ending.isNone then some (Instr.frontRetire f.num) else none) ++
  s.graphs.flatMap fun (g : Graph) =>
    ((List.range g.nodes.length).map fun i => Instr.graphNodeAct g.id i) ++ [Instr.graphComplete g.id]

/-- Acts of the boot ROM and the firmware (R457 to R459, R463). -/
def State.bootActs (s : State) : List Instr :=
  (if s.boot.checking then [Instr.firmwareCheck] else []) ++
  (if s.boot.running ∧ s.boot.bootst = 1 then [Instr.bringUpComplete] else []) ++
  (if s.boot.power = .d3hotWanted ∧ s.idle then [Instr.d3hotEnter] else [])

/-- Every act of the device's agents that has an occasion. -/
def State.agentActs (s : State) : List Instr :=
  let due := s.due
  (if due.isEmpty then [Instr.ptimeTick] else due) ++ s.bootActs ++ s.chipActs ++ s.pagingActs ++
  (s.gusts.flatMap fun g => s.gustActs g) ++ (s.squalls.flatMap fun q => s.squallActs q) ++
  ((List.range Config.cores).flatMap fun k => s.coreActs k) ++ ((List.range 9).flatMap fun d => s.dieActs d) ++
  (s.homes.map fun (h : HomeLine) => Instr.homeRecall h.line)

/-- Every act that can happen next. A device without power sees the outside world alone (R463). -/
def State.ready (s : State) : List Act :=
  (s.inputs.head?.map fun i => Act.mk .outside i).toList ++
  (if s.boot.power = .d3cold then []
   else (((firstOfKind [] s.flight).filter s.mayLeave).map fun i => Act.mk .message i) ++
     s.agentActs.map fun i => Act.mk .agent i)

/-- The act leaves the list it came from. -/
def State.take (s : State) (a : Act) : State :=
  match a.src with
  | .agent => { s with choice := s.choice + 3 }
  | .message => { s with flight := s.flight.erase a.act }
  | .outside => { s with inputs := s.inputs.tail }

/-- The act can be one of the outside world or of an agent: no instruction form is; and a device without power takes nothing
but the reset that starts it (R463). -/
def State.hears (s : State) (i : Instr) : Bool := i.fields.isNone && (s.boot.power != .d3cold || i == .reset)

/-- An act happens. -/
def State.happens (s : State) (a : Act) : Result :=
  if s.hears a.act then exec a.act (s.take a) else .next (s.take a)

/-- One step: the issuing gust's next instruction, fetched, checked and executed (R79, R80); or else one act. -/
def step (s : State) : Host.Outcome State Fault Refusal :=
  match s.cur with
  | some r => (match s.prepare r with
    | .run i s => exec i s
    | .halt s => .next s)
  | none =>
    let (k, s') := s.pick s.ready.length
    match s.ready[k]? with
    | some a => s'.happens a
    | none => .next s'

/-- The front of a program loaded by hand (log entry 2): one squall of one gust, with the whole of an L-core. -/
def handFront (n image : Nat) : Front :=
  { num := n, ctx := 0, by_ := .list, depth := 1, prio := .zero, ceiling := .zero,
    spec := { prefer := .minus, prio := .zero, dims := 1, gusts := 1, imgL := image, imgD := 0,
              alloc := { v := 729, s := 78, p := 27, g := 27, scratch := 531441, tiles := 2187, slots := 81, bars := 2187 },
              n0 := 1, n1 := 1, n2 := 1, ranges := [(0, 1)], args := 0, save := 1, done := 0, msix := -1 },
    left := 1, sent := [0], ending := none }

/-- The core a program loaded by hand runs on (log entry 2): L-core 24. -/
def handCore : Nat := 24

/-- A squall of one gust bound on the core, with its image at PC 0 and issuing (log entry 2). -/
def State.handLoad (s : State) : State :=
  let n := s.nextFront
  let image := s.freeImage.getD 1
  let f := handFront n image
  let im : Image := { num := image, ctx := 0, isD := false, priv := true, dir := 0 }
  let s := { s with nextFront := n + 1, fronts := s.fronts ++ [f], images := s.images ++ [im] }
  let s := s.bindAt f 0 handCore ⟨f.spec.alloc, ⟨0, 0, 0, 0⟩, [0], [0]⟩
  let seg : Seg := { image, first := 0, count := 1, index := 0, pending := false, reserved := false, oldFirst := 0,
                     oldCount := 0, oldIndex := 0 }
  let s := s.setSeg handCore 0 (some seg)
  { s with cur := some ⟨n, 0, 0⟩, issueLeft := 0 }

/-- Where the issuing gust fetches its instruction: its core and the index in the instruction scratchpad. -/
def State.fetchSpot (s : State) : Option (Nat × Nat) :=
  match s.cur with
  | none => none
  | some r => match s.gust? r, s.squall? r.sq with
    | some g, some q => (match s.codeIndex q.core q.image g.pc with
      | .ok i => some (q.core, i)
      | .error _ => none)
    | _, _ => none

/-- Three syllables put into an instruction scratchpad. -/
def State.putSyllables (s : State) (core i : Nat) (x : Syllables) : State :=
  s.onCore core fun (c : Core) =>
    let put := fun (m : Sparse) (k : Nat) (w : Word) => writeAt (fun _ => Word.zero) m (3 * i + k) w
    { c with isp := put (put (put c.isp 0 x.s0) 1 x.s1) 2 x.s2 }

/-- The state with an instruction stored where `step` fetches its next one (log entries 1 and 2): at the issuing gust's PC, or
at PC 0 of a program loaded by hand. Bits that stand for no trits change nothing. -/
def State.withFetchWord (s : State) (nbits w : Nat) : State :=
  match tableSyllables nbits w with
  | none => s
  | some x =>
    let s := if s.fetchSpot.isSome then s else s.handLoad
    match s.fetchSpot with
    | some (core, i) =>
      let s := s.putSyllables core i x
      match s.cur with
      | some r => s.onGust r fun (g : Gust) => { g with packet := none, oldCode := [] }
      | none => s
    | none => s

end Sys2Proof.Machine
end

