-- ==== Sys2Proof/Safety.lean ====
section
/-! DEFINITION. The terms claims are stated in: the gust that issues, a gust that nothing but its own instruction disturbs,
the state after an instruction that changed its gust alone, the canonical form of the memories, and what a safe step is. -/

namespace Sys2Proof.Machine

/-- Gust `g` of squall `q` issues in state `s`. -/
structure State.Issuing (s : State) (g : Gust) (q : Squall) : Prop where
  cur : s.cur = some g.ref
  gust : s.gust? g.ref = some g
  squall : s.squall? g.ref.sq = some q

/-- Nothing but its own effect follows an instruction of the gust: some lane's mask trit is plus, no lane has faulted and no mask word
has been written in the instruction, no shutter request (R409) and no stop command (R437) stand at the next boundary, and either the
gust is in its handler (R401), or no step bit (R436) and no trap for parked lanes (R109) does. -/
structure Gust.Undisturbed (g : Gust) (q : Squall) : Prop where
  live : g.mask.has 1 = true
  clean : g.laneFaulted = [] ∧ g.maskWrote = false
  still : q.shutter = none ∧ g.cmdCode ≠ 1
  calm : g.trapActive = true ∨ (g.stepBit = false ∧ (g.laneRec = [] ∨ g.stack ≠ []))

/-- A gust that has completed an instruction: `old` as the instruction found it, `new` as its effect left it, the PC at
`pc`. A D-layout packet stays fetched while the PC runs on into its next slot (R77), and a gust with no lane stays on its way to the
JOIN of that packet (R106). -/
def Gust.completed (old new : Gust) (isD : Bool) (pc : Int) : Gust :=
  let inPacket := pc == old.pc + 1 && pc % 3 != 0 && isD
  { new with pc, status := .running, issued := false, laneFaulted := [], maskWrote := false, pageWait := none, fillFaults := [],
             sent := new.onTheWay inPacket, packet := if inPacket then new.packet else none }

/-- The state after an instruction of gust `old` of squall `q` that left the gust as `new` and the PC at `pc`, and changed
nothing else: the gust goes on issuing in the rest of a D-layout packet or of the cycle, and else no gust issues (R77, R96). -/
def State.after (s : State) (old new : Gust) (q : Squall) (pc : Int) : State :=
  (s.setGust (Gust.completed old new q.isD pc)).keepIssuing old

/-- The same where the instruction leaves a trace packet (R442): a transfer (kind 1), a change of region (2), a return (4). -/
def State.afterTraced (s : State) (old new : Gust) (q : Squall) (pc kind word7 : Int) : State :=
  ((s.setGust (Gust.completed old new q.isD pc)).trace old.ref kind word7).keepIssuing old

/-- The byte memories (HBM4, host memory, the other devices' memory and storage) are in their canonical form: addresses strictly
rise, and no entry equals what an unlisted address reads as. -/
def Memory.wf (s : State) : Bool :=
  canonical hbmDefault s.hbm && canonical Config.hostByte s.hostMem && canonical (fun _ => []) s.peers &&
    (s.peers.all fun x => canonical hbmDefault x.2) && s.flash.all fun x => canonical Config.storageByte x.2.2

/-- A safe step: the machine goes on. -/
def State.StepsOn (s : State) : Prop := ∃ t, step s = .next t

end Sys2Proof.Machine
end

