-- ==== Sys2Proof/Certificates/Slice0/Obligations.lean ====
section
/-! DEFINITION. The statements for the provers. Each docstring cites the rules of spec/ it rests on. -/

open Sys2Proof Sys2Proof.Machine

/-- The b word of a form of mod layout T in lane `l` (R59, R71, R140). -/
def Claims.bWord (g : Gust) (o : TOps) (l : Nat) : Word :=
  match o.sh with
  | .vv => (g.v o.b).get l
  | .ss | .vs => g.s o.b
  | .vi | .si => Word.ofInt o.imm

/-- The a word of such a form. -/
def Claims.aWord (g : Gust) (o : TOps) (l : Nat) : Word := if o.sh.isVec then (g.v o.a).get l else g.s o.a

/-- The old d word of such a form. -/
def Claims.dWord (g : Gust) (o : TOps) (l : Nat) : Word := if o.sh.isVec then (g.v o.d).get l else g.s o.d

/-- Element `j` of a word (R30). -/
def Claims.elem (ty : ETy) (w : Word) (j : Nat) : Int := (elems w.val ty.width ty.count).getD j 0

/-- The forms that work element by element with one register a field, and what the rules say of one element: from x of a, y
of b and z of the old d the element of d and its status (R36, R141 to R143, R145, R155, R156, R158, R159, R161). The third
component says whether the form reports its status in p26. -/
def Claims.elementRule : Instr → Option (Ctl × TOps × Bool × (Int → Int → Int → Int × Int))
  | .add c o => some (c, o, o.isCy, fun x y _ => narrow (x + y) o.ty.width o.var)
  | .sub c o => some (c, o, o.isCy, fun x y _ => narrow (x - y) o.ty.width o.var)
  | .neg c o => some (c, o, false, fun x _ _ => (match o.ty with
      | .f27 => x - 2 * fld x 20 0
      | .f9 => x - 2 * fld x 5 0
      | _ => -x, 0))
  | .mul c o => some (c, o, o.isCy, fun x y _ => narrow (x * y) o.ty.width o.var)
  | .mulh c o => some (c, o, false, fun x y _ => ((x * y - wrapT (x * y) o.ty.width) / pow3 o.ty.width, 0))
  | .mad c o => some (c, o, o.isCy, fun x y z => narrow (z + x * y) o.ty.width o.var)
  | .div c o => some (c, o, o.isCy, fun x y _ => (quotI x y, if y = 0 then 1 else 0))
  | .mod c o => some (c, o, o.isCy, fun x y _ => (x - y * quotI x y, if y = 0 then 1 else 0))
  | .sht c o => some (c, o, o.isCy, shtE o.ty.width o.var)
  | .abs c o => some (c, o, false, fun x _ _ => (if x < 0 then -x else x, 0))
  | .sgn c o => some (c, o, false, fun x _ _ => (sgnI x, 0))
  | .min c o => some (c, o, false, fun x y _ => (min x y, 0))
  | .max c o => some (c, o, false, fun x y _ => (max x y, 0))
  | .clamp c o => some (c, o, false, fun x y z => (min (max z x) y, 0))
  | .cmp c o => some (c, o, false, fun x y _ => (sgnI (x - y), 0))
  | .trot c o => some (c, o, false, trotE o.ty.width)
  | .tcnt c o => some (c, o, false, tcntE o.ty.width o.var)
  | .text c o => some (c, o, false, textE o.ty.width)
  | .tins c o => some (c, o, false, tinsE o.ty.width)
  | .fadd c o => some (c, o, false, faddE o.ty.fmt)
  | .fsub c o => some (c, o, false, fsubE o.ty.fmt)
  | .fmul c o => some (c, o, false, fmulE o.ty.fmt)
  | .fma c o => some (c, o, false, fmaE o.ty.fmt)
  | .fmin c o => some (c, o, false, fminE o.ty.fmt)
  | .fmax c o => some (c, o, false, fmaxE o.ty.fmt)
  | .fcls c o => some (c, o, false, fclsE o.ty.fmt)
  | .frnd c o => some (c, o, false, frndE o.ty.fmt o.var)
  | .frcp c o => some (c, o, false, fnE o.ty.fmt 136 rcpS)
  | .frsq c o => some (c, o, false, fnE o.ty.fmt 137 rsqS)
  | .fsqt c o => some (c, o, false, fnE o.ty.fmt 138 sqtS)
  | .fexp c o => some (c, o, false, fnE o.ty.fmt 139 expS)
  | .flog c o => some (c, o, false, fnE o.ty.fmt 140 logS)
  | .ftanh c o => some (c, o, false, fnE o.ty.fmt 141 tanhS)
  | .fsigm c o => some (c, o, false, fnE o.ty.fmt 142 sigmS)
  | .fsin c o => some (c, o, false, fnE o.ty.fmt 143 sinS)
  | _ => none

/-- The word that such a form computes in a lane: every element from the elements of the same place (R30, R140). -/
def Claims.elementWord (g : Gust) (o : TOps) (f : Int → Int → Int → Int × Int) (l : Nat) : Word :=
  Word.ofInt (packElems o.ty.width ((List.range o.ty.count).map fun j =>
    (f (Claims.elem o.ty (Claims.aWord g o l) j) (Claims.elem o.ty (Claims.bWord g o l) j)
      (Claims.elem o.ty (Claims.dWord g o l) j)).1))

/-- The status trit of the lane: that of the lowest element with one (R140). -/
def Claims.elementStatus (g : Gust) (o : TOps) (f : Int → Int → Int → Int × Int) (l : Nat) : Trit :=
  Trit.sgn (firstStatus ((List.range o.ty.count).map fun j =>
    (f (Claims.elem o.ty (Claims.aWord g o l) j) (Claims.elem o.ty (Claims.bWord g o l) j)
      (Claims.elem o.ty (Claims.dWord g o l) j)).2))

/-- R140, R67: in a vector shape each of the 35 elementwise forms (ADD SUB NEG MUL MULH MAD DIV MOD SHT ABS SGN MIN MAX CLAMP
CMP, TROT TCNT TEXT TINS, FADD FSUB FMUL FMA FMIN FMAX FCLS FRND, FRCP FRSQ FSQT FEXP FLOG FTANH FSIGM FSIN) answers the
state in which the participating lanes of d hold the computed words, the participating lanes of p26 the status where the
form reports one, every other lane and register, every flag, special register and all of memory is as it was, and the PC is
at the next instruction. -/
def Claims.ElementwiseVectorForms : Prop :=
  ∀ (i : Instr) (c : Ctl) (o : TOps) (cy : Bool) (f : Int → Int → Int → Int × Int) (s : State) (g : Gust) (q : Squall),
    Claims.elementRule i = some (c, o, cy, f) → o.sh.isVec = true → s.Issuing g q → g.Undisturbed q →
    ∃ (w : Lanes) (m : Mask),
      exec i s = .next (s.after g (if cy then (g.withV o.d w).withP 26 m else g.withV o.d w) q (g.pc + 1)) ∧
      ∀ l, l < 81 →
        (l ∈ g.activeLanes c.guard →
          w.get l = Claims.elementWord g o f l ∧ m.get l = Claims.elementStatus g o f l) ∧
        (l ∉ g.activeLanes c.guard → w.get l = (g.v o.d).get l ∧ m.get l = (g.p 26).get l)

/-- R140, R67, R102: in a scalar shape each of those 35 forms acts once where its guard lets a participating lane pass: the
scalar d, and every trit of p26 where the form reports a status. A destination m0..m2 is a write of the activity mask, with
the parking that R102 gives it and then the end of an instruction; any other destination changes nothing else. -/
def Claims.ElementwiseScalarForms : Prop :=
  ∀ (i : Instr) (c : Ctl) (o : TOps) (cy : Bool) (f : Int → Int → Int → Int × Int) (s : State) (g : Gust) (q : Squall),
    Claims.elementRule i = some (c, o, cy, f) → o.sh.isVec = false → s.Issuing g q → g.Undisturbed q →
    (g.acts c.guard = false → exec i s = .next (s.after g g q (g.pc + 1))) ∧
    (g.acts c.guard = true →
      (o.d < 78 → exec i s = .next (s.after g
        (if cy then (g.withS o.d (Claims.elementWord g o f 0)).withP 26 (Mask.tab fun _ => Claims.elementStatus g o f 0)
         else g.withS o.d (Claims.elementWord g o f 0)) q (g.pc + 1))) ∧
      (78 ≤ o.d → o.d ≤ 80 → exec i s = .next
        (((if cy then (s.writeMaskWord g.ref (o.d - 78) (Claims.elementWord g o f 0)).writeP g.ref 26
              (Mask.tab fun _ => Claims.elementStatus g o f 0)
           else s.writeMaskWord g.ref (o.d - 78) (Claims.elementWord g o f 0)).complete g (g.pc + 1) 0 0 false).keepIssuing g)))

/-- The state after an instruction of gust `g` whose effect left `s'` and that goes on to the next instruction. -/
def Claims.out (s' : State) (g : Gust) : State := (s'.complete g (g.pc + 1) 0 0 false).keepIssuing g

/-- The trit tables of R144. -/
def Claims.tritRule : Instr → Option (Ctl × TOps × (Int → Int → Int))
  | .tand c o => some (c, o, fun a b => min a b)
  | .tor c o => some (c, o, fun a b => max a b)
  | .tsum c o => some (c, o, fun a b => if a + b = 2 then -1 else if a + b = -2 then 1 else a + b)
  | .tmul c o => some (c, o, fun a b => a * b)
  | .tcon c o => some (c, o, fun a b => if a = b then a else 0)
  | _ => none

/-- R144: TAND, TOR, TSUM, TMUL and TCON set each trit of the result from the same trits of A and B by the table, in the
participating lanes (vector shapes) or once, where the guard lets a participating lane pass (scalar shapes: into a scalar, or
into a mask word as R102 has it); nothing else changes. -/
def Obligations.TritwiseForms : Prop :=
  ∀ (i : Instr) (c : Ctl) (o : TOps) (f : Int → Int → Int) (s : State) (g : Gust) (q : Squall),
    Claims.tritRule i = some (c, o, f) → s.Issuing g q → g.Undisturbed q →
    (o.sh.isVec = true → ∃ w : Lanes, exec i s = .next (s.after g (g.withV o.d w) q (g.pc + 1)) ∧
      ∀ l, l < 81 →
        (l ∈ g.activeLanes c.guard → ∀ k, k < 27 →
          tritI (w.get l).val k = f (tritI (Claims.aWord g o l).val k) (tritI (Claims.bWord g o l).val k)) ∧
        (l ∉ g.activeLanes c.guard → w.get l = (g.v o.d).get l)) ∧
    (o.sh.isVec = false → g.acts c.guard = false → exec i s = .next (s.after g g q (g.pc + 1))) ∧
    (o.sh.isVec = false → g.acts c.guard = true →
      ∃ w : Word, exec i s = .next (Claims.out (s.writeS g.ref o.d w) g) ∧
        (o.d < 78 → exec i s = .next (s.after g (g.withS o.d w) q (g.pc + 1))) ∧
        ∀ k, k < 27 → tritI w.val k = f (tritI (Claims.aWord g o 0).val k) (tritI (Claims.bWord g o 0).val k))

/-- Consecutive vector registers of a gust replaced. -/
def Claims.withVs (g : Gust) (d : Nat) : List Lanes → Gust
  | [] => g
  | w :: ws => Claims.withVs (g.withV d w) (d + 1) ws

/-- Consecutive scalar registers of a gust replaced. -/
def Claims.withSs (g : Gust) (d : Nat) : List Word → Gust
  | [] => g
  | w :: ws => Claims.withSs (g.withS d w) (d + 1) ws

/-- The words a lane of PACK3, UNPK3, CVT, MOV or MOVI computes from registers of the field a (lane `l`, or the scalars), with
the status (R146, R147, R160); and how many registers it writes. -/
def Claims.wordRule (g : Gust) : Instr → Option (Ctl × TOps × Bool × Nat × (Nat → List Word × Trit))
  | .pack3 c o => some (c, o, o.isCy, 1, fun l => pack3W o.ty o.var (g.field o o.a 3 l) [] [])
  | .unpk3 c o => some (c, o, false, 3, fun l => unpk3W o.ty [Claims.aWord g o l] [] [])
  | .cvt c o => some (c, o, false, (tGroups 117 o.ty o.var).1, fun l =>
      cvtW o.ty (cvtSource o.ty o.var) (tGroups 117 o.ty o.var).1 (g.field o o.a (tGroups 117 o.ty o.var).2.1 l) [] [])
  | .mov c o => some (c, o, false, 1, fun l =>
      ([if o.sh = .vs then Claims.bWord g o l else Claims.aWord g o l], .zero))
  | .movi c o => some (c, o, false, 1, fun l => ([Claims.bWord g o l], .zero))
  | _ => none

/-- R146, R147, R160: PACK3, UNPK3, CVT, MOV and MOVI write their one or three destination registers, in the participating
lanes or once, from sources read before any destination is written; nothing else changes but p26 under .cy. A scalar
destination that is a mask word is written as R102 has it. -/
def Obligations.WordForms : Prop :=
  ∀ (i : Instr) (c : Ctl) (o : TOps) (cy : Bool) (nd : Nat) (f : Nat → List Word × Trit) (s : State) (g : Gust) (q : Squall),
    Claims.wordRule g i = some (c, o, cy, nd, f) → s.Issuing g q → g.Undisturbed q →
    (o.sh.isVec = true → ∃ (ws : List Lanes) (m : Mask), ws.length = nd ∧
      exec i s = .next (s.after g
        (if cy then (Claims.withVs g o.d ws).withP 26 m else Claims.withVs g o.d ws) q (g.pc + 1)) ∧
      ∀ l, l < 81 →
        (l ∈ g.activeLanes c.guard → (∀ k, k < nd → (ws.getD k (Lanes.splat Word.zero)).get l = (f l).1.getD k Word.zero) ∧
          m.get l = (f l).2) ∧
        (l ∉ g.activeLanes c.guard → (∀ k, k < nd → (ws.getD k (Lanes.splat Word.zero)).get l = (g.v (o.d + k)).get l) ∧
          m.get l = (g.p 26).get l)) ∧
    (o.sh.isVec = false → g.acts c.guard = false → exec i s = .next (s.after g g q (g.pc + 1))) ∧
    (o.sh.isVec = false → g.acts c.guard = true → exec i s = .next (Claims.out (if cy
      then (s.writeSs g.ref o.d (f 0).1).writeP g.ref 26 (Mask.tab fun _ => (f 0).2) else s.writeSs g.ref o.d (f 0).1) g)) ∧
    (o.sh.isVec = false → (f 0).1.length = nd → o.d + nd ≤ 78 → g.acts c.guard = true →
      exec i s = .next (s.after g
        (if cy then (Claims.withSs g o.d (f 0).1).withP 26 (Mask.tab fun _ => (f 0).2) else Claims.withSs g o.d (f 0).1)
        q (g.pc + 1)))

/-- The trit that a predicate form gives a participating lane (R134, R148, R149, R157). -/
def Claims.predicateRule (g : Gust) : Instr → Option (Ctl × Nat × (Nat → Trit))
  | .pset c o => some (c, o.d, fun l => kleeneMin ((List.range o.ty.count).map fun j =>
      relTrit o.var (Claims.elem o.ty ((g.v o.a).get l) j) (Claims.elem o.ty (Claims.bWord g o l) j)))
  | .fcmp c o => some (c, o.d, fun l => kleeneMin ((List.range o.ty.count).map fun j =>
      frelTrit o.ty.fmt o.var (Claims.elem o.ty ((g.v o.a).get l) j) (Claims.elem o.ty (Claims.bWord g o l) j)))
  | .pand c d a b => some (c, d, fun l => Trit.sgn (min ((g.p a).get l).val ((g.p b).get l).val))
  | .por c d a b => some (c, d, fun l => Trit.sgn (max ((g.p a).get l).val ((g.p b).get l).val))
  | .pnot c d a => some (c, d, fun l => ((g.p a).get l).neg)
  | _ => none

/-- R148, R149, R157: PSET, FCMP, PAND, POR and PNOT write the participating lanes of one predicate and nothing else. -/
def Obligations.PredicateForms : Prop :=
  ∀ (i : Instr) (c : Ctl) (d : Nat) (f : Nat → Trit) (s : State) (g : Gust) (q : Squall),
    Claims.predicateRule g i = some (c, d, f) → s.Issuing g q → g.Undisturbed q →
    ∃ m : Mask, exec i s = .next (s.after g (g.withP d m) q (g.pc + 1)) ∧
      ∀ l, l < 81 → (l ∈ g.activeLanes c.guard → m.get l = f l) ∧ (l ∉ g.activeLanes c.guard → m.get l = (g.p d).get l)

/-- The word that a cross-lane form with one vector destination gives a participating lane (R163, R164, R168, R170, R173). -/
def Claims.crossRule (g : Gust) : Instr → Option (Ctl × Nat × (Nat → Word))
  | .shfl c o => some (c, o.d, fun l =>
      let k := (Claims.bWord g o l).val
      (g.v o.a).get (match o.var with
        | .zero => (k % 81).toNat
        | .plus => ((Int.ofNat l + k) % 81).toNat
        | .minus => ((List.range 4).map fun i => (l / 3 ^ i + (k % 81).toNat / 3 ^ i) % 3 * 3 ^ i).sum))
  | .bcast c o => some (c, o.d, fun _ => (g.v o.a).get ((Claims.bWord g o 0).val % 81).toNat)
  | .dqnt c o => some (c, o.d, fun l => Word.ofInt (packElems 9 ((List.range 3).map fun j =>
      let n := o.imm.toNat
      let b := l / 27
      let k := 9 * n + 3 * b + j
      let scale := if o.ty = .bw then (g.v o.a).get (27 + 3 * n + b) else (g.v (o.a + 1)).get (3 * n + b)
      dequantise (Claims.elem .i9 scale j)
        (if o.ty = .bw then tritI ((g.v o.a).get k).val (l % 27)
         else Claims.elem .t3 ((g.v o.a).get (3 * k + l % 27 / 9)) (l % 27 % 9)))))
  | _ => none

/-- R163, R164, R170: SHFL and BCAST write each participating lane of d with the chosen lane of the old a, whether that lane
participates or not; DQNT writes the three products of the lane's elements and their scales. Nothing else changes. -/
def Obligations.LaneSourceForms : Prop :=
  ∀ (i : Instr) (c : Ctl) (d : Nat) (f : Nat → Word) (s : State) (g : Gust) (q : Squall),
    Claims.crossRule g i = some (c, d, f) → s.Issuing g q → g.Undisturbed q →
    ∃ w : Lanes, exec i s = .next (s.after g (g.withV d w) q (g.pc + 1)) ∧
      ∀ l, l < 81 → (l ∈ g.activeLanes c.guard → w.get l = f l) ∧ (l ∉ g.activeLanes c.guard → w.get l = (g.v d).get l)

/-- The operands of RED and SCAN. -/
def Claims.reduceOf : Instr → Option (Ctl × TOps × Bool)
  | .red c o => some (c, o, false)
  | .scan c o => some (c, o, true)
  | _ => none

/-- R165, R166: RED writes the combination of the participating lanes to each of them and to the scalar b, SCAN gives each its
prefix; s(b+1) is 1, or 0 where no lane participates. A mask word among the scalars is written as R102 has it. Nothing else
changes. -/
def Claims.ReduceForms : Prop :=
  ∀ (i : Instr) (c : Ctl) (o : TOps) (scan : Bool) (s : State) (g : Gust) (q : Squall),
    Claims.reduceOf i = some (c, o, scan) → s.Issuing g q → g.Undisturbed q →
    let total := combineWords o.ty o.var (g.v o.a) (g.activeLanes c.guard)
    let some_ := Word.ofInt (if g.activeLanes c.guard = [] then 0 else 1)
    ∃ w : Lanes,
      exec i s = .next (Claims.out ((s.setGust (g.withV o.d w)).writeSs g.ref o.b [total, some_]) g) ∧
      (o.b + 1 < 78 → exec i s = .next (s.after g (Claims.withSs (g.withV o.d w) o.b [total, some_]) q (g.pc + 1))) ∧
      ∀ l, l < 81 →
        (l ∈ g.activeLanes c.guard → w.get l = combineWords o.ty o.var (g.v o.a)
          ((g.activeLanes c.guard).filter fun k => !scan || decide (k ≤ l))) ∧
        (l ∉ g.activeLanes c.guard → w.get l = (g.v o.d).get l)

/-- R165: for I27 the combination is the saturated sum, the greatest or the least of the participating lanes' values. -/
def Claims.ReduceIntegerTotals : Prop :=
  ∀ (a : Lanes) (ls : List Nat),
    (combineWords .i27 .zero a ls).val = satT ((ls.map fun l => (a.get l).val).sum) 27 ∧
    (ls ≠ [] → (∀ l ∈ ls, (a.get l).val ≤ (combineWords .i27 .plus a ls).val) ∧
      (∃ l ∈ ls, (combineWords .i27 .plus a ls).val = (a.get l).val) ∧
      (∀ l ∈ ls, (combineWords .i27 .minus a ls).val ≤ (a.get l).val) ∧
      ∃ l ∈ ls, (combineWords .i27 .minus a ls).val = (a.get l).val)

/-- The lanes of a beat that participate. -/
def Claims.beatLanes (g : Gust) (c : Ctl) (b : Nat) : List Nat := (g.activeLanes c.guard).filter fun l => l / 27 == b

/-- R167: SORT writes d and d+1 in the participating lanes: within each beat the words of a in the order of the variant, and
beside each the lane it came from; every word of a participating lane appears once. Nothing else changes. Stated for I27
keys; `g'` is the gust as SORT leaves it. -/
def Claims.SortForm : Prop :=
  ∀ (c : Ctl) (o : TOps) (s : State) (g : Gust) (q : Squall),
    o.ty = .i27 → s.Issuing g q → g.Undisturbed q →
    ∃ w x : Lanes, exec (.sort c o) s = .next (s.after g ((g.withV o.d w).withV (o.d + 1) x) q (g.pc + 1)) ∧
      (∀ l, l < 81 → l ∉ g.activeLanes c.guard → w.get l = (g.v o.d).get l ∧ x.get l = (g.v (o.d + 1)).get l) ∧
      ∀ b, b < 3 →
        ((Claims.beatLanes g c b).map fun l => (x.get l).val).Perm ((Claims.beatLanes g c b).map fun l => Int.ofNat l) ∧
        (∀ l ∈ Claims.beatLanes g c b, w.get l = (g.v o.a).get (x.get l).val.toNat) ∧
        ∀ l ∈ Claims.beatLanes g c b, ∀ k ∈ Claims.beatLanes g c b, l < k →
          (if o.var = .plus then (w.get l).val ≤ (w.get k).val else (w.get k).val ≤ (w.get l).val)

/-- The elements `j` of a beat of a register (R168). -/
def Claims.beatElems (g : Gust) (o : TOps) (b j : Nat) : List Int :=
  (List.range 27).map fun i => Claims.elem o.ty ((g.v o.a).get (27 * b + i)) j

/-- R168: VTRIAD takes each element of each beat, all 27 lanes of it, through the three stages, and writes the participating
lanes of d, and of p26 under .cy the status of the first stage, and in it of the first element, that has one. Nothing else
changes. -/
def Claims.VtriadForm : Prop :=
  ∀ (c : Ctl) (o : TOps) (s : State) (g : Gust) (q : Squall), s.Issuing g q → g.Undisturbed q →
    ∃ (w : Lanes) (m : Mask),
      exec (.vtriad c o) s =
        .next (s.after g (if o.var = .minus then (g.withV o.d w).withP 26 m else g.withV o.d w) q (g.pc + 1)) ∧
      ∀ l, l < 81 →
        let cell := fun (j : Nat) => (triad o.ty.width (Claims.beatElems g o (l / 27) j)).getD (l % 27) (0, [])
        (l ∈ g.activeLanes c.guard →
          w.get l = Word.ofInt (packElems o.ty.width ((List.range o.ty.count).map fun j => (cell j).1)) ∧
          m.get l = Trit.sgn (firstStatus ((List.range 3).flatMap fun k =>
            (List.range o.ty.count).map fun j => (cell j).2.getD k 0))) ∧
        (l ∉ g.activeLanes c.guard → w.get l = (g.v o.d).get l ∧ m.get l = (g.p 26).get l)

/-- The scale and the elements of block `k` of a QNT (R169): elements of lanes that do not participate are absent. -/
def Claims.block (g : Gust) (c : Ctl) (o : TOps) (k : Nat) : Int × List Int :=
  quantise (o.ty == .bw) ((List.range 27).map fun i =>
    if (27 * (k / 3) + i) ∈ g.activeLanes c.guard
    then some (Claims.elem .i9 ((g.v o.a).get (27 * (k / 3) + i)) (k % 3)) else none)

/-- R169: QNT writes the participating ones of its result lanes: for BW lane 9n + k of d holds the 27 trits of block k and
lane 27 + 3n + b the three scales of beat b; for B3 lanes 27n + 3k + i of d hold the elements and lane 3n + b of d+1 the
scales. Every other lane and register keeps its word, and nothing else changes. -/
def Obligations.QuantiseForm : Prop :=
  ∀ (c : Ctl) (o : TOps) (s : State) (g : Gust) (q : Squall),
    o.ty = .bw ∨ o.ty = .b3 → 0 ≤ o.imm → o.imm ≤ 2 → o.d + 1 < g.vreg.length → s.Issuing g q → g.Undisturbed q →
    ∃ w x : Lanes, exec (.qnt c o) s = .next (s.after g ((g.withV o.d w).withV (o.d + 1) x) q (g.pc + 1)) ∧
      (∀ l, l < 81 → l ∉ g.activeLanes c.guard → w.get l = (g.v o.d).get l ∧ x.get l = (g.v (o.d + 1)).get l) ∧
      (o.ty = .bw → x = g.v (o.d + 1) ∧
        (∀ k, k < 9 → 9 * o.imm.toNat + k ∈ g.activeLanes c.guard →
          w.get (9 * o.imm.toNat + k) = Word.ofInt (packElems 1 (Claims.block g c o k).2)) ∧
        ∀ b, b < 3 → 27 + 3 * o.imm.toNat + b ∈ g.activeLanes c.guard →
          w.get (27 + 3 * o.imm.toNat + b) =
            Word.ofInt (packElems 9 ((List.range 3).map fun j => (Claims.block g c o (3 * b + j)).1))) ∧
      (o.ty = .b3 →
        (∀ k i, k < 9 → i < 3 → 27 * o.imm.toNat + 3 * k + i ∈ g.activeLanes c.guard →
          w.get (27 * o.imm.toNat + 3 * k + i) =
            Word.ofInt (packElems 3 (((Claims.block g c o k).2.drop (9 * i)).take 9))) ∧
        ∀ b, b < 3 → 3 * o.imm.toNat + b ∈ g.activeLanes c.guard →
          x.get (3 * o.imm.toNat + b) =
            Word.ofInt (packElems 9 ((List.range 3).map fun j => (Claims.block g c o (3 * b + j)).1)))

/-- R172, R173, R174: RSEED loads the gust's key and counter; RAND draws mix(key, 81 · ctr + lane) in the participating lanes
and advances the counter, modulo 3^54. Nothing else changes. -/
def Obligations.RandomForms : Prop :=
  ∀ (c : Ctl) (o : TOps) (a b : Nat) (s : State) (g : Gust) (q : Squall), s.Issuing g q → g.Undisturbed q →
    (g.acts c.guard = true → exec (.rseed c a b) s =
      .next (s.after g { g with key := g.s a, ctr := (g.s b).val } q (g.pc + 1))) ∧
    ∃ w : Lanes,
      exec (.rand c o) s = .next (s.after g { g.withV o.d w with ctr := wrapT (g.ctr + 1) 54 } q (g.pc + 1)) ∧
      ∀ l, l < 81 →
        (l ∈ g.activeLanes c.guard → o.ty = .i27 →
          (w.get l).val = mix g.key (wrapT (81 * g.ctr + Int.ofNat l) 54)) ∧
        (l ∉ g.activeLanes c.guard → w.get l = (g.v o.d).get l)

/-- R140, R67, R102: the 35 elementwise forms, in their vector and their scalar shapes. -/
def Obligations.ElementwiseForms : Prop := Claims.ElementwiseVectorForms ∧ Claims.ElementwiseScalarForms

/-- R165 to R168: RED and SCAN, what their combination is for I27, SORT and VTRIAD. -/
def Obligations.BeatForms : Prop :=
  Claims.ReduceForms ∧ Claims.ReduceIntegerTotals ∧ Claims.SortForm ∧ Claims.VtriadForm

/-- base_pc() of R114. -/
def Claims.base (g : Gust) (q : Squall) : Int := if q.isD then g.pc - g.pc % 3 else g.pc

/-- A target that passes check_target of R114. -/
def Claims.TargetOk (q : Squall) (t : Int) : Prop := 0 ≤ t ∧ (q.isD = true → t % 3 = 0)

/-- A gust outside its handler whose TVEC names a handler: it can take a trap (R400). -/
def Claims.Handles (g : Gust) (q : Squall) : Prop := g.trapActive = false ∧ Claims.TargetOk q g.tvec.val

/-- The gust after trap entry (R400): `gfr` is the new gust fault record, where the trap writes one. -/
def Claims.trappedGust (g : Gust) (gfr : Option Rec) (tpc : Int) : Gust :=
  { g with gfr := gfr.getD g.gfr, tpc := Word.ofInt tpc, tm := g.mask, trapActive := true, pc := g.tvec.val,
           status := .running, issued := false, packet := none, laneFaulted := [], pageWait := none,
           fillFaults := [], sent := false, maskWrote := false }.withMask Mask.ones

/-- The state after the issuing gust has trapped: its gust, and the trace packet of the trap where tracing is on (R442). -/
def Claims.trapped (s : State) (g : Gust) (gfr : Option Rec) (tpc cause : Int) : State :=
  ((s.setGust (Claims.trappedGust g gfr tpc)).trace g.ref 3 cause).keepIssuing g

/-- The state after a gust fault of the issuing gust (R396, R397, R400). -/
def Claims.faulted (s : State) (g : Gust) (cause step detail : Int) : State :=
  Claims.trapped s g (some (s.mkRec g 4 cause step (-1) detail)) g.pc cause

/-- The target of NOP, BRA, BRP, BTRI and RET, where the form transfers (R115, R116, R117, R121). -/
def Claims.transferRule (g : Gust) (q : Squall) : Instr → Option (Ctl × Option Int)
  | .nop c => some (c, none)
  | .bra c off => some (c, some (Claims.base g q + off))
  | .brp c mode p off => some (c,
      let ls := g.activeLanes c.guard
      let taken : Bool := match mode with
        | .any => decide (∃ l ∈ ls, (g.p p).get l = .plus)
        | .all => decide (∀ l ∈ ls, (g.p p).get l = .plus)
        | .none => decide (∀ l ∈ ls, (g.p p).get l ≠ .plus)
        | .unk => decide (∃ l ∈ ls, (g.p p).get l = .zero)
      if taken then some (Claims.base g q + off) else none)
  | .btri c a plus minus => some (c,
      if (g.s a).val < 0 then some (Claims.base g q + minus)
      else if 0 < (g.s a).val then some (Claims.base g q + plus) else none)
  | .ret c a => some (c, some (g.s a).val)
  | _ => none

/-- R114 to R117, R121: NOP, BRA, BRP, BTRI and RET transfer the whole path to a target that passes check_target, raise
"target range" (3) or "misaligned target" (4) for one that does not, and else go on to the next instruction; but for the PC
and a trace packet nothing changes. -/
def Claims.TransferForms : Prop :=
  ∀ (i : Instr) (c : Ctl) (t : Option Int) (s : State) (g : Gust) (q : Squall),
    Claims.transferRule g q i = some (c, t) → s.Issuing g q → g.Undisturbed q →
    (g.acts c.guard = false ∨ t = none → exec i s = .next (s.after g g q (g.pc + 1))) ∧
    (g.acts c.guard = true → ∀ x, t = some x →
      (Claims.TargetOk q x → exec i s = .next (s.afterTraced g g q x 1 g.pc)) ∧
      (x < 0 → Claims.Handles g q → exec i s = .next (Claims.faulted s g 3 0 0)) ∧
      (0 ≤ x → q.isD = true → x % 3 ≠ 0 → Claims.Handles g q → exec i s = .next (Claims.faulted s g 4 0 0)))

/-- The destination and the target of a call. -/
def Claims.callRule (g : Gust) (q : Squall) : Instr → Option (Ctl × Nat × Int)
  | .call c d off => some (c, d, Claims.base g q + off)
  | .calli c d a => some (c, d, (g.s a).val)
  | _ => none

/-- R113, R121: CALL and CALLI write the return PC to sd, which is no mask word, and transfer; with a bad target they fault and
write nothing. -/
def Claims.CallForms : Prop :=
  ∀ (i : Instr) (c : Ctl) (d : Nat) (t : Int) (s : State) (g : Gust) (q : Squall),
    Claims.callRule g q i = some (c, d, t) → d < 78 → s.Issuing g q → g.Undisturbed q →
    (g.acts c.guard = false → exec i s = .next (s.after g g q (g.pc + 1))) ∧
    (g.acts c.guard = true → Claims.TargetOk q t →
      exec i s = .next (s.afterTraced g (g.withS d (Word.ofInt (g.pc + 1))) q t 1 g.pc)) ∧
    (g.acts c.guard = true → t < 0 → Claims.Handles g q → exec i s = .next (Claims.faulted s g 3 0 0)) ∧
    (g.acts c.guard = true → 0 ≤ t → q.isD = true → t % 3 ≠ 0 → Claims.Handles g q →
      exec i s = .next (Claims.faulted s g 4 0 0))

/-- The state after a SPLIT, JOIN, BREAK or EXIT that leaves the gust as `h` and the PC at `pc`: its trace packet, and the
path end of R108 where no lane is left, but for a gust that a path end has sent to a JOIN in a later slot (R106). -/
def Claims.region (s : State) (g h : Gust) (q : Squall) (pc : Int) : State :=
  if h.mask.has 1 || h.onTheWay (pc == g.pc + 1 && pc % 3 != 0 && q.isD) then s.afterTraced g h q pc 2 g.pc
  else (((s.setGust (Gust.completed g h q.isD pc)).trace g.ref 2 g.pc).pathEnd g.ref g.pc pathFuel).keepIssuing g

/-- A gust outside its handler with nothing pending at its next boundary but what the instruction itself brings. -/
def Claims.Plain (g : Gust) (q : Squall) : Prop :=
  g.trapActive = false ∧ g.stepBit = false ∧ q.shutter = none ∧ g.laneFaulted = [] ∧ g.maskWrote = false ∧ g.cmdCode ≠ 1

/-- R105, R118: SPLIT pushes the reconvergence entry with the whole current mask and, where the else target differs and some
plus lane's predicate is minus, the path entry of those lanes; it keeps the plus lanes whose predicate is plus, and the
minus trits of the mask. Above depth 27 it raises "divergence overflow" (5) and changes nothing else. -/
def Claims.SplitForm : Prop :=
  ∀ (c : Ctl) (p : Nat) (join els : Int) (s : State) (g : Gust) (q : Squall), s.Issuing g q → Claims.Plain g q →
    let rpc := Claims.base g q + join
    let epc := Claims.base g q + els
    let two : Bool := epc != rpc && (List.range 81).any fun l => g.mask.get l == .plus && (g.p p).get l == .minus
    Claims.TargetOk q rpc → Claims.TargetOk q epc ∨ epc = rpc →
    (g.stack.length + (if two then 2 else 1) ≤ 27 →
      ∃ m e : Mask,
        exec (.split c p join els) s = .next (Claims.region s g ({ g with
            stack := (if two then [StackEntry.mk .minus false epc e rpc] else []) ++
              StackEntry.mk .plus false rpc g.mask rpc :: g.stack }.withMask m) q (g.pc + 1)) ∧
        ∀ l, l < 81 →
          m.get l = (if g.mask.get l = .plus then (if (g.p p).get l = .plus then .plus else .zero) else g.mask.get l) ∧
          e.get l = (if g.mask.get l = .plus ∧ (g.p p).get l = .minus then .plus else .zero)) ∧
    (27 < g.stack.length + (if two then 2 else 1) → Claims.Handles g q →
      exec (.split c p join els) s = .next (Claims.faulted s g 5 0 0))

/-- R109, R119, R438: JOIN pops the top entry whose rpc is the base PC and installs its mask: a path goes on at its own PC, or stops there
while it is held, after the packet of the JOIN (R441), and a region closes at the next instruction. Where a closed region leaves parked
lanes, the gust traps. With no such entry JOIN raises "unmatched join" (6). -/
def Claims.JoinForm : Prop :=
  ∀ (c : Ctl) (s : State) (g : Gust) (q : Squall), s.Issuing g q → Claims.Plain g q →
    (∀ e rest, g.stack = e :: rest → e.rpc = Claims.base g q →
      let h := { g with stack := rest }.withMask e.mask
      (e.kind = .minus → e.hold = false → g.laneRec = [] ∨ rest ≠ [] →
        exec (.join c) s = .next (Claims.region s g h q e.pc)) ∧
      (e.kind = .minus → e.hold = true → exec (.join c) s =
        .next (((((s.setGust { h with pc := e.pc, sent := false }).trace g.ref 2 g.pc).onGust g.ref fun x =>
          { x with status := .stopped, trapActive := false, issued := false, packet := none }).trace g.ref 6 4).keepIssuing g)) ∧
      (e.kind = .plus → g.laneRec = [] → exec (.join c) s = .next (Claims.region s g h q (g.pc + 1))) ∧
      (e.kind = .plus → g.laneRec ≠ [] → exec (.join c) s =
        .next ((((s.setGust (Gust.completed g h q.isD (g.pc + 1))).trace g.ref 2 g.pc).trapParked g.ref).keepIssuing g))) ∧
    ((∀ e ∈ g.stack.head?, e.rpc ≠ Claims.base g q) → Claims.Handles g q →
      exec (.join c) s = .next (Claims.faulted s g 6 0 0))

/-- How many reconvergence entries a stack holds. -/
def Claims.regions (st : List StackEntry) : Nat := (st.filter fun e => e.kind == .plus).length

/-- A mask whose trits are changed lane by lane. -/
def Claims.Mapped (f : Nat → Trit → Trit) (m m' : Mask) : Prop := ∀ l, l < 81 → m'.get l = f l (m.get l)

/-- A lane's trit cleared where the lane is listed. -/
def Claims.clear (ls : List Nat) (l : Nat) (t : Trit) : Trit := if l ∈ ls then .zero else t

/-- A stack of which the masks of the first `k` entries are changed lane by lane, and then every entry whose mask holds
neither a plus nor a minus trit is discarded (R107). -/
def Claims.CutStack (f : Nat → Trit → Trit) (k : Nat) (st st' : List StackEntry) : Prop :=
  ∃ mid : List StackEntry, mid.length = st.length ∧
    (∀ j, j < st.length → ∃ a b, st[j]? = some a ∧ mid[j]? = some b ∧ b = { a with mask := b.mask } ∧
      if j < k then Claims.Mapped f a.mask b.mask else b = a) ∧
    st' = mid.filter fun e => (List.range 81).any fun l => e.mask.get l != .zero

/-- R107, R120: BREAK n clears the participating lanes in the mask and in the entries above the n-th reconvergence entry,
and in no other entry; with fewer open regions it raises "break depth" (7). R107, R122: EXIT clears them in the mask and in
every entry. -/
def Claims.LaneLeavingForms : Prop :=
  ∀ (c : Ctl) (n : Nat) (s : State) (g : Gust) (q : Squall), s.Issuing g q → Claims.Plain g q →
    (1 ≤ n → g.activeLanes c.guard ≠ [] → Claims.regions g.stack < n → Claims.Handles g q →
      exec (.breakOut c n) s = .next (Claims.faulted s g 7 0 0)) ∧
    (1 ≤ n → g.activeLanes c.guard ≠ [] → ∀ k e, g.stack[k]? = some e → e.kind = .plus →
      Claims.regions (g.stack.take k) + 1 = n →
      ∃ (m : Mask) (st : List StackEntry), Claims.Mapped (Claims.clear (g.activeLanes c.guard)) g.mask m ∧
        Claims.CutStack (Claims.clear (g.activeLanes c.guard)) k g.stack st ∧
        (g.laneRec = [] ∨ st ≠ [] → exec (.breakOut c n) s =
          .next (Claims.region s g ({ g with stack := st }.withMask m) q (g.pc + 1)))) ∧
    (g.acts c.guard = true → ∃ (m : Mask) (st : List StackEntry), Claims.Mapped (Claims.clear (g.activeLanes c.guard)) g.mask m ∧
        Claims.CutStack (Claims.clear (g.activeLanes c.guard)) g.stack.length g.stack st ∧
        (g.laneRec = [] ∨ st ≠ [] → exec (.exit c) s =
          .next (Claims.region s g ({ g with stack := st }.withMask m) q (g.pc + 1))))

/-- R108: a path end at depth 0 retires the gust, or traps it where a lane is parked; at a path entry it pops the entry and
goes on at the path's PC with its mask, or meets the next entry where that mask has no plus trit; at a reconvergence entry
it leaves the entry and goes to the JOIN, marked as sent there where no lane is left (R106). -/
def Claims.PathEnds : Prop :=
  ∀ (s : State) (g : Gust) (at_ : Int) (n : Nat), s.gust? g.ref = some g →
    (g.stack = [] → (∀ l < 81, g.mask.get l ≠ .minus) →
      s.pathEnd g.ref at_ (n + 1) = (s.setGust { g with status := .retiring }).trace g.ref 2 at_) ∧
    (g.stack = [] → (∃ l < 81, g.mask.get l = .minus) → s.pathEnd g.ref at_ (n + 1) = s.trapParked g.ref) ∧
    ∀ e rest, g.stack = e :: rest →
      (e.kind = .plus → s.pathEnd g.ref at_ (n + 1) =
        (s.setGust ({ g with pc := e.rpc, sent := !e.mask.has 1 }.withMask e.mask)).trace g.ref 2 at_) ∧
      (e.kind = .minus → e.hold = false →
        let t := (s.setGust ({ g with pc := e.pc, stack := rest, sent := false }.withMask e.mask)).trace g.ref 2 at_
        ((∃ l < 81, e.mask.get l = .plus) → s.pathEnd g.ref at_ (n + 1) = t) ∧
        ((∀ l < 81, e.mask.get l ≠ .plus) → s.pathEnd g.ref at_ (n + 1) = t.pathEnd g.ref at_ n))

/-- R401: SPLIT, JOIN, BREAK and EXIT of a gust in its handler end the front with cause 112. -/
def Claims.HandlerControl : Prop :=
  ∀ (c : Ctl) (p n : Nat) (join els : Int) (s : State) (g : Gust) (q : Squall), s.Issuing g q → g.trapActive = true →
    exec (.split c p join els) s = .next ((s.endFrontOf g 112 []).keepIssuing g) ∧
    exec (.join c) s = .next ((s.endFrontOf g 112 []).keepIssuing g) ∧
    (g.acts c.guard = true → exec (.breakOut c n) s = .next ((s.endFrontOf g 112 []).keepIssuing g) ∧
      exec (.exit c) s = .next ((s.endFrontOf g 112 []).keepIssuing g))

/-- R96, R123: YIELD n makes the gust the youngest of its core; for n above 0 it is yielded until its core has run n further
cycles, and YIELD_EXPIRY then lets it run. -/
def Obligations.YieldForms : Prop :=
  ∀ (c : Ctl) (n t : Nat) (s : State) (g : Gust) (q : Squall),
    (s.Issuing g q → g.Undisturbed q → g.acts c.guard = true →
      exec (.yield c n) s = .next (
        if n = 0 then { s.after g { g with age := s.serial } q (g.pc + 1) with serial := s.serial + 1 }
        else { s.setGust { Gust.completed g { g with age := s.serial } q.isD (g.pc + 1) with
                 status := .yielded ((s.core q.core).cycle + n) } with serial := s.serial + 1, cur := none })) ∧
    (s.gust? g.ref = some g → s.squall? g.ref.sq = some q → g.status = .yielded t → t ≤ (s.core q.core).cycle →
      exec (.yieldExpiry g.ref) s = .next (s.setGust { g with status := .running }))

/-- R397, R400, R403, R430, R436: TRAP n and BRK n complete by trap entry with causes 9 and 10, n in the detail word and TPC after
the instruction: the mask goes to TM, every mask trit turns plus, trap-active is set and the PC goes to TVEC. Where the context
routes breakpoints to the debugger, BRK completes by stopping the gust behind it instead, with trap-active 0. A guard that lets no lane pass makes
both go on to the next instruction. -/
def Claims.TrapsComplete : Prop :=
  ∀ (c : Ctl) (n : Nat) (s : State) (g : Gust) (q : Squall), s.Issuing g q →
    (g.acts c.guard = false → g.Undisturbed q →
      exec (.trap c n) s = .next (s.after g g q (g.pc + 1)) ∧ exec (.brk c n) s = .next (s.after g g q (g.pc + 1))) ∧
    (g.acts c.guard = true → Claims.Handles g q → exec (.trap c n) s =
      .next (Claims.trapped s g (some (s.mkRec g 4 9 0 (-1) (Int.ofNat n))) (g.pc + 1) 9)) ∧
    (g.acts c.guard = true → tritI (s.context q.ctx).xdbg.val 25 ≠ 1 → Claims.Handles g q → exec (.brk c n) s =
      .next (Claims.trapped s g (some (s.mkRec g 4 10 0 (-1) (Int.ofNat n))) (g.pc + 1) 10)) ∧
    (g.acts c.guard = true → tritI (s.context q.ctx).xdbg.val 25 = 1 → exec (.brk c n) s =
      .next (((s.onGust g.ref fun h => { h with
        pc := g.pc + 1, status := .stopped, trapActive := false, issued := false, packet := none }).trace g.ref 6 1).keepIssuing g))

/-- R109, R397, R400, R403, R436: TRAP_ENTRY completes with the gust in its handler: for parked lanes (cause 0) it leaves GFR as it
is; for TRAP, BRK and the single step (9 to 11) it writes GFR and takes the next instruction's PC as TPC; for any other gust fault
it writes GFR and takes the gust's PC. -/
def Claims.TrapEntryCompletes : Prop :=
  ∀ (cause detail : Int) (s : State) (g : Gust) (q : Squall),
    s.gust? g.ref = some g → s.squall? g.ref.sq = some q → Claims.Handles g q →
    (exec (.trapEntry g.ref 0 detail) s =
      .next ((s.setGust (Claims.trappedGust g none g.pc)).trace g.ref 3 0)) ∧
    (9 ≤ cause → cause ≤ 11 → exec (.trapEntry g.ref cause detail) s =
      .next ((s.setGust (Claims.trappedGust g (some (s.mkRec g 4 cause 0 (-1) detail)) (g.pc + 1))).trace g.ref 3 cause)) ∧
    (cause ≠ 0 → ¬(9 ≤ cause ∧ cause ≤ 11) → exec (.trapEntry g.ref cause detail) s =
      .next ((s.setGust (Claims.trappedGust g (some (s.mkRec g 4 cause 0 (-1) detail)) g.pc)).trace g.ref 3 cause))

/-- R400, R401: a trap inside the handler ends the front with cause 111 after its own record, one without a handler (TVEC -1) with
110 after its own record, and one whose TVEC fails check_target with 113 alone. (With parked lanes pending, their records are the gust's
own: log entry 39.) -/
def Claims.TrapsWithoutHandler : Prop :=
  ∀ (c : Ctl) (n : Nat) (cause detail : Int) (s : State) (g : Gust) (q : Squall),
    let own := fun (cause detail : Int) => if cause = 0 then g.laneRec.map (·.2) else [s.mkRec g 4 cause 0 (-1) detail]
    let ended := fun (cause detail : Int) => if g.trapActive then s.endFrontOf g 111 (own cause detail)
      else if g.tvec.val = -1 then s.endFrontOf g 110 (own cause detail) else s.endFrontOf g 113 []
    (g.trapActive = true ∨ ¬ Claims.TargetOk q g.tvec.val) →
    (s.Issuing g q → g.acts c.guard = true →
      exec (.trap c n) s = .next ((ended 9 (Int.ofNat n)).keepIssuing g) ∧
      (tritI (s.context q.ctx).xdbg.val 25 ≠ 1 → exec (.brk c n) s = .next ((ended 10 (Int.ofNat n)).keepIssuing g))) ∧
    (s.gust? g.ref = some g → s.squall? g.ref.sq = some q → exec (.trapEntry g.ref cause detail) s = .next (ended cause detail))

/-- R397: the fields of word 0 of a fault record, and its other words: the native PC, the other-layout PC (log entries 19 and 75 for where
the directory gives none), the count k, the detail, the time, and the core, gust and op, with zeros below. -/
def Obligations.FaultRecordWords : Prop :=
  ∀ (s : State) (g : Gust) (q : Squall) (cls cause step lane detail : Int),
    -4 ≤ cls → cls ≤ 4 → -9 ≤ cause → cause ≤ 113 → 0 ≤ step → step ≤ 7 → -1 ≤ lane → lane ≤ 80 → g.stack.length ≤ 27 →
    -wordMax ≤ detail → detail ≤ wordMax → -wordMax ≤ g.pc → g.pc ≤ wordMax →
    ∃ w0 w1 w2 w3 w4 w5 w6 w7 w8 : Word,
      s.mkRec g cls cause step lane detail = [w0, w1, w2, w3, w4, w5, w6, w7, w8] ∧
      fld w0.val 26 24 = cls ∧ fld w0.val 23 18 = cause ∧ fld w0.val 17 15 = step ∧ fld w0.val 14 10 = lane ∧
      fld w0.val 9 6 = Int.ofNat g.stack.length ∧ fld w0.val 5 0 = 0 ∧
      w1.val = g.pc ∧ w2 = Word.ofInt (s.otherPc g) ∧ w3 = Word.ofNat g.kcount ∧ w4.val = detail ∧ w5.val = wrapT (Int.ofNat s.ptime) 27 ∧
      (s.squall? g.ref.sq = some q → q.core < 243 → g.ref.gust < 27 → -364 ≤ s.op → s.op ≤ 364 →
        fld w6.val 26 18 = Int.ofNat q.core ∧ fld w6.val 17 14 = Int.ofNat g.ref.gust ∧ fld w6.val 13 8 = s.op ∧
        fld w6.val 7 0 = 0) ∧
      (Int.ofNat g.ref.front ≤ wordMax → w7.val = Int.ofNat g.ref.front) ∧
      (Int.ofNat g.ref.lin ≤ wordMax → w8.val = Int.ofNat g.ref.lin)

/-- R402: ERET outside a handler raises "no trap" (13); inside it, it returns to TPC, with TM's plus and zero trits in the
mask and the lanes that TM holds minus ended in the mask and in every stack entry; where TPC is negative the front ends with
cause 113. -/
def Obligations.EretForm : Prop :=
  ∀ (c : Ctl) (s : State) (g : Gust) (q : Squall), s.Issuing g q → g.acts c.guard = true →
    (Claims.Handles g q → exec (.eret c) s = .next (Claims.faulted s g 13 0 0)) ∧
    (g.trapActive = true → g.tpc.val < 0 → exec (.eret c) s = .next ((s.endFrontOf g 113 []).keepIssuing g)) ∧
    (g.trapActive = true → 0 ≤ g.tpc.val → g.laneFaulted = [] → g.maskWrote = false → g.cmdCode ≠ 1 → q.shutter = none →
      (∃ l < 81, g.tm.get l = .plus) →
      (∀ x ∈ g.laneRec, x.1 < 81) →
      let recs := g.laneRec.filter fun x => g.tm.get x.1 == .zero
      ∃ (m : Mask) (st : List StackEntry),
        (∀ l, l < 81 → m.get l = if g.tm.get l = .minus then .zero else g.tm.get l) ∧
        Claims.CutStack (fun l t => if g.tm.get l = .minus then .zero
          else if g.tm.get l = .plus ∧ (∃ x ∈ g.laneRec, x.1 = l) ∧ t = .minus then .plus else t) g.stack.length g.stack st ∧
        (recs = [] ∨ st ≠ [] → exec (.eret c) s = .next (s.afterTraced g
          ({ g with laneRec := recs, stack := st, trapActive := false }.withMask m) q g.tpc.val 4 g.tpc.val)))

/-- R114 to R117, R121: NOP, BRA, BRP, BTRI, RET, CALL and CALLI. -/
def Obligations.TransferForms : Prop := Claims.TransferForms ∧ Claims.CallForms

/-- R105, R109, R118, R119: SPLIT and JOIN. -/
def Obligations.RegionForms : Prop := Claims.SplitForm ∧ Claims.JoinForm

/-- R107, R108, R120, R122: BREAK and EXIT, and what a path end does. -/
def Obligations.LaneLeavingForms : Prop := Claims.LaneLeavingForms ∧ Claims.PathEnds

/-- R397, R400, R403, R430, R436: TRAP, BRK and TRAP_ENTRY complete by the entry of the trap. -/
def Obligations.TrapCompletion : Prop := Claims.TrapsComplete ∧ Claims.TrapEntryCompletes

/-- R109, R400, R401: traps inside a handler or without one, and control flow inside a handler. -/
def Obligations.HandlerLimits : Prop := Claims.TrapsWithoutHandler ∧ Claims.HandlerControl

/-- The state after an instruction at which gust `g` waits: its effect so far left `s'`, and `op` is its op field. -/
def Claims.waits (s' : State) (g : Gust) (op : Int) (w : Wait) : State :=
  ((s'.onGust g.ref fun h => { h with status := .waiting op w, since := s'.ptime }).shutterStop g.ref).keepIssuing g

/-- R108, R109, R114, R401, R409, R436: an effect that leaves the gust as `h`, with its mask, its trap-active trit and its step bit as
they were, no lane faulted, no mask word written and no stop command come, and the shutter request as it was, is followed by nothing:
the PC advances to the next instruction or slot. -/
def Obligations.CompletionChangesNothingElse : Prop :=
  ∀ (s s' : State) (g h : Gust) (q : Squall), s.Issuing g q → g.Undisturbed q → s'.gust? g.ref = some h → h.ref = g.ref →
    (∀ b, s'.squall? g.ref.sq = some b → b.shutter = q.shutter ∧ b.isD = q.isD) → (s'.squall? g.ref.sq).isSome = true →
    h.mask = g.mask → h.trapActive = g.trapActive → h.stepBit = g.stepBit → h.laneFaulted = [] → h.laneRec = g.laneRec →
    h.stack = g.stack → h.halted = false → h.maskWrote = false → h.dbgCmd = g.dbgCmd →
    Claims.out s' g = s'.after g h q (g.pc + 1)

/-- R102: a write of a mask word gives its lanes the written trits and leaves every other lane's; a minus over a plus or a
zero parks the lane with a record "parked by program" (23) and turns its plus trits in the stack minus, and the entries that hold no
lane are discarded (R107); a plus over a minus clears the lane's record; every other lane keeps its record, one whose zero is written
over a minus too (log entry 18). -/
def Obligations.MaskWordWrites : Prop :=
  ∀ (s : State) (g : Gust) (k : Nat) (w : Word), k < 3 → s.gust? g.ref = some g → rising g.laneRec = true →
    ∃ h : Gust, s.writeMaskWord g.ref k w = s.setGust h ∧
      h = { g with sreg := h.sreg, laneRec := h.laneRec, stack := h.stack, maskWrote := true } ∧
      (g.sreg.length = 81 → ∀ l, l < 81 → h.mask.get l = if l / 27 = k then w.tritAt (l % 27) else g.mask.get l) ∧
      (∀ j, j ≠ 78 + k → h.s j = g.s j) ∧
      (∀ l, l < 81 → lookupAt h.laneRec l =
        if l / 27 = k ∧ w.tritAt (l % 27) = .minus ∧ g.mask.get l ≠ .minus then
          some (s.mkRec g (-4) 23 0 (Int.ofNat l) 0)
        else if l / 27 = k ∧ w.tritAt (l % 27) = .plus ∧ g.mask.get l = .minus then none
        else lookupAt g.laneRec l) ∧
      ((∀ l, l < 81 → l / 27 = k → w.tritAt (l % 27) = .minus → g.mask.get l = .minus) → h.stack = g.stack) ∧
      ((∃ l < 81, l / 27 = k ∧ w.tritAt (l % 27) = .minus ∧ g.mask.get l ≠ .minus) →
        Claims.CutStack (fun l t => if l / 27 = k ∧ w.tritAt (l % 27) = .minus ∧ g.mask.get l ≠ .minus ∧ t = .plus then .minus else t)
          g.stack.length g.stack h.stack)

/-- R180, R394, R395: RDSR writes the register's contents to sd, and a read of PTIMEL latches PTIME's upper trits; a
register that only a privileged gust may reach raises "register privilege" (12) for any other. -/
def Claims.SystemRegisterReads : Prop :=
  ∀ (c : Ctl) (d r : Nat) (s : State) (g : Gust) (q : Squall), s.Issuing g q → g.acts c.guard = true →
    ((810 ≤ r ∧ r ≤ 814 ∨ 19683 ≤ r) → g.priv = false → Claims.Handles g q →
      exec (.rdsr c d r) s = .next (Claims.faulted s g 12 0 0)) ∧
    (¬ (810 ≤ r ∧ r ≤ 814 ∨ 19683 ≤ r) ∨ g.priv = true → ∃ w : Word,
      exec (.rdsr c d r) s = .next (Claims.out ((if r = 0
        then s.onGust g.ref fun h => { h with ptimeh := Word.ofInt (dropT (Int.ofNat s.ptime) 27) } else s).writeS g.ref d w) g) ∧
      (r = 0 → w.val = wrapT (Int.ofNat s.ptime) 27) ∧
      (r = 1 → w = g.ptimeh) ∧
      (r = 2 → q.core < 243 → q.bases.scratch < 531441 →
        w.val = -14348907 + 531441 * Int.ofNat (q.core % 27) + Int.ofNat q.bases.scratch) ∧
      (r = 3 → q.core < 243 → w.val = 387420489 * Int.ofNat q.core + (if q.isD then 129140163 else -129140163)) ∧
      (r = 4 → w.val = (if g.priv then 2541865828329 else 0) + (if g.trapActive then 847288609443 else 0)) ∧
      (r = 5 → w = g.tvec) ∧ (r = 6 → w = g.tpc) ∧ (r = 7 → w = g.tm.b0) ∧ (r = 8 → w = g.tm.b1) ∧ (r = 9 → w = g.tm.b2) ∧
      (∀ k, k < 9 → r = 27 + k → w = g.gfr.getD k Word.zero) ∧
      (∀ l k, l < 81 → k < 9 → r = 81 + 9 * l + k → w = ((lookupAt g.laneRec l).getD []).getD k Word.zero) ∧
      (r = 810 → w = (s.context q.ctx).xroot) ∧ (r = 811 → w = (s.context q.ctx).xregen) ∧
      (r = 812 → w = (s.context q.ctx).xlist) ∧ (r = 813 → w = (s.context q.ctx).xflog) ∧
      (r = 814 → w = (s.context q.ctx).xdbg) ∧
      (∀ k f, k < 243 → f < 81 → r = 19683 + 81 * k + f → w = Word.ofNat ((s.core k).snap.getD f 0)) ∧
      (∀ k f, k < 9 → f < 729 → r = 39366 + 729 * k + f → w = Word.ofNat ((s.die k).snap.getD f 0)))

/-- R395, R430: WRSR writes TVEC, TPC and TM0..TM2 of the gust, and the registers of its context after a release at device
scope; a reserved trit of XDBG reads as zero. A context register needs privilege (12). -/
def Claims.SystemRegisterWrites : Prop :=
  ∀ (c : Ctl) (r a : Nat) (s : State) (g : Gust) (q : Squall), s.Issuing g q → g.acts c.guard = true →
    (810 ≤ r → r ≤ 814 → g.priv = false → Claims.Handles g q →
      exec (.wrsr c r a) s = .next (Claims.faulted s g 12 0 0)) ∧
    (g.Undisturbed q →
      exec (.wrsr c 5 a) s = .next (s.after g { g with tvec := g.s a } q (g.pc + 1)) ∧
      exec (.wrsr c 6 a) s = .next (s.after g { g with tpc := g.s a } q (g.pc + 1)) ∧
      exec (.wrsr c 7 a) s = .next (s.after g { g with tm := { g.tm with b0 := g.s a } } q (g.pc + 1)) ∧
      exec (.wrsr c 8 a) s = .next (s.after g { g with tm := { g.tm with b1 := g.s a } } q (g.pc + 1)) ∧
      exec (.wrsr c 9 a) s = .next (s.after g { g with tm := { g.tm with b2 := g.s a } } q (g.pc + 1))) ∧
    (g.priv = true → g.quiet = true → 810 ≤ r → r ≤ 813 →
      let t := s.releasePart (dieOf q.core) .dv
      exec (.wrsr c r a) s = .next (Claims.out { t with contexts := t.contexts.modify q.ctx fun x =>
        { x with xroot := if r = 810 then g.s a else x.xroot, xregen := if r = 811 then g.s a else x.xregen,
                 xlist := if r = 812 then g.s a else x.xlist, xflog := if r = 813 then g.s a else x.xflog } } g)) ∧
    (g.priv = true → g.quiet = true → tritI (g.s a).val 24 ≠ 1 →
      let t := s.releasePart (dieOf q.core) .dv
      ∃ w : Word, exec (.wrsr c 814 a) s = .next (Claims.out { t with contexts := t.contexts.modify q.ctx fun x =>
          { x with xdbg := w } } g) ∧
        (∀ i, i < 24 → tritI w.val i = tritI (g.s a).val i) ∧
        ∀ i, 24 ≤ i → i < 27 → tritI w.val i = max 0 (tritI (g.s a).val i))

/-- R180, R394, R395, R430: RDSR and WRSR. -/
def Obligations.SystemRegisterForms : Prop := Claims.SystemRegisterReads ∧ Claims.SystemRegisterWrites

/-- The snapshot tick after a trigger (R432): the one under way stands, a trigger at the tick of the last one joins that, and any other
sets T to 729 ticks from now. -/
def Claims.triggered (s : State) : State :=
  { s with snapAt := if s.snapAt = none ∧ s.snapped ≠ some s.ptime then some (s.ptime + 729) else s.snapAt }

/-- R403, R405, R431, R432: SNAP of a privileged gust, an edge of SNAPIN and a write to the trigger set T to 729 ticks from now
unless a snapshot is pending, or was taken at this very tick; SNAP of any other gust raises "register privilege" (12). At tick T every
block's snapshot registers take its counters, with T in field 0, whose register then reads as PTIME trits 26..0 at T. -/
def Obligations.SnapshotForms : Prop :=
  ∀ (c : Ctl) (t : Nat) (s : State) (g : Gust) (q : Squall),
    (s.Issuing g q → g.acts c.guard = true →
      (g.priv = true → g.Undisturbed q → exec (.snap c) s = .next ((Claims.triggered s).after g g q (g.pc + 1))) ∧
      (g.priv = false → Claims.Handles g q → exec (.snap c) s = .next (Claims.faulted s g 12 0 0))) ∧
    exec .snapinEdge s = .next (Claims.triggered s) ∧
    exec .snapshotTriggerWrite s = .next (Claims.triggered s) ∧
    (s.snapAt = some t → t ≤ s.ptime → ∃ u : State, exec .snapshotCapture s = .next u ∧
      u = { s with snapAt := none, snapped := some t,
                   cores := s.cores.map fun k => { k with snap := k.counters.set 0 t },
                   dies := s.dies.map fun k => { k with snap := k.counters.set 0 t },
                   rimSnaps := s.rimCounters.map fun k => k.set 0 t } ∧
      (∀ k, k < 243 → k < s.cores.length → (s.core k).counters ≠ [] →
        (u.snapReg (19683 + 81 * k)).val = wrapT (Int.ofNat t) 27) ∧
      ∀ k, k < 9 → k < s.dies.length → (s.die k).counters ≠ [] → (u.snapReg (39366 + 729 * k)).val = wrapT (Int.ofNat t) 27)

/-- The load and store forms of one word, with their operands: LDS and LDPS, STS and STPS. -/
def Claims.scalarAccess : Instr → Option (Ctl × MOps × Bool)
  | .lds c m => some (c, m, false)
  | .ldps c m => some (c, m, false)
  | .sts c m => some (c, m, true)
  | .stps c m => some (c, m, true)
  | _ => none

/-- R179, R202: LDPS and STPS of a local scratchpad word of the squall: the word at x is read to sd, or takes sb, and no
other word of the scratchpad changes. Relaxed, with no access of the gust still on its way. -/
def Claims.LocalScratchpadWords : Prop :=
  ∀ (c : Ctl) (m : MOps) (s : State) (g : Gust) (q : Squall) (x : Nat),
    s.Issuing g q → g.acts c.guard = true → m.space = .p → m.ord = .rlx → g.fillFaults = [] → s.ownWords g = [] →
    baseAddr g m.bc m.a m.off = Int.ofNat x → x < q.alloc.scratch →
    s.holderOf q.core Bases.scratch Alloc.scratch (q.bases.scratch + x) = some q →
    exec (.ldps c m) s = .next (Claims.out (s.writeS g.ref m.d (readAt (fun _ => Word.zero) q.scratch x)) g) ∧
    ∃ sc : Sparse, exec (.stps c m) s = .next (Claims.out (s.setSquall { q with scratch := sc }) g) ∧
      (canonical (fun _ => Word.zero) q.scratch = true → canonical (fun _ => Word.zero) sc = true ∧
        ∀ y, readAt (fun _ => Word.zero) sc y = if y = x then g.s m.b else readAt (fun _ => Word.zero) q.scratch y)

/-- R73, R183, R202, R244, R252, R275, R286: LDS, LDPS, STS and STPS reach the place of their one address, at their ordering
and scope. A load takes a seq-cst ticket first; one with an acquire part, one into a mask word and one that its place answers at
once write sd after the acquire part, and any other is on its way to sd while the gust goes on. Which loads are on their way and
which return at once is the model's choice (log entry 16). A store puts sb there after its
release part, and then takes its ticket. A place that is at fault faults the gust with the failing address. -/
def Obligations.ScalarAccessForms : Prop :=
  ∀ (i : Instr) (c : Ctl) (m : MOps) (store : Bool) (s : State) (g : Gust) (q : Squall),
    Claims.scalarAccess i = some (c, m, store) → s.Issuing g q → g.acts c.guard = true → g.fillFaults = [] →
    let x := baseAddr g m.bc m.a m.off
    let d := dieOf q.core
    let acquired := fun (t : State) => if m.ord.acquires then t.acquirePart d m.scope else t
    (∀ f a, s.placeOf q g.priv m.space x store = (.bad f a, s) → 0 < f → Claims.Handles g q →
      exec i s = .next (Claims.faulted s g f 0 x)) ∧
    (∀ p t, s.placeOf q g.priv m.space x store = (p, t) →
      (p.key.isSome = true → t.clashes g [p] = false → ∀ t1, t.before g d m.ord m.scope = some t1 →
        (store = false →
          let t0 := t1.ticketFor d m.ord m.scope
          (m.ord.acquires = true ∨ 78 ≤ m.d → ∀ v t2, t0.readPlace g q m.ord m.scope m.ev p = (.ok v, t2) →
            exec i s = .next (Claims.out ((acquired t2).writeS g.ref m.d v) g)) ∧
          (m.d < 78 → ∀ v t2, t0.loadOf g q m p = (.ok (some v), t2) →
            exec i s = .next (Claims.out ((acquired t2).writeS g.ref m.d v) g)) ∧
          (m.d < 78 → ∀ a v lease t2, t0.loadOf g q m p = (.pend a v lease, t2) →
            exec i s = .next (Claims.out (t2.onGust g.ref fun h => { h with loads := h.loads ++
              [{ d := m.d, scalar := true, ev := m.ev, items := [(0, a, v)], lease := lease,
                 words := t2.accessRec g.ref, sentAt := t2.ptime }] }) g))) ∧
        (store = true → ∀ t2, t1.writePlace g q m.ord m.scope m.ev (g.s m.b) p = (.ok (), t2) →
          exec i s = .next (Claims.out (acquired (t2.ticketFor d m.ord m.scope)) g))))

/-- R103, R107: a lane fault turns the lane's trit minus in the mask, and in every stack entry where it is plus, records the fault
with the lane's number, and changes no other lane, register or flag; an entry that holds no lane is discarded (R107). -/
def Obligations.LaneFaultParks : Prop :=
  ∀ (s : State) (g : Gust) (l : Nat) (cause detail : Int),
    s.gust? g.ref = some g → l < 81 → g.sreg.length = 81 →
    ∃ h : Gust, s.laneFault g.ref l cause detail = s.setGust h ∧
      h = { g with sreg := h.sreg, stack := h.stack, laneRec := h.laneRec, laneFaulted := g.laneFaulted ++ [l] } ∧
      (∀ k, k < 81 → h.mask.get k = if k = l then .minus else g.mask.get k) ∧ (∀ j, j < 78 → h.s j = g.s j) ∧
      (∀ k, lookupAt h.laneRec k =
        if k = l then some (s.mkRec g (-4) cause 0 (Int.ofNat l) detail) else lookupAt g.laneRec k) ∧
      Claims.CutStack (fun k t => if k = l ∧ t = .plus then .minus else t) g.stack.length g.stack h.stack

/-- Zero, what an unlisted word of a scratchpad reads as. -/
def Claims.zeroAt (_ : Nat) : Word := Word.zero

/-- The participating lanes of a scratchpad form reach the words `x l` of the squall's own scratchpad (R178, R179). -/
def Claims.OwnScratch (s : State) (g : Gust) (q : Squall) (m : MOps) (x : Nat → Nat) (ls : List Nat) : Prop :=
  m.space = .p ∧ m.ord = .rlx ∧ s.ownWords g = [] ∧ ∀ l ∈ ls, laneAddr g m l = Int.ofNat (x l) ∧ x l < q.alloc.scratch ∧
    s.holderOf q.core Bases.scratch Alloc.scratch (q.bases.scratch + x l) = some q

/-- R202: with every participating lane in the squall's own scratchpad, LDP takes each lane's word, and STP leaves in each
word the value of the highest lane that stores there; every other lane, word and register keeps its value. -/
def Claims.LocalScratchpadLanes : Prop :=
  ∀ (c : Ctl) (m : MOps) (x : Nat → Nat) (s : State) (g : Gust) (q : Squall), s.Issuing g q → g.Undisturbed q →
    Claims.OwnScratch s g q m x (g.activeLanes c.guard) →
    (∃ w : Lanes, exec (.ldp c m) s = .next (s.after g (g.withV m.d w) q (g.pc + 1)) ∧ ∀ l, l < 81 →
      w.get l = if l ∈ g.activeLanes c.guard then readAt Claims.zeroAt q.scratch (x l) else (g.v m.d).get l) ∧
    (g.activeLanes c.guard = [] → exec (.stp c m) s = .next (s.after g g q (g.pc + 1))) ∧
    (g.activeLanes c.guard ≠ [] → ∃ sc : Sparse,
      exec (.stp c m) s = .next ((s.setSquall { q with scratch := sc }).after g g q (g.pc + 1)) ∧
      (canonical Claims.zeroAt q.scratch = true → canonical Claims.zeroAt sc = true ∧
        ∀ y, readAt Claims.zeroAt sc y = match ((g.activeLanes c.guard).filter fun l => x l == y).getLast? with
          | some l => (g.v m.b).get l
          | none => readAt Claims.zeroAt q.scratch y))

/-- The updates of AMOP lane by lane, in ascending lane order (R204): the scratchpad after them, and the word each lane found. -/
def Claims.updates (op : Rmw) (ty : ETy) (x : Nat → Nat) (b d : Lanes) : List Nat → Sparse → Sparse × (Nat → Option Word)
  | [], m => (m, fun _ => none)
  | l :: ls, m =>
    let old := readAt Claims.zeroAt m (x l)
    let m' := match rmwNew op ty old (b.get l) (d.get l) with
      | some v => writeAt Claims.zeroAt m (x l) v
      | none => m
    let r := Claims.updates op ty x b d ls m'
    (r.1, fun k => if k = l then some old else r.2 k)

/-- R203, R204: AMOP in the squall's own scratchpad performs each participating lane's update in ascending lane order, so
that lanes that reach one word see the updates of the lower ones, and gives each lane of d the word it found. -/
def Claims.LocalScratchpadUpdates : Prop :=
  ∀ (c : Ctl) (op : Rmw) (ty : ETy) (m : MOps) (x : Nat → Nat) (s : State) (g : Gust) (q : Squall),
    s.Issuing g q → g.Undisturbed q → Claims.OwnScratch s g q m x (g.activeLanes c.guard) →
    let r := Claims.updates op ty x (g.v m.b) (g.v m.d) (g.activeLanes c.guard) q.scratch
    ∃ (s' : State) (w : Lanes), (s' = s.setSquall { q with scratch := r.1 } ∨ s' = s ∧ r.1 = q.scratch) ∧
      exec (.amop c op ty m) s = .next (s'.after g (g.withV m.d w) q (g.pc + 1)) ∧
      ∀ l, l < 81 → w.get l = (r.2 l).getD ((g.v m.d).get l)

/-- R203: the new word of the updates of whole words: swap, add and adds, min and max of I27, the trit-wise and and or, and
cas, which writes only where the old word equals d. -/
def Claims.UpdateResults : Prop :=
  ∀ old b d : Word,
    rmwNew .swap .i27 old b d = some b ∧
    (∃ w, rmwNew .add .i27 old b d = some w ∧ w.val = wrapT (old.val + b.val) 27) ∧
    (∃ w, rmwNew .adds .i27 old b d = some w ∧ w.val = satT (old.val + b.val) 27) ∧
    (∃ w, rmwNew .min .i27 old b d = some w ∧ w.val = min old.val b.val) ∧
    (∃ w, rmwNew .max .i27 old b d = some w ∧ w.val = max old.val b.val) ∧
    (∃ w, rmwNew .and .i27 old b d = some w ∧ ∀ i, i < 27 → tritI w.val i = min (tritI old.val i) (tritI b.val i)) ∧
    (∃ w, rmwNew .or .i27 old b d = some w ∧ ∀ i, i < 27 → tritI w.val i = max (tritI old.val i) (tritI b.val i)) ∧
    rmwNew .cas .i27 old b d = if old = d then some b else none

/-- An address translates to a word of memory: the core holds a copy of its page-table entry within the copy's lease, and the
entry permits the access (R304 to R306). -/
def Claims.At (s : State) (g : Gust) (q : Squall) (x : Int) (write : Bool) (a : WLoc) : Prop :=
  1 ≤ x ∧ x ≤ wordMax ∧ ∃ e : TlbEntry, tlbFind (s.core q.core).tlb q.ctx (x.toNat / 45) s.ptime none = some e ∧
    leafCheck e.w0 write g.priv = none ∧ leafPlace e.w0 e.w1 x = a

/-- The home slice holds the line of a device location. -/
def Claims.AtHome (s : State) : Loc → Prop
  | .dev p => (s.home? p).isSome = true
  | _ => True

/-- The caches may have been used: only the L1 lines' priorities and last uses, the home lines' notes of dirty sectors and
the count of identities differ. The words in `ws` hold the given values and are dirty, every other word is as it was. -/
def Claims.Cached (s t : State) (d : Nat) (ws : List (WLoc × Word)) : Prop :=
  t = { s with dies := t.dies, homes := t.homes, serial := t.serial } ∧
  (∀ k (a : WLoc), (k ≠ d ∨ ∀ e ∈ ws, e.1 ≠ a) → t.l1Hit k a = s.l1Hit k a) ∧
  (∀ e ∈ ws, ∃ w, t.l1Hit d e.1 = some w ∧ w.dirty.isSome = true ∧ w.bad = false ∧ (e.1, w.val) ∈ ws) ∧
  (∀ p, (t.home? p).map (·.words) = (s.home? p).map (·.words))

/-- A store that is on its way to the L1 slice of its die (R239, R274). -/
def Claims.storeOf (s : State) (g : Gust) (q : Squall) (ev : Int) (x : Int) (a : WLoc) (v : Word) : Instr :=
  .homeApplyWrite { die := dieOf q.core, stamp := clockZero, loc := a.loc, word := a.word, val := v, src := some g.ref, ctx := q.ctx,
                    ev, lease := s.leaseOf q.core q.ctx x, narrow := true, words := s.accessRec g.ref }

/-- A load of a form, with the lanes that are on their way to it (R244). -/
def Claims.Coming (s : State) (g : Gust) (m : MOps) (scalar : Bool) (items : List (Nat × WLoc × Word)) (p : PendLoad) : Prop :=
  p = { d := m.d, scalar := scalar, ev := m.ev, items := items, lease := p.lease, words := s.accessRec g.ref, sentAt := s.ptime }

/-- R238, R239, R252, R274, R284: LD and LDS of words that the L1 copies hold are on their way to those words, whether they are
stale or not, and ST and STS of words of sectors that the L1 slice holds are on their way to it, of several lanes at one word the
highest lane's; the gust goes on meanwhile (the model's choice, log entry 16). Relaxed; nothing else changes. A store leaves its word
dirty in the L1 slice as it gets there. -/
def Claims.CachedAccessForms : Prop :=
  ∀ (c : Ctl) (m : MOps) (a : Nat → WLoc) (v : Nat → CWord) (s : State) (g : Gust) (q : Squall),
    s.Issuing g q → g.Undisturbed q → m.space = .g → m.ord = .rlx → m.ev ≠ -4 → s.ownWords g = [] →
    let d := dieOf q.core
    let ls := g.activeLanes c.guard
    (ls ≠ [] → (∀ l ∈ ls, Claims.At s g q (laneAddr g m l) false (a l) ∧ s.l1Hit d (a l) = some (v l) ∧ (v l).bad = false) →
      ∃ p : PendLoad, Claims.Coming s g m false (ls.map fun l => (l, a l, (v l).val)) p ∧
        exec (.ld c m) s = .next (s.after g { g with loads := g.loads ++ [p] } q (g.pc + 1))) ∧
    ((∀ l ∈ ls, Claims.At s g q (laneAddr g m l) true (a l) ∧ s.l1HoldsSector d (a l) = true ∧
        Claims.AtHome s (a l).loc) →
      let sent := (ls.filter fun l => ls.all fun k => !(l < k && a k == a l)).map fun l =>
        Claims.storeOf s g q m.ev (laneAddr g m l) (a l) ((g.v m.b).get l)
      exec (.st c m) s = .next (({ s with flight := s.flight ++ sent } : State).after g
        { g with unacked := g.unacked + sent.length } q (g.pc + 1))) ∧
    (g.acts c.guard = true → g.fillFaults = [] →
      let x := baseAddr g m.bc m.a m.off
      (Claims.At s g q x false (a 0) → s.l1Hit d (a 0) = some (v 0) → (v 0).bad = false → m.d < 78 →
        ∃ p : PendLoad, Claims.Coming s g m true [(0, a 0, (v 0).val)] p ∧
          exec (.lds c m) s = .next (s.after g { g with loads := g.loads ++ [p] } q (g.pc + 1))) ∧
      (Claims.At s g q x true (a 0) → s.l1HoldsSector d (a 0) = true → Claims.AtHome s (a 0).loc →
        exec (.sts c m) s = .next (({ s with flight := s.flight ++ [Claims.storeOf s g q m.ev x (a 0) (g.s m.b)] } : State).after g
          { g with unacked := g.unacked + 1 } q (g.pc + 1))))

/-- R239, R276: a store that reaches the L1 slice of its die, which holds its sector, leaves its word dirty there, and is
acknowledged. -/
def Claims.StoreReachesL1 : Prop :=
  ∀ (s : State) (m : WriteMsg), m.narrow = true → (∀ k, m.loc ≠ .win k) → s.l1HoldsSector m.die ⟨m.loc, m.word⟩ = true →
    Claims.AtHome s m.loc → m.die < s.dies.length →
    ∃ t : State, Claims.Cached s t m.die [(⟨m.loc, m.word⟩, m.val)] ∧
      exec (.homeApplyWrite m) s = .next (t.acked m.src)

/-- R239, R242, R278: a word written into L1 is dirty there in the die's present epoch and reads back, whatever the L1 held. -/
def Claims.CacheWriteReadsBack : Prop :=
  ∀ (s t : State) (ctx d : Nat) (a : WLoc) (v : Word) (ev : Int), d < s.dies.length →
    s.writeL1 ctx d a v ev = (.ok (), t) →
      t.l1Hit d a = some { val := v, dirty := some (t.die d).epoch, by_ := ctx, bad := false } ∧
      ∀ ev', ev' ≠ -4 → ∃ u, t.readRelaxed d a ev' = (.ok v, u)

/-- The atomic forms of one word: ATOM and CAS, with what they do to the word (R253, R254). -/
def Claims.atomRule : Instr → Option (Ctl × MOps × Bool × AtomKind)
  | .atom c op ty scalar m => some (c, m, scalar, .rmw op ty)
  | .cas c f scalar m => some (c, m, scalar, .cas f)
  | _ => none

/-- The request of an atomic for a word (R248, R249) meets nothing wrong and finds `v`: at cluster scope the L1 copy holds it;
at device and system scope no earlier write of the die to the line is on its way, and the home holds the line, or the owning port's
line is whole. -/
def Claims.Asked (s : State) (d : Nat) (wide : Bool) (a : WLoc) (v : Word) : Prop :=
  if wide then (∀ i ∈ s.flight, behind d a.loc i = false) ∧ match a.loc with
    | .dev p => s.poisoned p (sectorOf a.word) = false ∧
      ∃ h, s.home? p = some h ∧ h.bad.contains a.word = false ∧ v = h.words.getD a.word Word.zero
    | .win _ => False
    | loc => ∃ ws, s.portWords loc [sectorOf a.word] = .ok ws ∧ v = ws.getD a.word Word.zero
  else ∃ w, s.l1Hit d a = some w ∧ w.bad = false ∧ v = w.val

/-- The sectors of the spans of a wide atomic's lanes that stand between those they reach are published at their homes (R241, R284). -/
def Claims.gapsPublished (s : State) (d : Nat) (wide : Bool) (ps : List WLoc) : State :=
  if wide then (spanGaps ps).foldl (fun s x => match x.1 with
    | .dev p => s.publish d p x.2
    | _ => s) s
  else s

/-- Only the home lines' priorities and last uses and the count of identities differ. -/
def Claims.HomesUsed (s t : State) : Prop :=
  t = { s with homes := t.homes, serial := t.serial } ∧ ∀ p, (t.home? p).map (·.words) = (s.home? p).map (·.words)

/-- A relaxed atomic of a form, with the lanes that are on their way to their apply units (R249). -/
def Claims.Sent (p : PendAtom) (m : MOps) (k : AtomKind) (scalar : Bool) (items : List AtomItem) : Prop :=
  p.kind = k ∧ p.d = m.d ∧ p.scalar = scalar ∧ p.ord = .rlx ∧ p.scope = m.scope ∧ p.ev = m.ev ∧ p.items = items ∧ p.lost = false

/-- R183, R187, R248, R249, R253, R254, R274: ATOM and CAS of class + in the core's own scratchpad, in window space, apply at
once, at the port: the new word is written where there is one, and sd takes the old. In another core's scratchpad, and in
global space, a relaxed one sends its word, or its participating lanes, to the apply units, and the gust goes on (the model's choice,
log entry 16); a wide one has the rest of its spans published. In window space outside the scratchpad region they raise "address
space" (20). -/
def Claims.AtomicForms : Prop :=
  ∀ (i : Instr) (c : Ctl) (m : MOps) (scalar : Bool) (k : AtomKind) (s : State) (g : Gust) (q b : Squall)
    (core u y : Nat) (a : Nat → WLoc) (v : Nat → Word),
    Claims.atomRule i = some (c, m, scalar, k) → s.Issuing g q → g.fillFaults = [] → m.ord = .rlx → s.ownWords g = [] →
    g.atoms = [] →
    let x := baseAddr g m.bc m.a m.off
    let goesOn := fun (t : State) (p : PendAtom) => Claims.out (t.onGust g.ref fun h => { h with atoms := h.atoms ++ [p] }) g
    (scalar = true → g.acts c.guard = true → m.space = .w → g.priv = true → winPlace x = some (core, u) →
      winReg (coreIsD core) u = some (.scratch y) → s.holderOf core Bases.scratch Alloc.scratch y = some b → b.ctx = q.ctx →
      let old := readAt Claims.zeroAt b.scratch (y - b.bases.scratch)
      (core = q.core → exec i s = .next (Claims.out ((match k.new old (g.s m.b) (g.s m.d) with
        | some v => s.setSquall { b with scratch := writeAt Claims.zeroAt b.scratch (y - b.bases.scratch) v }
        | none => s).writeS g.ref m.d old) g)) ∧
      (core ≠ q.core → m.d < 78 → ∃ p, Claims.Sent p m k true
          [{ lane := 0, at_ := ⟨.win core, u⟩, dOld := g.s m.d, b := g.s m.b, seen := old }] ∧
        exec i s = .next (goesOn s p))) ∧
    (scalar = true → g.acts c.guard = true → m.space = .w → winPlace x = some (core, u) → u < 1594323 ∨ 2125764 ≤ u →
      Claims.Handles g q → exec i s = .next (Claims.faulted s g 20 0 x)) ∧
    (scalar = true → g.acts c.guard = true → m.space = .g → m.d < 78 → Claims.At s g q x true (a 0) →
      Claims.Asked s (dieOf q.core) m.scope.wide (a 0) (v 0) →
      ∃ t p, Claims.HomesUsed s t ∧ Claims.Sent p m k true
          [{ lane := 0, at_ := a 0, dOld := g.s m.d, b := g.s m.b, seen := v 0 }] ∧
        exec i s = .next (goesOn t p)) ∧
    (scalar = false → m.space = .g → g.activeLanes c.guard ≠ [] →
      (∀ l ∈ g.activeLanes c.guard, Claims.At s g q (laneAddr g m l) true (a l) ∧
        Claims.Asked s (dieOf q.core) m.scope.wide (a l) (v l)) →
      ∃ t p, Claims.HomesUsed s t ∧ Claims.Sent p m k false ((g.activeLanes c.guard).map fun l =>
          { lane := l, at_ := a l, dOld := (g.v m.d).get l, b := (g.v m.b).get l, seen := v l }) ∧
        exec i s = .next (goesOn
          (Claims.gapsPublished t (dieOf q.core) m.scope.wide ((g.activeLanes c.guard).map a)) p)) ∧
    (scalar = false → g.activeLanes c.guard = [] → exec i s = .next (Claims.out s g))

/-- R248, R249, R254: ATOMIC_APPLY of the last lane of a relaxed cluster-scope atomic of class +, whose word its L1 holds:
the new word stands in L1 and sd takes the old one; the gust, which has gone on meanwhile (the model's choice, log entry 16), is
else as it was. -/
def Claims.AtomicApplyStep : Prop :=
  ∀ (s : State) (g : Gust) (q : Squall) (a : PendAtom) (it : AtomItem) (old : CWord),
    s.gust? g.ref = some g → s.squall? g.ref.sq = some q → (∀ op, g.status ≠ .waiting op .atomic) →
    g.atoms = [a] → a.items = [it] → a.scalar = true → a.ord = .rlx → a.scope.wide = false → a.d < 78 →
    a.lost = false → it.took = false → s.joined (dieOf q.core) it.at_.loc = true → a.ev ≠ -4 →
    (∀ k, it.at_.loc ≠ .win k) → s.l1Hit (dieOf q.core) it.at_ = some old → old.bad = false →
    Claims.AtHome s it.at_.loc →
    ∃ t u : State, Claims.Cached s t (dieOf q.core) ((a.kind.new old.val it.b it.dOld).map fun v => (it.at_, v)).toList ∧
      exec (.atomicApply g.ref) s = .next u ∧ u = { t with gusts := u.gusts } ∧
      u.gust? g.ref = some { g.withS a.d old.val with atoms := [] } ∧ ∀ r, r ≠ g.ref → u.gust? r = s.gust? r

/-- R238, R244: the words that a gust's one load waits for land in every lane that needs them: those of one sector together where
L1 holds them, and the word of a lone lane as the level that has it gives it, which is the word that its request found where none can be
had any more (the model's choice, log entry 16); nothing of the load is left then. R309, R311: a gust that waits on a page looks
again. -/
def Obligations.PendingAccessSteps : Prop :=
  ∀ (s : State) (g : Gust) (q : Squall) (op : Int) (l : PendLoad) (loc : Loc) (sec : Nat),
    s.gust? g.ref = some g → s.squall? g.ref.sq = some q → l.lost = false → s.joined (dieOf q.core) loc = true →
    (g.loads = [l] → l.scalar = false → l.items ≠ [] → l.ev ≠ -4 → (∀ k, loc ≠ .win k) →
      (∀ x ∈ l.items, x.1 < 81 ∧ x.2.1.loc = loc ∧ sectorOf x.2.1.word = sec ∧
        (s.l1Hit (dieOf q.core) x.2.1).any (fun w => !w.bad) = true) → (l.items.map (·.1)).Nodup →
      ∃ (t u : State) (w : Lanes), Claims.Cached s t (dieOf q.core) [] ∧ exec (.loadSectorReturn g.ref 0) s = .next u ∧
        u = { t with gusts := u.gusts } ∧ u.gust? g.ref = some { g.withV l.d w with loads := [] } ∧
        (∀ r, r ≠ g.ref → u.gust? r = s.gust? r) ∧
        (∀ x ∈ l.items, w.get x.1 = (s.l1Hit (dieOf q.core) x.2.1).elim x.2.2 (·.val)) ∧
        ∀ k, k < 81 → (∀ x ∈ l.items, x.1 ≠ k) → w.get k = (g.v l.d).get k) ∧
    (∀ (k : Nat) (a : WLoc) (seen v : Word) (c : Int) (t : State), g.loads = [l] → l.items = [(k, a, seen)] → a.loc = loc →
      (∀ n, loc ≠ .win n) →
      let lands := fun (v : Word) (t : State) => exec (.loadSectorReturn g.ref 0) s = .next
        ((if l.scalar then t.writeS g.ref l.d v else t.putVals g.ref l.d [(k, v)]).onGust g.ref fun h => { h with loads := [] })
      (s.readRelaxed (dieOf q.core) a l.ev = (.ok v, t) → lands v t) ∧
      (s.readRelaxed (dieOf q.core) a l.ev = (.error c, t) → 0 ≤ c → lands seen t) ∧
      (s.readRelaxed (dieOf q.core) a l.ev = (.error c, t) → c < 0 →
        lands seen (t.send (.machineCheck q.ctx c ⟨a.phys, l.words⟩)))) ∧
    (g.status = .waiting op .page → g.halted = false →
      exec (.laneRetranslate g.ref) s = .next (s.setGust { g with status := .running }))

/-- R245, R255, R256: PREF of one address that its home can serve sends for the sector, or the line, and writes no register; a
translation that fails is dropped. DEMOTE lowers the priority of each copy of the line to its code. -/
def Obligations.CacheHintForms : Prop :=
  ∀ (c : Ctl) (line : Bool) (m : MOps) (s : State) (g : Gust) (q : Squall) (p w : Nat) (h : HomeLine),
    s.Issuing g q → g.acts c.guard = true → m.bc ≠ .vector →
    let d := dieOf q.core
    let place := s.placeOf q g.priv m.space (baseAddr g m.bc m.a m.off) false
    (∀ e, place = (.mem ⟨.dev p, w⟩ e, s) → s.home? p = some h → h.bad = [] → s.poisoned p (sectorOf w) = false → m.ev ≠ -4 →
      (∀ i ∈ s.flight, behind d (.dev p) i = false) → homeDie p = d ∨ s.near? d p = none →
      exec (.pref c line m) s = .next (Claims.out ((s.homeFill p m.ev).2.send
        (.l1Fill d (.dev p) (if line then 0 else sectorOf w) (if line then 9 else 1) m.ev)) g)) ∧
    (∀ n a t, place = (.bad n a, t) → 0 < n → n ≠ 20 → n ≠ 21 →
      exec (.pref c line m) s = .next (Claims.out t g) ∧ exec (.demote c m) s = .next (Claims.out t g)) ∧
    (∀ e, place = (.mem ⟨.dev p, w⟩ e, s) → m.ev ≠ -4 → ∃ t : State, exec (.demote c m) s = .next (Claims.out t g) ∧
      t = { s with dies := t.dies, homes := t.homes } ∧
      (∀ x, s.l1? d (.dev p) = some x → t.l1? d (.dev p) = some { x with prio := min x.prio m.ev }) ∧
      (∀ x, s.near? d p = some x → t.near? d p = some { x with prio := min x.prio (max m.ev (-3)) }) ∧
      (∀ x, s.home? p = some x → t.home? p = some { x with prio := min x.prio (max m.ev (-3)) }) ∧
      ∀ k loc, loc ≠ .dev p → t.l1? k loc = s.l1? k loc)

/-- R277, R279, R286, R290, R291: FENCE waits for the gust's accesses, writes back and advances the epoch where it releases,
takes a ticket where it is sequentially consistent, and drops stale sectors where it acquires. IFENCE waits for the gust's
writes and then makes its next fetches take the new words. -/
def Claims.FenceForms : Prop :=
  ∀ (c : Ctl) (o : Order) (sc : Scope) (s : State) (g : Gust) (q : Squall), s.Issuing g q → g.acts c.guard = true →
    (g.quiet = true → exec (.fence c o sc) s = .next (Claims.out (
      let s1 := if o = .rel ∨ o = .ar ∨ o = .sc then s.releasePart (dieOf q.core) sc else s
      let s2 := if o = .sc then s1.ticket (dieOf q.core) sc else s1
      if o = .acq ∨ o = .ar ∨ o = .sc then s2.acquirePart (dieOf q.core) sc else s2) g)) ∧
    (g.quiet = false → o = .rel ∨ o = .ar ∨ o = .sc ∨ o = .acq ∧ (g.loads ≠ [] ∨ g.atoms ≠ []) →
      exec (.fence c o sc) s = .next (Claims.waits s g s.op .quiet)) ∧
    (g.unacked = 0 → g.Undisturbed q → exec (.ifence c) s = .next (s.after g { g with oldCode := [] } q (g.pc + 1))) ∧
    (g.unacked ≠ 0 → exec (.ifence c) s = .next (Claims.waits s g s.op .quiet))

/-- R277, R278: after the release part of a device- or system-scope release the die's L1 holds no dirty word, and its epoch
has advanced by one; a narrower one advances the epoch alone. -/
def Claims.ReleaseWritesBack : Prop :=
  ∀ (s : State) (d : Nat) (sc : Scope), d < s.dies.length →
    (∀ x ∈ (s.die d).l1, ∀ e ∈ x.words, ∀ k, e.2.dirty = some k → k ≤ (s.die d).epoch) →
    ((s.releasePart d sc).die d).epoch = (s.die d).epoch + 1 ∧
    (sc = .dv ∨ sc = .sy → ∀ x ∈ ((s.releasePart d sc).die d).l1, ∀ e ∈ x.words, e.2.dirty = none) ∧
    (sc ≠ .dv → sc ≠ .sy → s.releasePart d sc = s.onDie d fun x => { x with epoch := x.epoch + 1 })

/-- The record of a barrier: state, phase, E, R, and who has arrived (R189). -/
def Claims.IsBar (r : BarRec) (st ph e n : Int) (arrived : Nat → Bool) : Prop :=
  barState r = st ∧ barPhase r = ph ∧ barE r = e ∧ barR r = n ∧ ∀ g, g < 27 → barArrived r g = arrived g

/-- Every trit of a predicate alike. -/
def Claims.allTrits (t : Trit) : Mask := Mask.tab fun _ => t

/-- R189, R191, R194, R195: BARINIT registers an inactive barrier, has no effect on an active one with the same count and else
raises "barrier busy" (41). BARARR is refused where its gust has arrived, and else gives the phase as token, counts down R and,
where R comes to 0, completes the phase: the next phase, R again E, nobody arrived, and the waiting gusts awake. -/
def Claims.BarrierArrivals : Prop :=
  ∀ (c : Ctl) (d b p n : Nat) (s : State) (g : Gust) (q : Squall),
    s.Issuing g q → g.acts c.guard = true → g.ref.gust < 27 → n ≤ 729 → barBad (q.bar b) = false →
    let r := q.bar b
    (barState r = 0 → ∃ r', Claims.IsBar r' 1 (barPhase r) n n (fun _ => false) ∧
      exec (.barinit c b n) s = .next (Claims.out (s.setBar g.ref.sq b r') g)) ∧
    (barState r = 1 → barE r = n → exec (.barinit c b n) s = .next (Claims.out s g)) ∧
    (barState r = 1 → barE r ≠ n → Claims.Handles g q → exec (.barinit c b n) s = .next (Claims.faulted s g 41 0 0)) ∧
    (barState r = 0 → Claims.Handles g q →
      exec (.bararr c d b p n) s = .next (Claims.faulted s g 42 0 0)) ∧
    (barState r = 1 → barArrived r g.ref.gust = true →
      exec (.bararr c d b p n) s = .next (Claims.out (s.writeP g.ref p (Claims.allTrits .minus)) g)) ∧
    (barState r = 1 → barArrived r g.ref.gust = false → barR r < n → Claims.Handles g q →
      exec (.bararr c d b p n) s = .next (Claims.faulted s g 43 0 0)) ∧
    (g.quiet = true → barState r = 1 → barArrived r g.ref.gust = false →
      let t := ((s.writeS g.ref d (Word.ofInt (barPhase r))).writeP g.ref p (Claims.allTrits .plus)).releasePart
        (dieOf q.core) .sq
      (n < barR r → ∃ r', Claims.IsBar r' 1 (barPhase r) (barE r) (barR r - n)
          (fun k => k == g.ref.gust || barArrived r k) ∧
        exec (.bararr c d b p n) s = .next (Claims.out (t.setBar g.ref.sq b r') g)) ∧
      (n = barR r → 0 < barE r →
        ∃ r', Claims.IsBar r' 1 (if barPhase r = -1 then 1 else barPhase r - 1) (barE r) (barE r) (fun _ => false) ∧
          exec (.bararr c d b p n) s = .next (Claims.out ((t.setBar g.ref.sq b r').wakeBarrier g.ref.sq b) g)))

/-- R196 to R199: BARWAIT waits while its token is the phase of an active barrier, returns at once with an acquire on any other
token, and raises "barrier token" (44) on a word that is none. BARSYNC waits where its gust has arrived; it arrives with count 1
and waits, or, as the last, returns. BARDROP arrives and lowers E too; with E at 0 the completed barrier is inactive. BARQRY
reads the record, malformed or not, and every other form raises "barrier record" (40) on a malformed one. -/
def Claims.BarrierWaits : Prop :=
  ∀ (c : Ctl) (d b p t n : Nat) (s : State) (g : Gust) (q : Squall),
    s.Issuing g q → g.acts c.guard = true → g.ref.gust < 27 → b < q.bars.length →
    let r := q.bar b
    let x := (g.s t).val
    exec (.barqry c d b) s = .next (Claims.out ((s.writeS g.ref d r.1).writeS g.ref (d + 1) r.2) g) ∧
    (barBad r = true → Claims.Handles g q → ∀ i ∈ [Instr.barinit c b n, .bararr c d b p n, .barwait c b t, .barsync c b,
      .bardrop c b p n], exec i s = .next (Claims.faulted s g 40 0 0)) ∧
    (barBad r = false →
      (x < -1 ∨ 1 < x → Claims.Handles g q → exec (.barwait c b t) s = .next (Claims.faulted s g 44 0 0)) ∧
      (-1 ≤ x → x ≤ 1 → barState r = 1 → barPhase r = x →
        exec (.barwait c b t) s = .next (Claims.waits s g s.op (.barrier b x))) ∧
      (-1 ≤ x → x ≤ 1 → barState r = 0 ∨ barPhase r ≠ x →
        exec (.barwait c b t) s = .next (Claims.out (s.acquirePart (dieOf q.core) .sq) g)) ∧
      (barState r = 1 → barArrived r g.ref.gust = true →
        exec (.barsync c b) s = .next (Claims.waits s g s.op (.barrier b (barPhase r)))) ∧
      (barState r = 1 → barArrived r g.ref.gust = false → g.quiet = true → 1 < barR r → ∃ r',
        Claims.IsBar r' 1 (barPhase r) (barE r) (barR r - 1) (fun k => k == g.ref.gust || barArrived r k) ∧
        exec (.barsync c b) s = .next (Claims.waits ((s.releasePart (dieOf q.core) .sq).setBar g.ref.sq b r') g s.op
          (.barrier b (barPhase r)))) ∧
      (barState r = 1 → barArrived r g.ref.gust = false → g.quiet = true → barR r = 1 →
        (∀ h ∈ s.gustsOf g.ref.sq, ∀ o k, h.status ≠ .waiting o (.barrier b k)) → ∃ r',
        Claims.IsBar r' 1 (if barPhase r = -1 then 1 else barPhase r - 1) (barE r) (barE r) (fun _ => false) ∧
        exec (.barsync c b) s = .next (Claims.out
          (((s.releasePart (dieOf q.core) .sq).setBar g.ref.sq b r').acquirePart (dieOf q.core) .sq) g)) ∧
      (barState r = 1 → barArrived r g.ref.gust = false → g.quiet = true →
        let u := (s.writeP g.ref p (Claims.allTrits .plus)).releasePart (dieOf q.core) .sq
        (n < barR r → ∃ r', Claims.IsBar r' 1 (barPhase r) (barE r - n) (barR r - n)
            (fun k => k == g.ref.gust || barArrived r k) ∧
          exec (.bardrop c b p n) s = .next (Claims.out (u.setBar g.ref.sq b r') g)) ∧
        (n = barR r → ∃ r', Claims.IsBar r' (if barE r = n then 0 else 1) (if barPhase r = -1 then 1 else barPhase r - 1)
            (barE r - n) (barE r - n) (fun _ => false) ∧
          exec (.bardrop c b p n) s = .next (Claims.out ((u.setBar g.ref.sq b r').wakeBarrier g.ref.sq b) g))))

/-- R179, R202 to R204: LDPS, STPS, LDP, STP and AMOP in the squall's own scratchpad, and the results of the updates. -/
def Obligations.LocalScratchpadForms : Prop :=
  Claims.LocalScratchpadWords ∧ Claims.LocalScratchpadLanes ∧ Claims.LocalScratchpadUpdates ∧ Claims.UpdateResults

/-- R238, R239, R242, R252, R274, R276, R278, R284: LD, LDS, ST and STS of words in L1, the store that gets there, and that a word
written there reads back. -/
def Obligations.CachedAccessForms : Prop := Claims.CachedAccessForms ∧ Claims.StoreReachesL1 ∧ Claims.CacheWriteReadsBack

/-- R187, R248, R249, R253, R254: ATOM and CAS, and the step that applies them. -/
def Obligations.AtomicForms : Prop := Claims.AtomicForms ∧ Claims.AtomicApplyStep

/-- R277 to R279, R286, R290, R291: FENCE and IFENCE, and what a release part leaves. -/
def Obligations.FenceForms : Prop := Claims.FenceForms ∧ Claims.ReleaseWritesBack

/-- R189 to R199: BARINIT, BARARR, BARWAIT, BARSYNC, BARDROP and BARQRY. -/
def Obligations.BarrierForms : Prop := Claims.BarrierArrivals ∧ Claims.BarrierWaits

/-- A latch form with one address finds its line (R269): the address translates to word `w` of device line `p`, whose home
holds it, and the span lies in the line. -/
def Claims.Latched (s : State) (g : Gust) (q : Squall) (bc : BaseCls) (a n : Nat) (off : Int) (write : Bool) (p w : Nat) : Prop :=
  bc ≠ .vector ∧ g.fillFaults = [] ∧ (∃ e, s.placeOf q g.priv .g (baseAddr g bc a off) write = (.mem ⟨.dev p, w⟩ e, s)) ∧
  s.poisoned p (sectorOf w) = false ∧ (s.home? p).isSome = true ∧
  (n = 0 ∨ (baseAddr g bc a off % 45).toNat / 5 + n ≤ 9)

/-- The first sector of the span of a latch form with one address, and its count (R269). -/
def Claims.span (x : Int) (n : Nat) : Nat × Nat := if n = 0 then (0, 9) else ((x % 45).toNat / 5, n)

/-- R260, R261, R264, R269, R270: LATCH and LATCHT of a free line send the request for their span, with LATCHT's deadline, and
wait; once the home's code has come they write it to sd, after an acquire at device scope where it grants the latch. A span
beyond the line raises "latch span" (61), a tenth latch "latch limit" (63), a span that meets one the gust holds "latch held
twice" (64), a line outside HBM4 "latch location" (62), and no address at all "latch lanes" (60). That the check of the location
reaches the home line as a read of code 0 does, and which of several faults is raised, is the model's choice (log entry 61), and so is
the detail of latch span and latch lanes (log entry 15). -/
def Claims.LatchForms : Prop :=
  ∀ (c : Ctl) (ev : Int) (bc : BaseCls) (d a b n : Nat) (off : Int) (timed : Bool) (s : State) (g : Gust) (q : Squall) (p w : Nat),
    s.Issuing g q → g.acts c.guard = true →
    let i := if timed then Instr.latcht c ev bc d a b n off else .latch c ev bc d a n off
    let x := baseAddr g bc a off
    let place := s.placeOf q g.priv .g x true
    let t := (s.homeFill p 0).2
    let sp := Claims.span x n
    (∀ code, g.latchCode = some code →
      let u := s.onGust g.ref fun h => { h with latchCode := none }
      (code = 1 ∨ code = 3 ∨ code = -1 →
        exec i s = .next (Claims.out ((u.acquirePart (dieOf q.core) .dv).writeS g.ref d (Word.ofInt code)) g)) ∧
      (code = 0 ∨ code = 2 ∨ code = -2 → exec i s = .next (Claims.out (u.writeS g.ref d (Word.ofInt code)) g))) ∧
    (g.latchCode = none → Claims.Latched s g q bc a n off true p w →
      (∀ h ∈ s.latchesOf g.ref, h.1 ≠ p ∨ h.2.1 + h.2.2 ≤ sp.1 ∨ sp.1 + sp.2 ≤ h.2.1) →
      ((s.latchesOf g.ref).length < 9 → exec i s = .next (Claims.waits (t.send (.latchRequest
        { who := g.ref, ctx := q.ctx, die := dieOf q.core, line := p, first := sp.1, cnt := sp.2, timed := timed,
          deadline := s.ptime + (if timed then (max 0 (g.s b).val).toNat else 0), vaddr := x / 45 * 45, ev,
          lease := t.leaseOf q.core q.ctx (x / 45 * 45), words := t.accessRec g.ref, sentAt := s.ptime }))
        g s.op (.latch x n))) ∧
      (9 ≤ (s.latchesOf g.ref).length → Claims.Handles g q → exec i s = .next (Claims.faulted t g 63 0 x))) ∧
    (g.latchCode = none → Claims.Latched s g q bc a n off true p w → (s.latchesOf g.ref).length < 9 → Claims.Handles g q →
      (∃ h ∈ s.latchesOf g.ref, h.1 = p ∧ h.2.1 < sp.1 + sp.2 ∧ sp.1 < h.2.1 + h.2.2) →
      exec i s = .next (Claims.faulted t g 64 0 x)) ∧
    (g.latchCode = none → bc ≠ .vector → g.fillFaults = [] → Claims.Handles g q →
      ((∃ k e, place = (.mem k e, s)) → n ≠ 0 → 9 < (x % 45).toNat / 5 + n → exec i s = .next (Claims.faulted s g 61 0 x)) ∧
      (n = 0 ∨ (x % 45).toNat / 5 + n ≤ 9 → (∃ k l e, place = (.mem ⟨.host k, l⟩ e, s)) ∨ (∃ v k l e, place = (.mem ⟨.remote v k, l⟩ e, s)) →
        exec i s = .next (Claims.faulted s g 62 0 x))) ∧
    (g.latchCode = none → bc = .vector → g.fillFaults = [] → g.activeLanes c.guard = [] → Claims.Handles g q →
      exec i s = .next (Claims.faulted s g 60 0 0))

/-- R260, R269, R271, R272 (log entry 61): UNLATCH of a latch the gust holds releases at device scope and sends the release to the home, with
.sus marking the span suspect there; of any other span it raises "latch not held" (65). LATQ reads the line's queue head. -/
def Claims.UnlatchForms : Prop :=
  ∀ (c : Ctl) (sus : Bool) (bc : BaseCls) (d a n : Nat) (off : Int) (s : State) (g : Gust) (q : Squall) (p w : Nat),
    s.Issuing g q → g.acts c.guard = true →
    let x := baseAddr g bc a off
    let t := (s.homeFill p 0).2
    let u := t.releasePart (dieOf q.core) .dv
    let sp := Claims.span x n
    (Claims.Latched s g q bc a n off false p w →
      ((p, sp.1, sp.2) ∈ s.latchesOf g.ref → g.quiet = true → exec (.unlatch c sus bc a n off) s =
        .next (Claims.out (u.send (.latchRelease
          ⟨g.ref, dieOf q.core, (u.die (dieOf q.core)).clock, p, sp.1, sp.2, sus⟩)) g)) ∧
      ((p, sp.1, sp.2) ∈ s.latchesOf g.ref → g.quiet = false →
        exec (.unlatch c sus bc a n off) s = .next (Claims.waits t g s.op .quiet)) ∧
      ((p, sp.1, sp.2) ∉ s.latchesOf g.ref → Claims.Handles g q →
        exec (.unlatch c sus bc a n off) s = .next (Claims.faulted t g 65 0 x))) ∧
    (Claims.Latched s g q bc a 1 off false p w → ∃ w0 w1 : Word,
      exec (.latq c bc d a off) s = .next (Claims.out ((t.writeS g.ref d w0).writeS g.ref (d + 1) w1) g) ∧
      (s.head? p = none → w0 = Word.zero ∧ w1 = Word.zero) ∧
      ∀ h, s.head? p = some h → h.holders.length ≤ 9 → h.entries.length ≤ 243 →
        fld w0.val 17 15 = h.holders.length ∧ fld w0.val 14 0 = 0 ∧
        fld w1.val 26 21 = (h.entries.filter fun e => e.cls == .plus && e.st != .requeued).length ∧
        fld w1.val 20 15 = (h.entries.filter fun e => e.cls == .zero && e.st != .requeued).length ∧
        fld w1.val 14 9 = (h.entries.filter fun e => e.cls == .minus && e.st != .requeued).length ∧
        fld w1.val 8 0 = (h.entries.filter fun e => e.st == .requeued).length ∧
        ∀ k, k < 9 → (tritI w0.val (18 + k) = 0 ↔ ∀ y ∈ h.held, ¬(y.2.1 ≤ k ∧ k < y.2.1 + y.2.2)))

/-- R258 to R261, R270: a request for a line with no head is granted at once to a bound gust, which holds the span then and is
told +1 with the span's words, or told +2 where its home slice has no queue head free. One that conflicts is queued, with the
class that its bind record has as it arrives, told 0 where LATCHT's deadline has passed, and +2 where no entry is free. -/
def Claims.LatchRequestStep : Prop :=
  ∀ (s : State) (m : LatchReq) (h : QHead),
    let free := ((s.sliceHeads m.line).map fun k => k.entries.length).sum < 243
    let u : State := { s with serial := s.serial + 1 }
    (s.head? m.line = none → (s.sliceHeads m.line).length < 27 → (s.gust? m.who).isSome = true →
      ∃ (t : State) (words : List Word) (clk : List Nat), exec (.latchRequest m) s = .next t ∧
        t.head? m.line = some { line := m.line, holders := [⟨m.who, m.ctx, m.first, m.cnt⟩], entries := [], runN := 0,
                                runB := 0, suspect := [] } ∧
        t.flight.getLast? = some (.latchGrant { who := m.who, line := m.line, first := m.first, cnt := m.cnt, status := 1,
                                                ev := m.ev, words, clk }) ∧
        ∀ x, t.home? m.line = some x → words = (x.words.drop (5 * m.first)).take (5 * m.cnt)) ∧
    (s.head? m.line = none → 27 ≤ (s.sliceHeads m.line).length →
      exec (.latchRequest m) s = .next (s.tellLatch m.who m.line m.first m.cnt 2 m.ev)) ∧
    (s.head? m.line = some h → (∀ e ∈ h.entries, e.st ≠ .queued ∧ e.expired s.ptime = false) →
      (∃ x ∈ h.held, m.first < x.2.1 + x.2.2 ∧ x.2.1 < m.first + m.cnt) →
      (m.timed = true ∧ m.deadline ≤ s.ptime →
        exec (.latchRequest m) s = .next (u.tellLatch m.who m.line m.first m.cnt 0 m.ev)) ∧
      (m.timed = false ∨ s.ptime < m.deadline → ¬ free →
        exec (.latchRequest m) s = .next (u.tellLatch m.who m.line m.first m.cnt 2 m.ev)) ∧
      (m.timed = false ∨ s.ptime < m.deadline → free → ∃ t : State, exec (.latchRequest m) s = .next t ∧
        t = { u with heads := t.heads } ∧ t.head? m.line = some { h with entries := h.entries ++
          [{ who := m.who, ctx := m.ctx, first := m.first, cnt := m.cnt, cls := s.latchClass m.who, entered := s.ptime,
             deadline := if m.timed then some m.deadline else none, st := .queued, lost := false, vaddr := m.vaddr,
             ev := m.ev, probeAt := s.ptime + 729000, ver := s.serial }] }))

/-- One queue head stands for a line. -/
def Claims.OneHead (s : State) (line : Nat) (h : QHead) : Prop := s.head? line = some h ∧ ∀ k ∈ s.heads, k.line = line → k = h

/-- R258, R260, R262, R264, R271: a release takes its holder off the head, which is freed with nothing on it, and marks the
span suspect under .sus; the clocks of its sectors take the releasing die's. An offer whose lease of 27,000 ticks lapses leaves
its entry requeued and its gust to be told +3 later, or told 0 where its deadline has passed; its next probe is due as many ticks later as
the offer took. A deadline that has passed removes an entry with status 0, but not an offered one. Stated where no other entry waits. -/
def Claims.LatchQueueSteps : Prop :=
  ∀ (s : State) (line : Nat) (h : QHead) (e : Waiter) (m : LatchRel) (t0 : Nat), Claims.OneHead s line h →
    (m.line = line → h.entries = [] → ∃ t : State, exec (.latchRelease m) s = .next t ∧
      t = { s.raiseClocks line ((List.range m.cnt).map (· + m.first)) m.stamp with heads := t.heads } ∧
      let hs := h.holders.filter fun x => !(x.who == m.who && x.first == m.first && x.cnt == m.cnt)
      (m.sus = false → t.head? line = if hs = [] ∧ h.suspect = [] then none else some { h with holders := hs }) ∧
      (m.sus = true → 0 < m.cnt → ∃ l : List Nat, t.head? line = some { h with holders := hs, suspect := l } ∧
        ∀ k, k ∈ l ↔ k ∈ h.suspect ∨ m.first ≤ k ∧ k < m.first + m.cnt)) ∧
    (h.entries = [e] → e.st = .offered t0 →
      (t0 + 27000 ≤ s.ptime → (∀ dl, e.deadline = some dl → s.ptime ≤ dl) →
        ∃ t : State, exec (.latchLeaseLapse line e.who) s = .next t ∧
        t = { s with heads := t.heads, serial := s.serial + 1 } ∧
        t.head? line = some { h with entries :=
          [{ e with st := .requeued, lost := true, ver := s.serial, probeAt := s.ptime + e.probeAt }] }) ∧
      (t0 + 27000 ≤ s.ptime → ∀ dl, e.deadline = some dl → dl < s.ptime →
        ∃ t : State, exec (.latchLeaseLapse line e.who) s = .next t ∧
        t = { s with heads := t.heads, serial := s.serial + 1, flight := s.flight ++
          [.latchGrant { who := e.who, line, first := e.first, cnt := e.cnt, status := 0, ev := e.ev, words := [],
                         clk := clockZero }] } ∧
        t.head? line = if h.holders = [] ∧ h.suspect = [] then none else some { h with entries := [] }) ∧
      (s.ptime < t0 + 27000 → exec (.latchLeaseLapse line e.who) s = .next s) ∧
      exec (.latchtDeadline line e.who) s = .next s) ∧
    (h.entries = [e] → ∀ dl, e.deadline = some dl → e.offered = false →
      (s.ptime ≤ dl → exec (.latchtDeadline line e.who) s = .next s) ∧
      (dl < s.ptime → ∃ t : State, exec (.latchtDeadline line e.who) s = .next t ∧
        t = { s with heads := t.heads, flight := s.flight ++
          [.latchGrant { who := e.who, line, first := e.first, cnt := e.cnt, status := 0, ev := e.ev, words := [],
                         clk := clockZero }] } ∧
        t.head? line = if h.holders = [] ∧ h.suspect = [] then none else some { h with entries := [] }))

/-- R260, R261: a code reaches its waiting gust; with a grant the words it brings stand in the L1 of its die, where the L1 held
no dirty ones. -/
def Claims.LatchGrantStep : Prop :=
  ∀ (s : State) (m : LatchGrant) (g : Gust) (q : Squall), s.gust? m.who = some g → s.squall? m.who.sq = some q →
    ∃ (t : State) (n : Nat), exec (.latchGrant m) s = .next t ∧
      t.gust? m.who = some { g with latchCode := some m.status, unacked := n } ∧
      (m.status ≠ 1 → m.status ≠ 3 → m.status ≠ -1 →
        t = s.onGust m.who fun k => { k with latchCode := some m.status }) ∧
      (m.status = 1 ∨ m.status = 3 ∨ m.status = -1 → m.ev ≠ -4 → dieOf q.core < s.dies.length →
        m.words.length = 5 * m.cnt → m.first + m.cnt ≤ 9 → ∀ w, m.first ≤ w / 5 → w / 5 < m.first + m.cnt →
          ∃ v, t.l1Hit (dieOf q.core) ⟨.dev m.line, w⟩ = some v ∧
            (v.dirty = none → v.val = m.words.getD (w - 5 * m.first) Word.zero))

/-- R265: a waiter that has been queued long enough sends a probe to every conflicting holder. A probe that comes back to its
origin names a cycle, whose youngest waiter is told −2 and has left its line's queue; one on whose path an entry has changed is
discarded. Stated for a cycle of two. -/
def Claims.DeadlockSteps : Prop :=
  ∀ (s : State) (line : Nat) (e f : Waiter) (lf : Nat) (p : Probe),
    ((s.head? line).bind (fun h => h.entries.find? fun x => x.who == e.who) = some e → e.offered = false →
      (s.ptime < e.probeAt → exec (.deadlockProbeSend line e.who) s = .next s) ∧
      (e.probeAt ≤ s.ptime → ∃ t : State, exec (.deadlockProbeSend line e.who) s = .next t ∧
        t.flight = s.flight ++ (s.conflicts line e).map fun h =>
          .deadlockProbe ⟨[(e.who, line, e.stamp), (h, 0, 0)]⟩)) ∧
    (p.path = [(e.who, line, e.stamp), (f.who, lf, f.stamp), (e.who, 0, 0)] →
      s.waitsAt e.who = some (line, e) → s.waitsAt f.who = some (lf, f) → e.offered = false → f.offered = false →
      e.entered < f.entered → (s.head? lf).bind (fun h => h.entries.find? fun x => x.who == f.who) = some f →
      ∃ t : State, exec (.deadlockProbe p) s = .next t ∧ Instr.latchGrant
        { who := f.who, line := lf, first := f.first, cnt := f.cnt, status := -2, ev := f.ev, words := [], clk := clockZero } ∈
          t.flight ∧ ∀ k, t.head? lf = some k → ∀ x ∈ k.entries, x.who ≠ f.who) ∧
    (∀ x ∈ p.path.dropLast, (s.waitsAt x.1).any (fun k => k.1 == x.2.1 && k.2.stamp == x.2.2 && !k.2.offered) = false →
      exec (.deadlockProbe p) s = .next s)

/-- What PROBE answers (R317): the attributes of an entry's word 0, its level, its fill trit and the cached trit. -/
def Claims.Probed (w0 : Word) (attrs : Int) (level : Nat) (fill cached : Int) : Prop :=
  fld w0.val 26 17 = attrs ∧ fld w0.val 16 14 = level ∧ fld w0.val 13 13 = fill ∧ fld w0.val 12 12 = cached ∧
  fld w0.val 11 0 = 0

/-- R305, R306, R317: PROBE completes. Where the core holds a copy of the translation within its lease, it answers from the copy;
else from the walk: with the leaf where the walk ended, starting its fill where that is asked for and the entry is absent-on-flash
or regenerate, or, at a malformed entry, with zeros and the level. The second word is 0 for an unprivileged gust, the place of the
address for a present entry (modulo 3^27, log entry 65), and word 1 of any other entry. That a copy within its lease is always the
one that answers is the model's choice (log entry 20). -/
def Claims.ProbeCompletes : Prop :=
  ∀ (c : Ctl) (bc : BaseCls) (d a : Nat) (start : Bool) (off : Int) (s : State) (g : Gust) (q : Squall),
    s.Issuing g q → g.acts c.guard = true →
    let x := baseAddr g bc a off
    let answers := fun (t : State) (w0 w1 : Word) =>
      exec (.probe c bc d a start off) s = .next (Claims.out ((t.writeS g.ref d w0).writeS g.ref (d + 1) w1) g)
    let place := fun (e0 e1 w1 : Word) => ∀ p w : Nat, leafPlace e0 e1 x = ⟨.dev p, w⟩ →
      w1 = if g.priv then Word.ofInt (Int.ofNat (45 * p + w)) else Word.zero
    1 ≤ x → x ≤ wordMax →
    (∀ e : TlbEntry, tlbFind (s.core q.core).tlb q.ctx (x.toNat / 45) s.ptime none = some e → e.level ≤ 13 →
      ∃ w0 w1 : Word, answers s w0 w1 ∧ Claims.Probed w0 (fld e.w0.val 26 17) e.level 0 1 ∧
        (g.priv = false → w1 = Word.zero) ∧ place e.w0 e.w1 w1) ∧
    (tlbFind (s.core q.core).tlb q.ctx (x.toNat / 45) s.ptime none = none →
      (∀ (v entry : Nat) (cap : Option Nat) (e0 e1 : Word) (t : State), v ≤ 13 →
        s.walk (dieOf q.core) q.ctx x = (.leaf v entry e0 e1 cap, t) →
        let absent : Prop := pteType e0 = -1 ∨ pteType e0 = 2
        ∃ w0 w1 : Word,
          answers (if start = true ∧ absent then t.startFill (dieOf q.core) q.core q.ctx entry e0 e1 x else t) w0 w1 ∧
          Claims.Probed w0 (if pteType e0 = 0 then 0 else fld e0.val 26 17) v (if absent then pteFill e0 else 0) 0 ∧
          (g.priv = false → w1 = Word.zero) ∧
          (absent ∨ pteType e0 = 0 → g.priv = true → w1 = Word.ofInt e1.val) ∧
          (¬ absent → pteType e0 ≠ 0 → place e0 e1 w1)) ∧
      (∀ (v : Nat) (cause at_ : Int) (e1 : Word) (t : State), v ≤ 13 → 0 ≤ cause →
        s.walk (dieOf q.core) q.ctx x = (.bad v cause e1 at_, t) →
        ∃ w0 w1 : Word, answers t w0 w1 ∧ Claims.Probed w0 0 v 0 0 ∧ (g.priv = false → w1 = Word.zero)))

/-- The record that FREF reads from the L1 (R313): its nine words are there, and `t` is the state once they are read. -/
def Claims.FrameRead (s : State) (g : Gust) (q : Squall) (a : Nat) (k : Nat → WLoc) (v : Nat → CWord) : Prop :=
  g.fillFaults = [] ∧ s.ownWords g = [] ∧ ∀ n, n < 9 → Claims.At s g q ((g.s a).val + Int.ofNat n) false (k n) ∧
    s.l1Hit (dieOf q.core) (k n) = some (v n) ∧ (v n).bad = false

/-- A frame record's nine words as the frame they name (R313). -/
def Claims.frame (v : Nat → CWord) : Frame :=
  { base := (v 0).val.val, pr := (v 1).val.val, pc := (v 2).val.val, sr := (v 3).val.val, gr := (v 4).val.val,
    gc := (v 5).val.val, si := (v 6).val.val, sj := (v 7).val.val, ahead := (v 8).val.val }

/-- A frame record within the limits of R313, at an aligned address. -/
def Claims.FrameOk (f : Frame) (x : Int) : Prop :=
  1 ≤ f.base ∧ 1 ≤ f.pr ∧ f.pr ≤ 729 ∧ 1 ≤ f.pc ∧ f.pc ≤ 729 ∧ f.pr * f.pc ≤ 729 ∧ 1 ≤ f.gr ∧ f.gr ≤ 19683 ∧
  1 ≤ f.gc ∧ f.gc ≤ 19683 ∧ 0 ≤ f.ahead ∧ f.ahead ≤ 27 ∧ x % 9 = 0

/-- R313 to R315, R318: FREF completes with the address of the pane's first word and the pane's count of words; with warm the pages
of the pane and of those the record names after it enter the walk-ahead TLB. (An address beyond I27 is taken modulo 3^27: log entry 65.) -/
def Claims.FrefCompletes : Prop :=
  ∀ (c : Ctl) (d a b : Nat) (warm : Bool) (s : State) (g : Gust) (q : Squall) (k : Nat → WLoc) (v : Nat → CWord),
    s.Issuing g q → g.acts c.guard = true → Claims.FrameRead s g q a k v →
    let p := (g.s b).val
    let f := Claims.frame v
    Claims.FrameOk f (g.s a).val → 0 ≤ p → p < f.gr * f.gc →
    ∃ t : State, Claims.Cached s t (dieOf q.core) [] ∧ exec (.fref c d a b warm) s = .next (Claims.out (((
        if warm then t.walkAhead q.core q.ctx g.priv f (p :: f.next p) else t).writeS
          g.ref d (Word.ofInt (f.base + p / f.gc * f.si + p % f.gc * f.sj))).writeS g.ref (d + 1) (Word.ofInt (f.pr * f.pc))) g)

/-- R305, R306, R313 to R315, R317, R318: PROBE and FREF complete. -/
def Obligations.LookupCompletion : Prop := Claims.ProbeCompletes ∧ Claims.FrefCompletes

/-- R313, R317, R318: PROBE of an address outside its space raises "address space" (20). FREF of a pane the frame does not have
raises "frame range" (31), of a record that is not aligned or malformed "frame record" (30). -/
def Obligations.LookupFaults : Prop :=
  ∀ (c : Ctl) (bc : BaseCls) (d a b : Nat) (start warm : Bool) (off : Int) (s : State) (g : Gust) (q : Squall)
    (k : Nat → WLoc) (v : Nat → CWord),
    s.Issuing g q → g.acts c.guard = true → Claims.Handles g q →
    (let x := baseAddr g bc a off
     x < 1 ∨ wordMax < x → exec (.probe c bc d a start off) s = .next (Claims.faulted s g 20 0 x)) ∧
    (Claims.FrameRead s g q a k v →
      let p := (g.s b).val
      let f := Claims.frame v
      let good := Claims.FrameOk f (g.s a).val
      ∃ t : State, Claims.Cached s t (dieOf q.core) [] ∧
        (good → p < 0 ∨ f.gr * f.gc ≤ p → exec (.fref c d a b warm) s = .next (Claims.faulted t g 31 0 0)) ∧
        (¬ good → exec (.fref c d a b warm) s = .next (Claims.faulted t g 30 0 0)))

/-- R260, R261, R264, R269 to R272: LATCH, LATCHT, UNLATCH and LATQ. -/
def Obligations.LatchForms : Prop := Claims.LatchForms ∧ Claims.UnlatchForms

/-- R258 to R265, R270, R271: what a home does with requests, releases, leases, deadlines and probes. -/
def Obligations.LatchQueueSteps : Prop := Claims.LatchRequestStep ∧ Claims.LatchQueueSteps ∧ Claims.LatchGrantStep ∧ Claims.DeadlockSteps

/-- The claims and releases of a run: OCLAIM and ORLSE for slots, ACLAIM and ARLSE for tiles (R209, R210). -/
def Claims.claimRule : Instr → Option (Ctl × Bool × Bool × Nat × Nat)
  | .oclaim c o n => some (c, true, false, o, n)
  | .aclaim c t n => some (c, true, true, t, n)
  | .orlse c o n => some (c, false, false, o, n)
  | .arlse c t n => some (c, false, true, t, n)
  | _ => none

/-- Squall `b` is squall `q` with the owners of a run of its tiles or slots, and their releases, as given. -/
def Claims.Reowned (q b : Squall) (tiles : Bool) (first n : Nat) (who : Option Nat) : Prop :=
  b = { q with tiles := b.tiles, slots := b.slots } ∧ b.tiles.length = q.tiles.length ∧ b.slots.length = q.slots.length ∧
  (∀ k x, q.tiles[k]? = some x → b.tiles[k]? =
    some (if tiles = true ∧ first ≤ k ∧ k < first + n then { x with owner := who, releasing := false } else x)) ∧
  ∀ k x, q.slots[k]? = some x → b.slots[k]? =
    some (if tiles = false ∧ first ≤ k ∧ k < first + n then { x with owner := who, releasing := false } else x)

/-- R208 to R210: a claim of a run in which every member is free or the gust's makes the gust the owner of all of it, and
else waits. A release of a run the gust does not own raises "not claimed" (50); with no command and no fill still to
use the run, none that reaches the squall through window space, and no claim waiting, it frees every member. (A claim by the owner of a
run whose release has not taken effect calls the release off: log entry 27.) -/
def Claims.ClaimForms : Prop :=
  ∀ (i : Instr) (c : Ctl) (claim tiles : Bool) (first n : Nat) (s : State) (g : Gust) (q : Squall),
    Claims.claimRule i = some (c, claim, tiles, first, n) → s.Issuing g q → g.acts c.guard = true →
    let owner := fun (k : Nat) => if tiles then (q.tile k).owner else (q.slot k).owner
    (claim = true → (∀ k, first ≤ k → k < first + n → owner k = none ∨ owner k = some g.ref.gust) →
      ∃ b, Claims.Reowned q b tiles first n (some g.ref.gust) ∧ exec i s = .next (Claims.out (s.setSquall b) g)) ∧
    (claim = true → (∃ k, first ≤ k ∧ k < first + n ∧ ∃ o, owner k = some o ∧ o ≠ g.ref.gust) →
      exec i s = .next (Claims.waits { s with serial := s.serial + 1 } g s.op (.claim tiles first n s.serial))) ∧
    (claim = false → (∃ k, first ≤ k ∧ k < first + n ∧ owner k ≠ some g.ref.gust) → Claims.Handles g q →
      exec i s = .next (Claims.faulted s g 50 0 0)) ∧
    (claim = false → (∀ k, first ≤ k → k < first + n → owner k = some g.ref.gust) → (s.core q.core).matrixQ = [] →
      (∀ x ∈ q.tiles, x.releasing = false) → (∀ x ∈ q.slots, x.releasing = false ∧ x.fill ≠ .pending) →
      (∀ h ∈ s.gustsOf g.ref.sq, ∀ op t f k w, h.status ≠ .waiting op (.claim t f k w)) →
      (∀ x ∈ s.allCmds, ∀ p ∈ x.snap, p.q ≠ g.ref.sq) →
      ∃ b, Claims.Reowned q b tiles first n none ∧ exec i s = .next (Claims.out (s.setSquall b) g))

/-- R209, R210: CLAIM_RELEASE_EFFECT frees every tile and slot whose release has been accepted and that no command and no
fill still uses; the claim that waits for the freed run is granted then, and its gust goes on. -/
def Claims.ReleaseEffectStep : Prop :=
  ∀ (s : State) (q : Squall) (h : Gust) (op : Int) (tiles : Bool) (first n since : Nat),
    s.squall? q.q = some q → (∀ x ∈ s.squalls, x.q = q.q → x = q) → (∀ c ∈ s.allCmds, ∀ p ∈ c.snap, p.q ≠ q.q) →
    ∃ b : Squall, b = { q with tiles := b.tiles, slots := b.slots } ∧
      (∀ k x, q.tiles[k]? = some x → b.tiles[k]? = some (if x.releasing = true ∧
          (∀ c ∈ (s.core q.core).matrixQ, c.who.sq = q.q → k ∉ c.tiles) then { x with owner := none, releasing := false } else x)) ∧
      (∀ k x, q.slots[k]? = some x → b.slots[k]? = some (if x.releasing = true ∧ x.fill ≠ .pending ∧
          (∀ c ∈ (s.core q.core).matrixQ, c.who.sq = q.q → k ∉ c.reads) then { x with owner := none, releasing := false } else x)) ∧
      ((∀ h ∈ s.gustsOf q.q, ∀ op t f k w, h.status ≠ .waiting op (.claim t f k w)) →
        exec (.claimReleaseEffect q.q) s = .next (s.setSquall b)) ∧
      (s.gustsOf q.q = [h] → h.status = .waiting op (.claim tiles first n since) → h.halted = false →
        (∀ k, first ≤ k → k < first + n → b.owner tiles k = none ∨ b.owner tiles k = some h.ref.gust) →
        ∃ d, Claims.Reowned b d tiles first n (some h.ref.gust) ∧
          exec (.claimReleaseEffect q.q) s = .next ((s.setSquall d).completeFor h.ref))

/-- R217, R219, R231: GANG sets the gust's gang register where the gust is a member and every member exists, and raises "gang
membership" (51) else; with no gust of the squall at the latch it changes nothing else. PPOINT records the live set, and a gust
of a squall that is to be shuttered stops after it. -/
def Obligations.GangAndPointForms : Prop :=
  ∀ (c : Ctl) (rows t n o m : Nat) (map : Int) (s : State) (g : Gust) (q : Squall), s.Issuing g q →
    let members := (List.range 27).filter fun k => tritI (Word.ofInt map).val k == 1
    (g.acts c.guard = true → g.ref.gust ∈ members → (∀ k ∈ members, k < q.count) → g.Undisturbed q →
      (∀ h ∈ s.gustsOf g.ref.sq, ∀ op i, h.status ≠ .waiting op (.gang i)) →
      exec (.gang c rows map) s = .next (s.after g { g with gangRows := rows, gangMap := Word.ofInt map } q (g.pc + 1))) ∧
    (g.acts c.guard = true → g.ref.gust ∉ members ∨ (∃ k ∈ members, q.count ≤ k) → Claims.Handles g q →
      exec (.gang c rows map) s = .next (Claims.faulted s g 51 0 0)) ∧
    (q.shutter = none → g.Undisturbed q → exec (.ppoint c t n o m) s =
      .next (s.after g { g with liveTiles := (t, n), liveSlots := (o, m) } q (g.pc + 1))) ∧
    (q.shutter ≠ none → ∃ u : State, exec (.ppoint c t n o m) s = .next u ∧ u.cur = none ∧
      (∀ h, u.gust? g.ref = some h → h.halted = true) ∧
      (g.mask.has 1 = true → g.laneRec = [] → g.stepBit = false → g.laneFaulted = [] → ∃ h, u.gust? g.ref = some h ∧
        h.pc = g.pc + 1 ∧ h.liveTiles = (t, n) ∧ h.liveSlots = (o, m)))

/-- R42, R44, R212, R224: an integer element of an MMA is the saturated sum of the old one and of the products of the
depth, with status plus where it saturated; the W1 formats take the trits of the third of A that the form names. -/
def Claims.MatrixIntegerElements : Prop :=
  ∀ (t : Nat) (a : Nat → Int) (b : Nat → Nat → Int) (x y : Nat) (c : Int),
    let i9 := ((List.range 27).map fun k => fld (a (9 * x + k / 3)) (9 * (k % 3) + 8) (9 * (k % 3)) *
      fld (b 0 (9 * y + k / 3)) (9 * (k % 3) + 8) (9 * (k % 3))).sum
    let w1 := ((List.range 81).map fun k => tritI (a (9 * x + (81 * t + k) / 27)) ((81 * t + k) % 27) *
      fld (b (k / 27) (9 * y + k % 27 / 3)) (9 * (k % 3) + 8) (9 * (k % 3))).sum
    mmaElement .i9 t a b x y c = (satT (c + i9) 27, if satT (c + i9) 27 = c + i9 then .zero else .plus) ∧
    mmaElement .w1i9 t a b x y c = (satT (c + w1) 27, if satT (c + w1) 27 = c + w1 then .zero else .plus)

/-- What a form that issues a command takes with it (R222, R319, R322): its guard, its queue, the scalars and words read at
issue, and what it needs to be accepted. -/
structure Claims.Issue where
  ctl : Ctl
  queue : CmdQ
  scal : List Int
  words : List Word
  ok : Prop

/-- Addresses that pass the checks made at issue (R73, R179, R186). -/
def Claims.Addrs (s : State) (g : Gust) (q : Squall) (sp : Space) (xs : List Int) : Prop :=
  ∀ x ∈ xs, s.addrFault q g.priv sp x = none

/-- The `n` addresses from `x`. -/
def Claims.from_ (x : Int) (n : Nat) : List Int := (List.range n).map fun i => x + Int.ofNat i

/-- The 729 addresses of a tile in memory (R225, R226). -/
def Claims.tileAt (x stride : Int) : List Int :=
  (List.range 729).map fun w => x + Int.ofNat (w / 27) * stride + Int.ofNat (w % 27)

/-- The forms that issue a command of the matrix, fill, copy, codec and paging queues (R213, R225, R226, R333 to R335, R338,
R343, R345, R348), but for MMA. -/
def Claims.issue (s : State) (g : Gust) (q : Squall) : Instr → Option Claims.Issue
  | .ofill c o a _ .regs => some ⟨c, .fill, [], (g.v a).data ++ (g.v (a + 1)).data ++ (g.v (a + 2)).data,
      (q.slot o).owner = some g.ref.gust⟩
  | .ofill c o a _ (.loc sp off) => some ⟨c, .fill, [(g.s a).val], [],
      (q.slot o).owner = some g.ref.gust ∧ Claims.Addrs s g q sp (Claims.from_ ((g.s a).val + off) 243)⟩
  | .ofill c o a b .frame => some ⟨c, .fill, [(g.s a).val, (g.s b).val], [], (q.slot o).owner = some g.ref.gust⟩
  | .azero c t n => some ⟨c, .matrix, [], [], ∀ k, k < n → (q.tile (t + k)).owner = some g.ref.gust⟩
  | .ald c t a _ .regs => some ⟨c, .matrix, [], (List.range 9).flatMap fun k => (g.v (a + k)).data,
      (q.tile t).owner = some g.ref.gust⟩
  | .ald c t a b (.loc sp off _) => some ⟨c, .matrix, [(g.s a).val, (g.s b).val], [],
      (q.tile t).owner = some g.ref.gust ∧ Claims.Addrs s g q sp (Claims.tileAt ((g.s a).val + off) (g.s b).val)⟩
  | .drain c t a b sp off _ _ _ _ => some ⟨c, .matrix, [(g.s a).val, (g.s b).val], [],
      (q.tile t).owner = some g.ref.gust ∧ Claims.Addrs s g q sp (Claims.tileAt ((g.s a).val + off) (g.s b).val)⟩
  | .cpy c conv ssp dsp d a b _ =>
    let n := (g.s d).val
    let line := fun (x : Int) => x % 45 = 0 ∧ 1 ≤ x ∧ x ≤ wordMax
    some ⟨c, .copy, [n, (g.s (d + 1)).val, (g.s a).val, (g.s b).val], [],
      0 ≤ n ∧ n ≤ 4782969 ∧ (conv = 0 ∨ 0 ≤ (g.s (d + 1)).val ∧ (g.s (d + 1)).val ≤ 4782968) ∧
      (if conv > 0 then line (g.s a).val else Claims.Addrs s g q ssp (Claims.from_ (g.s a).val (convWords conv n.toNat))) ∧
      (if conv < 0 then line (g.s b).val else Claims.Addrs s g q dsp (Claims.from_ (g.s b).val (convWords conv n.toNat)))⟩
  | .cpyFrame c d a b _ => some ⟨c, .copy, [(g.s d).val, (g.s (d + 1)).val, (g.s a).val, (g.s b).val], [],
      0 ≤ (g.s (d + 1)).val ∧ (g.s (d + 1)).val ≤ 19683⟩
  | .mcast c ssp d a b _ =>
    let n := (g.s d).val
    let k := (g.s (d + 1)).val
    let ts := (Claims.from_ (g.s b).val k.toNat).map fun x => s.scratchWord q x
    some ⟨c, .copy, [n, k, (g.s a).val, (g.s b).val], ts,
      1 ≤ n ∧ n ≤ 531441 ∧ 1 ≤ k ∧ k ≤ 27 ∧ Claims.Addrs s g q ssp (Claims.from_ (g.s a).val n.toNat) ∧
      Claims.Addrs s g q .p (Claims.from_ (g.s b).val k.toNat) ∧
      ∀ t ∈ ts, 0 ≤ t.val ∧ t.val + n ≤ Int.ofNat q.alloc.scratch⟩
  | .ovl c d a b e _ => some ⟨c, .copy, [(g.s d).val, (g.s (d + 1)).val, (g.s a).val, (g.s b).val], [],
      s.overlayFault q e (g.s d).val (g.s (d + 1)).val (g.s b).val = none⟩
  | .thaw c _ _ _ a b _ _ => some ⟨c, .codec, [(g.s a).val, (g.s b).val], [],
      (g.s a).val % 45 = 0 ∧ 1 ≤ (g.s a).val ∧ (g.s a).val ≤ wordMax⟩
  | .freeze c ty ssp _ d a b m _ => some ⟨c, .codec, [(g.s d).val, (g.s (d + 1)).val, (g.s a).val, (g.s b).val], [],
      rawLenOk ty (g.s d).val = true ∧ (g.s b).val % 45 = 0 ∧ 1 ≤ (g.s b).val ∧
      (g.s b).val + 45 * (Int.ofNat m + 1) - 1 ≤ wordMax ∧
      Claims.Addrs s g q ssp (Claims.from_ (g.s a).val (g.s d).val.toNat)⟩
  | .pgin c a _ => some ⟨c, .paging, [(g.s a).val], [],
      g.priv = true ∧ 0 ≤ (g.s a).val ∧ (g.s a).val < 135000000000 ∧ (g.s a).val % 9 = 0⟩
  | .pgout c a _ => some ⟨c, .paging, [(g.s a).val], [],
      g.priv = true ∧ 0 ≤ (g.s a).val ∧ (g.s a).val < 135000000000 ∧ (g.s a).val % 9 = 0⟩
  | _ => none

/-- A command as its form gave it. -/
def Claims.Given (c : Cmd) (i : Instr) (g : Gust) (q : Squall) (scal : List Int) (words : List Word) : Prop :=
  c.instr = i ∧ c.who = g.ref ∧ c.ctx = q.ctx ∧ c.core = q.core ∧ c.priv = g.priv ∧ c.scal = scal ∧ c.words = words ∧
  c.members = [] ∧ c.stage = .queued ∧ c.fault = none ∧ c.pcs.1 = Word.ofInt g.pc

/-- R22, R213, R222, R225, R226, R319, R322, R323: OFILL, AZERO, ALD, DRAIN, CPY, CPY.frame, MCAST, OVL, THAW, FREEZE, PGIN and
PGOUT put their command at the tail of its queue, with the scalars and words read at issue and the gust's open batch, and
complete; a slot that an OFILL or a THAW names is pending from then on. With the queue full the gust stalls, and the command
waits for room. -/
def Claims.QueuedForms : Prop :=
  ∀ (i : Instr) (k : Claims.Issue) (s : State) (g : Gust) (q : Squall),
    Claims.issue s g q i = some k → s.Issuing g q → g.acts k.ctl.guard = true → g.quiet = true → q.core < s.cores.length → k.ok →
    (∀ x ∈ (s.core q.core).acceptQ, cmdQ x.instr ≠ k.queue) →
    ((s.queue q.core k.queue).length < (if k.queue = .paging then 243 else 27) → (k.queue = .paging → s.pagingWait = []) →
      ∃ (t : State) (c : Cmd),
      exec i s = .next (Claims.out t g) ∧ Claims.Given c i g q k.scal k.words ∧ c.batch = g.bnum + 1 ∧
      t.queue q.core k.queue = s.queue q.core k.queue ++ [c] ∧
      (∀ u, u ≠ k.queue → t.queue q.core u = s.queue q.core u) ∧
      t.gust? g.ref = some { g with opened := true, touched := g.touched ++ c.tiles.map fun x => (x, g.bnum + 1) } ∧
      ∀ o ∈ c.fills, o < q.slots.length → ∃ b, t.squall? g.ref.sq = some b ∧ (b.slot o).fill = .pending) ∧
    ((if k.queue = .paging then 243 else 27) ≤ (s.queue q.core k.queue).length → ∃ (t : State) (c : Cmd),
      exec i s = .next (Claims.waits t g s.op .accept) ∧ Claims.Given c i g q k.scal k.words ∧
      (t.core q.core).acceptQ = (s.core q.core).acceptQ ++ [c] ∧ (∀ u, t.queue q.core u = s.queue q.core u) ∧
      t.gust? g.ref = some g)

/-- R22, R222, R319: COMMAND_ACCEPT takes the command of a gust that waits for room into its queue once there is room, and the
gust completes its instruction. -/
def Claims.CommandAcceptStep : Prop :=
  ∀ (s : State) (core : Nat) (c : Cmd) (rest : List Cmd) (g : Gust) (q : Squall) (op : Int),
    core < 243 → core < s.cores.length → (s.core core).acceptQ = c :: rest → c.core = core → c.members = [] →
    (s.queue core (cmdQ c.instr)).length < (if cmdQ c.instr = .paging then 243 else 27) →
    (cmdQ c.instr = .paging → s.pagingWait = []) → s.gust? c.who = some g → s.squall? c.who.sq = some q → g.ref = c.who →
    g.status = .waiting op .accept → g.Undisturbed q → s.lateOverlay c = none →
    ∃ (t : State) (c' : Cmd), exec (.commandAccept core) s = .next t ∧ c' = { c with id := c'.id, batch := g.bnum + 1, oldSeg := c'.oldSeg } ∧
      t.queue core (cmdQ c.instr) = s.queue core (cmdQ c.instr) ++ [c'] ∧ (t.core core).acceptQ = rest ∧
      t.gust? c.who = some (Gust.completed g
        { g with opened := true, touched := g.touched ++ c.tiles.map fun x => (x, g.bnum + 1) } q.isD (g.pc + 1))

/-- R22, R213, R222, R225, R226, R319, R322, R323: the command forms enter their queues, at issue or once there is room. -/
def Obligations.QueuedForms : Prop := Claims.QueuedForms ∧ Claims.CommandAcceptStep

/-- R208, R216, R220 to R222: MMA of a gust with no gang enters the matrix queue with its one member where the gust owns the
tile and the slots, and every slot is ready; without that ownership it raises "not claimed" (50). A member of a gang
waits at the rendezvous latch while another is missing. -/
def Obligations.MatrixMultiplyForm : Prop :=
  ∀ (c : Ctl) (f : MFmt) (t a b third : Nat) (s : State) (g : Gust) (q : Squall), s.Issuing g q → g.status = .running →
    let i := Instr.mma c f t a b third
    let slots := a :: (if f.isW1 then [b, b + 1, b + 2] else [b])
    let size := ((List.range 27).filter fun k => tritI g.gangMap.val k == 1).length
    (size ≤ 1 → (q.tile t).owner = some g.ref.gust →
      (∀ o ∈ slots, (q.slot o).owner = some g.ref.gust ∧ (q.slot o).fill = .ready) → q.core < s.cores.length →
      (∀ x ∈ (s.core q.core).acceptQ, cmdQ x.instr ≠ .matrix) → (s.core q.core).matrixQ.length < 27 →
      ∃ (u : State) (m : Cmd), exec i s = .next (Claims.out u g) ∧ m.instr = i ∧ m.who = g.ref ∧ m.stage = .queued ∧
        m.members = [{ who := g.ref, tile := t, a, b, batch := g.bnum + 1, early := false }] ∧
        (u.core q.core).matrixQ = (s.core q.core).matrixQ ++ [m] ∧
        u.gust? g.ref = some { g with opened := true, touched := g.touched ++ [(t, g.bnum + 1)] }) ∧
    (size ≤ 1 → (q.tile t).owner ≠ some g.ref.gust ∨ (∃ o ∈ slots, (q.slot o).owner ≠ some g.ref.gust) → Claims.Handles g q →
      exec i s = .next (Claims.faulted s g 50 0 0)) ∧
    (2 ≤ size → (∀ h ∈ s.gustsOf g.ref.sq, ∀ op j, h.status ≠ .waiting op (.gang j)) →
      exec i s = .next (Claims.waits s g s.op (.gang i)))

/-- R216, R225: AST of a tile that no command is on copies its 729 words into nine vector registers, or its status trit into a
scalar; nothing else changes. -/
def Claims.TileStoreForm : Prop :=
  ∀ (c : Ctl) (d t : Nat) (s : State) (g : Gust) (q : Squall), s.Issuing g q → g.Undisturbed q → g.acts c.guard = true →
    (q.tile t).owner = some g.ref.gust → (∀ x ∈ (s.core q.core).matrixQ, x.who.sq = q.q → t ∉ x.tiles) →
    (∀ x ∈ g.touched, x.1 = t → x.2 ≤ g.waited) →
    (∃ ws : List Lanes, ws.length = 9 ∧ exec (.ast c d t false) s = .next (s.after g (Claims.withVs g d ws) q (g.pc + 1)) ∧
      ∀ k l, k < 9 → l < 81 → (ws.getD k (Lanes.splat Word.zero)).get l = q.tileWord t (81 * k + l)) ∧
    exec (.ast c d t true) s = .next (Claims.out (s.writeS g.ref d (Word.ofTrit (q.tile t).status)) g) ∧
    (d < 78 → exec (.ast c d t true) s =
      .next (s.after g (g.withS d (Word.ofTrit (q.tile t).status)) q (g.pc + 1)))

/-- R228, R230: RWAIT of a window or scratchpad word returns once the word's counter is ready, with an acquire of the counter's
scope; with .clr the counter is destroyed. With no ready counter it waits. -/
def Claims.CounterWaitForm : Prop :=
  ∀ (c : Ctl) (a : Nat) (sp : Space) (off : Int) (scope : Scope) (s : State) (g : Gust) (q : Squall) (core u : Nat) (w : WinReg),
    s.Issuing g q → g.acts c.guard = true → g.fillFaults = [] → s.ownWords g = [] →
    s.placeOf q g.priv sp ((g.s a).val + off) false = (.port core u w, s) →
    ((∀ k ∈ s.counters, k.key = [4, core, u] → k.ready = false) → ∀ clr,
      exec (.rwait c a sp off scope clr) s = .next (Claims.waits s g s.op (.counter ((g.s a).val + off) [4, core, u]))) ∧
    (∀ k, (s.counters.find? fun x => x.key == [4, core, u] && x.ready) = some k →
      exec (.rwait c a sp off scope false) s = .next (Claims.out (s.orderedAfter (dieOf q.core) k.scope) g) ∧
      ((∀ h ∈ s.gusts, h.ref ≠ g.ref → ∀ op x, h.status ≠ .waiting op (.counter x [4, core, u])) →
        exec (.rwait c a sp off scope true) s = .next (Claims.out
          (({ s with counters := s.counters.filter fun x => x.key != [4, core, u] } : State).orderedAfter
            (dieOf q.core) k.scope) g)))

/-- R222 to R225: the head of a matrix queue runs, and leaves the queue once it has run. AZERO zeroes its tiles and their
status; ALD from registers takes the 729 words given at issue, with status zero; an MMA with one member replaces each word of
its tile by the element of R224, and worsens the status. No other tile changes. -/
def Claims.MatrixRuns : Prop :=
  ∀ (s : State) (core : Nat) (c : Cmd) (rest : List Cmd) (q : Squall) (x : Ctl) (t a b n third : Nat) (f : MFmt) (m : MmaMember),
    core < 243 → core < s.cores.length → (s.core core).matrixQ = c :: rest → c.core = core → (∀ y ∈ rest, y.id ≠ c.id) →
    cmdQ c.instr = .matrix →
    (c.stage = .queued → c.fillFault = none → s.squall? c.who.sq = some q → canonical Claims.zeroAt q.tileWords = true →
      c.instr = .azero x t n ∨ c.instr = .ald x t a b .regs ∧ c.words.length = 729 ∧ n = 1 ∨
        c.instr = .mma x f t a b third ∧ c.members = [m] ∧ m.early = false ∧ m.tile = t ∧ n = 1 →
      ∃ (u : State) (d : Squall), exec (.matrixCommandRun core) s = .next u ∧
        (u.core core).matrixQ = { c with stage := .ran, pageWait := none } :: rest ∧
        u.squall? c.who.sq = some d ∧ d = { q with tileWords := d.tileWords, tiles := d.tiles } ∧
        (∀ k w, w < 729 → (k < t ∨ t + n ≤ k) → d.tileWord k w = q.tileWord k w ∧ d.tiles[k]? = q.tiles[k]?) ∧
        ∀ k w, w < 729 → k < n → t + k < q.tiles.length →
          (c.instr = .azero x t n → d.tileWord (t + k) w = Word.zero ∧ (d.tile (t + k)).status = .zero) ∧
          (c.instr = .ald x t a b .regs → d.tileWord t w = c.words.getD w Word.zero ∧ (d.tile t).status = .zero) ∧
          (c.instr = .mma x f t a b third →
            d.tileWord t w = Word.ofInt (mmaElement f third (fun i => (q.slotWord m.a i).val)
              (fun j i => (q.slotWord (m.b + j) i).val) (w / 27) (w % 27) (q.tileWord t w).val).1 ∧
            (d.tile t).status = ((List.range 729).map fun v => (mmaElement f third (fun i => (q.slotWord m.a i).val)
              (fun j i => (q.slotWord (m.b + j) i).val) (v / 27) (v % 27) (q.tileWord t v).val).2).foldl worse (q.tile t).status)) ∧
    (c.stage = .ran → c.fault = none → ∃ u : State, exec (.matrixCommandComplete core) s = .next u ∧
      (u.core core).matrixQ = rest) ∧
    (c.stage ≠ .ran → exec (.matrixCommandComplete core) s = .next s)

/-- R213, R214: an OFILL from registers writes the 243 words given at issue into its slot and leaves the fill queue; the last
pending fill of the slot leaves it unfenced. R226: a DRAIN without add and counter puts the tile's words at their places in
the squall's own scratchpad as one act. -/
def Claims.FillAndDrainSteps : Prop :=
  ∀ (s : State) (core : Nat) (c : Cmd) (q : Squall) (x : Ctl) (o a b t : Nat) (off : Int) (sc : Scope) (ev : Int) (p : Nat → Nat),
    core < 243 → core < s.cores.length → c.core = core → s.squall? c.who.sq = some q → q.core = core → c.fillFault = none →
    ((s.core core).fillQ = [c] → (s.core core).matrixQ = [] → (s.core core).codecQ = [] → (s.core core).acceptQ = [] →
      c.instr = .ofill x o a b .regs → c.stage = .queued → (q.slot o).wrote ≤ c.issuedAt → c.fault = none →
      c.words.length = 243 → (q.slot o).count = 1 → (q.slot o).fault = none → o < q.slots.length →
      canonical Claims.zeroAt q.slotWords = true →
      ∃ (u : State) (d : Squall), exec (.fillComplete core) s = .next u ∧ (u.core core).fillQ = [] ∧
        u.squall? c.who.sq = some d ∧ (d.slot o).fill = .unfenced ∧ (d.slot o).owner = (q.slot o).owner ∧
        (∀ w, w < 243 → d.slotWord o w = c.words.getD w Word.zero) ∧
        ∀ k w, k ≠ o → w < 243 → d.slotWord k w = q.slotWord k w) ∧
    ((s.core core).matrixQ = [c] → c.instr = .drain x t a b .p off sc ev none 0 → c.stage = .started →
      canonical Claims.zeroAt q.scratch = true →
      (∀ w, w < 729 → c.scal.getD 0 0 + off + Int.ofNat (w / 27) * c.scal.getD 1 0 + Int.ofNat (w % 27) = Int.ofNat (p w) ∧
        p w < q.alloc.scratch ∧ s.holderOf core Bases.scratch Alloc.scratch (q.bases.scratch + p w) = some q) →
      (∀ v w, v < 729 → w < 729 → p v = p w → v = w) →
      ∃ (u : State) (d : Squall), exec (.drainApply core) s = .next u ∧
        (u.core core).matrixQ = [{ c with stage := .ran, pageWait := none }] ∧
        u.squall? c.who.sq = some d ∧ (∀ w, w < 729 → readAt Claims.zeroAt d.scratch (p w) = q.tileWord t w) ∧
        ∀ y, (∀ w, w < 729 → p w ≠ y) → readAt Claims.zeroAt d.scratch y = readAt Claims.zeroAt q.scratch y)

/-- A fault of a slot that still stands unreported with some gust of the squall (R214, R324). -/
def Claims.Unreported (s : State) (q : Squall) (f : CmdFault) : Prop := ∃ h ∈ s.gustsOf q.q, ∃ x ∈ h.faults, x.serial = f.serial

/-- R208, R214, R215: OFENCE of a run that the gust does not own raises "not claimed" (50); it waits while a slot of the run is
pending; else it reports the unreported fault of the lowest slot that has one, which becomes unfenced, by a trap that takes the
fault's record (for a run of several slots the model's choice, log entry 66). -/
def Obligations.FillFenceForm : Prop :=
  ∀ (c : Ctl) (o n : Nat) (s : State) (g : Gust) (q : Squall), s.Issuing g q → g.acts c.guard = true →
    ((∃ k, o ≤ k ∧ k < o + n ∧ (q.slot k).owner ≠ some g.ref.gust) → Claims.Handles g q →
      exec (.ofence c o n) s = .next (Claims.faulted s g 50 0 0)) ∧
    ((∀ k, o ≤ k → k < o + n → (q.slot k).owner = some g.ref.gust) →
      (∃ k, o ≤ k ∧ k < o + n ∧ (q.slot k).fill = .pending) →
      exec (.ofence c o n) s = .next (Claims.waits s g s.op (.fence o n))) ∧
    (∀ (k : Nat) (f : CmdFault), (∀ j, o ≤ j → j < o + n → (q.slot j).owner = some g.ref.gust ∧ (q.slot j).fill ≠ .pending) →
      o ≤ k → k < o + n → (∀ j x, o ≤ j → j < k → (q.slot j).fault = some x → ¬ Claims.Unreported s q x) →
      (q.slot k).fault = some f → k < q.slots.length → Claims.Unreported s q f → Claims.Handles g q →
      ∃ (u : State) (h : Gust) (b : Squall), exec (.ofence c o n) s = .next u ∧ u.gust? g.ref = some h ∧ h.trapActive = true ∧
        h.pc = g.tvec.val ∧ h.gfr = f.words ∧ h.tpc = Word.ofInt g.pc ∧ u.squall? g.ref.sq = some b ∧
        ∀ j x, q.slots[j]? = some x →
          b.slots[j]? = some (if j = k then { x with fill := .unfenced, fault := none } else x))

/-- R214, R215: OFENCE completes where the gust owns the run, no slot of it is pending, and no fault of its slots stands
unreported (to OFENCE or BWAIT: log entry 43): ready slots stay as they are, the others become ready, and nothing else changes. -/
def Obligations.FillFenceCompletion : Prop :=
  ∀ (c : Ctl) (o n : Nat) (s : State) (g : Gust) (q : Squall), s.Issuing g q → g.acts c.guard = true →
    (∀ k, o ≤ k → k < o + n → (q.slot k).owner = some g.ref.gust ∧ k < q.slots.length ∧ (q.slot k).fill ≠ .pending ∧
      ∀ f, (q.slot k).fault = some f → ¬ Claims.Unreported s q f) →
    (∀ x ∈ s.squalls, x.q = q.q → x = q) →
    ∃ b : Squall, exec (.ofence c o n) s = .next (Claims.out (s.setSquall b) g) ∧
      b = { q with slots := b.slots } ∧ ∀ k x, q.slots[k]? = some x → b.slots[k]? = some (
        if o ≤ k ∧ k < o + n ∧ x.fill ≠ .ready then { x with fill := .ready, fault := none } else x)

/-- R208 to R210: OCLAIM, ACLAIM, ORLSE and ARLSE, and when a release takes effect. -/
def Obligations.ClaimForms : Prop := Claims.ClaimForms ∧ Claims.ReleaseEffectStep

/-- R216, R225, R228, R230: AST and RWAIT. -/
def Obligations.TileStoreAndCounterForms : Prop := Claims.TileStoreForm ∧ Claims.CounterWaitForm

/-- R212 to R214, R222 to R226: what the commands of the matrix and fill queues do. -/
def Obligations.MatrixRuns : Prop := Claims.MatrixRuns ∧ Claims.FillAndDrainSteps ∧ Claims.MatrixIntegerElements

/-- R320, R321, R327, R328: the head of the copy queue starts where it has no slot guard or its slot agrees, is held while the
slot holds 0, and leaves the queue where the slot disagrees: nothing else changes then, but that a paging command that waits for
room may enter its queue; an overlay gives its entry what it held, where that meets no other now (R336).
A started CPY between two ranges of the squall's own scratchpad that do not meet lands at least one further word in each of its
steps (R137; how many, and in which order, the device chooses: log entry 3), each a source word as the copy read it, and leaves the
queue with the last. An overlay that has run makes its entry valid, and one that has faulted frees it. -/
def Claims.EngineSteps : Prop :=
  ∀ (s : State) (core : Nat) (c : Cmd) (rest : List Cmd) (q : Squall) (x : Ctl) (d a b e n from_ to_ : Nat) (f h : Int),
    core < s.cores.length → (s.core core).copyQ = c :: rest → c.core = core → (∀ y ∈ rest, y.id ≠ c.id) →
    cmdQ c.instr = .copy → s.squall? c.who.sq = some q →
    (c.stage = .queued → (∀ b ∈ s.squalls, b.core = core → b.migration = none) → let v := (q.guards.getD ((cmdGuard c.instr).natAbs - 1) .zero).val
      (cmdGuard c.instr = 0 ∨ v ≠ 0 ∧ v = sgnI (cmdGuard c.instr) → ∃ u : State,
        exec (.engineCommandStart (.copy core)) s = .next u ∧ (u.core core).copyQ = { c with stage := .started } :: rest) ∧
      (cmdGuard c.instr ≠ 0 → v = 0 → exec (.engineCommandStart (.copy core)) s = .next s) ∧
      (cmdGuard c.instr ≠ 0 → v ≠ 0 → v ≠ sgnI (cmdGuard c.instr) → ∃ u : State,
        exec (.engineCommandStart (.copy core)) s = .next u ∧
        ((∀ x' d' a' b' e' h', c.instr ≠ .ovl x' d' a' b' e' h') →
          u = { s with cores := u.cores, paging := u.paging, pagingWait := u.pagingWait } ∧
          u.paging ++ u.pagingWait = s.paging ++ s.pagingWait ∧ (∀ k, k ≠ core → u.cores[k]? = s.cores[k]?) ∧
          u.core core = { s.core core with copyQ := rest }) ∧
        (c.instr = .ovl x d a b e h → (∀ y ∈ rest, ∀ x' d' a' b' h', y.instr ≠ .ovl x' d' a' b' e h') →
          (u.core core).copyQ = rest ∧
          (u.core core).segs = (s.core core).segs.set e (c.oldSeg.filter fun z => !s.segMeets core e z)))) ∧
    (c.stage = .started → c.fault = none → c.fillFault = none → c.instr = .cpy x 0 .p .p d a b h → q.core = core →
      c.scal = [Int.ofNat n, f, Int.ofNat from_, Int.ofNat to_] → 1 ≤ n → from_ + n ≤ to_ ∨ to_ + n ≤ from_ → c.words = [] →
      from_ + n ≤ q.alloc.scratch → to_ + n ≤ q.alloc.scratch → canonical Claims.zeroAt q.scratch = true →
      (∀ i, i < q.alloc.scratch → s.holderOf core Bases.scratch Alloc.scratch (q.bases.scratch + i) = some q) →
      (c.decoded = true → c.raw.length = n ∧ c.pos < n ∧ c.order.Perm (List.range n)) →
      let ws := if c.decoded then c.raw else (List.range n).map fun i => readAt Claims.zeroAt q.scratch (from_ + i)
      let pos := if c.decoded then c.pos else 0
      ∃ (u : State) (k : Squall) (m : Nat) (order : List Nat), exec (.engineCommandComplete (.copy core)) s = .next u ∧
        pos < m ∧ m ≤ n ∧ order.Perm (List.range n) ∧ (c.decoded = true → order = c.order) ∧ u.squall? c.who.sq = some k ∧
        (m = n → (u.core core).copyQ = rest) ∧
        (m < n → (u.core core).copyQ = { c with raw := ws, order := order, pos := m, decoded := true, pageWait := none } :: rest) ∧
        ∀ i, readAt Claims.zeroAt k.scratch i =
          if ∃ j ∈ (order.drop pos).take (m - pos), i = to_ + j then ws.getD (i - to_) Word.zero
          else readAt Claims.zeroAt q.scratch i) ∧
    (c.stage = .ran → c.instr = .ovl x d a b e h → e < (s.core core).segs.length →
      (∀ y ∈ rest, ∀ x' d' a' b' h', y.instr ≠ .ovl x' d' a' b' e h') → ∃ u : State,
      exec (.engineCommandComplete (.copy core)) s = .next u ∧ (u.core core).copyQ = rest ∧
      (u.core core).segs[e]? = some (if c.fault = none then
        some { image := q.image, first := c.scal.getD 0 0, count := (c.scal.getD 1 0).toNat, index := (c.scal.getD 3 0).toNat,
               pending := false, reserved := false, oldFirst := 0, oldCount := 0, oldIndex := 0 } else none))

/-- R342, R343: a THAW into a ring that has room writes its last word at the next position of the ring and then the produced
count, and its command has run; while the ring is full it writes nothing. -/
def Claims.ThawRingStep : Prop :=
  ∀ (s : State) (core : Nat) (c : Cmd) (rest : List Cmd) (q : Squall) (x : Ctl) (ty : ETy) (d a b n sb base : Nat) (h size raw : Int)
    (w : Word),
    core < 243 → core < s.cores.length → (s.core core).codecQ = c :: rest → c.core = core → (∀ y ∈ rest, y.id ≠ c.id) →
    s.squall? c.who.sq = some q → q.core = core → c.instr = .thaw x ty .ring d a b n h → c.stage = .started → c.fault = none →
    c.fillFault = none → c.decoded = true → c.words = [] → c.raw.length = c.pos + 1 → c.raw[c.pos]? = some w →
    c.scal = [raw, Int.ofNat sb, 0, 0, Int.ofNat base, size] → 1 ≤ size → Int.ofNat base + size ≤ Int.ofNat q.alloc.scratch →
    sb + 4 ≤ q.alloc.scratch → sb + 4 ≤ base ∨ Int.ofNat base + size ≤ Int.ofNat sb → canonical Claims.zeroAt q.scratch = true →
    (∀ i, i < q.alloc.scratch → s.holderOf core Bases.scratch Alloc.scratch (q.bases.scratch + i) = some q) →
    let k := c.p0 + Int.ofNat c.pos
    let used := (readAt Claims.zeroAt q.scratch (sb + 2)).val
    (k - used < size → ∃ (u : State) (r : Squall), exec (.thawRingPoll core) s = .next u ∧
      (u.core core).codecQ = { c with stage := .ran, pos := c.pos + 1, pageWait := none } :: rest ∧
      u.squall? c.who.sq = some r ∧
      ∀ i, readAt Claims.zeroAt r.scratch i = if i = sb + 3 then Word.ofInt (k + 1)
        else if i = base + (k % size).toNat then w else readAt Claims.zeroAt q.scratch i) ∧
    (size ≤ k - used → ∃ u : State, exec (.thawRingPoll core) s = .next u ∧ (u.core core).codecQ = c :: rest ∧
      u.squall? c.who.sq = some q)

/-- The paging command at work on record `n` (R348): the only one, started, without a fault. -/
def Claims.Paging (s : State) (n : Nat) (c : Cmd) : Prop :=
  s.paging = [c] ∧ c.stage = .started ∧ c.recordOf = n ∧ c.fault = none

/-- The writes of both words of each entry (R349, R350): word 1, then the new word 0. -/
def Claims.entryWrites (p : PageRec) (es : List (Word × Word)) (w1 : Nat) (f : Word → Word) : List (Nat × Word) :=
  (List.zip p.ptes es).flatMap fun e => [(e.1 + 1, Word.ofNat w1), (e.1, f e.2.1)]

/-- R347 to R349: PAGE_IN completes, for a PGIN and for a page-in that a walk started: where the record keeps its layout, its
copies are absent-on-flash and name it (and, for a PGIN, the first is not being filled), and the stored lines are sound, the lines
go to their places, the copies turn present, their waiters are told, and the command ends without a fault. (Storage of a controller
that bring-up configured answers: log entry 44.) -/
def Claims.PageInCompletes : Prop :=
  ∀ (s t u v w : State) (n : Nat) (c : Cmd) (x : Ctl) (a : Nat) (h : Int) (ws : List Word) (p : PageRec)
    (es : List (Word × Word)) (ls : List (List Nat)),
    Claims.Paging s n c → c.instr = .pgin x a h ∨ c.instr = .pageIn n →
    s.physRead c (recAddrs n) = (.ok ws, t) → pageRecOf ws = some p → t.ptesAt c p.ptes = (.ok es, u) →
    (∀ e ∈ es, pteType e.1 = -1 ∧ e.2.val = Int.ofNat n) → (∀ e, c.record = none → es.head? = some e → pteFill e.1 ≠ 1) →
    u.physWrite c (if c.record.isSome then [] else (List.zip p.ptes es).take 1 |>.map fun e =>
      (e.1, Word.ofInt (setFld e.2.1.val 14 14 1))) = (.ok (), v) →
    p.ctrl ∈ v.boot.controllers →
    pageLines p (v.flashRead p.ctrl p.ns (p.first * p.lba) (p.stored * p.lba)) = .ok ls →
    (v.each (List.zip (List.range ls.length) ls) fun v e => v.setLineBytes 9 (.dev (p.line + e.1)) e.2).physWrite c
      (Claims.entryWrites p es p.line presentWord) = (.ok (), w) →
    exec (.pageIn n) s = .next ((w.each (p.ptes ++ c.pageWait.toList) fun w e => w.arrived e).pagingEnd c none)

/-- R307, R347, R348, R350: PAGE_OUT completes. First the copies, which must be present at the record's line, turn absent, and the
end of their longest lease is kept; until then the step leaves the state as it is; then the page's dirty sectors are published and
its bytes, padded to whole blocks, are stored, and the number of blocks goes to the record. (Storage of a configured controller
answers: log entry 44.) -/
def Claims.PageOutCompletes : Prop :=
  ∀ (s t : State) (n : Nat) (c : Cmd) (x : Ctl) (a : Nat) (h : Int) (ws : List Word) (p : PageRec),
    Claims.Paging s n c → c.instr = .pgout x a h → s.physRead c (recAddrs n) = (.ok ws, t) → pageRecOf ws = some p →
    (∀ es u v, c.decoded = false → t.ptesAt c p.ptes = (.ok es, u) →
      (∀ e ∈ es, pteType e.1 = 1 ∧ e.2.val = Int.ofNat p.line) →
      u.physWrite c (Claims.entryWrites p es n absentWord) = (.ok (), v) →
      let lease := (es.map fun e => leaseTicks (max 0 (pteLease e.1))).foldl max 0
      exec (.pageOut n) s = .next (v.setCmd { c with decoded := true, p0 := Int.ofNat (v.ptime + lease) })) ∧
    (c.decoded = true → Int.ofNat t.ptime < c.p0 → exec (.pageOut n) s = .next t) ∧
    (c.decoded = true → c.p0 ≤ Int.ofNat t.ptime → p.ctrl ∈ t.boot.controllers →
      let u := t.each ((List.range (3 ^ p.k)).map (· + p.line)) fun u l => u.each (List.range 9) fun u k => u.publish 99 l k
      ∀ bytes v r, u.pageBytes p = (.ok bytes, r) →
        let blocks := (bytes.length + p.lba - 1) / p.lba
        (r.flashWrite p.ctrl p.ns (p.first * p.lba) (bytes ++ List.replicate (blocks * p.lba - bytes.length) 0)).physWrite c
          [(n + 3, Word.ofNat blocks)] = (.ok (), v) →
        exec (.pageOut n) s = .next (v.pagingEnd c none))

/-- R307, R347 to R350: PAGE_IN and PAGE_OUT complete. -/
def Obligations.PagingCompletion : Prop := Claims.PageInCompletes ∧ Claims.PageOutCompletes

/-- R347 to R350, R479: a page-in or a page-out of a record that breaks its layout ends with "paging record" (88), and so does one whose
copies are not as it requires; a PGIN of a page that is being filled ends with "paging busy" (89), one whose controller is unknown with
"storage" (90), and one whose stored lines are unsound with their cause; a page whose bytes cannot be had ends a page-out with their
cause. These faults have detail 0 (R397). (That storage fails only for a controller not configured, and the causes of a page-in whose thaw
fails, are the model's choice: log entries 44 and 45.) The end of a paging command writes the record's status and PTIME, and leaves the
command run with its fault. -/
def Obligations.PagingFaults : Prop :=
  ∀ (s t : State) (n : Nat) (c : Cmd) (x : Ctl) (a : Nat) (h : Int) (ws : List Word),
    Claims.Paging s n c → c.pageWait = none → s.physRead c (recAddrs n) = (.ok ws, t) →
    let ends := fun (i : Instr) (t : State) (cause : Int) => exec i s = .next (t.pagingEnd c (some (cause, 0)))
    (c.instr = .pgin x a h ∨ c.instr = .pageIn n →
      (pageRecOf ws = none → ends (.pageIn n) t 88) ∧
      ∀ p es u, pageRecOf ws = some p → t.ptesAt c p.ptes = (.ok es, u) →
        ((∃ e ∈ es, ¬(pteType e.1 = -1 ∧ e.2.val = Int.ofNat n)) → ends (.pageIn n) u 88) ∧
        ((∀ e ∈ es, pteType e.1 = -1 ∧ e.2.val = Int.ofNat n) → c.record = none →
          (∃ e, es.head? = some e ∧ pteFill e.1 = 1) → ends (.pageIn n) u 89) ∧
        (p.pte = 0 → p.ctrl ∉ u.boot.controllers → ends (.pageIn n) u 90) ∧
        (∀ f, p.pte = 0 → p.ctrl ∈ u.boot.controllers →
          pageLines p (u.flashRead p.ctrl p.ns (p.first * p.lba) (p.stored * p.lba)) = .error f → ends (.pageIn n) u f)) ∧
    (c.instr = .pgout x a h →
      (pageRecOf ws = none → ends (.pageOut n) t 88) ∧
      (∀ p es u, pageRecOf ws = some p → c.decoded = false → t.ptesAt c p.ptes = (.ok es, u) →
        (∃ e ∈ es, ¬(pteType e.1 = 1 ∧ e.2.val = Int.ofNat p.line)) → ends (.pageOut n) u 88) ∧
      (∀ p, pageRecOf ws = some p → c.decoded = true → c.p0 ≤ Int.ofNat t.ptime → p.ctrl ∉ t.boot.controllers →
        ends (.pageOut n) t 90) ∧
      (∀ p e, pageRecOf ws = some p → c.decoded = true → c.p0 ≤ Int.ofNat t.ptime → p.ctrl ∈ t.boot.controllers →
        let u := t.each ((List.range (3 ^ p.k)).map (· + p.line)) fun u l => u.each (List.range 9) fun u k => u.publish 99 l k
        ∀ r, u.pageBytes p = (.error e, r) → exec (.pageOut n) s = .next (r.pagingEnd c (some e)))) ∧
    (∀ (f : Option (Int × Int)) (v : State), (∀ e, f = some e → 0 ≤ e.1) →
      s.physWrite c [(n + 6, Word.ofInt (if f.isSome then -1 else 2)), (n + 7, s.ptimeLow)] = (.ok (), v) →
      s.pagingEnd c f = v.setCmd { c with stage := .ran, fault := f })

/-- R323 to R326, R399: BCLOSE numbers the open batch, waits while 27 closed batches are not complete, and raises "batch number"
(75) at the last number. BWAIT returns at once for a number below 1, raises "batch unclosed" (74) for one beyond the last
closed, waits while its batches are not complete, and then either orders and goes on or traps with the recorded fault, the
PC kept in TPC. BQRY writes the three numbers. A closed batch completes, in its turn, once its commands have ended. -/
def Claims.BatchForms : Prop :=
  ∀ (c : Ctl) (d : Nat) (src : NumSrc) (s : State) (g : Gust) (q : Squall),
    (s.Issuing g q → g.acts c.guard = true →
      (g.bnum ≠ 3812798742492 → g.bnum < g.doneUpto + 27 → exec (.bclose c d) s = .next (Claims.out
        ((s.setGust { g with bnum := g.bnum + 1, opened := false }).writeS g.ref d (Word.ofNat (g.bnum + 1))) g)) ∧
      (g.bnum ≠ 3812798742492 → g.doneUpto + 27 ≤ g.bnum →
        exec (.bclose c d) s = .next (Claims.waits s g s.op .batchRoom)) ∧
      (g.bnum = 3812798742492 → Claims.Handles g q → exec (.bclose c d) s = .next (Claims.faulted s g 75 0 0)) ∧
      exec (.bqry c d) s = .next (Claims.out (((s.writeS g.ref d (Word.ofNat g.bnum)).writeS g.ref (d + 1)
        (Word.ofNat g.doneUpto)).writeS g.ref (d + 2)
          (Word.ofNat (g.faults.filter fun f => decide (f.batch ≤ g.bnum)).length)) g) ∧
      (let n := match src with
        | .imm n => n
        | .reg a => (g.s a).val
       (n ≤ 0 → exec (.bwait c src) s = .next (Claims.out s g)) ∧
       (0 < n → Int.ofNat g.bnum < n → Claims.Handles g q → exec (.bwait c src) s = .next (Claims.faulted s g 74 0 0)) ∧
       (n ≤ Int.ofNat g.bnum → Int.ofNat g.doneUpto < n →
        exec (.bwait c src) s = .next (Claims.waits s g s.op (.batch n.toNat))) ∧
       (0 < n → n ≤ Int.ofNat g.bnum → n ≤ Int.ofNat g.doneUpto →
        ((∀ f ∈ g.faults, n < Int.ofNat f.batch) → g.lost = 0 → exec (.bwait c src) s = .next (Claims.out
          ((s.orderedAfter (dieOf q.core) (if g.far.any fun b => decide (Int.ofNat b ≤ n) then .sy else .dv)).onGust g.ref fun k =>
            { k with waited := max k.waited n.toNat, far := k.far.filter fun b => decide (n < Int.ofNat b),
                     touched := k.touched.filter fun x => decide (max k.waited n.toNat < x.2) }) g)) ∧
        ∀ f, g.faults = [f] → Int.ofNat f.batch ≤ n → Claims.Handles g q → exec (.bwait c src) s = .next (Claims.trapped
          { s with gusts := s.gusts.map fun k => if k.ref.sq = g.ref.sq
              then { k with faults := k.faults.filter fun y => y.serial != f.serial } else k }
          { g with faults := [] } (some f.words) g.pc (fld (f.words.getD 0 Word.zero).val 23 18)))) ) ∧
    (s.gust? g.ref = some g → g.doneUpto < g.bnum →
      ((∀ k ∈ s.allCmds, k.record = none → ∀ x ∈ k.refs, x.1 = g.ref → g.doneUpto + 1 < x.2) →
        exec (.batchComplete g.ref) s = .next (s.setGust { g with doneUpto := g.doneUpto + 1 })) ∧
      ((∃ k ∈ s.allCmds, k.record = none ∧ ∃ x ∈ k.refs, x.1 = g.ref ∧ x.2 ≤ g.doneUpto + 1) →
        exec (.batchComplete g.ref) s = .next s))

/-- R287, R329: GSET gives a guard slot that is not its opposite the value +1 or −1, after a release at device scope, and raises "guard
resolved" (76) on the opposite. GCLR clears the slot once every command under it that was accepted before it has left its queue, and waits
until then. -/
def Claims.GuardSlotForms : Prop :=
  ∀ (c : Ctl) (k : Nat) (v : Int) (s : State) (g : Gust) (q : Squall), s.Issuing g q → g.acts c.guard = true →
    v = 1 ∨ v = -1 →
    let old := (q.guards.getD k .zero).val
    let under := (s.queued q.core).filter fun x => x.record.isNone && x.who.sq == q.q && (cmdGuard x.instr).natAbs == k + 1
    (old ≠ -v → g.quiet = true → exec (.gset c k v) s = .next (Claims.out ((s.releasePart (dieOf q.core) .dv).onSquall
      g.ref.sq fun b => { b with guards := b.guards.set k (if v = 1 then .plus else .minus) }) g)) ∧
    (old ≠ -v → g.quiet = false → exec (.gset c k v) s = .next (Claims.waits s g s.op .quiet)) ∧
    (old = -v → Claims.Handles g q → exec (.gset c k v) s = .next (Claims.faulted s g 76 0 0)) ∧
    (g.status = .running → under = [] → exec (.gclr c k) s =
      .next (Claims.out (s.onSquall g.ref.sq fun b => { b with guards := b.guards.set k .zero }) g)) ∧
    (g.status = .running → under ≠ [] →
      exec (.gclr c k) s = .next (Claims.waits s g s.op (.guards k (under.map (·.id)))))

/-- R320, R321, R327, R328, R342, R343: the copy and codec queues. -/
def Obligations.EngineSteps : Prop := Claims.EngineSteps ∧ Claims.ThawRingStep

/-- R287, R323 to R326, R329: BCLOSE, BWAIT, BQRY, GSET and GCLR, and when a batch completes. -/
def Obligations.BatchForms : Prop := Claims.BatchForms ∧ Claims.GuardSlotForms

/-- The 45 words at `x`, read through the context's translation, are those of front record `r` (R352 to R354); the reads
leave the state as `t`. -/
def Claims.Record (s : State) (ctx : Nat) (x : Int) (r : FrontRec) (t : State) : Prop :=
  0 < x ∧ x % 45 = 0 ∧ ∃ ws, s.sysReads ctx x 45 = (.ok ws, t) ∧ parseRec ws = some r ∧ t.recOk ctx r = true

/-- A front as it is accepted (R355, R356). -/
def Claims.accepted (s : State) (ctx : Nat) (by_ : Launcher) (depth : Nat) (ceiling : Trit) (r : FrontRec) : Front :=
  { num := s.nextFront, ctx, by_, depth, prio := ceiling, ceiling, spec := r, left := r.total, sent := [], ending := none }

/-- The state with that front accepted. -/
def Claims.accept (s : State) (f : Front) : State := { s with nextFront := s.nextFront + 1, fronts := s.fronts ++ [f] }

/-- R99, R375, R376: LAUNCH sends the record's address to the chip scheduling core after a release at device scope and goes on, or, with a
mask word as its result, waits for the reply; a gust other than gust 0 raises 100. LAUNCH_REPLY accepts the front one deeper than its
launcher, with a priority no higher than the launcher's, and writes its number to sd; it writes 0 at depth 12 and −1 where no front record
is free. -/
def Claims.LaunchForms : Prop :=
  ∀ (c : Ctl) (d a : Nat) (s : State) (g : Gust) (q : Squall) (f : Front) (x : Word) (rest : List (Nat × Word)) (r : FrontRec) (v : State),
    (s.Issuing g q → g.acts c.guard = true →
      (g.ref.gust ≠ 0 → Claims.Handles g q → exec (.launch c d a) s = .next (Claims.faulted s g 100 0 0)) ∧
      (g.ref.gust = 0 → g.quiet = true →
        let sent := ((s.releasePart (dieOf q.core) .dv).onGust g.ref fun (h : Gust) =>
          { h with reply := h.reply ++ [(d, g.s a)] }).send (.launchReply g.ref)
        (d < 78 → exec (.launch c d a) s = .next (Claims.out sent g)) ∧
        (78 ≤ d → exec (.launch c d a) s = .next (Claims.waits sent g s.op .reply))) ∧
      (g.ref.gust = 0 → g.quiet = false → exec (.launch c d a) s = .next (Claims.waits s g s.op .quiet))) ∧
    (s.gust? g.ref = some g → s.front? g.ref.front = some f → g.reply = (d, x) :: rest → d < 78 →
      let t := fun (u : State) => u.onGust g.ref fun (h : Gust) => { h with reply := rest }
      (f.depth = 12 → exec (.launchReply g.ref) s = .next ((t s).writeS g.ref d Word.zero)) ∧
      (f.depth ≠ 12 → Config.maxFronts ≤ s.fronts.length →
        exec (.launchReply g.ref) s = .next ((t s).writeS g.ref d (Word.ofInt (-1)))) ∧
      (f.depth ≠ 12 → s.fronts.length < Config.maxFronts → s.pageAway f.ctx x.val = false → Claims.Record s f.ctx x.val r v →
        exec (.launchReply g.ref) s = .next ((t (Claims.accept v (Claims.accepted v f.ctx (.parent f.num) (f.depth + 1)
          (if r.prio.val ≤ f.prio.val then r.prio else f.prio) r))).writeS g.ref d (Word.ofNat v.nextFront))))

/-- R288, R377, R378, R379: LWAIT waits while its front is live, answers 1 for a retired number, after the accesses of the context's
retired fronts (how they come to happen before it is the model's choice, log entry 54) and the ordering that follows it, answers 0 for no
front's, and raises 101 for its own front or an ancestor. LQRY reads a live front of the context, its own for 0. PRIO writes the old trit
and sets the new one, not above the ceiling, and BIND_RECORD_REWRITE brings it to a die's record. -/
def Claims.FrontQueries : Prop :=
  ∀ (c : Ctl) (d a die : Nat) (src : NumSrc) (s : State) (g : Gust) (q : Squall) (f : Front),
    (s.Issuing g q → g.acts c.guard = true →
      (let x := (g.s a).val
       let own : Prop := 0 < x ∧ x.toNat ∈ s.lineage 12 g.ref.front
       (own → Claims.Handles g q → exec (.lwait c d a) s = .next (Claims.faulted s g 101 0 0)) ∧
       (¬ own → s.liveFront q.ctx x = some f → exec (.lwait c d a) s = .next (Claims.waits s g s.op (.front f.num))) ∧
       (¬ own → s.liveFront q.ctx x = none → 0 < x ∧ x < Int.ofNat s.nextFront → exec (.lwait c d a) s = .next (Claims.out
         (((s.frontsDone q.ctx).orderedAfter (dieOf q.core) .dv).writeS g.ref d (Word.ofInt 1)) g)) ∧
       (s.liveFront q.ctx x = none → x ≤ 0 ∨ Int.ofNat s.nextFront ≤ x →
         exec (.lwait c d a) s = .next (Claims.out (s.writeS g.ref d Word.zero) g)) ∧
       (s.liveFront q.ctx (if x = 0 then Int.ofNat g.ref.front else x) = some f → f.depth ≤ 12 → ∃ w : Word,
         exec (.lqry c d a) s =
           .next (Claims.out ((s.writeS g.ref d w).writeS g.ref (d + 1) (Word.ofNat f.left)) g) ∧
         tritI w.val 26 = 1 ∧ tritI w.val 25 = f.prio.val ∧ fld w.val 24 21 = Int.ofNat f.depth ∧ fld w.val 20 0 = 0) ∧
       (s.liveFront q.ctx (if x = 0 then Int.ofNat g.ref.front else x) = none →
         exec (.lqry c d a) s =
           .next (Claims.out ((s.writeS g.ref d Word.zero).writeS g.ref (d + 1) Word.zero) g))) ∧
      (let v := match src with
        | .imm n => n
        | .reg r => (g.s r).val
       (v < -1 ∨ 1 < v → Claims.Handles g q → exec (.prio c d src) s = .next (Claims.faulted s g 102 0 0)) ∧
       (-1 ≤ v → v ≤ 1 → s.front? g.ref.front = some f → (∀ k ∈ s.fronts, k.num = f.num → k = f) →
        ∃ (t : State) (p : Trit), exec (.prio c d src) s = .next (Claims.out (t.writeS g.ref d (Word.ofTrit f.prio)) g) ∧
          p.val = min v f.ceiling.val ∧ t.front? f.num = some { f with prio := p } ∧
          t = { s with fronts := t.fronts, flight := t.flight } ∧
          ∀ k, k < 9 → (s.bindRec? k f.num).isSome = true → Instr.bindRecordRewrite k f.num ∈ t.flight))) ∧
    (die < 9 → die < s.dies.length → s.front? f.num = some f → exec (.bindRecordRewrite die f.num) s =
      .next (s.onDie die fun k => { k with bindRecs := k.bindRecs.map fun b =>
        if b.front = f.num then { b with prio := f.prio } else b }))

/-- R375 to R379: device launches, and the forms about fronts. -/
def Obligations.FrontForms : Prop := Claims.LaunchForms ∧ Claims.FrontQueries

/-- The bind record and the front of a squall's front on its die. -/
def Claims.Bound (s : State) (q : Squall) (f : Front) (b : BindRec) : Prop :=
  s.front? q.q.front = some f ∧ s.bindRec? (dieOf q.core) q.q.front = some b

/-- R380, R382, R387 to R391: MPOINT sets N_last and clears K, and raises 103 inside a region. MIGR raises 103 there too and waits for its
batches, which counts as their wait (R389), raises 104 with an open batch, arrives and waits while a gust of the squall has neither
arrived nor retired, and, alone in its squall in an image with no directory, is declined with −1 in sd. -/
def Claims.MigrationForms : Prop :=
  ∀ (c : Ctl) (d n : Nat) (s : State) (g : Gust) (q : Squall), s.Issuing g q → g.acts c.guard = true →
    (g.stack ≠ [] → Claims.Handles g q → exec (.mpoint c n) s = .next (Claims.faulted s g 103 0 0) ∧
      exec (.migr c d n) s = .next (Claims.faulted s g 103 0 0)) ∧
    (g.stack = [] → g.Undisturbed q →
      exec (.mpoint c n) s = .next (s.after g { g with nlast := some n, kcount := 0 } q (g.pc + 1))) ∧
    (g.stack = [] → g.doneUpto < g.bnum → exec (.migr c d n) s = .next (Claims.waits s g s.op (.batch g.bnum))) ∧
    (g.stack = [] → g.bnum ≤ g.doneUpto → g.faults = [] → g.lost = 0 →
      let t := s.onGust g.ref fun h =>
        { h with waited := max h.waited g.bnum, touched := h.touched.filter fun x => decide (max h.waited g.bnum < x.2) }
      let g' : Gust :=
        { g with waited := max g.waited g.bnum, touched := g.touched.filter fun x => decide (max g.waited g.bnum < x.2) }
      (g.opened = true → Claims.Handles g q → exec (.migr c d n) s = .next (Claims.faulted t g' 104 0 0)) ∧
      (g.opened = false → (∃ h ∈ s.gustsOf g.ref.sq, h.ref ≠ g.ref ∧ h.status ≠ .retired ∧ h.arrivedAt = none) →
        (∀ h ∈ s.gustsOf g.ref.sq, h.ref ≠ g.ref → ∀ k, h.arrivedAt = some k → k.2 = n) →
        exec (.migr c d n) s = .next (Claims.waits t g s.op (.migr (.migr c d n)))) ∧
      (g.opened = false → s.gustsOf g.ref.sq = [g] → q.migration = none → q.shutter = none → g.halted = false → d < 78 →
        s.traceOn q.ctx = false → g.Undisturbed q → (∃ im, s.image? q.image = some im ∧ im.dir = 0) →
        (∃ f b, Claims.Bound s q f b) → ∃ u : State, exec (.migr c d n) s = .next u ∧
          u = { t with gusts := u.gusts, cur := u.cur, op := u.op, issueLeft := u.issueLeft } ∧
          u.gust? g.ref = some (Gust.completed g ({ g with
            nlast := some n, kcount := 0, waited := max g.waited g.bnum,
            touched := g.touched.filter fun x => decide (max g.waited g.bnum < x.2) }.withS d (Word.ofInt (-1))) q.isD (g.pc + 1))))

/-- Squall `b` is squall `q` on its target core (R385, R386): the live tiles and slots keep their words and states. -/
def Claims.Carried (q b : Squall) (h : MapHead) (m : Migration) (image : Nat) : Prop :=
  b = { q with core := m.target, isD := coreIsD m.target, bases := m.bases, migration := none, image,
               tileWords := b.tileWords, tiles := b.tiles, slotWords := b.slotWords, bars := b.bars, scratch := b.scratch } ∧
  (∀ k w, h.tiles.1 ≤ k → k < h.tiles.1 + h.tiles.2 → k < q.alloc.tiles → w < 729 →
    b.tileWord k w = q.tileWord k w ∧ b.tile k = q.tile k) ∧
  ∀ k w, h.slots.1 ≤ k → k < h.slots.1 + h.slots.2 → k < q.alloc.slots → w < 243 →
    b.slotWord k w = q.slotWord k w ∧ b.slot k = q.slot k

/-- R383 to R386, R392, R393: MIGRATION_TRANSFER reads and checks the table; a header that is not the one of its MIGR, or a bad
entry, is a machine check of class 2 and cause −7. MIGRATION_COMPLETE puts the squall into its new places, with 1 in sd, the PC at
the target and TVEC at −1: the live tiles and slots keep their words, m0..m2 their values, and a table of one entry moves its
register. That the words move with the completion is the model's choice (log entry 73), and so is what of the squall is carried without a
table entry (log entry 49). -/
def Claims.MigrationSteps : Prop :=
  ∀ (s : State) (r : SqRef) (q : Squall) (m : Migration) (g : Gust), s.squall? r = some q → q.migration = some m → q.q = r →
    (m.moved = false → (s.gustsOf r).find? (fun k => k.arrivedAt.isSome) = some g →
      (∀ k ∈ s.gustsOf r, k.loads = [] ∧ k.atoms = [] ∧ k.reply = []) → (∀ c ∈ (s.core q.core).copyQ, c.stage = .queued) →
      s.releaseEffect r = s →
      ∀ (a : Int) (hw : List Word) (t1 t2 t3 : State), s.tableAddr q m.point = (.ok a, t1) → 0 ≤ a → a % 9 = 0 →
      t1.sysReads q.ctx a 9 = (.ok hw, t2) →
      let checked := fun (t : State) (target : Int) => ∃ rec_ : Rec,
        exec (.migrationTransfer r) s = .next (t.machineCheck q.ctx rec_) ∧
        rec_.getD 2 Word.zero = Word.ofInt target ∧ rec_.getD 3 Word.zero = Word.zero ∧
        (g.stack = [] → fld (rec_.getD 0 Word.zero).val 26 24 = 2 ∧ fld (rec_.getD 0 Word.zero).val 23 18 = -7)
      (mapHead hw q m.point g.pc = none → checked t2 (hw.getD 3 Word.zero).val) ∧
      ∀ (h : MapHead) (ws : List Word), mapHead hw q m.point g.pc = some h →
        t2.sysReads q.ctx (a + 9) (2 * h.entries + 2 * h.pairs) = (.ok ws, t3) →
        let m' : Migration := { m with moved := true, table := hw ++ ws }
        (∀ x, m'.parsed q g.pc = .error x → checked t3 x) ∧
        (∀ x, m'.parsed q g.pc = .ok x →
          exec (.migrationTransfer r) s = .next (t3.onSquall r fun k => { k with migration := some m' }))) ∧
    (m.moved = true → ∀ (f : Front) (d n sl vb : Nat) (h : MapHead) (es : List MapEntry) (ps : List (Int × Int)),
      s.front? r.front = some f → s.gustsOf r = [g] →
      g.arrivedAt = some (d, n) → m.parsed q g.pc = .ok (h, es, ps) → m.slots = [sl] → m.vbases = [vb] → d < 78 →
      s.traceOn q.ctx = false → q.shutter = none → g.Undisturbed q →
      (∀ w, Instr.homeApplyWrite w ∈ s.flight → w.loc ≠ .win q.core) →
      ∃ (t : State) (b : Squall) (k : Gust), exec (.migrationComplete r) s = .next t ∧ t.squall? r = some b ∧
        Claims.Carried q b h m (if coreIsD m.target then f.spec.imgD else f.spec.imgL) ∧
        t.gust? g.ref = some k ∧ k.status = .running ∧ k.pc = h.target ∧ k.s d = Word.ofInt 1 ∧
        (∀ j, 78 ≤ j → j ≤ 80 → k.s j = g.s j) ∧ k.slot = sl ∧ k.vbase = vb ∧
        k.tvec.val = -1 ∧ k.nlast = some n ∧ k.kcount = 0 ∧ k.oldCode = [] ∧
        ∀ e, es = [e] → e.src.spill = false → e.dst.spill = false →
          (e.kind = .vec → k.v e.dst.index = g.v e.src.index) ∧
          (e.kind = .scal → e.dst.index < 78 → e.dst.index ≠ d → k.s e.dst.index = g.s e.src.index))

/-- R380 to R393: equivalence points and migration. -/
def Obligations.MigrationForms : Prop := Claims.MigrationForms ∧ Claims.MigrationSteps

/-- A gust of a core that can issue, with its class (R96, R362). -/
def Claims.Ready (s : State) (core : Nat) (k : Trit) (g : Gust) : Prop :=
  g ∈ s.gusts ∧ ∃ q, s.squall? g.ref.sq = some q ∧ q.core = core ∧ s.klass q = k ∧ s.eligible g q = true

/-- R366: a cycle in which a gust can issue chooses the oldest of a class: the highest class with one, but class N after 8
cycles in which it waited, and else class B after 25; where no gust can issue nothing is chosen. A class with no gust that can
issue has waited for no cycle. -/
def Claims.IssueChoice : Prop :=
  ∀ (s : State) (core : Nat), core < 243 → core < s.cores.length →
    let n := (s.core core).waitN
    let b := (s.core core).waitB
    let N := ∃ h, Claims.Ready s core .zero h
    let B := ∃ h, Claims.Ready s core .minus h
    ∃ t : State, exec (.issueChoice core) s = .next t ∧ (t.core core).cycle = (s.core core).cycle + 1 ∧
      ((∀ g k, ¬ Claims.Ready s core k g) → t.cur = s.cur ∧ t.gusts = s.gusts ∧
        (t.core core).waitN = 0 ∧ (t.core core).waitB = 0) ∧
      ((∃ g k, Claims.Ready s core k g) → ∃ g k, Claims.Ready s core k g ∧ t.cur = some g.ref ∧
        (∀ h, Claims.Ready s core k h → g.age ≤ h.age) ∧
        (8 ≤ n → N → k = .zero) ∧ (n < 8 ∨ ¬ N → 25 ≤ b → B → k = .minus) ∧
        (n < 8 ∨ ¬ N → b < 25 ∨ ¬ B → ∀ h j, Claims.Ready s core j h → j.val ≤ k.val) ∧
        (N → (t.core core).waitN = if k = .zero then 0 else n + 1) ∧ (¬ N → (t.core core).waitN = 0) ∧
        (B → (t.core core).waitB = if k = .minus then 0 else b + 1) ∧ (¬ B → (t.core core).waitB = 0))

/-- R97, R211: GUST_RETIRE of a retiring gust with nothing left to wait for retires it: its tiles and slots that nothing still
needs are free, and with its last gust the squall is gone. A gust that holds a latch traps with cause 8 instead; that its
record names no instruction is the model's choice (log entry 68). Stated for a squall with no command in a queue. -/
def Claims.GustRetire : Prop :=
  ∀ (s : State) (g : Gust) (q : Squall), s.gust? g.ref = some g → s.squall? g.ref.sq = some q → g.status = .retiring →
    g.halted = false → g.quiet = true → g.reply = [] → g.faults = [] → g.lost = 0 → s.cmdPending g.ref (g.bnum + 1) = false →
    (∀ c ∈ s.allCmds, c.who.sq ≠ g.ref.sq ∧ ∀ p ∈ c.snap, p.q ≠ g.ref.sq) →
    let u : State := { s with op := 0 }
    (s.latchesOf g.ref ≠ [] → Claims.Handles g q → exec (.gustRetire g.ref) s =
      .next ((u.setGust (Claims.trappedGust g (some (u.mkRec g 4 8 0 (-1) 0)) g.pc)).trace g.ref 3 8)) ∧
    (s.latchesOf g.ref = [] → ∃ t : State, exec (.gustRetire g.ref) s = .next t ∧
      ((∀ h ∈ s.gustsOf g.ref.sq, h.ref ≠ g.ref → h.status = .running) →
        (∃ h ∈ s.gustsOf g.ref.sq, h.ref ≠ g.ref) → t.gust? g.ref = some { g with status := .retired } ∧
        ∃ b : Squall, t.squall? g.ref.sq = some b ∧ b = { q with tiles := b.tiles, slots := b.slots } ∧
          (∀ k, k < q.tiles.length → k < q.alloc.tiles →
            ((s.core q.core).matrixQ = [] → (q.tile k).owner = some g.ref.gust → (b.tile k).owner = none) ∧
            ((q.tile k).owner ≠ some g.ref.gust → (q.tile k).releasing = false → b.tile k = q.tile k)) ∧
          ∀ k, k < q.slots.length → k < q.alloc.slots →
            ((s.core q.core).matrixQ = [] → (q.slot k).fill ≠ .pending → (q.slot k).owner = some g.ref.gust →
              (b.slot k).owner = none) ∧
            ((q.slot k).owner ≠ some g.ref.gust → (q.slot k).releasing = false → b.slot k = q.slot k)) ∧
      (s.gustsOf g.ref.sq = [g] → t.squall? g.ref.sq = none ∧ t.gust? g.ref = none ∧
        ∀ f, s.front? g.ref.front = some f → t.front? g.ref.front = some { f with left := f.left - 1 }))

/-- R360: RANGE_DISTRIBUTE gives each eligible core of the die an equal run of the die's entry, in ascending order of the
cores, and keeps the rest as the die's common pool. -/
def Claims.RangeDistribute : Prop :=
  ∀ (s : State) (front die : Nat) (f : Front) (b : BindRec), die < 9 → s.front? front = some f →
    s.bindRec? die front = some b → die ∉ f.sent →
    let cores := ((List.range 27).map fun k => 27 * die + k).filter fun k => coreAllowed f.spec b k
    let e := f.spec.ranges.getD die (0, 0)
    let per := e.2 / cores.length
    ∃ d : Dist, exec (.rangeDistribute front die) s = .next
        ((s.onFront front fun x => { x with sent := x.sent ++ [die] }).onDie die fun x => { x with dists := x.dists ++ [d] }) ∧
      d.front = front ∧ d.subs.length = cores.length ∧
      (∀ j, j < cores.length → d.subs[j]? = some (cores.getD j 0, e.1 + j * per, per)) ∧
      d.pool = (e.1 + per * cores.length, e.2 - per * cores.length)

/-- R362: BIND_RECORD_WRITE gives a front of the die a free place of its slot table, below 72 unless the front is urgent (how the
places above are kept is the model's reading, log entry 28), with the front's class. -/
def Claims.BindRecordWrite : Prop :=
  ∀ (s : State) (x : BindChoice) (f : Front), x.die < 9 → x.die < s.dies.length → s.front? x.front = some f → f.ending = none →
    (f.spec.ranges.getD x.die (0, 0)).2 ≠ 0 → s.bindRec? x.die x.front = none → x.quantum ≤ 1594323 →
    (∀ k, k < 27 → x.coreSet.tritAt k ≠ .minus) → (∃ p, p < 72 ∧ ∀ b ∈ (s.die x.die).bindRecs, b.place ≠ p) →
    ∃ p, (∀ b ∈ (s.die x.die).bindRecs, b.place ≠ p) ∧ p < (if f.prio = .plus then 81 else 72) ∧
      exec (.bindRecordWrite x) s = .next (s.onDie x.die fun d => { d with bindRecs := d.bindRecs ++
        [{ place := p, front := x.front, prio := f.prio, policy := x.policy, coreSet := x.coreSet, quantum := x.quantum,
           save := f.spec.save }] })

/-- R17, R95, R125, R128, R171, R177, R361, R363, R394: SQUALL_BIND of the index that the distributor gives puts the squall on
its core, with every gust at PC 0, all lanes participating, the scalars of R128 in its allotment, v0 the lane numbers, all else of
its allotment zero: the scratchpad, tiles and slots, which no gust owns, with every tile status 0 and no fill pending (R207), the guard slots,
and the barriers with no arrival (R188); the image's privilege and no handler. -/
def Claims.SquallBind : Prop :=
  ∀ (s : State) (front core lin : Nat) (f : Front) (d : Dist) (h : Held), core < 243 → s.stopped = false →
    s.bindPlan front core = some (f, lin, d, h) →
    s.bindFirst core ((s.bindRec? (dieOf core) front).elim .zero (·.prio)) true = false →
    s.squall? ⟨f.num, lin⟩ = none → s.gustsOf ⟨f.num, lin⟩ = [] → s.traceOn f.ctx = false → f.spec.alloc.s ≤ 78 →
    ∃ (t : State) (b : Squall), exec (.squallBind front core) s = .next t ∧ t.squall? ⟨f.num, lin⟩ = some b ∧
      b.core = core ∧ b.isD = coreIsD core ∧ b.ctx = f.ctx ∧ b.alloc = f.spec.alloc ∧ b.count = f.spec.gusts ∧
      b.scratch = [] ∧ b.shutter = none ∧ b.tileWords = [] ∧ b.slotWords = [] ∧
      b.tiles = List.replicate f.spec.alloc.tiles { owner := none, status := .zero, releasing := false } ∧
      b.slots = List.replicate f.spec.alloc.slots
        { owner := none, fill := .ready, count := 0, fault := none, releasing := false, wrote := 0 } ∧
      b.bars = List.replicate f.spec.alloc.bars (Word.ofInt 847288609443, Word.zero) ∧ b.guards = List.replicate f.spec.alloc.g .zero ∧
      ∀ k, k < f.spec.gusts → ∃ g : Gust, t.gust? ⟨f.num, lin, k⟩ = some g ∧ g.status = .running ∧ g.pc = 0 ∧
        g.stack = [] ∧ g.trapActive = false ∧ g.tvec.val = -1 ∧ g.bnum = 0 ∧ g.ctr = 0 ∧
        g.priv = (s.image? (if coreIsD core then f.spec.imgD else f.spec.imgL)).any (·.priv) ∧
        (∀ l, l < 81 → g.mask.get l = .plus) ∧ (∀ j l, j < 27 → j < f.spec.alloc.p → l < 81 → (g.p j).get l = .zero) ∧
        (∀ j l, j < f.spec.alloc.v → l < 81 → (g.v j).get l = if j = 0 then Word.ofNat l else Word.zero) ∧
        ∀ j, j < f.spec.alloc.s → g.s j = match j with
          | 0 => Word.ofInt f.spec.args
          | 1 => Word.ofNat (lin % f.spec.n0)
          | 2 => Word.ofNat (lin / f.spec.n0 % f.spec.n1)
          | 3 => Word.ofNat (lin / f.spec.n0 / f.spec.n1)
          | 4 => Word.ofNat k
          | 5 => Word.ofNat core
          | _ => Word.zero

/-- R357, R480: FRONT_RETIRE of a list's front whose squalls and children have retired takes its distributors and bind records away
and, after a release at device scope in an order the device chooses (the model's choice, log entry 54), writes its number to its
completion address; then it removes the front and signals its vector. While that page is on its way, the front stands as ending. -/
def Claims.FrontRetire : Prop :=
  ∀ (s : State) (f : Front), s.front? f.num = some f → (∀ k ∈ s.fronts, k.num = f.num → k = f) → f.ending = none → f.left = 0 →
    s.childrenOf f.num = [] → f.by_ = .list →
    let u : State := { s with
      fronts := s.fronts.map fun x => if x.num = f.num then { x with ending := some (Int.ofNat f.num) } else x,
      dies := s.dies.map fun (d : Die) =>
        { d with dists := d.dists.filter (fun x => x.front != f.num), bindRecs := d.bindRecs.filter fun x => x.front != f.num } }
    let gone := fun (v : State) =>
      ({ v with fronts := v.fronts.filter fun x => x.num != f.num } : State).signal f.ctx f.spec.msix
    (f.spec.done = 0 → exec (.frontRetire f.num) s = .next (gone u)) ∧
    (f.spec.done ≠ 0 → ∀ a v, u.releaseDies.under [2, f.num] (fun s => s.sysWrite f.ctx f.spec.done (Word.ofNat f.num)) = (a, v) →
      (a = .wait → exec (.frontRetire f.num) s = .next v) ∧ (a ≠ .wait → exec (.frontRetire f.num) s = .next (gone v)))

/-- R96, R97, R360 to R363, R366, R357: how a front comes to its gusts, how gusts come to issue, and how both retire. -/
def Obligations.SchedulingSteps : Prop :=
  Claims.IssueChoice ∧ Claims.GustRetire ∧ Claims.RangeDistribute ∧ Claims.BindRecordWrite ∧ Claims.SquallBind ∧
    Claims.FrontRetire

/-- R358, R359: LAUNCH_LIST_CONSUME takes the next launch word: a positive one launches the record there, of a front of depth
1 with the record's own class, and then the word is zeroed and the consumed count goes up by one. A word of 0 leaves all as
it is. -/
def Claims.LaunchList : Prop :=
  ∀ (s t t1 t2 t3 v : State) (ctx : Nat) (n w : Word) (p1 p2 : WLoc) (r : FrontRec), ctx < 27 → s.stopped = false →
    s.boot.bootst = 2 → s.boot.power ≠ .d3hot →
    let x := (s.context ctx).xlist.val
    let at_ := x + 1 + n.val % 243
    0 < x → x % 9 = 0 → s.sysRead ctx x = (.ok n, t) → t.sysRead ctx at_ = (.ok w, t1) →
    (w.val = 0 → exec (.launchListConsume ctx) s = .next t1) ∧
    (t1.sysTranslate ctx at_ true = (.ok p1, t2) → t2.sysTranslate ctx x true = (.ok p2, t3) →
      t3.fronts.length < Config.maxFronts → Claims.Record t3 ctx w.val r v → exec (.launchListConsume ctx) s = .next
      (((Claims.accept v (Claims.accepted v ctx .list 1 r.prio r)).sysPut ctx at_ Word.zero).sysPut ctx x
        (Word.ofInt (n.val + 1))))

/-- The successor that a condition node chooses for a value (R373). -/
def Claims.condition (ty v : Int) : Nat :=
  if ty = 2 then (if 0 < v then 0 else if v = 0 then 1 else 2) else if ty = 3 then (if v = 0 then 1 else 0)
  else (min (max v 0) 6).toNat

/-- R373, R374: a ready launch node launches its record and acts until its front retires; a join sends an arrival to each
successor; a condition reads its word and sends one to the successor it chooses. An arrival counts at a join that wants
more, makes any other idle node ready, and fails the graph with −2 where the node is ready or acting. With no node ready or
acting, and no front of it live, the graph completes: it writes status 1, or its failure's, and then signals; while the page of
the status word is on its way, it stands as ending. -/
def Claims.GraphSteps : Prop :=
  ∀ (s u : State) (id i j : Nat) (g : Graph) (n m : Node) (x y : NodeSt) (v : Word) (r : FrontRec), s.graph? id = some g →
    (g.failed = 0 → g.nodes[i]? = some n → g.st[i]? = some x → x.ready = true →
      (n.ty = 1 → s.fronts.length < Config.maxFronts → 0 < u.nextFront → Claims.Record s g.ctx n.arg r u →
        exec (.graphNodeAct id i) s = .next ((Claims.accept u (Claims.accepted u g.ctx (.graph id i) 1 r.prio r)).onGraph id
          fun k => { k with st := k.st.modify i fun z => { z with ready := false, acting := true } })) ∧
      (n.ty = -1 ∧ u = s ∧ n.succ = [Int.ofNat j] ∨ n.ty ∈ [2, 3, 4] ∧ s.sysRead g.ctx n.arg = (.ok v, u) ∧
          u.graph? id = some g ∧ n.succ.getD (Claims.condition n.ty v.val) (-1) = Int.ofNat j →
        j ≠ i → g.nodes[j]? = some m → g.st[j]? = some y → ∃ (t : State) (k : Graph),
          exec (.graphNodeAct id i) s = .next t ∧ t = { u with graphs := t.graphs } ∧ t.graph? id = some k ∧
          k = { g with st := k.st, failed := k.failed } ∧ k.st[i]? = some { x with ready := false, acting := false } ∧
          (∀ a, a ≠ i → a ≠ j → k.st[a]? = g.st[a]?) ∧
          (m.ty = -1 → y.arrivals + 1 < m.need →
            k.st[j]? = some { y with arrivals := y.arrivals + 1 } ∧ k.failed = 0) ∧
          (m.ty ≠ -1 ∨ m.need ≤ y.arrivals + 1 →
            (y.ready = false → y.acting = false → k.st[j]? = some { arrivals := 0, ready := true, acting := false } ∧
              k.failed = 0) ∧
            (y.ready = true ∨ y.acting = true → k.st[j]? = some y ∧ k.failed = -2)))) ∧
    ((∀ z ∈ g.st, z.acting = false ∧ (g.failed = 0 → z.ready = false)) → s.graphFronts id = false →
      (∀ k ∈ s.graphs, k.id = id → k = g) →
      let code := if g.failed = 0 then 1 else g.failed
      let w : State := { s with graphs := s.graphs.map fun k => if k.id = id then { k with ending := some code } else k }
      let gone := fun (t : State) => ({ t with graphs := t.graphs.filter fun k => k.id != id } : State).signal g.ctx g.msix
      (g.done = 0 → exec (.graphComplete id) s = .next (gone w)) ∧
      (g.done ≠ 0 → ∀ a t, w.releaseDies.under [3, id] (fun s => s.sysWrite g.ctx g.done (Word.ofInt code)) = (a, t) →
        (a = .wait → exec (.graphComplete id) s = .next t) ∧ (a ≠ .wait → exec (.graphComplete id) s = .next (gone t))))

/-- R358, R359, R372 to R374: the launch lists and the task graphs. -/
def Obligations.LaunchSteps : Prop := Claims.LaunchList ∧ Claims.GraphSteps

/-- What a shutter request does to a gust (R409): a gust that waits, or is stopped or retired, stops at once, and so does a
yielded one, whose cycles are dropped; a running gust, or one that only stalls, runs on to its next PPOINT. -/
def Claims.stopped (g : Gust) : Gust :=
  match g.status with
  | .running => g
  | .waiting _ w => { g with halted := g.halted || !w.isStall }
  | .yielded _ => { g with halted := true, status := .running }
  | _ => { g with halted := true }

/-- R364, R409: SHUTTER_REQUEST marks the squall, where a squall that waits for its die fits no core and would fit this one without
the squalls that may give way to it, or where none waits and its quantum has passed (log entry 76), and stops its gusts; else, and
while a request stands, it does nothing. FORCED_SAVE stops every gust once 9 µs have passed, but one that waits for an atomic's
lanes or a reply; a gust whose command waits for room leaves that wait. -/
def Claims.ShutterRequests : Prop :=
  ∀ (s : State) (r : SqRef) (q : Squall) (b : BindRec) (t0 : Nat), s.squall? r = some q → q.q = r →
    s.bindRec? (dieOf q.core) r.front = some b → q.migration = none →
    (let due : Prop := (∃ w ∈ s.waiters (dieOf q.core), s.givesWay q w = true) ∨
       (s.waiters (dieOf q.core) = [] ∧ q.boundAt + 1000 * b.quantum ≤ s.ptime)
     (q.shutter = none → due → exec (.shutterRequest r) s = .next { s.setSquall { q with shutter := some (s.ptime, false) } with
        gusts := s.gusts.map fun g => if g.ref.sq = r then Claims.stopped g else g }) ∧
     (q.shutter ≠ none ∨ ¬ due → exec (.shutterRequest r) s = .next s)) ∧
    (q.shutter = some (t0, false) →
      (s.ptime < t0 + 9000 → exec (.forcedSave r) s = .next s) ∧
      (t0 + 9000 ≤ s.ptime → (∃ g ∈ s.gustsOf r, g.halted = false) → ∃ (t : State) (sl : List SlotSt),
        exec (.forcedSave r) s = .next t ∧
        t = { s with squalls := t.squalls, cores := t.cores, dies := t.dies, gusts := t.gusts } ∧
        t.squall? r = some { q with shutter := some (t0, true), slots := sl } ∧
        ((∀ c ∈ (s.core q.core).acceptQ, c.who.sq = r → c.fills = []) → sl = q.slots) ∧
        (t.core q.core).acceptQ = (s.core q.core).acceptQ.filter (fun c => c.who.sq != r) ∧
        t.gusts = s.gusts.map fun g => if g.ref.sq = r then (match g.status with
          | .waiting _ .atomic | .waiting _ .reply => g
          | .waiting o w => { g with halted := true, status := if w.isStall then .running else .waiting o w }
          | _ => { g with halted := true }) else g))

/-- Runs of words written at offsets from an address, one after the other, none failing. -/
def Claims.written (ctx : Nat) (a : Int) : List (Nat × List Word) → State → Option State
  | [], s => some s
  | (o, ws) :: rs, s => match s.sysWrites ctx (a + Int.ofNat o) ws with
    | (.ok _, t) => Claims.written ctx a rs t
    | _ => none

/-- R130, R410 to R412: SHUTTER_SAVE of a squall whose gusts have all stopped takes the first free image from lin mod S_a on,
whose word 0 becomes lin + 1; with images too small, or none at all, the request is refused and every gust resumes, one that waits at
a barrier after it has tested its phase again (what a refusal leaves is the model's choice, log entry 54). Once the squall has
drained, its image is written, with the scalar files, predicate files, vector registers, barriers and scratchpad at the places of the
table, and it is unbound and shuttered from then on. The write is stated with no access on its way to a word of the core. -/
def Claims.ShutterSave : Prop :=
  ∀ (s t t2 t3 : State) (q : Squall) (f : Front) (forced : Bool) (t0 : Nat) (sa z : Word) (a : Int), s.squall? q.q = some q →
    s.front? q.q.front = some f → q.shutter = some (t0, forced) → q.migration = none →
    let gs := t3.gustsOf q.q
    let k := q.count
    let lanes := 27 + 243 * k
    let scal := lanes + 729 * k + 243 * k
    let bars := scal + 162 * k + 81 * q.alloc.v * k + 1
    let scratch := bars + 2 * q.alloc.bars + 730 * q.alloc.tiles + 244 * q.alloc.slots
    let size := scratch + q.alloc.scratch + 10692
    (q.saveTo = none → (∃ g ∈ s.gustsOf q.q, g.halted = false) → exec (.shutterSave q.q) s = .next s) ∧
    (q.saveTo = none → (∀ g ∈ s.gustsOf q.q, g.halted = true) → s.sysReads q.ctx f.spec.save 2 = (.ok [sa, z], t) →
      let at_ := f.spec.save + 9 + Int.ofNat (q.q.lin % sa.val.toNat) * z.val
      (sa.val < 1 ∨ z.val < Int.ofNat size → exec (.shutterSave q.q) s = .next ((({ t with gusts := t.gusts.map fun g =>
        if g.ref.sq = q.q then { g with halted := false, status := (match g.status with
          | .waiting _ (.gang _) | .waiting _ (.migr _) | .waiting _ (.claim _ _ _ _) => .running
          | x => x) } else g } : State).setSquall { q with shutter := none }).retestBarriers q.q)) ∧
      (1 ≤ sa.val → Int.ofNat size ≤ z.val → t.sysRead q.ctx at_ = (.ok Word.zero, t2) →
        t2.sysWrite q.ctx at_ (Word.ofNat (q.q.lin + 1)) = (.ok (), t3) →
        exec (.shutterSave q.q) s = .next (t3.onSquall q.q fun b => { b with saveTo := some at_ }))) ∧
    (q.saveTo = some a → s.drained q = false → exec (.shutterSave q.q) s = .next s) ∧
    (q.saveTo = some a → s.drained q = true →
     s.areaReady q.ctx a true (linesOf size) = (.ok (), t3) → t3.savedCmds q = [] → (∀ g ∈ gs, g.entries = []) →
     t3.squall? q.q = some q → (∀ w, Instr.homeApplyWrite w ∈ t3.flight → w.loc ≠ .win q.core) →
     (∀ g ∈ t3.gusts, g.loads = [] ∧ g.atoms = []) →
     ∃ runs : List (Nat × List Word),
      (∀ g ∈ gs, (scal + 81 * g.ref.gust, g.sreg.take q.alloc.s) ∈ runs ∧ (scal + 78 + 81 * g.ref.gust, g.sreg.drop 78) ∈ runs ∧
        (scal + 81 * k + 81 * g.ref.gust, (g.preg.take q.alloc.p).flatMap fun p => [p.b0, p.b1, p.b2]) ∈ runs ∧
        (scal + 162 * k + 81 * q.alloc.v * g.ref.gust, g.vreg.flatMap (·.data)) ∈ runs) ∧
      (bars, q.bars.flatMap fun b => [b.1, b.2]) ∈ runs ∧
      (∃ ws, (scratch, ws) ∈ runs ∧ ws.length = q.alloc.scratch ∧
        ∀ i, i < q.alloc.scratch → ws[i]? = some (readAt Claims.zeroAt q.scratch i)) ∧
      (∃ ws, runs.head? = some (0, ws) ∧ ws.length = 27 ∧ ws[0]? = some (Word.ofNat (q.q.lin + 1)) ∧
        ws[1]? = some (Word.ofNat q.q.front) ∧ ws[9]? = some (Word.ofNat size)) ∧
      ∀ u, Claims.written q.ctx a runs t3 = some u → ∃ x : Shuttered,
        exec (.shutterSave q.q) s = .next { u.dropSquall q.q with shuttered := (u.dropSquall q.q).shuttered ++ [x] } ∧
        x.q = q.q ∧ x.area = a ∧ x.ctx = q.ctx ∧ x.die = dieOf q.core ∧ x.isD = q.isD ∧ x.alloc = q.alloc ∧ x.cmds = [])

/-- R365, R411, R412: SHUTTER_RESTORE of a squall that may be restored, with no bind before it, zeroes the image's word 0, leaves memory
otherwise as it is, and gives the squall its new places and its gust the PC, scalars, mask and vectors of the image. Stated for a squall
of one running gust with no saved commands. -/
def Claims.ShutterRestore : Prop :=
  ∀ (s t1 u : State) (x : Shuttered) (f : Front) (core : Nat) (h : Held) (g0 : Gust) (ws : List Word), core < 243 →
    s.shut? x.q = some x → s.front? x.q.front = some f → s.restorePlan x core = some h → s.stopped = false →
    s.bindFirst core (s.shutKlass x) false = false →
    (∀ y ∈ s.shuttered, s.shutKlass y = s.shutKlass x → y.at_ < x.at_ → s.restorePlan y core = none) →
    s.sysReads x.ctx x.area (imageMap x.count x.alloc).size = (.ok ws, t1) →
    t1.sysWrite x.ctx x.area Word.zero = (.ok (), u) → u.squall? x.q = none → u.gustsOf x.q = [] → u.heads = [] →
    u.traceOn x.ctx = false → x.gs = [g0] → x.count = 1 → g0.ref.sq = x.q → g0.ref.gust = 0 → g0.status = .running → x.cmds = [] →
    let m := imageMap x.count x.alloc
    ∃ (t : State) (b : Squall) (g : Gust), exec (.shutterRestore x.q core) s = .next t ∧ t.squall? x.q = some b ∧
      b.core = core ∧ b.bases = h.bases ∧ b.alloc = x.alloc ∧ b.shutter = none ∧
      (∀ i, readAt Claims.zeroAt b.scratch i = if i < x.alloc.scratch then ws.getD (m.scratch + i) Word.zero else Word.zero) ∧
      t.hbm = u.hbm ∧ (t.homes.map fun y => (y.line, y.words)) = (u.homes.map fun y => (y.line, y.words)) ∧
      t.gust? g0.ref = some g ∧ g.status = .running ∧ g.halted = false ∧ g.pc = (ws.getD 28 Word.zero).val ∧
      (∀ j, j < 81 → x.alloc.s ≤ 78 → j < x.alloc.s ∨ 78 ≤ j → g.s j = ws.getD (m.scal + j) Word.zero) ∧
      ∀ n l, n < x.alloc.v → l < 81 → (g.v n).get l = ws.getD (m.vec + 81 * n + l) Word.zero

/-- R404, R415, R480: MACHINE_CHECK leaves the context without counters and waiting commands, its squalls gone, and every front and
graph of it gone, or ending where the page of its completion or status word is on its way. FRONT_END leaves no squall of the front,
and it and its children gone or ending. -/
def Claims.Discards : Prop :=
  ∀ (s : State) (ctx front : Nat) (cause : Int) (addr : CheckAt) (f : Front),
    (ctx < 27 → ∃ t : State, exec (.machineCheck ctx cause addr) s = .next t ∧
      (∀ x ∈ t.fronts, x.ctx = ctx → x.ending ≠ none) ∧ (∀ x ∈ t.graphs, x.ctx = ctx → x.ending ≠ none) ∧
      (∀ x ∈ t.counters, x.ctx ≠ ctx) ∧
      (∀ x ∈ t.squalls, ∀ y ∈ s.fronts, y.ctx = ctx → x.q.front ≠ y.num) ∧
      ∀ k ∈ t.cores, ∀ x ∈ k.matrixQ ++ k.fillQ ++ k.copyQ ++ k.codecQ ++ k.acceptQ, x.ctx = ctx → x.stage ≠ .queued) ∧
    (s.front? front = some f → ∃ t : State, exec (.frontEnd front cause) s = .next t ∧
      (∀ x ∈ t.squalls, x.q.front ≠ front) ∧ (∀ x ∈ t.shuttered, x.q.front ≠ front) ∧
      ∀ x ∈ t.fronts, x.num = front ∨ x.by_ = .parent front → x.ending ≠ none)

/-- R404, R409 to R413, R415: shuttering, and the discards. -/
def Obligations.ShutterSteps : Prop :=
  Claims.ShutterRequests ∧ Claims.ShutterSave ∧ Claims.ShutterRestore ∧ Claims.Discards

/-- R236 to R238, R240, R242, R280: HOME_FILL of a packed line for which its set, which home lines and near lines share, has room
brings its words to the home slice, whose directory lists the dies that hold its sectors. HOME_APPLY_WRITE replaces the word at the
home, where no dead link parts its die from it (log entry 84), sends every other holder of the sector an invalidation, and
acknowledges the write; a die stays a holder until that has
applied. HOME_RECALL of a line with no dirty word noted writes it to HBM4 and drops it. -/
def Claims.HomeSteps : Prop :=
  ∀ (s : State) (p : Nat) (h : HomeLine) (ws : List Word) (m : WriteMsg) (r : GustRef) (g : Gust), p < Config.deviceLines →
    (s.home? p = none → readLine (s.hbmLine p) = .packed ws → (s.l2Set (homeSet p)).length < 5 →
      ∃ (t : State) (x : HomeLine), exec (.homeFill p) s = .next t ∧ t = { s with homes := t.homes, serial := t.serial } ∧
        t.home? p = some x ∧ x.words = ws ∧ x.noted = [] ∧
        (∀ d q, (d, q) ∈ x.holders ↔ d < 9 ∧ q < 9 ∧ ∃ l, s.l1? d (.dev p) = some l ∧ l.hasSector q = true) ∧
        ∀ k, k ≠ p → t.home? k = s.home? k) ∧
    (s.home? p = some h → s.poisoned p (sectorOf m.word) = false → m.loc = .dev p → m.narrow = false → s.joined m.die (.dev p) = true →
      m.src = some r → s.gust? r = some g → ∃ (t : State) (x : HomeLine), exec (.homeApplyWrite m) s = .next t ∧ t.home? p = some x ∧
        x.words = h.words.set m.word m.val ∧ t.gust? r = some { g with unacked := g.unacked - 1 } ∧ x.holders = h.holders ∧
        ∀ d, d ≠ m.die → d ≠ homeDie p → (d, sectorOf m.word) ∈ h.holders →
          Instr.invalidation d p (sectorOf m.word) m.stamp ∈ t.flight) ∧
    (s.home? p = some h → h.noted = [] → h.bad = [] → h.words.length = 45 → canonical hbmDefault s.hbm = true →
      ∃ t : State, exec (.homeRecall p) s = .next t ∧ t.home? p = none ∧ t.hbmLine p = packedLine h.words ∧
        ∀ a, a < 256 * p ∨ 256 * p + 256 ≤ a → t.hbmByte a = s.hbmByte a)

/-- R238, R239, R240, R242, R243, R282: L1_FILL leaves a die's copy of a sector with the home's words where it held no dirty
ones. L1_WRITE_BACK brings the dirty words of a sector to the home and leaves them clean. INVALIDATION marks the sector stale
where the die holds it, and leaves its words. DIRTY_NOTICE notes at the home whether the sector holds a dirty word, and FORCED_PUBLISH has a noted die
write it back. Write-backs are stated for dirty words of one epoch. -/
def Claims.L1Steps : Prop :=
  ∀ (s : State) (d p sec : Nat) (x : L1Line) (h : HomeLine) (ev : Int) (st : List Nat) (k0 : Nat), d < 9 → d < s.dies.length →
    sec < 9 →
    (s.home? p = some h → h.bad = [] → s.poisoned p sec = false →
      homeDie p = d ∨ s.near? d p = none ∧ (s.l2Set (nearSet d p)).length < 5 →
      (∀ m, Instr.homeApplyWrite m ∈ s.flight → m.die ≠ d ∨ m.loc ≠ .dev p) →
      ∃ t : State, exec (.l1Fill d (.dev p) sec 1 ev) s = .next t ∧ ∀ w, sectorOf w = sec →
        ∃ v, t.l1Hit d ⟨.dev p, w⟩ = some v ∧
          (∀ y, s.l1Hit d ⟨.dev p, w⟩ = some y → y.dirty.isSome = true → v = y) ∧
          ((∀ y, s.l1Hit d ⟨.dev p, w⟩ = some y → y.dirty = none) →
            v = { val := h.words.getD w Word.zero, dirty := none, by_ := 0 })) ∧
    (s.l1? d (.dev p) = some x → (∀ y ∈ (s.die d).l1, y.loc = .dev p → y = x) → rising x.words = true →
      (s.home? p = some h → s.poisoned p sec = false → h.words.length = 45 → (∀ e ∈ x.words, e.2.bad = false) →
        (∀ y ∈ (s.die d).l1, ∀ e ∈ y.words, ∀ k, e.2.dirty = some k → k = k0) → ∃ (t : State) (h' : HomeLine),
          exec (.l1WriteBack d (.dev p) sec) s = .next t ∧ t.home? p = some h' ∧ ∀ w, w < 45 →
            (∀ v, sectorOf w = sec → x.get? w = some v → v.dirty = some k0 →
              h'.words.getD w Word.zero = v.val ∧ t.l1Hit d ⟨.dev p, w⟩ = some { v with dirty := none }) ∧
            (sectorOf w ≠ sec ∨ (∀ v, x.get? w = some v → v.dirty = none) →
              h'.words.getD w Word.zero = h.words.getD w Word.zero ∧ t.l1Hit d ⟨.dev p, w⟩ = x.get? w)) ∧
      (∃ (t : State) (y : L1Line), exec (.invalidation d p sec st) s = .next t ∧ t.l1? d (.dev p) = some y ∧
        y.words = x.words ∧ (x.hasSector sec = true → sec ∈ y.stale) ∧ (∀ k ∈ x.stale, k ∈ y.stale) ∧
        ∀ n, s.near? d p = some n → rising n.sectors = true →
          ∃ n', t.near? d p = some n' ∧ lookupAt n'.sectors sec = none) ∧
      (s.home? p = some h → ∃ (t : State) (h' : HomeLine), exec (.dirtyNotice d p sec) s = .next t ∧
        t = { s with homes := t.homes } ∧ t.home? p = some h' ∧ h' = { h with noted := h'.noted } ∧
        ((sec, d) ∈ h'.noted ↔ ∃ e ∈ x.words, e.2.dirty.isSome = true ∧ sectorOf e.1 = sec) ∧
        ∀ k, k ≠ (sec, d) → (k ∈ h'.noted ↔ k ∈ h.noted))) ∧
    (s.home? p = some h → ((sec, d) ∉ h.noted → exec (.forcedPublish d p sec) s = .next s) ∧
      ((sec, d) ∈ h.noted → exec (.forcedPublish d p sec) s = .next ((s.writeBack d (.dev p) sec).onDie (homeDie p) fun y =>
        { y with counters := y.counters.modify 6 countUp })))

/-- R302 to R307: PAGE_WALK of a present page leaves its translation in the core's TLB for the time of its lease, or for what is
left to the copy of a table entry through which it was walked.
TLB_LEASE_EXPIRY drops copies and makes none; where the lease of one has ended it drops every such copy. -/
def Claims.TranslationSteps : Prop :=
  ∀ (s t u : State) (core ctx : Nat) (x : Int) (v entry : Nat) (w0 w1 : Word) (cap again : Option Nat), core < 243 →
    core < s.cores.length →
    (ctx < 27 → 1 ≤ x → x ≤ wordMax → s.walk (dieOf core) ctx x = (.leaf v entry w0 w1 cap, t) → pteType w0 = 1 →
      tlbFind (t.core core).tlb ctx (x.toNat / 45) t.ptime none = none → t.walk (dieOf core) ctx x = (.leaf v entry w0 w1 again, u) →
      core < u.cores.length → ∃ (r : State) (e : TlbEntry), exec (.pageWalk core ctx x) s = .next r ∧
        (r.core core).tlb.head? = some e ∧ e.ctx = ctx ∧ e.w0 = w0 ∧ e.w1 = w1 ∧ e.level = v ∧
        e.base ≤ x.toNat / 45 ∧ x.toNat / 45 < e.base + e.lines ∧ e.lines = 3 ^ (fld w0.val 24 22 + 12).toNat ∧
        let ends := u.ptime + 3 ^ (fld w0.val 21 19).toNat * 1000
        e.expires = again.elim ends fun k => min k ends) ∧
    ∃ r : State, exec (.tlbLeaseExpiry core) s = .next r ∧ r = { s with cores := r.cores, dies := r.dies } ∧
      (∀ e ∈ (r.core core).tlb, e ∈ (s.core core).tlb) ∧
      ((∃ e ∈ (s.core core).tlb, e.expires ≤ s.ptime) →
        ∀ e ∈ (s.core core).tlb, (e ∈ (r.core core).tlb ↔ s.ptime < e.expires))

/-- R137, R184: REGISTER_WINDOW_WRITE of a scalar or scratchpad word that a squall holds writes the word and nothing else. -/
def Claims.WindowWrites : Prop :=
  ∀ (s : State) (core u i j : Nat) (w : Word) (g : Gust) (b : Squall), core < 243 →
    (winReg (coreIsD core) u = some (.scal i j) → s.gustIn core i = some g →
      exec (.registerWindowWrite core u w) s = .next (s.setGust (g.withS j w))) ∧
    (winReg (coreIsD core) u = some (.scratch i) → s.holderOf core Bases.scratch Alloc.scratch i = some b →
      exec (.registerWindowWrite core u w) s =
        .next (s.setSquall { b with scratch := writeAt Claims.zeroAt b.scratch (i - b.bases.scratch) w }))

/-- R137, R237 to R243, R282, R302 to R306: the steps of the caches, the walkers and the window. -/
def Obligations.CacheSteps : Prop :=
  Claims.HomeSteps ∧ Claims.L1Steps ∧ Claims.TranslationSteps ∧ Claims.WindowWrites

/-- A machine-check record that no instruction raised: class 2, the cause, the address in the detail word and the PCs −1
(R397). -/
def Claims.IsCheck (r : Rec) (cause addr : Int) : Prop :=
  r.length = 9 ∧ fld (r.getD 0 Word.zero).val 26 24 = 2 ∧ fld (r.getD 0 Word.zero).val 23 18 = cause ∧
  (r.getD 1 Word.zero).val = -1 ∧ (r.getD 2 Word.zero).val = -1 ∧ r.getD 4 Word.zero = Word.ofInt addr

/-- R306, R414, R417, R420, R425, R427: PTIME counts up by one, once no access is on its way whose copy's lease ends with that tick;
the cores of every die see the tick, and what waits on a page is tried again. PACKAGE_TIME_STOPPED of a die that has seen no tick for
729 of its cycles ends every front, and the physical function reports it (a rim die's cycles are not in the state, which is the
model's choice: log entry 83). REQUEST_TIMEOUT of a request that has stood unanswered for its limit, a failed host completion and a
remote write unanswered for 2,187,000 ticks are machine checks; directory traffic that has not come poisons its sectors (log entry
84). ZARGEN_ACK answers its transaction. One copy of package time stands for the dies' (log entry 13). -/
def Claims.TimeSteps : Prop :=
  ∀ (s : State) (die ctx line seq : Nat) (qs : List Nat) (o : Outstanding) (x : Nat × Rec × Int)
    (y : Nat × Nat × WLoc × Nat × Rec),
    (let held : Prop := (∃ g ∈ s.gusts, (∃ l ∈ g.loads, l.lost = false ∧ l.lease ≤ s.ptime + 1) ∨
         ∃ a ∈ g.atoms, a.lost = false ∧ a.lease ≤ s.ptime + 1) ∨
       (∃ m, Instr.homeApplyWrite m ∈ s.flight ∧ m.lease ≤ s.ptime + 1 ∧ s.joined m.die m.loc = true) ∨
       ∃ m, Instr.latchRequest m ∈ s.flight ∧ m.lease ≤ s.ptime + 1 ∧ s.joined m.die (.dev m.line) = true
     (held → exec .ptimeTick s = .next s) ∧
     (¬ held → ∃ t : State, exec .ptimeTick s = .next t ∧ t.ptime = s.ptime + 1 ∧
       (s.deferred = [] → s.hand = [] → (∀ f ∈ s.fronts, f.ending = none) → (∀ g ∈ s.graphs, g.ending = none) →
         t = { s with ptime := s.ptime + 1, cores := s.cores.map fun c => { c with quiet := 0 } }))) ∧
    (let silent : Prop := 9 ≤ die ∨ ∃ k, k < 27 ∧ 729 ≤ (s.core (27 * die + k)).quiet
     (¬ silent → exec (.packageTimeStopped die) s = .next s) ∧
     (silent → die < 12 → (∀ f ∈ s.fronts, f.ctx < 27) → ∃ t : State, exec (.packageTimeStopped die) s = .next t ∧ t.stopped = true ∧
      (∀ x ∈ t.fronts, x.ending ≠ none) ∧ t.out.getLast? = some (.aer .pf true))) ∧
    (∃ t : State, exec (.requestTimeout (.directory line qs)) s = .next t ∧ t = { s with dies := t.dies, poison := t.poison } ∧
      ∀ k ∈ qs, (∃ d st, Instr.invalidation d line k st ∈ s.flight) → t.poisoned line k = true) ∧
    (ctx < 27 → ((∀ z ∈ s.overdue, z.1 ≠ ctx) → exec (.requestTimeout (.ctx ctx)) s = .next s) ∧
      (s.overdue.find? (fun z => z.1 == ctx) = some x → exec (.requestTimeout (.ctx ctx)) s = .next
        (({ s with lostReqs := s.lostReqs.filter fun z => z.ctx != ctx } : State).keptCheck ctx (-5) x.2.2 x.2.1))) ∧
    (∀ (g : Gust) (q : Squall) (l : PendLoad) (z : Nat × WLoc × Word) (p : Nat), g ∈ s.gusts → s.squall? g.ref.sq = some q →
      l ∈ g.loads → z ∈ l.items → z.2.1.loc = .dev p → homeDie p ≠ dieOf q.core → l.sentAt + 243000 ≤ s.ptime →
      (q.ctx, l.words, z.2.1.phys) ∈ s.overdue) ∧
    (∀ (u : State) (words : Rec), (words = [] → ∃ r, Claims.IsCheck r (-5) 0 ∧ u.keptCheck ctx (-5) 0 words = u.machineCheck ctx r) ∧
      (words ≠ [] → ∃ r, u.keptCheck ctx (-5) 0 words = u.machineCheck ctx r ∧ fld (r.getD 0 Word.zero).val 23 18 = -5)) ∧
    (ctx < 27 → die < 12 → exec (.hostCompletion ctx die line true) s = .next s ∧
      ((∀ z ∈ s.openRequests, z.1 = ctx → z.2.2.1.loc ≠ .host line) →
        ∃ r, Claims.IsCheck r (-2) 0 ∧ exec (.hostCompletion ctx die line false) s = .next (s.machineCheck ctx r)) ∧
      (s.openRequests.find? (fun z => z.1 == ctx && z.2.2.1.loc == .host line) = some y →
        exec (.hostCompletion ctx die line false) s = .next (s.keptCheck ctx (-2) 0 y.2.2.2.2))) ∧
    ((s.outstanding.find? fun x => x.seq == seq) = some o →
      let u : State := { s with outstanding := s.outstanding.filter fun x => x.seq != seq }
      (∀ w, o.who = some w → exec (.zargenAck seq) s =
        .next (u.onGust w fun (g : Gust) => { g with unacked := g.unacked - 1 })) ∧
      (s.ptime < o.at_ + 2187000 → exec (.zargenTimeout seq) s = .next s) ∧
      (o.at_ + 2187000 ≤ s.ptime → o.who = none → ∃ r, Claims.IsCheck r (-5) 0 ∧
        exec (.zargenTimeout seq) s = .next (u.machineCheck o.ctx r)) ∧
      (o.at_ + 2187000 ≤ s.ptime → o.who.isSome = true →
        exec (.zargenTimeout seq) s = .next (u.machineCheck o.ctx (o.words.set 5 (Word.ofNat s.ptime)))))

/-- R248, R414, R422 to R425, R431: a packet for another device changes what that device's memory holds, and one for no line of a
device changes nothing. A write of another device changes the word at its home and is acknowledged, one whose data is poisoned
poisons the sector; a read and an atomic answer with the old word, and the atomic leaves the new one (rim die 0 serves them: log entry
81). Lost data is a machine check of cause −1, of the access that awaited it; a lost write or directory message poisons its sectors;
a lost request stays unanswered; replayed flits and packets are counted. (Which of the accesses loses its message is a free choice; what an
answer within a step loses names no instruction: log entry 84.) -/
def Claims.PortSteps : Prop :=
  ∀ (s : State) (m : ZPacket) (h : HomeLine) (ws : List Word) (ctx line d : Nat) (qs : List Nat) (w : WriteMsg),
    (s.forMe m = false → exec (.zargenRead m) s = .next s ∧
      (s.forOther m = false → exec (.zargenWrite m) s = .next s ∧ exec (.zargenAtomic m) s = .next s) ∧
      (s.forOther m = true → readLine (s.portLine (.remote m.dest m.line)) = .packed ws →
        exec (.zargenWrite m) s = .next (s.setPortLine (.remote m.dest m.line) (packedLine (ws.set m.word m.val))) ∧
        exec (.zargenAtomic m) s = .next ((rmwNew m.op m.ty (ws.getD m.word Word.zero) m.val m.cmp).elim s fun v =>
          s.setPortLine (.remote m.dest m.line) (packedLine (ws.set m.word v))))) ∧
    (s.forMe m = true → m.bad = true → exec (.zargenWrite m) s = .next (s.addPoison m.line [sectorOf m.word])) ∧
    (s.forMe m = true → m.bad = false → s.home? m.line = some h → s.poisoned m.line (sectorOf m.word) = false → s.dies.length = 9 →
      (∀ w, Instr.homeApplyWrite w ∈ s.flight → w.die ≠ 9 ∨ w.loc ≠ .dev m.line) →
      let old := h.words.getD m.word Word.zero
      (∃ (t : State) (x : HomeLine), exec (.zargenWrite m) s = .next t ∧ t.home? m.line = some x ∧
        x.words = h.words.set m.word m.val ∧ t.out = s.out ++ [.zargen { m with dest := m.src, src := m.dest }]) ∧
      (h.noted = [] → h.bad = [] →
        (∃ t : State, exec (.zargenRead m) s = .next t ∧
          t.out = s.out ++ [.zargen { m with dest := m.src, src := m.dest, val := old }]) ∧
        ∃ (t : State) (x : HomeLine), exec (.zargenAtomic m) s = .next t ∧ t.home? m.line = some x ∧
          x.words = ((rmwNew m.op m.ty old m.val m.cmp).elim h.words fun v => h.words.set m.word v) ∧
          t.out = s.out ++ [.zargen { m with dest := m.src, src := m.dest, val := old }])) ∧
    ((∀ z, Instr.latchGrant z ∉ s.flight) →
      ((∀ z ∈ s.openRequests, z.1 ≠ ctx) → ∃ (u : State) (r : Rec), u = { s with dies := u.dies, choice := u.choice } ∧
        Claims.IsCheck r (-1) 0 ∧ exec (.ucieFlitLost (.data ctx)) s = .next (u.machineCheck ctx r)) ∧
      ((∃ z ∈ s.openRequests, z.1 = ctx) → ∃ (u : State) (z : Nat × Nat × WLoc × Nat × Rec),
        u = { s with dies := u.dies, choice := u.choice } ∧ z ∈ s.openRequests ∧ z.1 = ctx ∧
        exec (.ucieFlitLost (.data ctx)) s = .next (u.keptCheck ctx (-1) z.2.2.1.phys z.2.2.2.2))) ∧
    (∃ t : State, exec (.ucieFlitLost (.write line qs)) s = .next t ∧ (∀ k ∈ qs, t.poisoned line k = true) ∧
      (s.flight.find? (writeTo line qs) = some (.homeApplyWrite w) → t.flight = s.flight.erase (.homeApplyWrite w))) ∧
    (∃ t : State, exec (.ucieFlitLost (.directory line qs)) s = .next t ∧ t = { s with dies := t.dies, poison := t.poison } ∧
      ∀ k ∈ qs, t.poisoned line k = true) ∧
    (∃ t : State, exec (.ucieFlitLost (.request ctx)) s = .next t ∧
      t = { s with dies := t.dies, choice := t.choice, gusts := t.gusts, flight := t.flight, lostReqs := t.lostReqs }) ∧
    (d < 9 → exec (.ucieFlitLost (.recovered d)) s =
      .next (s.onDie d fun x => { x with counters := x.counters.modify 2 countUp })) ∧
    (d < 3 → exec (.ucieFlitLost (.packet d)) s =
      .next { s with rimCounters := s.rimCounters.modify d fun c => c.modify 8 countUp })

/-- R428, R429, R458: before bring-up a host read is unsupported; after it a read of sound bytes within a line gives them, and a
read of BOOTST its four bytes. A whole-line write with a valid tag replaces the line and clears its poison; one that breaks the
form's conditions is dropped and reported. (BAR2 stands at 2^40 of these addresses: the model's layout, log entry 33.) -/
def Claims.HostSteps : Prop :=
  ∀ (s u : State) (line first n : Nat) (bs : List Nat) (bytes : List (BitVec 8)), line < Config.deviceLines → first + n ≤ 256 → 0 < n →
    (s.boot.bootst ≠ 2 → exec (.hostRead .pf (256 * line + first) n) s = .next (s.emit (.readUnsupported .pf))) ∧
    (s.boot.bootst = 2 → (∀ e ∈ s.poison, e.1 ≠ line) → (∀ h, s.home? line = some h → h.bad = []) →
      s.readLineAt 9 (.dev line) = (bs, u) → (∀ c, readLine bs ≠ .broken c) →
      exec (.hostRead .pf (256 * line + first) n) s = .next (u.emit (.readDone .pf
        (((bs.map (BitVec.ofNat 8)).drop first).take n)))) ∧
    (s.boot.bootst < 2 ^ 32 → exec (.hostRead .pf (2 ^ 40 + 16) 4) s = .next (s.emit (.readDone .pf
      ((List.range 4).map fun i => BitVec.ofNat 8 (s.boot.bootst / 256 ^ i))))) ∧
    (s.boot.bootst = 2 → bytes.length = 256 → s.home? line = none → canonical hbmDefault s.hbm = true →
      (∀ w, Instr.homeApplyWrite w ∈ s.flight → w.die ≠ 9 ∨ w.loc ≠ .dev line) →
      let bs := bytes.map BitVec.toNat
      let sound : Prop := bs.getD 243 0 = 1 ∨ bs.getD 243 0 = 0 ∧ ∀ k, k < 243 → bs.getD k 0 ≤ 242
      (sound → ∃ t : State, exec (.hostWrite .pf (256 * line) bytes) s = .next t ∧
        t.hbmLine line = shellLine (bs.getD 243 0) (bs.take 243) ∧ (∀ e ∈ t.poison, e.1 ≠ line)) ∧
      (¬ sound → exec (.hostWrite .pf (256 * line) bytes) s = .next (s.emit (.aer .pf false))))

/-- R414 to R429: package time, the links and the ports. -/
def Obligations.LinkSteps : Prop := Claims.TimeSteps ∧ Claims.PortSteps ∧ Claims.HostSteps

/-- R436 to R438: a debug command acts on a gust in the state it asks for and is then zero; in any other state it is refused,
which leaves −1. DEBUG_STOP stops a running gust, DEBUG_RESUME lets a stopped one run, DEBUG_HOLD exchanges the stopped path
with the path entry on top, held from then on, and DEBUG_RELEASE takes every hold away. (What a stop does in a handler, and to a gust
that waits: log entry 55.) -/
def Claims.DebugSteps : Prop :=
  ∀ (s : State) (g : Gust) (q : Squall) (e : StackEntry) (rest : List StackEntry), s.gust? g.ref = some g →
    s.squall? g.ref.sq = some q → s.traceOn q.ctx = false → g.sreg.length = 81 →
    let code := fld g.dbgCmd.val 26 24
    let refused := fun (i : Instr) => ∃ t : State, exec i s = .next t ∧ t.gust? g.ref = some { g with dbgCmd := Word.ofInt (-1) }
    (code = 1 → g.status = .running → ∃ t : State, exec (.debugStop g.ref) s = .next t ∧
      t.gust? g.ref = some
        { g with dbgCmd := Word.zero, status := .stopped, trapActive := false, issued := false, packet := none }) ∧
    (code = 1 → g.status = .stopped → refused (.debugStop g.ref)) ∧
    (code = 2 → g.status = .stopped → g.mask.has 1 = true → ∃ t : State, exec (.debugResume g.ref) s = .next t ∧
      t.gust? g.ref = some { g with dbgCmd := Word.zero, status := .running }) ∧
    (code = 2 → g.status ≠ .stopped → refused (.debugResume g.ref)) ∧
    (code = 3 → g.status = .stopped → g.stack = e :: rest → e.kind = .minus → e.mask.has 1 = true →
      ∃ t : State, exec (.debugHold g.ref) s = .next t ∧ t.gust? g.ref = some ({ g with
        dbgCmd := Word.zero, status := .running, pc := e.pc, packet := none, sent := false,
        stack := { e with hold := true, pc := g.pc, mask := g.mask } :: rest }.withMask e.mask)) ∧
    (code = 3 → g.status ≠ .stopped ∨ (∀ k ∈ g.stack.head?, k.kind ≠ .minus) → refused (.debugHold g.ref)) ∧
    (code = 4 → (∃ k ∈ g.stack, k.hold = true) → ∃ t : State, exec (.debugRelease g.ref) s = .next t ∧
      t.gust? g.ref = some { g with dbgCmd := Word.zero, stack := g.stack.map fun k => { k with hold := false } }) ∧
    (code = 4 → (∀ k ∈ g.stack, k.hold = false) → refused (.debugRelease g.ref)) ∧
    (code ≠ 1 → exec (.debugStop g.ref) s = .next s) ∧ (code ≠ 2 → exec (.debugResume g.ref) s = .next s) ∧
    (code ≠ 3 → exec (.debugHold g.ref) s = .next s) ∧ (code ≠ 4 → exec (.debugRelease g.ref) s = .next s)

/-- R457 to R463: RESET leaves the state after reset, but for what lies outside the device. BOOTGO of 1 starts one check of the image as
it stands, the check runs sound firmware or fails BOOTST, the end of bring-up clears memory and the on-chip words and sets BOOTST to 2, or
fails it on settings outside their limits. Running firmware attests a 32-byte nonce. A request for D3hot is done at once, D3hot comes once
the device is idle, D0 keeps the state, and D3cold is a reset without power. (The signatures are free functions, log entry 10; the reset
values that the spec does not give are the model's, log entry 12.) -/
def Claims.BootSteps : Prop :=
  ∀ (s : State) (v : Nat) (nonce : List (BitVec 8)),
    (∃ t : State, exec .reset s = .next t ∧ t = { State.reset with
        hostMem := s.hostMem, peers := s.peers, unreached := s.unreached, flash := s.flash, inputs := s.inputs, out := s.out, choice := s.choice,
        freeCtr := s.freeCtr, serial := s.serial } ∧
      exec .d3coldEntry s = .next { t with boot := { t.boot with bootst := 0, power := .d3cold } }) ∧
    (exec (.bootgo v) s = .next (if v = 1 ∧ s.boot.bootst = 1 ∧ s.boot.checking = false ∧ s.boot.running = false
      then { s with boot := { s.boot with checking := true, rom := s.boot.image } } else s)) ∧
    (s.boot.checking = true → exec .firmwareCheck s = .next { s with boot := { s.boot with
        checking := false, running := s.boot.running || Config.signatureOk (bytesOf s.boot.rom),
        bootst := if Config.signatureOk (bytesOf s.boot.rom) then s.boot.bootst else 4294967295 } }) ∧
    (s.boot.running = true → nonce.length = 32 → exec (.attestation nonce) s = .next (s.emit (.attested
      (Config.attestationSignature nonce (bytesOf s.boot.rom) (bytesOf s.boot.config))))) ∧
    (s.boot.running = true → s.boot.bootst = 1 → ∀ dev ctrls limit, Config.configSettings s.boot.config = (dev, ctrls, limit) →
      exec .bringUpComplete s = .next (
        let watts := limit.getD 2200
        let t : State := { s with
          hbm := [], homes := [], poison := [], portPoison := [], secClocks := [],
          cores := s.cores.map (fun (c : Core) => { c with free := [], isp := [] }),
          dies := s.dies.map fun (d : Die) => { d with l1 := [], near := [] } }
        if dev ≤ 2186 ∧ ctrls.length ≤ 27 ∧ (∀ k ∈ ctrls, k ≤ 26) ∧ 600 ≤ watts ∧ watts ≤ 2200
        then { t with boot := { s.boot with bootst := 2, device := dev, controllers := ctrls, watts } }
        else { t with boot := { s.boot with bootst := 4294967295 } })) ∧
    (s.boot.power = .d0 → exec .d3hotRequest s =
      .next (({ s with boot := { s.boot with power := .d3hotWanted } } : State).emit .powerDone)) ∧
    (s.boot.power = .d3hotWanted → (s.fronts = [] → s.allCmds = [] → s.pagingWait = [] → (∀ c ∈ s.cores, c.acceptQ = []) →
        exec .d3hotEnter s = .next { s with boot := { s.boot with power := .d3hot } }) ∧
      (s.fronts ≠ [] → exec .d3hotEnter s = .next s)) ∧
    (s.boot.power = .d3hot → exec .d0Return s = .next { s with boot := { s.boot with power := .d0 } })

/-- R446, R451 to R454: MODULE_LOAD before bring-up, of a container with a line that is not packed, that breaks the header of R446 or that
the loader refuses, and of one that does not fit is refused whole; another is installed. Installing one image of one segment gives it a
number no other image has, and on every core of its kind a free entry of the segment table, whose range of the instruction scratchpad
holds its code; it is privileged only where the physical function asks for it (R394). MODULE_UNLOAD takes the image and its segments away,
and is refused while a live front names it. (The first fit is the model's choice, log entry 11, and so is that no module loads before
bring-up, log entry 55.) -/
def Claims.ModuleSteps : Prop :=
  ∀ (s : State) (m : ModuleLoad) (ws : List Word) (p : LoadPlan) (i : LaidImage) (first : Nat) (code : List Syllables) (n : Nat),
    (s.boot.bootst ≠ 2 → exec (.moduleLoad m) s = .next (s.emit .loadRefused)) ∧
    (s.boot.bootst = 2 →
      ((∃ l ∈ m.code, l.length ≠ 256 ∨ ∀ x, readLine (l.map BitVec.toNat) ≠ .packed x) →
        exec (.moduleLoad m) s = .next (s.emit .loadRefused)) ∧
      (containerWords m.code = some ws → let w := fun (k : Nat) => (ws.getD k Word.zero).val
       w 0 ≠ 122640 ∨ w 2 < 1 ∨ 729 < w 2 ∨ w 3 < 1 ∨ 19683 < w 3 ∨ w 4 ≠ Int.ofNat ws.length ∨ ws.length % 45 ≠ 0 ∨
         (∃ k, 5 ≤ k ∧ k < 45 ∧ w k ≠ 0) → exec (.moduleLoad m) s = .next (s.emit .loadRefused)) ∧
      (loadPlan m = none → exec (.moduleLoad m) s = .next (s.emit .loadRefused)) ∧
      (loadPlan m = some p → s.install m p = none → exec (.moduleLoad m) s = .next (s.emit .loadRefused)) ∧
      ∀ t, loadPlan m = some p → s.install m p = some t → exec (.moduleLoad m) s = .next t) ∧
    (p.images = [i] → p.writes = [] → p.tables = [] → i.segs = [(first, code)] → i.lazies = [] → s.cores.length = 243 →
      s.images.length < 9841 →
      (∀ c, c < 243 → canonical Claims.zeroAt (s.core c).isp = true ∧
        (∃ e : Nat, (s.core c).segs[e]? = some none) ∧ (firstFit (segRuns (s.core c)) Config.codePerCore code.length).isSome = true) →
      ∃ (t : State) (k : Nat), s.install m p = some t ∧
        t.out = s.out ++ [.loaded [(if i.isD then 0 else k, if i.isD then k else 0)] p.data [] p.xref] ∧ 1 ≤ k ∧ k ≤ 9841 ∧
        (∀ x ∈ s.images, x.num ≠ k) ∧ t.images = s.images ++
          [{ num := k, ctx := m.ctx, isD := i.isD, priv := m.priv && m.fn == .pf, dir := i.dir }] ∧
        ∀ c, c < 243 → coreIsD c = i.isD → ∃ (e : Nat) (g : Seg), (s.core c).segs[e]? = some none ∧
          (t.core c).segs[e]? = some (some g) ∧ g.image = k ∧ g.first = Int.ofNat first ∧ g.count = code.length ∧
          g.pending = false ∧ g.reserved = false ∧ ∀ j x, code[j]? = some x →
            readAt Claims.zeroAt (t.core c).isp (3 * (g.index + j)) = x.s0 ∧
            readAt Claims.zeroAt (t.core c).isp (3 * (g.index + j) + 1) = x.s1 ∧
            readAt Claims.zeroAt (t.core c).isp (3 * (g.index + j) + 2) = x.s2) ∧
    ((∃ f ∈ s.fronts, f.spec.imgL = n ∨ f.spec.imgD = n) → exec (.moduleUnload n) s = .next (s.emit .unloadRefused)) ∧
    ((∀ f ∈ s.fronts, f.spec.imgL ≠ n ∧ f.spec.imgD ≠ n) → ∃ t : State, exec (.moduleUnload n) s = .next t ∧
      t = { s with images := t.images, cores := t.cores } ∧ (∀ x, x ∈ t.images ↔ x ∈ s.images ∧ x.num ≠ n) ∧
      ∀ (c e : Nat), (t.core c).segs[e]? = ((s.core c).segs[e]?).map fun (x : Option Seg) => if x.any (fun g => g.image == n) then none else x)

/-- R53, R414: one wrong trit of a word is corrected and counted; two in a home word make it uncorrectable, so that a read of it is a
machine check of cause −1. -/
def Claims.SoftErrorSteps : Prop :=
  ∀ (s : State) (p : SoftPlace) (line k : Nat) (h : HomeLine),
    exec (.softError p 1) s = .next (s.onDie (softDie p) fun d => { d with counters := d.counters.modify 1 countUp }) ∧
    (s.home? line = some h → k < 45 → ∃ (t : State) (x : HomeLine), exec (.softError (.home line k) 2) s = .next t ∧
      t = { s with homes := t.homes } ∧ t.home? line = some x ∧ k ∈ x.bad ∧ x = { h with bad := x.bad } ∧
      (s.poisoned line (sectorOf k) = false → s.dies.length = 9 →
        (∀ m, Instr.homeApplyWrite m ∈ s.flight → m.loc ≠ .dev line) → (t.readHome 9 ⟨.dev line, k⟩).1 = .error (-1)))

/-- R53, R436 to R438, R452 to R463: debugging, bring-up, power, loading and soft errors. -/
def Obligations.DeviceSteps : Prop := Claims.DebugSteps ∧ Claims.BootSteps ∧ Claims.ModuleSteps ∧ Claims.SoftErrorSteps

/-- The state in which the issuing gust's instruction is counted, once (R382, R431). -/
def Claims.counted (s : State) (g : Gust) (q : Squall) : State :=
  if g.issued then s else (s.onCore q.core fun c => { c with counters := c.counters.modify 2 countUp }).onGust g.ref
    fun h => { h with issued := true, kcount := countUp h.kcount }

/-- The gust as it is counted. -/
def Claims.countedGust (g : Gust) : Gust := if g.issued then g else { g with issued := true, kcount := countUp g.kcount }

/-- The three syllables that stand at an index of a core's instruction scratchpad (R54). -/
def Claims.syllables (s : State) (core k : Nat) : Syllables :=
  ⟨readAt Claims.zeroAt (s.core core).isp (3 * k), readAt Claims.zeroAt (s.core core).isp (3 * k + 1),
   readAt Claims.zeroAt (s.core core).isp (3 * k + 2)⟩

/-- The state after a fault of the issuing gust before its instruction has any effect (R80, R400): `op` is the op field, zero
where nothing was fetched. -/
def Claims.refusedAt (s : State) (g : Gust) (q : Squall) (op cause step detail : Int) : State :=
  let u : State := { Claims.counted s g q with op }
  let h := Claims.countedGust g
  { (u.setGust (Claims.trappedGust h (some (u.mkRec h 4 cause step (-1) detail)) h.pc)).trace g.ref 3 cause with cur := none }

/-- R54, R56, R76, R79, R80, R337: the step of a gust of an L-layout image that issues: the three syllables that its segment table gives
for the PC decode to the instruction that the step executes, with the instruction counted and its op field noted, and nothing else
changed. A word that does not decode raises "illegal instruction" (1) with the step of R79 that failed, a register beyond the allotment
"resource" (2) with step 7 (which one the detail names: log entry 67), a PC that no entry covers "segment fault" (77). A register that a
result on its way still has to write holds the gust up. -/
def Claims.FetchAndRun : Prop :=
  ∀ (s : State) (g : Gust) (q : Squall), s.Issuing g q → q.isD = false → g.oldCode = [] →
    (∀ k i, s.codeIndex q.core q.image g.pc = .ok k → decode (Claims.syllables s q.core k) = .ok i →
      q.alloc.firstOut i.uses = none →
      let op := fld (Claims.syllables s q.core k).s2.val 26 21
      (g.blocksOn i.uses = false →
        step s = exec i { Claims.counted s g q with op }) ∧
      (g.blocksOn i.uses = true →
        step s = .next { Claims.counted s g q with op, cur := none })) ∧
    (∀ k n, s.codeIndex q.core q.image g.pc = .ok k → decode (Claims.syllables s q.core k) = .bad n → Claims.Handles g q →
      step s = .next (Claims.refusedAt s g q (fld (Claims.syllables s q.core k).s2.val 26 21) 1 (Int.ofNat n) 0)) ∧
    (∀ k i n, s.codeIndex q.core q.image g.pc = .ok k → decode (Claims.syllables s q.core k) = .ok i →
      q.alloc.firstOut i.uses = some n → Claims.Handles g q →
      step s = .next (Claims.refusedAt s g q (fld (Claims.syllables s q.core k).s2.val 26 21) 2 7 (Int.ofNat n))) ∧
    (∀ c, s.codeIndex q.core q.image g.pc = .error c → Claims.Handles g q →
      step s = .next (Claims.refusedAt s g q 0 c 0 0))

/-- R77, R78, R79: a gust of a D-layout image takes its instruction from the slot of the packet it has fetched, and a form that
its slot forbids raises "illegal instruction" with step 6. -/
def Claims.PacketSlots : Prop :=
  ∀ (s : State) (g : Gust) (q : Squall) (ws : List Syllables) (x : Syllables) (i : Instr), s.Issuing g q → q.isD = true →
    g.packet = some (g.pc - g.pc % 3, ws) → ws[(g.pc % 3).toNat]? = some x → decode x = .ok i →
    (i.slotOk true g.pc = true → q.alloc.firstOut i.uses = none → g.blocksOn i.uses = false →
      step s = exec i { Claims.counted s g q with op := fld x.s2.val 26 21 }) ∧
    (i.slotOk true g.pc = false → Claims.Handles g q →
      step s = .next (Claims.refusedAt s g q (fld x.s2.val 26 21) 1 6 0))

/-- With no gust issuing, the step is that of the act that the free choice names: the act leaves the list it came from, and its
meaning follows (log entry 3: the choice is the model's). -/
def Claims.ActRuns : Prop :=
  ∀ (s : State) (a : Act), s.cur = none → s.ready[(s.pick s.ready.length).1]? = some a → s.boot.power ≠ .d3cold →
    a.act.fields = none → step s = exec a.act ((s.pick s.ready.length).2.take a)

/-- R54, R56, R76 to R80, R337: a step runs the instruction that the bytes at the program counter decode to. -/
def Obligations.StepRunsDecoded : Prop := Claims.FetchAndRun ∧ Claims.PacketSlots ∧ Claims.ActRuns

/-- R54 to R72, R79: decoding of an encoded well-formed instruction gives the instruction back, with every operand at every value
that the encoding admits. -/
def Obligations.DecodeEncodeRoundTrip : Prop :=
  ∀ i : Instr, i.wf = true → ∃ x, encode i = some x ∧ decode x = .ok i

/-- R79: a word decodes to no instruction but a well-formed one, and one whose encoding is the word. -/
def Obligations.DecodedIsWellFormed : Prop :=
  ∀ (x : Syllables) (i : Instr), decode x = .ok i → i.wf = true ∧ encode i = some x

/-- HBM4, host memory, the other devices' memory and storage keep their canonical form in every step: addresses strictly rise and
no entry equals what an unlisted address reads as (the model's own form of memory, log entry 5). -/
def Obligations.MemoryCanonicalInvariant : Prop :=
  ∀ s t : State, Memory.wf s = true → step s = .next t → Memory.wf t = true

/-- R355, R417, R430, R457: after reset the memories are in their canonical form, nothing is resident or on its way, PTIME is 0,
BOOTST is 1, front numbers start at 1, and XDBG and every counter are 0. (The form of the memories is log entry 5, and the values the spec
does not give are log entry 12.) -/
def Obligations.ResetState : Prop :=
  let s := State.reset
  Memory.wf s = true ∧ s.ptime = 0 ∧ s.boot.bootst = 1 ∧ s.nextFront = 1 ∧ s.gusts = [] ∧ s.squalls = [] ∧ s.fronts = [] ∧
  s.homes = [] ∧ s.flight = [] ∧ s.deferred = [] ∧ s.sysWaits = [] ∧ s.secClocks = [] ∧ s.cores.length = 243 ∧ s.dies.length = 9 ∧ s.contexts.length = 27 ∧
  (∀ c ∈ s.contexts, c.xdbg = Word.zero) ∧ (∀ c ∈ s.cores, ∀ n ∈ c.snap ++ c.counters, n = 0) ∧
  ∀ d ∈ s.dies, ∀ n ∈ d.snap ++ d.counters, n = 0

/-- No step is refused: every instruction that a gust reaches and every act has a meaning, in every state. -/
def Obligations.StepNeverRefuses : Prop := ∀ (s : State) (r : Refusal), step s ≠ .refused r

/-- An instruction word written field by field, op mod guard hint d a b imm, and in each field trit by trit, the highest trit
first (R54, R55). -/
def Claims.word (op mod guard hint d a b imm : List Int) : Syllables :=
  Syllables.ofInt ((op ++ mod ++ guard ++ hint ++ d ++ a ++ b ++ imm).foldl (fun x t => 3 * x + t) 0)

/-- Zero trits. -/
def Claims.zeros (n : Nat) : List Int := List.replicate n 0

/-- R56 to R72 and the opcode table: words written out from the encodings of NOP, BRP, SPLIT, ADD, MOVI, LDP, ATOM and MPOINT
decode to those instructions. -/
def Obligations.DecodeWords : Prop :=
  decode (Claims.word (Claims.zeros 6) (Claims.zeros 6) (Claims.zeros 4) (Claims.zeros 5) (Claims.zeros 7)
    (Claims.zeros 7) (Claims.zeros 7) (Claims.zeros 39)) =
    .ok (.nop ⟨0, 0⟩) ∧
  decode (Claims.word [0, 0, 0, 0, 1, -1] (Claims.zeros 6) (Claims.zeros 4) (Claims.zeros 5) [0, 0, 0, 0, 0,
    0, 1] [-1, -1, -1, -1, -1, 0, 0] (Claims.zeros 7) (Claims.zeros 36 ++ [-1, 1, -1])) =
    .ok (.brp ⟨0, 0⟩ .all 4 (-7)) ∧
  decode (Claims.word [0, 0, 0, 0, 1, 1] (Claims.zeros 6) (Claims.zeros 4) (Claims.zeros 5) (Claims.zeros 7)
    [-1, -1, -1, -1, -1, -1, 1] (Claims.zeros 7) (Claims.zeros 17 ++ [1, 0, 0, 0, 0, 0, 0, 0, 0, 0, 0, 0, 0, 0,
    0, 0, 0, 0, 0, 0, -1] ++ Claims.zeros 1)) =
    .ok (.split ⟨0, 0⟩ 2 9 (-3)) ∧
  decode (Claims.word [0, 0, 1, 0, 0, 1] [0, 0, 1, 0, -1, 1] [0, 0, -1, 1] (Claims.zeros 5) [-1, -1, -1, -1,
    -1, 0, 1] [-1, -1, -1, -1, -1, 1, 0] [-1, -1, -1, -1, -1, 0, -1] (Claims.zeros 39)) =
    .ok (.add ⟨-2, 0⟩ { ty := .i9, sh := .vs, var := .plus, d := 5, a := 7, b := 3, imm := 0 }) ∧
  decode (Claims.word [0, 1, 0, 0, 1, -1] [0, 0, 0, 1, -1, 0] (Claims.zeros 4) [1, 0, 0, 0, 0] [-1, -1, -1,
    -1, -1, -1, 1] (Claims.zeros 7) (Claims.zeros 7) (Claims.zeros 34 ++ [1, 1, -1, 0, 1])) =
    .ok (.movi ⟨0, 81⟩ { ty := .i27, sh := .vi, var := .zero, d := 2, a := 0, b := 0, imm := 100 }) ∧
  decode (Claims.word [1, -1, 1, 0, 0, 1] [0, 1, -1, 1, 0, 0] (Claims.zeros 4) (Claims.zeros 5) [-1, -1, -1,
    -1, -1, 1, -1] [-1, -1, -1, -1, -1, 0, 0] (Claims.zeros 7) ([1, 0, 0, 0, 0, 0, 0, 0, 0, 0, 0, 0, 0, 0, 0, 0,
    0, 0, 0, 0, 0, 0, 0, 0, 0, 0, 0, 0, 0, 0, 0, 0, 0, 0, 0, 0, 1, 1] ++ Claims.zeros 1)) =
    .ok (.ldp ⟨0, 0⟩ { ord := .acq, scope := .sq, ev := 0, space := .p, bc := .vector, d := 6, a := 4, b := 0, off := 12 }) ∧
  decode (Claims.word [1, 0, 1, 1, -1, -1] (Claims.zeros 6) (Claims.zeros 4) (Claims.zeros 5) [-1, -1, -1, -1,
    -1, -1, 0] [-1, -1, -1, -1, -1, -1, 1] [-1, -1, -1, -1, -1, 0, -1] (Claims.zeros 1 ++ [1, 0, 0, 0, 1, 0, 0,
    0, 1] ++ Claims.zeros 29)) =
    .ok (.atom ⟨0, 0⟩ .add .i27 true { ord := .rlx, scope := .dv, ev := 0, space := .g, bc := .scalar, d := 1, a := 2, b := 3, off := 0 }) ∧
  decode (Claims.word [1, 1, 0, 0, 1, 1] (Claims.zeros 6) (Claims.zeros 4) (Claims.zeros 5) (Claims.zeros 7)
    (Claims.zeros 7) (Claims.zeros 7) (Claims.zeros 32 ++ [1] ++ Claims.zeros 6)) =
    .ok (.mpoint ⟨0, 0⟩ 729)
end

