-- ==== Sys2Proof/Laws/Memory.lean ====
section
/-! SUPPORT. The canonical form of memory: every operation keeps it, a read after a write gives the value written, and a
write leaves every other key alone. -/

namespace Sys2Proof.Machine

variable {α : Type}

/-- Every key of a map lies above `k`. -/
def Above (k : Nat) (m : List (Nat × α)) : Prop := ∀ e ∈ m, k < e.1

theorem rising_cons (k : Nat) (v : α) (m : List (Nat × α)) :
    rising ((k, v) :: m) = true ↔ Above k m ∧ rising m = true := by
  induction m generalizing k v with
  | nil => simp [rising, Above]
  | cons e t ih =>
    obtain ⟨a, b⟩ := e
    have h := ih a b
    simp only [rising, Bool.and_eq_true, decide_eq_true_eq, Above, List.mem_cons, forall_eq_or_imp]
    refine ⟨fun ⟨hk, hr⟩ => ⟨⟨hk, fun e he => lt_trans hk ((h.1 hr).1 e he)⟩, hr⟩, fun ⟨⟨hk, _⟩, hr⟩ => ⟨hk, hr⟩⟩

theorem lookupAt_of_above {m : List (Nat × α)} {k j : Nat} (h : Above k m) (hj : j ≤ k) : lookupAt m j = none := by
  induction m with
  | nil => rfl
  | cons e t ih =>
    obtain ⟨a, b⟩ := e
    have ha : k < a := h (a, b) (by simp)
    simp [lookupAt, show a ≠ j by omega, ih fun e he => h e (by simp [he])]

theorem mem_insertAt {m : List (Nat × α)} {k : Nat} {v : α} {e : Nat × α} (h : e ∈ insertAt m k v) :
    e = (k, v) ∨ e ∈ m := by
  induction m with
  | nil => simpa [insertAt] using h
  | cons x t ih =>
    obtain ⟨a, b⟩ := x
    simp only [insertAt] at h
    split at h
    · simpa using h
    · split at h
      · simp at h; tauto
      · simp only [List.mem_cons] at h ⊢; tauto

theorem mem_eraseAt {m : List (Nat × α)} {k : Nat} {e : Nat × α} (h : e ∈ eraseAt m k) : e ∈ m := by
  induction m with
  | nil => simp [eraseAt] at h
  | cons x t ih =>
    obtain ⟨a, b⟩ := x
    simp only [eraseAt] at h
    split at h
    · simp [h]
    · simp only [List.mem_cons] at h ⊢; tauto

theorem rising_insertAt {m : List (Nat × α)} (h : rising m = true) (k : Nat) (v : α) : rising (insertAt m k v) = true := by
  induction m with
  | nil => rfl
  | cons x t ih =>
    obtain ⟨a, b⟩ := x
    obtain ⟨hab, ht⟩ := (rising_cons a b t).1 h
    simp only [insertAt]
    split
    · refine (rising_cons k v _).2 ⟨?_, h⟩
      rintro e he
      rcases List.mem_cons.1 he with rfl | he
      · assumption
      · have := hab e he; omega
    · split
      · subst_vars; exact (rising_cons _ _ _).2 ⟨hab, ht⟩
      · refine (rising_cons _ _ _).2 ⟨fun e he => ?_, ih ht⟩
        rcases mem_insertAt he with rfl | he
        · show a < k; omega
        · exact hab e he

theorem rising_eraseAt {m : List (Nat × α)} (h : rising m = true) (k : Nat) : rising (eraseAt m k) = true := by
  induction m with
  | nil => rfl
  | cons x t ih =>
    obtain ⟨a, b⟩ := x
    obtain ⟨hab, ht⟩ := (rising_cons a b t).1 h
    simp only [eraseAt]
    split
    · exact ht
    · exact (rising_cons _ _ _).2 ⟨fun e he => hab e (mem_eraseAt he), ih ht⟩

/-- A lookup after an insertion, in any map. -/
theorem lookupAt_insertAt (m : List (Nat × α)) (k j : Nat) (v : α) :
    lookupAt (insertAt m k v) j = if j = k then some v else lookupAt m j := by
  induction m with
  | nil => by_cases h : k = j <;> simp [insertAt, lookupAt, h, eq_comm]
  | cons x t ih =>
    obtain ⟨a, b⟩ := x
    simp only [insertAt]
    split
    · by_cases h : k = j <;> simp [lookupAt, h, eq_comm]
    · split
      · subst_vars
        by_cases h : a = j
        · simp [lookupAt, h]
        · simp [lookupAt, h, Ne.symm h]
      · simp only [lookupAt, ih]
        by_cases h : a = j
        · subst h; simp [*]
        · simp [h]

/-- A lookup after an erasure, in a map whose keys rise. -/
theorem lookupAt_eraseAt {m : List (Nat × α)} (h : rising m = true) (k j : Nat) :
    lookupAt (eraseAt m k) j = if j = k then none else lookupAt m j := by
  induction m with
  | nil => simp [eraseAt, lookupAt]
  | cons x t ih =>
    obtain ⟨a, b⟩ := x
    obtain ⟨hab, ht⟩ := (rising_cons a b t).1 h
    simp only [eraseAt]
    split
    · subst_vars
      by_cases hj : a = j
      · subst hj; simp [lookupAt_of_above hab le_rfl]
      · simp [lookupAt, hj, Ne.symm hj]
    · simp only [lookupAt, ih ht]
      by_cases h : a = j
      · subst h; simp [*]
      · simp [h]

variable [DecidableEq α]

/-- The canonical form, as propositions. -/
theorem canonical_iff (d : Nat → α) (m : List (Nat × α)) :
    canonical d m = true ↔ rising m = true ∧ ∀ e ∈ m, e.2 ≠ d e.1 := by
  simp [canonical]

/-- A write keeps the canonical form. -/
theorem canonical_writeAt {d : Nat → α} {m : List (Nat × α)} (h : canonical d m = true) (k : Nat) (v : α) :
    canonical d (writeAt d m k v) = true := by
  obtain ⟨hr, hd⟩ := (canonical_iff d m).1 h
  unfold writeAt
  split
  · exact (canonical_iff _ _).2 ⟨rising_eraseAt hr k, fun e he => hd e (mem_eraseAt he)⟩
  · refine (canonical_iff _ _).2 ⟨rising_insertAt hr k v, fun e he => ?_⟩
    rcases mem_insertAt he with rfl | he
    · assumption
    · exact hd e he

/-- A read after a write gives the value written, and every other key reads as before. -/
theorem readAt_writeAt {d : Nat → α} {m : List (Nat × α)} (h : rising m = true) (k j : Nat) (v : α) :
    readAt d (writeAt d m k v) j = if j = k then v else readAt d m j := by
  unfold readAt writeAt
  split
  · rw [lookupAt_eraseAt h]; split <;> simp_all
  · rw [lookupAt_insertAt]; split <;> simp

/-- Cells written one after the other keep the canonical form. -/
theorem canonical_writeCells {d : Nat → BitVec 8} {m : List Host.Cell} (h : canonical d m = true) (a : Nat) (bs : List Nat) :
    canonical d (writeCells d m a bs) = true := by
  induction bs generalizing m a with
  | nil => exact h
  | cons b bs ih => exact ih (canonical_writeAt h a _) _

/-- Cells written one after the other change those bytes and no other. -/
theorem readAt_writeCells {d : Nat → BitVec 8} {m : List Host.Cell} (h : canonical d m = true) (a : Nat) (bs : List Nat) (j : Nat) :
    readAt d (writeCells d m a bs) j =
      if a ≤ j ∧ j < a + bs.length then BitVec.ofNat 8 (bs.getD (j - a) 0) else readAt d m j := by
  induction bs generalizing m a with
  | nil => simp [writeCells]
  | cons b bs ih =>
    rw [writeCells, ih (canonical_writeAt h a _), readAt_writeAt ((canonical_iff _ _).1 h).1]
    by_cases hj : j = a
    · subst hj; simp
    · by_cases h1 : a + 1 ≤ j ∧ j < a + 1 + bs.length
      · rw [if_pos h1, if_pos ⟨by omega, by simp; omega⟩, show j - a = (j - (a + 1)) + 1 by omega]; simp
      · rw [if_neg h1, if_neg hj, if_neg]; simp; omega

/-- The canonical form, memory by memory. -/
theorem wf_iff (s : State) : Memory.wf s = true ↔ canonical hbmDefault s.hbm = true ∧ canonical Config.hostByte s.hostMem = true ∧
    canonical (fun _ => []) s.peers = true ∧ (∀ x ∈ s.peers, canonical hbmDefault x.2 = true) ∧
    ∀ x ∈ s.flash, canonical Config.storageByte x.2.2 = true := by
  simp [Memory.wf, and_assoc]

/-- An entry of a written map is the one written or an old one. -/
theorem mem_writeAt {d : Nat → α} {m : List (Nat × α)} {k : Nat} {v : α} {e : Nat × α} (h : e ∈ writeAt d m k v) :
    e = (k, v) ∨ e ∈ m := by
  unfold writeAt at h
  split at h
  · exact .inr (mem_eraseAt h)
  · exact mem_insertAt h

omit [DecidableEq α] in
/-- What a key reads as satisfies whatever the default and every entry satisfy. -/
theorem readAt_of_all {d : Nat → α} {m : List (Nat × α)} {P : α → Prop} (h : ∀ e ∈ m, P e.2) (k : Nat) (h0 : P (d k)) :
    P (readAt d m k) := by
  induction m with
  | nil => exact h0
  | cons e m ih =>
    obtain ⟨a, b⟩ := e
    by_cases hk : a = k
    · simpa [readAt, lookupAt, hk] using h (a, b) (by simp)
    · simpa [readAt, lookupAt, hk] using ih fun e he => h e (by simp [he])

/-- A byte of HBM4 written keeps the canonical form of the memories. -/
theorem wf_setHbmByte {s : State} (h : Memory.wf s = true) (a : Nat) (b : BitVec 8) : Memory.wf (s.setHbmByte a b) = true :=
  have h := (wf_iff s).1 h
  (wf_iff _).2 ⟨canonical_writeAt h.1 a b, h.2⟩

/-- A line of HBM4 written keeps the canonical form of the memories. -/
theorem wf_setHbmLine {s : State} (h : Memory.wf s = true) (p : Nat) (bs : List Nat) : Memory.wf (s.setHbmLine p bs) = true :=
  have h := (wf_iff s).1 h
  (wf_iff _).2 ⟨canonical_writeCells h.1 _ _, h.2⟩

/-- A line of host memory written keeps the canonical form of the memories. -/
theorem wf_setHostLine {s : State} (h : Memory.wf s = true) (p : Nat) (bs : List Nat) :
    Memory.wf (s.setHostLine p bs) = true :=
  have h := (wf_iff s).1 h
  (wf_iff _).2 ⟨h.1, canonical_writeCells h.2.1 _ _, h.2.2⟩

/-- A line behind a rim port written keeps the canonical form of the memories. -/
theorem wf_setPortLine {s : State} (h : Memory.wf s = true) (l : Loc) (bs : List Nat) : Memory.wf (s.setPortLine l bs) = true := by
  cases l with
  | host p => exact wf_setHostLine h p bs
  | remote dev p =>
    obtain ⟨h1, h2, h3, h4, h5⟩ := (wf_iff s).1 h
    refine (wf_iff _).2 ⟨h1, h2, canonical_writeAt h3 _ _, fun x hx => ?_, h5⟩
    have hx : x ∈ writeAt (fun _ => []) s.peers dev (writeCells hbmDefault (s.peerCells dev) (256 * p) bs) := hx
    rcases mem_writeAt hx with rfl | hx
    · exact canonical_writeCells (readAt_of_all (P := fun m => canonical hbmDefault m = true) h4 dev rfl) _ _
    · exact h4 x hx
  | _ => exact h

/-- Storage written keeps the canonical form of the memories. -/
theorem wf_flashWrite {s : State} (h : Memory.wf s = true) (ctrl ns a : Nat) (bs : List Nat) :
    Memory.wf (s.flashWrite ctrl ns a bs) = true := by
  obtain ⟨h1, h2, h3, h4, h5⟩ := (wf_iff s).1 h
  refine (wf_iff _).2 ⟨h1, h2, h3, h4, fun x hx => ?_⟩
  rcases List.mem_append.1 hx with hx | hx
  · exact h5 x (List.mem_filter.1 hx).1
  · obtain rfl := List.mem_singleton.1 hx
    refine canonical_writeCells ?_ _ _
    unfold State.flashCells
    cases hf : s.flash.find? fun x => x.1 == ctrl && x.2.1 == ns with
    | none => rfl
    | some y => exact h5 y (List.mem_of_find?_eq_some hf)

/-- The canonical form looks at the memories alone. -/
theorem wf_congr {s t : State} (h1 : t.hbm = s.hbm) (h2 : t.hostMem = s.hostMem) (h3 : t.peers = s.peers) (h4 : t.flash = s.flash) :
    Memory.wf t = Memory.wf s := by
  simp [Memory.wf, h1, h2, h3, h4]

/-- Reset's memories have the form. -/
theorem wf_reset : Memory.wf State.reset = true := by decide

end Sys2Proof.Machine
end

