-- ==== Sys2Proof/Laws/State.lean ====
section
/-! SUPPORT. One lemma for each field and each update of the state and of a gust: what an update leaves of a field it does
not change. No proof unfolds a record update. -/

namespace Sys2Proof.Machine

/-! `setGust` changes `gusts` alone. -/
@[simp] theorem State.setGust_ptime (s : State) (g : Gust) : (s.setGust g).ptime = s.ptime := rfl
@[simp] theorem State.setGust_stopped (s : State) (g : Gust) : (s.setGust g).stopped = s.stopped := rfl
@[simp] theorem State.setGust_squalls (s : State) (g : Gust) : (s.setGust g).squalls = s.squalls := rfl
@[simp] theorem State.setGust_cores (s : State) (g : Gust) : (s.setGust g).cores = s.cores := rfl
@[simp] theorem State.setGust_dies (s : State) (g : Gust) : (s.setGust g).dies = s.dies := rfl
@[simp] theorem State.setGust_rimClocks (s : State) (g : Gust) : (s.setGust g).rimClocks = s.rimClocks := rfl
@[simp] theorem State.setGust_rimCounters (s : State) (g : Gust) : (s.setGust g).rimCounters = s.rimCounters := rfl
@[simp] theorem State.setGust_rimSnaps (s : State) (g : Gust) : (s.setGust g).rimSnaps = s.rimSnaps := rfl
@[simp] theorem State.setGust_hbm (s : State) (g : Gust) : (s.setGust g).hbm = s.hbm := rfl
@[simp] theorem State.setGust_hostMem (s : State) (g : Gust) : (s.setGust g).hostMem = s.hostMem := rfl
@[simp] theorem State.setGust_peers (s : State) (g : Gust) : (s.setGust g).peers = s.peers := rfl
@[simp] theorem State.setGust_unreached (s : State) (g : Gust) : (s.setGust g).unreached = s.unreached := rfl
@[simp] theorem State.setGust_flash (s : State) (g : Gust) : (s.setGust g).flash = s.flash := rfl
@[simp] theorem State.setGust_homes (s : State) (g : Gust) : (s.setGust g).homes = s.homes := rfl
@[simp] theorem State.setGust_secClocks (s : State) (g : Gust) : (s.setGust g).secClocks = s.secClocks := rfl
@[simp] theorem State.setGust_poison (s : State) (g : Gust) : (s.setGust g).poison = s.poison := rfl
@[simp] theorem State.setGust_portPoison (s : State) (g : Gust) : (s.setGust g).portPoison = s.portPoison := rfl
@[simp] theorem State.setGust_heads (s : State) (g : Gust) : (s.setGust g).heads = s.heads := rfl
@[simp] theorem State.setGust_counters (s : State) (g : Gust) : (s.setGust g).counters = s.counters := rfl
@[simp] theorem State.setGust_contexts (s : State) (g : Gust) : (s.setGust g).contexts = s.contexts := rfl
@[simp] theorem State.setGust_fronts (s : State) (g : Gust) : (s.setGust g).fronts = s.fronts := rfl
@[simp] theorem State.setGust_nextFront (s : State) (g : Gust) : (s.setGust g).nextFront = s.nextFront := rfl
@[simp] theorem State.setGust_graphs (s : State) (g : Gust) : (s.setGust g).graphs = s.graphs := rfl
@[simp] theorem State.setGust_images (s : State) (g : Gust) : (s.setGust g).images = s.images := rfl
@[simp] theorem State.setGust_paging (s : State) (g : Gust) : (s.setGust g).paging = s.paging := rfl
@[simp] theorem State.setGust_pagingWait (s : State) (g : Gust) : (s.setGust g).pagingWait = s.pagingWait := rfl
@[simp] theorem State.setGust_shuttered (s : State) (g : Gust) : (s.setGust g).shuttered = s.shuttered := rfl
@[simp] theorem State.setGust_outstanding (s : State) (g : Gust) : (s.setGust g).outstanding = s.outstanding := rfl
@[simp] theorem State.setGust_lostReqs (s : State) (g : Gust) : (s.setGust g).lostReqs = s.lostReqs := rfl
@[simp] theorem State.setGust_cuts (s : State) (g : Gust) : (s.setGust g).cuts = s.cuts := rfl
@[simp] theorem State.setGust_ticketDevice (s : State) (g : Gust) : (s.setGust g).ticketDevice = s.ticketDevice := rfl
@[simp] theorem State.setGust_ticketSystem (s : State) (g : Gust) : (s.setGust g).ticketSystem = s.ticketSystem := rfl
@[simp] theorem State.setGust_snapAt (s : State) (g : Gust) : (s.setGust g).snapAt = s.snapAt := rfl
@[simp] theorem State.setGust_snapped (s : State) (g : Gust) : (s.setGust g).snapped = s.snapped := rfl
@[simp] theorem State.setGust_boot (s : State) (g : Gust) : (s.setGust g).boot = s.boot := rfl
@[simp] theorem State.setGust_deferred (s : State) (g : Gust) : (s.setGust g).deferred = s.deferred := rfl
@[simp] theorem State.setGust_sysWaits (s : State) (g : Gust) : (s.setGust g).sysWaits = s.sysWaits := rfl
@[simp] theorem State.setGust_out (s : State) (g : Gust) : (s.setGust g).out = s.out := rfl
@[simp] theorem State.setGust_flight (s : State) (g : Gust) : (s.setGust g).flight = s.flight := rfl
@[simp] theorem State.setGust_inputs (s : State) (g : Gust) : (s.setGust g).inputs = s.inputs := rfl
@[simp] theorem State.setGust_cur (s : State) (g : Gust) : (s.setGust g).cur = s.cur := rfl
@[simp] theorem State.setGust_issueLeft (s : State) (g : Gust) : (s.setGust g).issueLeft = s.issueLeft := rfl
@[simp] theorem State.setGust_op (s : State) (g : Gust) : (s.setGust g).op = s.op := rfl
@[simp] theorem State.setGust_hand (s : State) (g : Gust) : (s.setGust g).hand = s.hand := rfl
@[simp] theorem State.setGust_choice (s : State) (g : Gust) : (s.setGust g).choice = s.choice := rfl
@[simp] theorem State.setGust_freeCtr (s : State) (g : Gust) : (s.setGust g).freeCtr = s.freeCtr := rfl
@[simp] theorem State.setGust_serial (s : State) (g : Gust) : (s.setGust g).serial = s.serial := rfl

/-! `onGust` changes `gusts` alone. -/
@[simp] theorem State.onGust_ptime (s : State) (r : GustRef) (f : Gust → Gust) : (s.onGust r f).ptime = s.ptime := rfl
@[simp] theorem State.onGust_stopped (s : State) (r : GustRef) (f : Gust → Gust) : (s.onGust r f).stopped = s.stopped := rfl
@[simp] theorem State.onGust_squalls (s : State) (r : GustRef) (f : Gust → Gust) : (s.onGust r f).squalls = s.squalls := rfl
@[simp] theorem State.onGust_cores (s : State) (r : GustRef) (f : Gust → Gust) : (s.onGust r f).cores = s.cores := rfl
@[simp] theorem State.onGust_dies (s : State) (r : GustRef) (f : Gust → Gust) : (s.onGust r f).dies = s.dies := rfl
@[simp] theorem State.onGust_rimClocks (s : State) (r : GustRef) (f : Gust → Gust) : (s.onGust r f).rimClocks = s.rimClocks := rfl
@[simp] theorem State.onGust_rimCounters (s : State) (r : GustRef) (f : Gust → Gust) : (s.onGust r f).rimCounters = s.rimCounters := rfl
@[simp] theorem State.onGust_rimSnaps (s : State) (r : GustRef) (f : Gust → Gust) : (s.onGust r f).rimSnaps = s.rimSnaps := rfl
@[simp] theorem State.onGust_hbm (s : State) (r : GustRef) (f : Gust → Gust) : (s.onGust r f).hbm = s.hbm := rfl
@[simp] theorem State.onGust_hostMem (s : State) (r : GustRef) (f : Gust → Gust) : (s.onGust r f).hostMem = s.hostMem := rfl
@[simp] theorem State.onGust_peers (s : State) (r : GustRef) (f : Gust → Gust) : (s.onGust r f).peers = s.peers := rfl
@[simp] theorem State.onGust_unreached (s : State) (r : GustRef) (f : Gust → Gust) : (s.onGust r f).unreached = s.unreached := rfl
@[simp] theorem State.onGust_flash (s : State) (r : GustRef) (f : Gust → Gust) : (s.onGust r f).flash = s.flash := rfl
@[simp] theorem State.onGust_homes (s : State) (r : GustRef) (f : Gust → Gust) : (s.onGust r f).homes = s.homes := rfl
@[simp] theorem State.onGust_secClocks (s : State) (r : GustRef) (f : Gust → Gust) : (s.onGust r f).secClocks = s.secClocks := rfl
@[simp] theorem State.onGust_poison (s : State) (r : GustRef) (f : Gust → Gust) : (s.onGust r f).poison = s.poison := rfl
@[simp] theorem State.onGust_portPoison (s : State) (r : GustRef) (f : Gust → Gust) : (s.onGust r f).portPoison = s.portPoison := rfl
@[simp] theorem State.onGust_heads (s : State) (r : GustRef) (f : Gust → Gust) : (s.onGust r f).heads = s.heads := rfl
@[simp] theorem State.onGust_counters (s : State) (r : GustRef) (f : Gust → Gust) : (s.onGust r f).counters = s.counters := rfl
@[simp] theorem State.onGust_contexts (s : State) (r : GustRef) (f : Gust → Gust) : (s.onGust r f).contexts = s.contexts := rfl
@[simp] theorem State.onGust_fronts (s : State) (r : GustRef) (f : Gust → Gust) : (s.onGust r f).fronts = s.fronts := rfl
@[simp] theorem State.onGust_nextFront (s : State) (r : GustRef) (f : Gust → Gust) : (s.onGust r f).nextFront = s.nextFront := rfl
@[simp] theorem State.onGust_graphs (s : State) (r : GustRef) (f : Gust → Gust) : (s.onGust r f).graphs = s.graphs := rfl
@[simp] theorem State.onGust_images (s : State) (r : GustRef) (f : Gust → Gust) : (s.onGust r f).images = s.images := rfl
@[simp] theorem State.onGust_paging (s : State) (r : GustRef) (f : Gust → Gust) : (s.onGust r f).paging = s.paging := rfl
@[simp] theorem State.onGust_pagingWait (s : State) (r : GustRef) (f : Gust → Gust) : (s.onGust r f).pagingWait = s.pagingWait := rfl
@[simp] theorem State.onGust_shuttered (s : State) (r : GustRef) (f : Gust → Gust) : (s.onGust r f).shuttered = s.shuttered := rfl
@[simp] theorem State.onGust_outstanding (s : State) (r : GustRef) (f : Gust → Gust) : (s.onGust r f).outstanding = s.outstanding := rfl
@[simp] theorem State.onGust_lostReqs (s : State) (r : GustRef) (f : Gust → Gust) : (s.onGust r f).lostReqs = s.lostReqs := rfl
@[simp] theorem State.onGust_cuts (s : State) (r : GustRef) (f : Gust → Gust) : (s.onGust r f).cuts = s.cuts := rfl
@[simp] theorem State.onGust_ticketDevice (s : State) (r : GustRef) (f : Gust → Gust) : (s.onGust r f).ticketDevice = s.ticketDevice := rfl
@[simp] theorem State.onGust_ticketSystem (s : State) (r : GustRef) (f : Gust → Gust) : (s.onGust r f).ticketSystem = s.ticketSystem := rfl
@[simp] theorem State.onGust_snapAt (s : State) (r : GustRef) (f : Gust → Gust) : (s.onGust r f).snapAt = s.snapAt := rfl
@[simp] theorem State.onGust_snapped (s : State) (r : GustRef) (f : Gust → Gust) : (s.onGust r f).snapped = s.snapped := rfl
@[simp] theorem State.onGust_boot (s : State) (r : GustRef) (f : Gust → Gust) : (s.onGust r f).boot = s.boot := rfl
@[simp] theorem State.onGust_deferred (s : State) (r : GustRef) (f : Gust → Gust) : (s.onGust r f).deferred = s.deferred := rfl
@[simp] theorem State.onGust_sysWaits (s : State) (r : GustRef) (f : Gust → Gust) : (s.onGust r f).sysWaits = s.sysWaits := rfl
@[simp] theorem State.onGust_out (s : State) (r : GustRef) (f : Gust → Gust) : (s.onGust r f).out = s.out := rfl
@[simp] theorem State.onGust_flight (s : State) (r : GustRef) (f : Gust → Gust) : (s.onGust r f).flight = s.flight := rfl
@[simp] theorem State.onGust_inputs (s : State) (r : GustRef) (f : Gust → Gust) : (s.onGust r f).inputs = s.inputs := rfl
@[simp] theorem State.onGust_cur (s : State) (r : GustRef) (f : Gust → Gust) : (s.onGust r f).cur = s.cur := rfl
@[simp] theorem State.onGust_issueLeft (s : State) (r : GustRef) (f : Gust → Gust) : (s.onGust r f).issueLeft = s.issueLeft := rfl
@[simp] theorem State.onGust_op (s : State) (r : GustRef) (f : Gust → Gust) : (s.onGust r f).op = s.op := rfl
@[simp] theorem State.onGust_hand (s : State) (r : GustRef) (f : Gust → Gust) : (s.onGust r f).hand = s.hand := rfl
@[simp] theorem State.onGust_choice (s : State) (r : GustRef) (f : Gust → Gust) : (s.onGust r f).choice = s.choice := rfl
@[simp] theorem State.onGust_freeCtr (s : State) (r : GustRef) (f : Gust → Gust) : (s.onGust r f).freeCtr = s.freeCtr := rfl
@[simp] theorem State.onGust_serial (s : State) (r : GustRef) (f : Gust → Gust) : (s.onGust r f).serial = s.serial := rfl

/-! `setSquall` changes `squalls` alone. -/
@[simp] theorem State.setSquall_ptime (s : State) (q : Squall) : (s.setSquall q).ptime = s.ptime := rfl
@[simp] theorem State.setSquall_stopped (s : State) (q : Squall) : (s.setSquall q).stopped = s.stopped := rfl
@[simp] theorem State.setSquall_gusts (s : State) (q : Squall) : (s.setSquall q).gusts = s.gusts := rfl
@[simp] theorem State.setSquall_cores (s : State) (q : Squall) : (s.setSquall q).cores = s.cores := rfl
@[simp] theorem State.setSquall_dies (s : State) (q : Squall) : (s.setSquall q).dies = s.dies := rfl
@[simp] theorem State.setSquall_rimClocks (s : State) (q : Squall) : (s.setSquall q).rimClocks = s.rimClocks := rfl
@[simp] theorem State.setSquall_rimCounters (s : State) (q : Squall) : (s.setSquall q).rimCounters = s.rimCounters := rfl
@[simp] theorem State.setSquall_rimSnaps (s : State) (q : Squall) : (s.setSquall q).rimSnaps = s.rimSnaps := rfl
@[simp] theorem State.setSquall_hbm (s : State) (q : Squall) : (s.setSquall q).hbm = s.hbm := rfl
@[simp] theorem State.setSquall_hostMem (s : State) (q : Squall) : (s.setSquall q).hostMem = s.hostMem := rfl
@[simp] theorem State.setSquall_peers (s : State) (q : Squall) : (s.setSquall q).peers = s.peers := rfl
@[simp] theorem State.setSquall_unreached (s : State) (q : Squall) : (s.setSquall q).unreached = s.unreached := rfl
@[simp] theorem State.setSquall_flash (s : State) (q : Squall) : (s.setSquall q).flash = s.flash := rfl
@[simp] theorem State.setSquall_homes (s : State) (q : Squall) : (s.setSquall q).homes = s.homes := rfl
@[simp] theorem State.setSquall_secClocks (s : State) (q : Squall) : (s.setSquall q).secClocks = s.secClocks := rfl
@[simp] theorem State.setSquall_poison (s : State) (q : Squall) : (s.setSquall q).poison = s.poison := rfl
@[simp] theorem State.setSquall_portPoison (s : State) (q : Squall) : (s.setSquall q).portPoison = s.portPoison := rfl
@[simp] theorem State.setSquall_heads (s : State) (q : Squall) : (s.setSquall q).heads = s.heads := rfl
@[simp] theorem State.setSquall_counters (s : State) (q : Squall) : (s.setSquall q).counters = s.counters := rfl
@[simp] theorem State.setSquall_contexts (s : State) (q : Squall) : (s.setSquall q).contexts = s.contexts := rfl
@[simp] theorem State.setSquall_fronts (s : State) (q : Squall) : (s.setSquall q).fronts = s.fronts := rfl
@[simp] theorem State.setSquall_nextFront (s : State) (q : Squall) : (s.setSquall q).nextFront = s.nextFront := rfl
@[simp] theorem State.setSquall_graphs (s : State) (q : Squall) : (s.setSquall q).graphs = s.graphs := rfl
@[simp] theorem State.setSquall_images (s : State) (q : Squall) : (s.setSquall q).images = s.images := rfl
@[simp] theorem State.setSquall_paging (s : State) (q : Squall) : (s.setSquall q).paging = s.paging := rfl
@[simp] theorem State.setSquall_pagingWait (s : State) (q : Squall) : (s.setSquall q).pagingWait = s.pagingWait := rfl
@[simp] theorem State.setSquall_shuttered (s : State) (q : Squall) : (s.setSquall q).shuttered = s.shuttered := rfl
@[simp] theorem State.setSquall_outstanding (s : State) (q : Squall) : (s.setSquall q).outstanding = s.outstanding := rfl
@[simp] theorem State.setSquall_lostReqs (s : State) (q : Squall) : (s.setSquall q).lostReqs = s.lostReqs := rfl
@[simp] theorem State.setSquall_cuts (s : State) (q : Squall) : (s.setSquall q).cuts = s.cuts := rfl
@[simp] theorem State.setSquall_ticketDevice (s : State) (q : Squall) : (s.setSquall q).ticketDevice = s.ticketDevice := rfl
@[simp] theorem State.setSquall_ticketSystem (s : State) (q : Squall) : (s.setSquall q).ticketSystem = s.ticketSystem := rfl
@[simp] theorem State.setSquall_snapAt (s : State) (q : Squall) : (s.setSquall q).snapAt = s.snapAt := rfl
@[simp] theorem State.setSquall_snapped (s : State) (q : Squall) : (s.setSquall q).snapped = s.snapped := rfl
@[simp] theorem State.setSquall_boot (s : State) (q : Squall) : (s.setSquall q).boot = s.boot := rfl
@[simp] theorem State.setSquall_deferred (s : State) (q : Squall) : (s.setSquall q).deferred = s.deferred := rfl
@[simp] theorem State.setSquall_sysWaits (s : State) (q : Squall) : (s.setSquall q).sysWaits = s.sysWaits := rfl
@[simp] theorem State.setSquall_out (s : State) (q : Squall) : (s.setSquall q).out = s.out := rfl
@[simp] theorem State.setSquall_flight (s : State) (q : Squall) : (s.setSquall q).flight = s.flight := rfl
@[simp] theorem State.setSquall_inputs (s : State) (q : Squall) : (s.setSquall q).inputs = s.inputs := rfl
@[simp] theorem State.setSquall_cur (s : State) (q : Squall) : (s.setSquall q).cur = s.cur := rfl
@[simp] theorem State.setSquall_issueLeft (s : State) (q : Squall) : (s.setSquall q).issueLeft = s.issueLeft := rfl
@[simp] theorem State.setSquall_op (s : State) (q : Squall) : (s.setSquall q).op = s.op := rfl
@[simp] theorem State.setSquall_hand (s : State) (q : Squall) : (s.setSquall q).hand = s.hand := rfl
@[simp] theorem State.setSquall_choice (s : State) (q : Squall) : (s.setSquall q).choice = s.choice := rfl
@[simp] theorem State.setSquall_freeCtr (s : State) (q : Squall) : (s.setSquall q).freeCtr = s.freeCtr := rfl
@[simp] theorem State.setSquall_serial (s : State) (q : Squall) : (s.setSquall q).serial = s.serial := rfl

/-! `onSquall` changes `squalls` alone. -/
@[simp] theorem State.onSquall_ptime (s : State) (q : SqRef) (f : Squall → Squall) : (s.onSquall q f).ptime = s.ptime := rfl
@[simp] theorem State.onSquall_stopped (s : State) (q : SqRef) (f : Squall → Squall) : (s.onSquall q f).stopped = s.stopped := rfl
@[simp] theorem State.onSquall_gusts (s : State) (q : SqRef) (f : Squall → Squall) : (s.onSquall q f).gusts = s.gusts := rfl
@[simp] theorem State.onSquall_cores (s : State) (q : SqRef) (f : Squall → Squall) : (s.onSquall q f).cores = s.cores := rfl
@[simp] theorem State.onSquall_dies (s : State) (q : SqRef) (f : Squall → Squall) : (s.onSquall q f).dies = s.dies := rfl
@[simp] theorem State.onSquall_rimClocks (s : State) (q : SqRef) (f : Squall → Squall) : (s.onSquall q f).rimClocks = s.rimClocks := rfl
@[simp] theorem State.onSquall_rimCounters (s : State) (q : SqRef) (f : Squall → Squall) : (s.onSquall q f).rimCounters = s.rimCounters := rfl
@[simp] theorem State.onSquall_rimSnaps (s : State) (q : SqRef) (f : Squall → Squall) : (s.onSquall q f).rimSnaps = s.rimSnaps := rfl
@[simp] theorem State.onSquall_hbm (s : State) (q : SqRef) (f : Squall → Squall) : (s.onSquall q f).hbm = s.hbm := rfl
@[simp] theorem State.onSquall_hostMem (s : State) (q : SqRef) (f : Squall → Squall) : (s.onSquall q f).hostMem = s.hostMem := rfl
@[simp] theorem State.onSquall_peers (s : State) (q : SqRef) (f : Squall → Squall) : (s.onSquall q f).peers = s.peers := rfl
@[simp] theorem State.onSquall_unreached (s : State) (q : SqRef) (f : Squall → Squall) : (s.onSquall q f).unreached = s.unreached := rfl
@[simp] theorem State.onSquall_flash (s : State) (q : SqRef) (f : Squall → Squall) : (s.onSquall q f).flash = s.flash := rfl
@[simp] theorem State.onSquall_homes (s : State) (q : SqRef) (f : Squall → Squall) : (s.onSquall q f).homes = s.homes := rfl
@[simp] theorem State.onSquall_secClocks (s : State) (q : SqRef) (f : Squall → Squall) : (s.onSquall q f).secClocks = s.secClocks := rfl
@[simp] theorem State.onSquall_poison (s : State) (q : SqRef) (f : Squall → Squall) : (s.onSquall q f).poison = s.poison := rfl
@[simp] theorem State.onSquall_portPoison (s : State) (q : SqRef) (f : Squall → Squall) : (s.onSquall q f).portPoison = s.portPoison := rfl
@[simp] theorem State.onSquall_heads (s : State) (q : SqRef) (f : Squall → Squall) : (s.onSquall q f).heads = s.heads := rfl
@[simp] theorem State.onSquall_counters (s : State) (q : SqRef) (f : Squall → Squall) : (s.onSquall q f).counters = s.counters := rfl
@[simp] theorem State.onSquall_contexts (s : State) (q : SqRef) (f : Squall → Squall) : (s.onSquall q f).contexts = s.contexts := rfl
@[simp] theorem State.onSquall_fronts (s : State) (q : SqRef) (f : Squall → Squall) : (s.onSquall q f).fronts = s.fronts := rfl
@[simp] theorem State.onSquall_nextFront (s : State) (q : SqRef) (f : Squall → Squall) : (s.onSquall q f).nextFront = s.nextFront := rfl
@[simp] theorem State.onSquall_graphs (s : State) (q : SqRef) (f : Squall → Squall) : (s.onSquall q f).graphs = s.graphs := rfl
@[simp] theorem State.onSquall_images (s : State) (q : SqRef) (f : Squall → Squall) : (s.onSquall q f).images = s.images := rfl
@[simp] theorem State.onSquall_paging (s : State) (q : SqRef) (f : Squall → Squall) : (s.onSquall q f).paging = s.paging := rfl
@[simp] theorem State.onSquall_pagingWait (s : State) (q : SqRef) (f : Squall → Squall) : (s.onSquall q f).pagingWait = s.pagingWait := rfl
@[simp] theorem State.onSquall_shuttered (s : State) (q : SqRef) (f : Squall → Squall) : (s.onSquall q f).shuttered = s.shuttered := rfl
@[simp] theorem State.onSquall_outstanding (s : State) (q : SqRef) (f : Squall → Squall) : (s.onSquall q f).outstanding = s.outstanding := rfl
@[simp] theorem State.onSquall_lostReqs (s : State) (q : SqRef) (f : Squall → Squall) : (s.onSquall q f).lostReqs = s.lostReqs := rfl
@[simp] theorem State.onSquall_cuts (s : State) (q : SqRef) (f : Squall → Squall) : (s.onSquall q f).cuts = s.cuts := rfl
@[simp] theorem State.onSquall_ticketDevice (s : State) (q : SqRef) (f : Squall → Squall) : (s.onSquall q f).ticketDevice = s.ticketDevice := rfl
@[simp] theorem State.onSquall_ticketSystem (s : State) (q : SqRef) (f : Squall → Squall) : (s.onSquall q f).ticketSystem = s.ticketSystem := rfl
@[simp] theorem State.onSquall_snapAt (s : State) (q : SqRef) (f : Squall → Squall) : (s.onSquall q f).snapAt = s.snapAt := rfl
@[simp] theorem State.onSquall_snapped (s : State) (q : SqRef) (f : Squall → Squall) : (s.onSquall q f).snapped = s.snapped := rfl
@[simp] theorem State.onSquall_boot (s : State) (q : SqRef) (f : Squall → Squall) : (s.onSquall q f).boot = s.boot := rfl
@[simp] theorem State.onSquall_deferred (s : State) (q : SqRef) (f : Squall → Squall) : (s.onSquall q f).deferred = s.deferred := rfl
@[simp] theorem State.onSquall_sysWaits (s : State) (q : SqRef) (f : Squall → Squall) : (s.onSquall q f).sysWaits = s.sysWaits := rfl
@[simp] theorem State.onSquall_out (s : State) (q : SqRef) (f : Squall → Squall) : (s.onSquall q f).out = s.out := rfl
@[simp] theorem State.onSquall_flight (s : State) (q : SqRef) (f : Squall → Squall) : (s.onSquall q f).flight = s.flight := rfl
@[simp] theorem State.onSquall_inputs (s : State) (q : SqRef) (f : Squall → Squall) : (s.onSquall q f).inputs = s.inputs := rfl
@[simp] theorem State.onSquall_cur (s : State) (q : SqRef) (f : Squall → Squall) : (s.onSquall q f).cur = s.cur := rfl
@[simp] theorem State.onSquall_issueLeft (s : State) (q : SqRef) (f : Squall → Squall) : (s.onSquall q f).issueLeft = s.issueLeft := rfl
@[simp] theorem State.onSquall_op (s : State) (q : SqRef) (f : Squall → Squall) : (s.onSquall q f).op = s.op := rfl
@[simp] theorem State.onSquall_hand (s : State) (q : SqRef) (f : Squall → Squall) : (s.onSquall q f).hand = s.hand := rfl
@[simp] theorem State.onSquall_choice (s : State) (q : SqRef) (f : Squall → Squall) : (s.onSquall q f).choice = s.choice := rfl
@[simp] theorem State.onSquall_freeCtr (s : State) (q : SqRef) (f : Squall → Squall) : (s.onSquall q f).freeCtr = s.freeCtr := rfl
@[simp] theorem State.onSquall_serial (s : State) (q : SqRef) (f : Squall → Squall) : (s.onSquall q f).serial = s.serial := rfl

/-! `onCore` changes `cores` alone. -/
@[simp] theorem State.onCore_ptime (s : State) (c : Nat) (f : Core → Core) : (s.onCore c f).ptime = s.ptime := rfl
@[simp] theorem State.onCore_stopped (s : State) (c : Nat) (f : Core → Core) : (s.onCore c f).stopped = s.stopped := rfl
@[simp] theorem State.onCore_gusts (s : State) (c : Nat) (f : Core → Core) : (s.onCore c f).gusts = s.gusts := rfl
@[simp] theorem State.onCore_squalls (s : State) (c : Nat) (f : Core → Core) : (s.onCore c f).squalls = s.squalls := rfl
@[simp] theorem State.onCore_dies (s : State) (c : Nat) (f : Core → Core) : (s.onCore c f).dies = s.dies := rfl
@[simp] theorem State.onCore_rimClocks (s : State) (c : Nat) (f : Core → Core) : (s.onCore c f).rimClocks = s.rimClocks := rfl
@[simp] theorem State.onCore_rimCounters (s : State) (c : Nat) (f : Core → Core) : (s.onCore c f).rimCounters = s.rimCounters := rfl
@[simp] theorem State.onCore_rimSnaps (s : State) (c : Nat) (f : Core → Core) : (s.onCore c f).rimSnaps = s.rimSnaps := rfl
@[simp] theorem State.onCore_hbm (s : State) (c : Nat) (f : Core → Core) : (s.onCore c f).hbm = s.hbm := rfl
@[simp] theorem State.onCore_hostMem (s : State) (c : Nat) (f : Core → Core) : (s.onCore c f).hostMem = s.hostMem := rfl
@[simp] theorem State.onCore_peers (s : State) (c : Nat) (f : Core → Core) : (s.onCore c f).peers = s.peers := rfl
@[simp] theorem State.onCore_unreached (s : State) (c : Nat) (f : Core → Core) : (s.onCore c f).unreached = s.unreached := rfl
@[simp] theorem State.onCore_flash (s : State) (c : Nat) (f : Core → Core) : (s.onCore c f).flash = s.flash := rfl
@[simp] theorem State.onCore_homes (s : State) (c : Nat) (f : Core → Core) : (s.onCore c f).homes = s.homes := rfl
@[simp] theorem State.onCore_secClocks (s : State) (c : Nat) (f : Core → Core) : (s.onCore c f).secClocks = s.secClocks := rfl
@[simp] theorem State.onCore_poison (s : State) (c : Nat) (f : Core → Core) : (s.onCore c f).poison = s.poison := rfl
@[simp] theorem State.onCore_portPoison (s : State) (c : Nat) (f : Core → Core) : (s.onCore c f).portPoison = s.portPoison := rfl
@[simp] theorem State.onCore_heads (s : State) (c : Nat) (f : Core → Core) : (s.onCore c f).heads = s.heads := rfl
@[simp] theorem State.onCore_counters (s : State) (c : Nat) (f : Core → Core) : (s.onCore c f).counters = s.counters := rfl
@[simp] theorem State.onCore_contexts (s : State) (c : Nat) (f : Core → Core) : (s.onCore c f).contexts = s.contexts := rfl
@[simp] theorem State.onCore_fronts (s : State) (c : Nat) (f : Core → Core) : (s.onCore c f).fronts = s.fronts := rfl
@[simp] theorem State.onCore_nextFront (s : State) (c : Nat) (f : Core → Core) : (s.onCore c f).nextFront = s.nextFront := rfl
@[simp] theorem State.onCore_graphs (s : State) (c : Nat) (f : Core → Core) : (s.onCore c f).graphs = s.graphs := rfl
@[simp] theorem State.onCore_images (s : State) (c : Nat) (f : Core → Core) : (s.onCore c f).images = s.images := rfl
@[simp] theorem State.onCore_paging (s : State) (c : Nat) (f : Core → Core) : (s.onCore c f).paging = s.paging := rfl
@[simp] theorem State.onCore_pagingWait (s : State) (c : Nat) (f : Core → Core) : (s.onCore c f).pagingWait = s.pagingWait := rfl
@[simp] theorem State.onCore_shuttered (s : State) (c : Nat) (f : Core → Core) : (s.onCore c f).shuttered = s.shuttered := rfl
@[simp] theorem State.onCore_outstanding (s : State) (c : Nat) (f : Core → Core) : (s.onCore c f).outstanding = s.outstanding := rfl
@[simp] theorem State.onCore_lostReqs (s : State) (c : Nat) (f : Core → Core) : (s.onCore c f).lostReqs = s.lostReqs := rfl
@[simp] theorem State.onCore_cuts (s : State) (c : Nat) (f : Core → Core) : (s.onCore c f).cuts = s.cuts := rfl
@[simp] theorem State.onCore_ticketDevice (s : State) (c : Nat) (f : Core → Core) : (s.onCore c f).ticketDevice = s.ticketDevice := rfl
@[simp] theorem State.onCore_ticketSystem (s : State) (c : Nat) (f : Core → Core) : (s.onCore c f).ticketSystem = s.ticketSystem := rfl
@[simp] theorem State.onCore_snapAt (s : State) (c : Nat) (f : Core → Core) : (s.onCore c f).snapAt = s.snapAt := rfl
@[simp] theorem State.onCore_snapped (s : State) (c : Nat) (f : Core → Core) : (s.onCore c f).snapped = s.snapped := rfl
@[simp] theorem State.onCore_boot (s : State) (c : Nat) (f : Core → Core) : (s.onCore c f).boot = s.boot := rfl
@[simp] theorem State.onCore_deferred (s : State) (c : Nat) (f : Core → Core) : (s.onCore c f).deferred = s.deferred := rfl
@[simp] theorem State.onCore_sysWaits (s : State) (c : Nat) (f : Core → Core) : (s.onCore c f).sysWaits = s.sysWaits := rfl
@[simp] theorem State.onCore_out (s : State) (c : Nat) (f : Core → Core) : (s.onCore c f).out = s.out := rfl
@[simp] theorem State.onCore_flight (s : State) (c : Nat) (f : Core → Core) : (s.onCore c f).flight = s.flight := rfl
@[simp] theorem State.onCore_inputs (s : State) (c : Nat) (f : Core → Core) : (s.onCore c f).inputs = s.inputs := rfl
@[simp] theorem State.onCore_cur (s : State) (c : Nat) (f : Core → Core) : (s.onCore c f).cur = s.cur := rfl
@[simp] theorem State.onCore_issueLeft (s : State) (c : Nat) (f : Core → Core) : (s.onCore c f).issueLeft = s.issueLeft := rfl
@[simp] theorem State.onCore_op (s : State) (c : Nat) (f : Core → Core) : (s.onCore c f).op = s.op := rfl
@[simp] theorem State.onCore_hand (s : State) (c : Nat) (f : Core → Core) : (s.onCore c f).hand = s.hand := rfl
@[simp] theorem State.onCore_choice (s : State) (c : Nat) (f : Core → Core) : (s.onCore c f).choice = s.choice := rfl
@[simp] theorem State.onCore_freeCtr (s : State) (c : Nat) (f : Core → Core) : (s.onCore c f).freeCtr = s.freeCtr := rfl
@[simp] theorem State.onCore_serial (s : State) (c : Nat) (f : Core → Core) : (s.onCore c f).serial = s.serial := rfl

/-! `onDie` changes `dies` alone. -/
@[simp] theorem State.onDie_ptime (s : State) (d : Nat) (f : Die → Die) : (s.onDie d f).ptime = s.ptime := rfl
@[simp] theorem State.onDie_stopped (s : State) (d : Nat) (f : Die → Die) : (s.onDie d f).stopped = s.stopped := rfl
@[simp] theorem State.onDie_gusts (s : State) (d : Nat) (f : Die → Die) : (s.onDie d f).gusts = s.gusts := rfl
@[simp] theorem State.onDie_squalls (s : State) (d : Nat) (f : Die → Die) : (s.onDie d f).squalls = s.squalls := rfl
@[simp] theorem State.onDie_cores (s : State) (d : Nat) (f : Die → Die) : (s.onDie d f).cores = s.cores := rfl
@[simp] theorem State.onDie_rimClocks (s : State) (d : Nat) (f : Die → Die) : (s.onDie d f).rimClocks = s.rimClocks := rfl
@[simp] theorem State.onDie_rimCounters (s : State) (d : Nat) (f : Die → Die) : (s.onDie d f).rimCounters = s.rimCounters := rfl
@[simp] theorem State.onDie_rimSnaps (s : State) (d : Nat) (f : Die → Die) : (s.onDie d f).rimSnaps = s.rimSnaps := rfl
@[simp] theorem State.onDie_hbm (s : State) (d : Nat) (f : Die → Die) : (s.onDie d f).hbm = s.hbm := rfl
@[simp] theorem State.onDie_hostMem (s : State) (d : Nat) (f : Die → Die) : (s.onDie d f).hostMem = s.hostMem := rfl
@[simp] theorem State.onDie_peers (s : State) (d : Nat) (f : Die → Die) : (s.onDie d f).peers = s.peers := rfl
@[simp] theorem State.onDie_unreached (s : State) (d : Nat) (f : Die → Die) : (s.onDie d f).unreached = s.unreached := rfl
@[simp] theorem State.onDie_flash (s : State) (d : Nat) (f : Die → Die) : (s.onDie d f).flash = s.flash := rfl
@[simp] theorem State.onDie_homes (s : State) (d : Nat) (f : Die → Die) : (s.onDie d f).homes = s.homes := rfl
@[simp] theorem State.onDie_secClocks (s : State) (d : Nat) (f : Die → Die) : (s.onDie d f).secClocks = s.secClocks := rfl
@[simp] theorem State.onDie_poison (s : State) (d : Nat) (f : Die → Die) : (s.onDie d f).poison = s.poison := rfl
@[simp] theorem State.onDie_portPoison (s : State) (d : Nat) (f : Die → Die) : (s.onDie d f).portPoison = s.portPoison := rfl
@[simp] theorem State.onDie_heads (s : State) (d : Nat) (f : Die → Die) : (s.onDie d f).heads = s.heads := rfl
@[simp] theorem State.onDie_counters (s : State) (d : Nat) (f : Die → Die) : (s.onDie d f).counters = s.counters := rfl
@[simp] theorem State.onDie_contexts (s : State) (d : Nat) (f : Die → Die) : (s.onDie d f).contexts = s.contexts := rfl
@[simp] theorem State.onDie_fronts (s : State) (d : Nat) (f : Die → Die) : (s.onDie d f).fronts = s.fronts := rfl
@[simp] theorem State.onDie_nextFront (s : State) (d : Nat) (f : Die → Die) : (s.onDie d f).nextFront = s.nextFront := rfl
@[simp] theorem State.onDie_graphs (s : State) (d : Nat) (f : Die → Die) : (s.onDie d f).graphs = s.graphs := rfl
@[simp] theorem State.onDie_images (s : State) (d : Nat) (f : Die → Die) : (s.onDie d f).images = s.images := rfl
@[simp] theorem State.onDie_paging (s : State) (d : Nat) (f : Die → Die) : (s.onDie d f).paging = s.paging := rfl
@[simp] theorem State.onDie_pagingWait (s : State) (d : Nat) (f : Die → Die) : (s.onDie d f).pagingWait = s.pagingWait := rfl
@[simp] theorem State.onDie_shuttered (s : State) (d : Nat) (f : Die → Die) : (s.onDie d f).shuttered = s.shuttered := rfl
@[simp] theorem State.onDie_outstanding (s : State) (d : Nat) (f : Die → Die) : (s.onDie d f).outstanding = s.outstanding := rfl
@[simp] theorem State.onDie_lostReqs (s : State) (d : Nat) (f : Die → Die) : (s.onDie d f).lostReqs = s.lostReqs := rfl
@[simp] theorem State.onDie_cuts (s : State) (d : Nat) (f : Die → Die) : (s.onDie d f).cuts = s.cuts := rfl
@[simp] theorem State.onDie_ticketDevice (s : State) (d : Nat) (f : Die → Die) : (s.onDie d f).ticketDevice = s.ticketDevice := rfl
@[simp] theorem State.onDie_ticketSystem (s : State) (d : Nat) (f : Die → Die) : (s.onDie d f).ticketSystem = s.ticketSystem := rfl
@[simp] theorem State.onDie_snapAt (s : State) (d : Nat) (f : Die → Die) : (s.onDie d f).snapAt = s.snapAt := rfl
@[simp] theorem State.onDie_snapped (s : State) (d : Nat) (f : Die → Die) : (s.onDie d f).snapped = s.snapped := rfl
@[simp] theorem State.onDie_boot (s : State) (d : Nat) (f : Die → Die) : (s.onDie d f).boot = s.boot := rfl
@[simp] theorem State.onDie_deferred (s : State) (d : Nat) (f : Die → Die) : (s.onDie d f).deferred = s.deferred := rfl
@[simp] theorem State.onDie_sysWaits (s : State) (d : Nat) (f : Die → Die) : (s.onDie d f).sysWaits = s.sysWaits := rfl
@[simp] theorem State.onDie_out (s : State) (d : Nat) (f : Die → Die) : (s.onDie d f).out = s.out := rfl
@[simp] theorem State.onDie_flight (s : State) (d : Nat) (f : Die → Die) : (s.onDie d f).flight = s.flight := rfl
@[simp] theorem State.onDie_inputs (s : State) (d : Nat) (f : Die → Die) : (s.onDie d f).inputs = s.inputs := rfl
@[simp] theorem State.onDie_cur (s : State) (d : Nat) (f : Die → Die) : (s.onDie d f).cur = s.cur := rfl
@[simp] theorem State.onDie_issueLeft (s : State) (d : Nat) (f : Die → Die) : (s.onDie d f).issueLeft = s.issueLeft := rfl
@[simp] theorem State.onDie_op (s : State) (d : Nat) (f : Die → Die) : (s.onDie d f).op = s.op := rfl
@[simp] theorem State.onDie_hand (s : State) (d : Nat) (f : Die → Die) : (s.onDie d f).hand = s.hand := rfl
@[simp] theorem State.onDie_choice (s : State) (d : Nat) (f : Die → Die) : (s.onDie d f).choice = s.choice := rfl
@[simp] theorem State.onDie_freeCtr (s : State) (d : Nat) (f : Die → Die) : (s.onDie d f).freeCtr = s.freeCtr := rfl
@[simp] theorem State.onDie_serial (s : State) (d : Nat) (f : Die → Die) : (s.onDie d f).serial = s.serial := rfl

/-! `onFront` changes `fronts` alone. -/
@[simp] theorem State.onFront_ptime (s : State) (n : Nat) (f : Front → Front) : (s.onFront n f).ptime = s.ptime := rfl
@[simp] theorem State.onFront_stopped (s : State) (n : Nat) (f : Front → Front) : (s.onFront n f).stopped = s.stopped := rfl
@[simp] theorem State.onFront_gusts (s : State) (n : Nat) (f : Front → Front) : (s.onFront n f).gusts = s.gusts := rfl
@[simp] theorem State.onFront_squalls (s : State) (n : Nat) (f : Front → Front) : (s.onFront n f).squalls = s.squalls := rfl
@[simp] theorem State.onFront_cores (s : State) (n : Nat) (f : Front → Front) : (s.onFront n f).cores = s.cores := rfl
@[simp] theorem State.onFront_dies (s : State) (n : Nat) (f : Front → Front) : (s.onFront n f).dies = s.dies := rfl
@[simp] theorem State.onFront_rimClocks (s : State) (n : Nat) (f : Front → Front) : (s.onFront n f).rimClocks = s.rimClocks := rfl
@[simp] theorem State.onFront_rimCounters (s : State) (n : Nat) (f : Front → Front) : (s.onFront n f).rimCounters = s.rimCounters := rfl
@[simp] theorem State.onFront_rimSnaps (s : State) (n : Nat) (f : Front → Front) : (s.onFront n f).rimSnaps = s.rimSnaps := rfl
@[simp] theorem State.onFront_hbm (s : State) (n : Nat) (f : Front → Front) : (s.onFront n f).hbm = s.hbm := rfl
@[simp] theorem State.onFront_hostMem (s : State) (n : Nat) (f : Front → Front) : (s.onFront n f).hostMem = s.hostMem := rfl
@[simp] theorem State.onFront_peers (s : State) (n : Nat) (f : Front → Front) : (s.onFront n f).peers = s.peers := rfl
@[simp] theorem State.onFront_unreached (s : State) (n : Nat) (f : Front → Front) : (s.onFront n f).unreached = s.unreached := rfl
@[simp] theorem State.onFront_flash (s : State) (n : Nat) (f : Front → Front) : (s.onFront n f).flash = s.flash := rfl
@[simp] theorem State.onFront_homes (s : State) (n : Nat) (f : Front → Front) : (s.onFront n f).homes = s.homes := rfl
@[simp] theorem State.onFront_secClocks (s : State) (n : Nat) (f : Front → Front) : (s.onFront n f).secClocks = s.secClocks := rfl
@[simp] theorem State.onFront_poison (s : State) (n : Nat) (f : Front → Front) : (s.onFront n f).poison = s.poison := rfl
@[simp] theorem State.onFront_portPoison (s : State) (n : Nat) (f : Front → Front) : (s.onFront n f).portPoison = s.portPoison := rfl
@[simp] theorem State.onFront_heads (s : State) (n : Nat) (f : Front → Front) : (s.onFront n f).heads = s.heads := rfl
@[simp] theorem State.onFront_counters (s : State) (n : Nat) (f : Front → Front) : (s.onFront n f).counters = s.counters := rfl
@[simp] theorem State.onFront_contexts (s : State) (n : Nat) (f : Front → Front) : (s.onFront n f).contexts = s.contexts := rfl
@[simp] theorem State.onFront_nextFront (s : State) (n : Nat) (f : Front → Front) : (s.onFront n f).nextFront = s.nextFront := rfl
@[simp] theorem State.onFront_graphs (s : State) (n : Nat) (f : Front → Front) : (s.onFront n f).graphs = s.graphs := rfl
@[simp] theorem State.onFront_images (s : State) (n : Nat) (f : Front → Front) : (s.onFront n f).images = s.images := rfl
@[simp] theorem State.onFront_paging (s : State) (n : Nat) (f : Front → Front) : (s.onFront n f).paging = s.paging := rfl
@[simp] theorem State.onFront_pagingWait (s : State) (n : Nat) (f : Front → Front) : (s.onFront n f).pagingWait = s.pagingWait := rfl
@[simp] theorem State.onFront_shuttered (s : State) (n : Nat) (f : Front → Front) : (s.onFront n f).shuttered = s.shuttered := rfl
@[simp] theorem State.onFront_outstanding (s : State) (n : Nat) (f : Front → Front) : (s.onFront n f).outstanding = s.outstanding := rfl
@[simp] theorem State.onFront_lostReqs (s : State) (n : Nat) (f : Front → Front) : (s.onFront n f).lostReqs = s.lostReqs := rfl
@[simp] theorem State.onFront_cuts (s : State) (n : Nat) (f : Front → Front) : (s.onFront n f).cuts = s.cuts := rfl
@[simp] theorem State.onFront_ticketDevice (s : State) (n : Nat) (f : Front → Front) : (s.onFront n f).ticketDevice = s.ticketDevice := rfl
@[simp] theorem State.onFront_ticketSystem (s : State) (n : Nat) (f : Front → Front) : (s.onFront n f).ticketSystem = s.ticketSystem := rfl
@[simp] theorem State.onFront_snapAt (s : State) (n : Nat) (f : Front → Front) : (s.onFront n f).snapAt = s.snapAt := rfl
@[simp] theorem State.onFront_snapped (s : State) (n : Nat) (f : Front → Front) : (s.onFront n f).snapped = s.snapped := rfl
@[simp] theorem State.onFront_boot (s : State) (n : Nat) (f : Front → Front) : (s.onFront n f).boot = s.boot := rfl
@[simp] theorem State.onFront_deferred (s : State) (n : Nat) (f : Front → Front) : (s.onFront n f).deferred = s.deferred := rfl
@[simp] theorem State.onFront_sysWaits (s : State) (n : Nat) (f : Front → Front) : (s.onFront n f).sysWaits = s.sysWaits := rfl
@[simp] theorem State.onFront_out (s : State) (n : Nat) (f : Front → Front) : (s.onFront n f).out = s.out := rfl
@[simp] theorem State.onFront_flight (s : State) (n : Nat) (f : Front → Front) : (s.onFront n f).flight = s.flight := rfl
@[simp] theorem State.onFront_inputs (s : State) (n : Nat) (f : Front → Front) : (s.onFront n f).inputs = s.inputs := rfl
@[simp] theorem State.onFront_cur (s : State) (n : Nat) (f : Front → Front) : (s.onFront n f).cur = s.cur := rfl
@[simp] theorem State.onFront_issueLeft (s : State) (n : Nat) (f : Front → Front) : (s.onFront n f).issueLeft = s.issueLeft := rfl
@[simp] theorem State.onFront_op (s : State) (n : Nat) (f : Front → Front) : (s.onFront n f).op = s.op := rfl
@[simp] theorem State.onFront_hand (s : State) (n : Nat) (f : Front → Front) : (s.onFront n f).hand = s.hand := rfl
@[simp] theorem State.onFront_choice (s : State) (n : Nat) (f : Front → Front) : (s.onFront n f).choice = s.choice := rfl
@[simp] theorem State.onFront_freeCtr (s : State) (n : Nat) (f : Front → Front) : (s.onFront n f).freeCtr = s.freeCtr := rfl
@[simp] theorem State.onFront_serial (s : State) (n : Nat) (f : Front → Front) : (s.onFront n f).serial = s.serial := rfl

/-! `onGraph` changes `graphs` alone. -/
@[simp] theorem State.onGraph_ptime (s : State) (n : Nat) (f : Graph → Graph) : (s.onGraph n f).ptime = s.ptime := rfl
@[simp] theorem State.onGraph_stopped (s : State) (n : Nat) (f : Graph → Graph) : (s.onGraph n f).stopped = s.stopped := rfl
@[simp] theorem State.onGraph_gusts (s : State) (n : Nat) (f : Graph → Graph) : (s.onGraph n f).gusts = s.gusts := rfl
@[simp] theorem State.onGraph_squalls (s : State) (n : Nat) (f : Graph → Graph) : (s.onGraph n f).squalls = s.squalls := rfl
@[simp] theorem State.onGraph_cores (s : State) (n : Nat) (f : Graph → Graph) : (s.onGraph n f).cores = s.cores := rfl
@[simp] theorem State.onGraph_dies (s : State) (n : Nat) (f : Graph → Graph) : (s.onGraph n f).dies = s.dies := rfl
@[simp] theorem State.onGraph_rimClocks (s : State) (n : Nat) (f : Graph → Graph) : (s.onGraph n f).rimClocks = s.rimClocks := rfl
@[simp] theorem State.onGraph_rimCounters (s : State) (n : Nat) (f : Graph → Graph) : (s.onGraph n f).rimCounters = s.rimCounters := rfl
@[simp] theorem State.onGraph_rimSnaps (s : State) (n : Nat) (f : Graph → Graph) : (s.onGraph n f).rimSnaps = s.rimSnaps := rfl
@[simp] theorem State.onGraph_hbm (s : State) (n : Nat) (f : Graph → Graph) : (s.onGraph n f).hbm = s.hbm := rfl
@[simp] theorem State.onGraph_hostMem (s : State) (n : Nat) (f : Graph → Graph) : (s.onGraph n f).hostMem = s.hostMem := rfl
@[simp] theorem State.onGraph_peers (s : State) (n : Nat) (f : Graph → Graph) : (s.onGraph n f).peers = s.peers := rfl
@[simp] theorem State.onGraph_unreached (s : State) (n : Nat) (f : Graph → Graph) : (s.onGraph n f).unreached = s.unreached := rfl
@[simp] theorem State.onGraph_flash (s : State) (n : Nat) (f : Graph → Graph) : (s.onGraph n f).flash = s.flash := rfl
@[simp] theorem State.onGraph_homes (s : State) (n : Nat) (f : Graph → Graph) : (s.onGraph n f).homes = s.homes := rfl
@[simp] theorem State.onGraph_secClocks (s : State) (n : Nat) (f : Graph → Graph) : (s.onGraph n f).secClocks = s.secClocks := rfl
@[simp] theorem State.onGraph_poison (s : State) (n : Nat) (f : Graph → Graph) : (s.onGraph n f).poison = s.poison := rfl
@[simp] theorem State.onGraph_portPoison (s : State) (n : Nat) (f : Graph → Graph) : (s.onGraph n f).portPoison = s.portPoison := rfl
@[simp] theorem State.onGraph_heads (s : State) (n : Nat) (f : Graph → Graph) : (s.onGraph n f).heads = s.heads := rfl
@[simp] theorem State.onGraph_counters (s : State) (n : Nat) (f : Graph → Graph) : (s.onGraph n f).counters = s.counters := rfl
@[simp] theorem State.onGraph_contexts (s : State) (n : Nat) (f : Graph → Graph) : (s.onGraph n f).contexts = s.contexts := rfl
@[simp] theorem State.onGraph_fronts (s : State) (n : Nat) (f : Graph → Graph) : (s.onGraph n f).fronts = s.fronts := rfl
@[simp] theorem State.onGraph_nextFront (s : State) (n : Nat) (f : Graph → Graph) : (s.onGraph n f).nextFront = s.nextFront := rfl
@[simp] theorem State.onGraph_images (s : State) (n : Nat) (f : Graph → Graph) : (s.onGraph n f).images = s.images := rfl
@[simp] theorem State.onGraph_paging (s : State) (n : Nat) (f : Graph → Graph) : (s.onGraph n f).paging = s.paging := rfl
@[simp] theorem State.onGraph_pagingWait (s : State) (n : Nat) (f : Graph → Graph) : (s.onGraph n f).pagingWait = s.pagingWait := rfl
@[simp] theorem State.onGraph_shuttered (s : State) (n : Nat) (f : Graph → Graph) : (s.onGraph n f).shuttered = s.shuttered := rfl
@[simp] theorem State.onGraph_outstanding (s : State) (n : Nat) (f : Graph → Graph) : (s.onGraph n f).outstanding = s.outstanding := rfl
@[simp] theorem State.onGraph_lostReqs (s : State) (n : Nat) (f : Graph → Graph) : (s.onGraph n f).lostReqs = s.lostReqs := rfl
@[simp] theorem State.onGraph_cuts (s : State) (n : Nat) (f : Graph → Graph) : (s.onGraph n f).cuts = s.cuts := rfl
@[simp] theorem State.onGraph_ticketDevice (s : State) (n : Nat) (f : Graph → Graph) : (s.onGraph n f).ticketDevice = s.ticketDevice := rfl
@[simp] theorem State.onGraph_ticketSystem (s : State) (n : Nat) (f : Graph → Graph) : (s.onGraph n f).ticketSystem = s.ticketSystem := rfl
@[simp] theorem State.onGraph_snapAt (s : State) (n : Nat) (f : Graph → Graph) : (s.onGraph n f).snapAt = s.snapAt := rfl
@[simp] theorem State.onGraph_snapped (s : State) (n : Nat) (f : Graph → Graph) : (s.onGraph n f).snapped = s.snapped := rfl
@[simp] theorem State.onGraph_boot (s : State) (n : Nat) (f : Graph → Graph) : (s.onGraph n f).boot = s.boot := rfl
@[simp] theorem State.onGraph_deferred (s : State) (n : Nat) (f : Graph → Graph) : (s.onGraph n f).deferred = s.deferred := rfl
@[simp] theorem State.onGraph_sysWaits (s : State) (n : Nat) (f : Graph → Graph) : (s.onGraph n f).sysWaits = s.sysWaits := rfl
@[simp] theorem State.onGraph_out (s : State) (n : Nat) (f : Graph → Graph) : (s.onGraph n f).out = s.out := rfl
@[simp] theorem State.onGraph_flight (s : State) (n : Nat) (f : Graph → Graph) : (s.onGraph n f).flight = s.flight := rfl
@[simp] theorem State.onGraph_inputs (s : State) (n : Nat) (f : Graph → Graph) : (s.onGraph n f).inputs = s.inputs := rfl
@[simp] theorem State.onGraph_cur (s : State) (n : Nat) (f : Graph → Graph) : (s.onGraph n f).cur = s.cur := rfl
@[simp] theorem State.onGraph_issueLeft (s : State) (n : Nat) (f : Graph → Graph) : (s.onGraph n f).issueLeft = s.issueLeft := rfl
@[simp] theorem State.onGraph_op (s : State) (n : Nat) (f : Graph → Graph) : (s.onGraph n f).op = s.op := rfl
@[simp] theorem State.onGraph_hand (s : State) (n : Nat) (f : Graph → Graph) : (s.onGraph n f).hand = s.hand := rfl
@[simp] theorem State.onGraph_choice (s : State) (n : Nat) (f : Graph → Graph) : (s.onGraph n f).choice = s.choice := rfl
@[simp] theorem State.onGraph_freeCtr (s : State) (n : Nat) (f : Graph → Graph) : (s.onGraph n f).freeCtr = s.freeCtr := rfl
@[simp] theorem State.onGraph_serial (s : State) (n : Nat) (f : Graph → Graph) : (s.onGraph n f).serial = s.serial := rfl

/-! `onHome` changes `homes` alone. -/
@[simp] theorem State.onHome_ptime (s : State) (p : Nat) (f : HomeLine → HomeLine) : (s.onHome p f).ptime = s.ptime := rfl
@[simp] theorem State.onHome_stopped (s : State) (p : Nat) (f : HomeLine → HomeLine) : (s.onHome p f).stopped = s.stopped := rfl
@[simp] theorem State.onHome_gusts (s : State) (p : Nat) (f : HomeLine → HomeLine) : (s.onHome p f).gusts = s.gusts := rfl
@[simp] theorem State.onHome_squalls (s : State) (p : Nat) (f : HomeLine → HomeLine) : (s.onHome p f).squalls = s.squalls := rfl
@[simp] theorem State.onHome_cores (s : State) (p : Nat) (f : HomeLine → HomeLine) : (s.onHome p f).cores = s.cores := rfl
@[simp] theorem State.onHome_dies (s : State) (p : Nat) (f : HomeLine → HomeLine) : (s.onHome p f).dies = s.dies := rfl
@[simp] theorem State.onHome_rimClocks (s : State) (p : Nat) (f : HomeLine → HomeLine) : (s.onHome p f).rimClocks = s.rimClocks := rfl
@[simp] theorem State.onHome_rimCounters (s : State) (p : Nat) (f : HomeLine → HomeLine) : (s.onHome p f).rimCounters = s.rimCounters := rfl
@[simp] theorem State.onHome_rimSnaps (s : State) (p : Nat) (f : HomeLine → HomeLine) : (s.onHome p f).rimSnaps = s.rimSnaps := rfl
@[simp] theorem State.onHome_hbm (s : State) (p : Nat) (f : HomeLine → HomeLine) : (s.onHome p f).hbm = s.hbm := rfl
@[simp] theorem State.onHome_hostMem (s : State) (p : Nat) (f : HomeLine → HomeLine) : (s.onHome p f).hostMem = s.hostMem := rfl
@[simp] theorem State.onHome_peers (s : State) (p : Nat) (f : HomeLine → HomeLine) : (s.onHome p f).peers = s.peers := rfl
@[simp] theorem State.onHome_unreached (s : State) (p : Nat) (f : HomeLine → HomeLine) : (s.onHome p f).unreached = s.unreached := rfl
@[simp] theorem State.onHome_flash (s : State) (p : Nat) (f : HomeLine → HomeLine) : (s.onHome p f).flash = s.flash := rfl
@[simp] theorem State.onHome_secClocks (s : State) (p : Nat) (f : HomeLine → HomeLine) : (s.onHome p f).secClocks = s.secClocks := rfl
@[simp] theorem State.onHome_poison (s : State) (p : Nat) (f : HomeLine → HomeLine) : (s.onHome p f).poison = s.poison := rfl
@[simp] theorem State.onHome_portPoison (s : State) (p : Nat) (f : HomeLine → HomeLine) : (s.onHome p f).portPoison = s.portPoison := rfl
@[simp] theorem State.onHome_heads (s : State) (p : Nat) (f : HomeLine → HomeLine) : (s.onHome p f).heads = s.heads := rfl
@[simp] theorem State.onHome_counters (s : State) (p : Nat) (f : HomeLine → HomeLine) : (s.onHome p f).counters = s.counters := rfl
@[simp] theorem State.onHome_contexts (s : State) (p : Nat) (f : HomeLine → HomeLine) : (s.onHome p f).contexts = s.contexts := rfl
@[simp] theorem State.onHome_fronts (s : State) (p : Nat) (f : HomeLine → HomeLine) : (s.onHome p f).fronts = s.fronts := rfl
@[simp] theorem State.onHome_nextFront (s : State) (p : Nat) (f : HomeLine → HomeLine) : (s.onHome p f).nextFront = s.nextFront := rfl
@[simp] theorem State.onHome_graphs (s : State) (p : Nat) (f : HomeLine → HomeLine) : (s.onHome p f).graphs = s.graphs := rfl
@[simp] theorem State.onHome_images (s : State) (p : Nat) (f : HomeLine → HomeLine) : (s.onHome p f).images = s.images := rfl
@[simp] theorem State.onHome_paging (s : State) (p : Nat) (f : HomeLine → HomeLine) : (s.onHome p f).paging = s.paging := rfl
@[simp] theorem State.onHome_pagingWait (s : State) (p : Nat) (f : HomeLine → HomeLine) : (s.onHome p f).pagingWait = s.pagingWait := rfl
@[simp] theorem State.onHome_shuttered (s : State) (p : Nat) (f : HomeLine → HomeLine) : (s.onHome p f).shuttered = s.shuttered := rfl
@[simp] theorem State.onHome_outstanding (s : State) (p : Nat) (f : HomeLine → HomeLine) : (s.onHome p f).outstanding = s.outstanding := rfl
@[simp] theorem State.onHome_lostReqs (s : State) (p : Nat) (f : HomeLine → HomeLine) : (s.onHome p f).lostReqs = s.lostReqs := rfl
@[simp] theorem State.onHome_cuts (s : State) (p : Nat) (f : HomeLine → HomeLine) : (s.onHome p f).cuts = s.cuts := rfl
@[simp] theorem State.onHome_ticketDevice (s : State) (p : Nat) (f : HomeLine → HomeLine) : (s.onHome p f).ticketDevice = s.ticketDevice := rfl
@[simp] theorem State.onHome_ticketSystem (s : State) (p : Nat) (f : HomeLine → HomeLine) : (s.onHome p f).ticketSystem = s.ticketSystem := rfl
@[simp] theorem State.onHome_snapAt (s : State) (p : Nat) (f : HomeLine → HomeLine) : (s.onHome p f).snapAt = s.snapAt := rfl
@[simp] theorem State.onHome_snapped (s : State) (p : Nat) (f : HomeLine → HomeLine) : (s.onHome p f).snapped = s.snapped := rfl
@[simp] theorem State.onHome_boot (s : State) (p : Nat) (f : HomeLine → HomeLine) : (s.onHome p f).boot = s.boot := rfl
@[simp] theorem State.onHome_deferred (s : State) (p : Nat) (f : HomeLine → HomeLine) : (s.onHome p f).deferred = s.deferred := rfl
@[simp] theorem State.onHome_sysWaits (s : State) (p : Nat) (f : HomeLine → HomeLine) : (s.onHome p f).sysWaits = s.sysWaits := rfl
@[simp] theorem State.onHome_out (s : State) (p : Nat) (f : HomeLine → HomeLine) : (s.onHome p f).out = s.out := rfl
@[simp] theorem State.onHome_flight (s : State) (p : Nat) (f : HomeLine → HomeLine) : (s.onHome p f).flight = s.flight := rfl
@[simp] theorem State.onHome_inputs (s : State) (p : Nat) (f : HomeLine → HomeLine) : (s.onHome p f).inputs = s.inputs := rfl
@[simp] theorem State.onHome_cur (s : State) (p : Nat) (f : HomeLine → HomeLine) : (s.onHome p f).cur = s.cur := rfl
@[simp] theorem State.onHome_issueLeft (s : State) (p : Nat) (f : HomeLine → HomeLine) : (s.onHome p f).issueLeft = s.issueLeft := rfl
@[simp] theorem State.onHome_op (s : State) (p : Nat) (f : HomeLine → HomeLine) : (s.onHome p f).op = s.op := rfl
@[simp] theorem State.onHome_hand (s : State) (p : Nat) (f : HomeLine → HomeLine) : (s.onHome p f).hand = s.hand := rfl
@[simp] theorem State.onHome_choice (s : State) (p : Nat) (f : HomeLine → HomeLine) : (s.onHome p f).choice = s.choice := rfl
@[simp] theorem State.onHome_freeCtr (s : State) (p : Nat) (f : HomeLine → HomeLine) : (s.onHome p f).freeCtr = s.freeCtr := rfl
@[simp] theorem State.onHome_serial (s : State) (p : Nat) (f : HomeLine → HomeLine) : (s.onHome p f).serial = s.serial := rfl

/-! `onHead` changes `heads` alone. -/
@[simp] theorem State.onHead_ptime (s : State) (n : Nat) (f : QHead → QHead) : (s.onHead n f).ptime = s.ptime := rfl
@[simp] theorem State.onHead_stopped (s : State) (n : Nat) (f : QHead → QHead) : (s.onHead n f).stopped = s.stopped := rfl
@[simp] theorem State.onHead_gusts (s : State) (n : Nat) (f : QHead → QHead) : (s.onHead n f).gusts = s.gusts := rfl
@[simp] theorem State.onHead_squalls (s : State) (n : Nat) (f : QHead → QHead) : (s.onHead n f).squalls = s.squalls := rfl
@[simp] theorem State.onHead_cores (s : State) (n : Nat) (f : QHead → QHead) : (s.onHead n f).cores = s.cores := rfl
@[simp] theorem State.onHead_dies (s : State) (n : Nat) (f : QHead → QHead) : (s.onHead n f).dies = s.dies := rfl
@[simp] theorem State.onHead_rimClocks (s : State) (n : Nat) (f : QHead → QHead) : (s.onHead n f).rimClocks = s.rimClocks := rfl
@[simp] theorem State.onHead_rimCounters (s : State) (n : Nat) (f : QHead → QHead) : (s.onHead n f).rimCounters = s.rimCounters := rfl
@[simp] theorem State.onHead_rimSnaps (s : State) (n : Nat) (f : QHead → QHead) : (s.onHead n f).rimSnaps = s.rimSnaps := rfl
@[simp] theorem State.onHead_hbm (s : State) (n : Nat) (f : QHead → QHead) : (s.onHead n f).hbm = s.hbm := rfl
@[simp] theorem State.onHead_hostMem (s : State) (n : Nat) (f : QHead → QHead) : (s.onHead n f).hostMem = s.hostMem := rfl
@[simp] theorem State.onHead_peers (s : State) (n : Nat) (f : QHead → QHead) : (s.onHead n f).peers = s.peers := rfl
@[simp] theorem State.onHead_unreached (s : State) (n : Nat) (f : QHead → QHead) : (s.onHead n f).unreached = s.unreached := rfl
@[simp] theorem State.onHead_flash (s : State) (n : Nat) (f : QHead → QHead) : (s.onHead n f).flash = s.flash := rfl
@[simp] theorem State.onHead_homes (s : State) (n : Nat) (f : QHead → QHead) : (s.onHead n f).homes = s.homes := rfl
@[simp] theorem State.onHead_secClocks (s : State) (n : Nat) (f : QHead → QHead) : (s.onHead n f).secClocks = s.secClocks := rfl
@[simp] theorem State.onHead_poison (s : State) (n : Nat) (f : QHead → QHead) : (s.onHead n f).poison = s.poison := rfl
@[simp] theorem State.onHead_portPoison (s : State) (n : Nat) (f : QHead → QHead) : (s.onHead n f).portPoison = s.portPoison := rfl
@[simp] theorem State.onHead_counters (s : State) (n : Nat) (f : QHead → QHead) : (s.onHead n f).counters = s.counters := rfl
@[simp] theorem State.onHead_contexts (s : State) (n : Nat) (f : QHead → QHead) : (s.onHead n f).contexts = s.contexts := rfl
@[simp] theorem State.onHead_fronts (s : State) (n : Nat) (f : QHead → QHead) : (s.onHead n f).fronts = s.fronts := rfl
@[simp] theorem State.onHead_nextFront (s : State) (n : Nat) (f : QHead → QHead) : (s.onHead n f).nextFront = s.nextFront := rfl
@[simp] theorem State.onHead_graphs (s : State) (n : Nat) (f : QHead → QHead) : (s.onHead n f).graphs = s.graphs := rfl
@[simp] theorem State.onHead_images (s : State) (n : Nat) (f : QHead → QHead) : (s.onHead n f).images = s.images := rfl
@[simp] theorem State.onHead_paging (s : State) (n : Nat) (f : QHead → QHead) : (s.onHead n f).paging = s.paging := rfl
@[simp] theorem State.onHead_pagingWait (s : State) (n : Nat) (f : QHead → QHead) : (s.onHead n f).pagingWait = s.pagingWait := rfl
@[simp] theorem State.onHead_shuttered (s : State) (n : Nat) (f : QHead → QHead) : (s.onHead n f).shuttered = s.shuttered := rfl
@[simp] theorem State.onHead_outstanding (s : State) (n : Nat) (f : QHead → QHead) : (s.onHead n f).outstanding = s.outstanding := rfl
@[simp] theorem State.onHead_lostReqs (s : State) (n : Nat) (f : QHead → QHead) : (s.onHead n f).lostReqs = s.lostReqs := rfl
@[simp] theorem State.onHead_cuts (s : State) (n : Nat) (f : QHead → QHead) : (s.onHead n f).cuts = s.cuts := rfl
@[simp] theorem State.onHead_ticketDevice (s : State) (n : Nat) (f : QHead → QHead) : (s.onHead n f).ticketDevice = s.ticketDevice := rfl
@[simp] theorem State.onHead_ticketSystem (s : State) (n : Nat) (f : QHead → QHead) : (s.onHead n f).ticketSystem = s.ticketSystem := rfl
@[simp] theorem State.onHead_snapAt (s : State) (n : Nat) (f : QHead → QHead) : (s.onHead n f).snapAt = s.snapAt := rfl
@[simp] theorem State.onHead_snapped (s : State) (n : Nat) (f : QHead → QHead) : (s.onHead n f).snapped = s.snapped := rfl
@[simp] theorem State.onHead_boot (s : State) (n : Nat) (f : QHead → QHead) : (s.onHead n f).boot = s.boot := rfl
@[simp] theorem State.onHead_deferred (s : State) (n : Nat) (f : QHead → QHead) : (s.onHead n f).deferred = s.deferred := rfl
@[simp] theorem State.onHead_sysWaits (s : State) (n : Nat) (f : QHead → QHead) : (s.onHead n f).sysWaits = s.sysWaits := rfl
@[simp] theorem State.onHead_out (s : State) (n : Nat) (f : QHead → QHead) : (s.onHead n f).out = s.out := rfl
@[simp] theorem State.onHead_flight (s : State) (n : Nat) (f : QHead → QHead) : (s.onHead n f).flight = s.flight := rfl
@[simp] theorem State.onHead_inputs (s : State) (n : Nat) (f : QHead → QHead) : (s.onHead n f).inputs = s.inputs := rfl
@[simp] theorem State.onHead_cur (s : State) (n : Nat) (f : QHead → QHead) : (s.onHead n f).cur = s.cur := rfl
@[simp] theorem State.onHead_issueLeft (s : State) (n : Nat) (f : QHead → QHead) : (s.onHead n f).issueLeft = s.issueLeft := rfl
@[simp] theorem State.onHead_op (s : State) (n : Nat) (f : QHead → QHead) : (s.onHead n f).op = s.op := rfl
@[simp] theorem State.onHead_hand (s : State) (n : Nat) (f : QHead → QHead) : (s.onHead n f).hand = s.hand := rfl
@[simp] theorem State.onHead_choice (s : State) (n : Nat) (f : QHead → QHead) : (s.onHead n f).choice = s.choice := rfl
@[simp] theorem State.onHead_freeCtr (s : State) (n : Nat) (f : QHead → QHead) : (s.onHead n f).freeCtr = s.freeCtr := rfl
@[simp] theorem State.onHead_serial (s : State) (n : Nat) (f : QHead → QHead) : (s.onHead n f).serial = s.serial := rfl

/-! `onL1` changes `dies` alone. -/
@[simp] theorem State.onL1_ptime (s : State) (d : Nat) (l : Loc) (f : L1Line → L1Line) : (s.onL1 d l f).ptime = s.ptime := rfl
@[simp] theorem State.onL1_stopped (s : State) (d : Nat) (l : Loc) (f : L1Line → L1Line) : (s.onL1 d l f).stopped = s.stopped := rfl
@[simp] theorem State.onL1_gusts (s : State) (d : Nat) (l : Loc) (f : L1Line → L1Line) : (s.onL1 d l f).gusts = s.gusts := rfl
@[simp] theorem State.onL1_squalls (s : State) (d : Nat) (l : Loc) (f : L1Line → L1Line) : (s.onL1 d l f).squalls = s.squalls := rfl
@[simp] theorem State.onL1_cores (s : State) (d : Nat) (l : Loc) (f : L1Line → L1Line) : (s.onL1 d l f).cores = s.cores := rfl
@[simp] theorem State.onL1_rimClocks (s : State) (d : Nat) (l : Loc) (f : L1Line → L1Line) : (s.onL1 d l f).rimClocks = s.rimClocks := rfl
@[simp] theorem State.onL1_rimCounters (s : State) (d : Nat) (l : Loc) (f : L1Line → L1Line) : (s.onL1 d l f).rimCounters = s.rimCounters := rfl
@[simp] theorem State.onL1_rimSnaps (s : State) (d : Nat) (l : Loc) (f : L1Line → L1Line) : (s.onL1 d l f).rimSnaps = s.rimSnaps := rfl
@[simp] theorem State.onL1_hbm (s : State) (d : Nat) (l : Loc) (f : L1Line → L1Line) : (s.onL1 d l f).hbm = s.hbm := rfl
@[simp] theorem State.onL1_hostMem (s : State) (d : Nat) (l : Loc) (f : L1Line → L1Line) : (s.onL1 d l f).hostMem = s.hostMem := rfl
@[simp] theorem State.onL1_peers (s : State) (d : Nat) (l : Loc) (f : L1Line → L1Line) : (s.onL1 d l f).peers = s.peers := rfl
@[simp] theorem State.onL1_unreached (s : State) (d : Nat) (l : Loc) (f : L1Line → L1Line) : (s.onL1 d l f).unreached = s.unreached := rfl
@[simp] theorem State.onL1_flash (s : State) (d : Nat) (l : Loc) (f : L1Line → L1Line) : (s.onL1 d l f).flash = s.flash := rfl
@[simp] theorem State.onL1_homes (s : State) (d : Nat) (l : Loc) (f : L1Line → L1Line) : (s.onL1 d l f).homes = s.homes := rfl
@[simp] theorem State.onL1_secClocks (s : State) (d : Nat) (l : Loc) (f : L1Line → L1Line) : (s.onL1 d l f).secClocks = s.secClocks := rfl
@[simp] theorem State.onL1_poison (s : State) (d : Nat) (l : Loc) (f : L1Line → L1Line) : (s.onL1 d l f).poison = s.poison := rfl
@[simp] theorem State.onL1_portPoison (s : State) (d : Nat) (l : Loc) (f : L1Line → L1Line) : (s.onL1 d l f).portPoison = s.portPoison := rfl
@[simp] theorem State.onL1_heads (s : State) (d : Nat) (l : Loc) (f : L1Line → L1Line) : (s.onL1 d l f).heads = s.heads := rfl
@[simp] theorem State.onL1_counters (s : State) (d : Nat) (l : Loc) (f : L1Line → L1Line) : (s.onL1 d l f).counters = s.counters := rfl
@[simp] theorem State.onL1_contexts (s : State) (d : Nat) (l : Loc) (f : L1Line → L1Line) : (s.onL1 d l f).contexts = s.contexts := rfl
@[simp] theorem State.onL1_fronts (s : State) (d : Nat) (l : Loc) (f : L1Line → L1Line) : (s.onL1 d l f).fronts = s.fronts := rfl
@[simp] theorem State.onL1_nextFront (s : State) (d : Nat) (l : Loc) (f : L1Line → L1Line) : (s.onL1 d l f).nextFront = s.nextFront := rfl
@[simp] theorem State.onL1_graphs (s : State) (d : Nat) (l : Loc) (f : L1Line → L1Line) : (s.onL1 d l f).graphs = s.graphs := rfl
@[simp] theorem State.onL1_images (s : State) (d : Nat) (l : Loc) (f : L1Line → L1Line) : (s.onL1 d l f).images = s.images := rfl
@[simp] theorem State.onL1_paging (s : State) (d : Nat) (l : Loc) (f : L1Line → L1Line) : (s.onL1 d l f).paging = s.paging := rfl
@[simp] theorem State.onL1_pagingWait (s : State) (d : Nat) (l : Loc) (f : L1Line → L1Line) : (s.onL1 d l f).pagingWait = s.pagingWait := rfl
@[simp] theorem State.onL1_shuttered (s : State) (d : Nat) (l : Loc) (f : L1Line → L1Line) : (s.onL1 d l f).shuttered = s.shuttered := rfl
@[simp] theorem State.onL1_outstanding (s : State) (d : Nat) (l : Loc) (f : L1Line → L1Line) : (s.onL1 d l f).outstanding = s.outstanding := rfl
@[simp] theorem State.onL1_lostReqs (s : State) (d : Nat) (l : Loc) (f : L1Line → L1Line) : (s.onL1 d l f).lostReqs = s.lostReqs := rfl
@[simp] theorem State.onL1_cuts (s : State) (d : Nat) (l : Loc) (f : L1Line → L1Line) : (s.onL1 d l f).cuts = s.cuts := rfl
@[simp] theorem State.onL1_ticketDevice (s : State) (d : Nat) (l : Loc) (f : L1Line → L1Line) : (s.onL1 d l f).ticketDevice = s.ticketDevice := rfl
@[simp] theorem State.onL1_ticketSystem (s : State) (d : Nat) (l : Loc) (f : L1Line → L1Line) : (s.onL1 d l f).ticketSystem = s.ticketSystem := rfl
@[simp] theorem State.onL1_snapAt (s : State) (d : Nat) (l : Loc) (f : L1Line → L1Line) : (s.onL1 d l f).snapAt = s.snapAt := rfl
@[simp] theorem State.onL1_snapped (s : State) (d : Nat) (l : Loc) (f : L1Line → L1Line) : (s.onL1 d l f).snapped = s.snapped := rfl
@[simp] theorem State.onL1_boot (s : State) (d : Nat) (l : Loc) (f : L1Line → L1Line) : (s.onL1 d l f).boot = s.boot := rfl
@[simp] theorem State.onL1_deferred (s : State) (d : Nat) (l : Loc) (f : L1Line → L1Line) : (s.onL1 d l f).deferred = s.deferred := rfl
@[simp] theorem State.onL1_sysWaits (s : State) (d : Nat) (l : Loc) (f : L1Line → L1Line) : (s.onL1 d l f).sysWaits = s.sysWaits := rfl
@[simp] theorem State.onL1_out (s : State) (d : Nat) (l : Loc) (f : L1Line → L1Line) : (s.onL1 d l f).out = s.out := rfl
@[simp] theorem State.onL1_flight (s : State) (d : Nat) (l : Loc) (f : L1Line → L1Line) : (s.onL1 d l f).flight = s.flight := rfl
@[simp] theorem State.onL1_inputs (s : State) (d : Nat) (l : Loc) (f : L1Line → L1Line) : (s.onL1 d l f).inputs = s.inputs := rfl
@[simp] theorem State.onL1_cur (s : State) (d : Nat) (l : Loc) (f : L1Line → L1Line) : (s.onL1 d l f).cur = s.cur := rfl
@[simp] theorem State.onL1_issueLeft (s : State) (d : Nat) (l : Loc) (f : L1Line → L1Line) : (s.onL1 d l f).issueLeft = s.issueLeft := rfl
@[simp] theorem State.onL1_op (s : State) (d : Nat) (l : Loc) (f : L1Line → L1Line) : (s.onL1 d l f).op = s.op := rfl
@[simp] theorem State.onL1_hand (s : State) (d : Nat) (l : Loc) (f : L1Line → L1Line) : (s.onL1 d l f).hand = s.hand := rfl
@[simp] theorem State.onL1_choice (s : State) (d : Nat) (l : Loc) (f : L1Line → L1Line) : (s.onL1 d l f).choice = s.choice := rfl
@[simp] theorem State.onL1_freeCtr (s : State) (d : Nat) (l : Loc) (f : L1Line → L1Line) : (s.onL1 d l f).freeCtr = s.freeCtr := rfl
@[simp] theorem State.onL1_serial (s : State) (d : Nat) (l : Loc) (f : L1Line → L1Line) : (s.onL1 d l f).serial = s.serial := rfl

/-! `send` changes `flight` alone. -/
@[simp] theorem State.send_ptime (s : State) (i : Instr) : (s.send i).ptime = s.ptime := rfl
@[simp] theorem State.send_stopped (s : State) (i : Instr) : (s.send i).stopped = s.stopped := rfl
@[simp] theorem State.send_gusts (s : State) (i : Instr) : (s.send i).gusts = s.gusts := rfl
@[simp] theorem State.send_squalls (s : State) (i : Instr) : (s.send i).squalls = s.squalls := rfl
@[simp] theorem State.send_cores (s : State) (i : Instr) : (s.send i).cores = s.cores := rfl
@[simp] theorem State.send_dies (s : State) (i : Instr) : (s.send i).dies = s.dies := rfl
@[simp] theorem State.send_rimClocks (s : State) (i : Instr) : (s.send i).rimClocks = s.rimClocks := rfl
@[simp] theorem State.send_rimCounters (s : State) (i : Instr) : (s.send i).rimCounters = s.rimCounters := rfl
@[simp] theorem State.send_rimSnaps (s : State) (i : Instr) : (s.send i).rimSnaps = s.rimSnaps := rfl
@[simp] theorem State.send_hbm (s : State) (i : Instr) : (s.send i).hbm = s.hbm := rfl
@[simp] theorem State.send_hostMem (s : State) (i : Instr) : (s.send i).hostMem = s.hostMem := rfl
@[simp] theorem State.send_peers (s : State) (i : Instr) : (s.send i).peers = s.peers := rfl
@[simp] theorem State.send_unreached (s : State) (i : Instr) : (s.send i).unreached = s.unreached := rfl
@[simp] theorem State.send_flash (s : State) (i : Instr) : (s.send i).flash = s.flash := rfl
@[simp] theorem State.send_homes (s : State) (i : Instr) : (s.send i).homes = s.homes := rfl
@[simp] theorem State.send_secClocks (s : State) (i : Instr) : (s.send i).secClocks = s.secClocks := rfl
@[simp] theorem State.send_poison (s : State) (i : Instr) : (s.send i).poison = s.poison := rfl
@[simp] theorem State.send_portPoison (s : State) (i : Instr) : (s.send i).portPoison = s.portPoison := rfl
@[simp] theorem State.send_heads (s : State) (i : Instr) : (s.send i).heads = s.heads := rfl
@[simp] theorem State.send_counters (s : State) (i : Instr) : (s.send i).counters = s.counters := rfl
@[simp] theorem State.send_contexts (s : State) (i : Instr) : (s.send i).contexts = s.contexts := rfl
@[simp] theorem State.send_fronts (s : State) (i : Instr) : (s.send i).fronts = s.fronts := rfl
@[simp] theorem State.send_nextFront (s : State) (i : Instr) : (s.send i).nextFront = s.nextFront := rfl
@[simp] theorem State.send_graphs (s : State) (i : Instr) : (s.send i).graphs = s.graphs := rfl
@[simp] theorem State.send_images (s : State) (i : Instr) : (s.send i).images = s.images := rfl
@[simp] theorem State.send_paging (s : State) (i : Instr) : (s.send i).paging = s.paging := rfl
@[simp] theorem State.send_pagingWait (s : State) (i : Instr) : (s.send i).pagingWait = s.pagingWait := rfl
@[simp] theorem State.send_shuttered (s : State) (i : Instr) : (s.send i).shuttered = s.shuttered := rfl
@[simp] theorem State.send_outstanding (s : State) (i : Instr) : (s.send i).outstanding = s.outstanding := rfl
@[simp] theorem State.send_lostReqs (s : State) (i : Instr) : (s.send i).lostReqs = s.lostReqs := rfl
@[simp] theorem State.send_cuts (s : State) (i : Instr) : (s.send i).cuts = s.cuts := rfl
@[simp] theorem State.send_ticketDevice (s : State) (i : Instr) : (s.send i).ticketDevice = s.ticketDevice := rfl
@[simp] theorem State.send_ticketSystem (s : State) (i : Instr) : (s.send i).ticketSystem = s.ticketSystem := rfl
@[simp] theorem State.send_snapAt (s : State) (i : Instr) : (s.send i).snapAt = s.snapAt := rfl
@[simp] theorem State.send_snapped (s : State) (i : Instr) : (s.send i).snapped = s.snapped := rfl
@[simp] theorem State.send_boot (s : State) (i : Instr) : (s.send i).boot = s.boot := rfl
@[simp] theorem State.send_deferred (s : State) (i : Instr) : (s.send i).deferred = s.deferred := rfl
@[simp] theorem State.send_sysWaits (s : State) (i : Instr) : (s.send i).sysWaits = s.sysWaits := rfl
@[simp] theorem State.send_out (s : State) (i : Instr) : (s.send i).out = s.out := rfl
@[simp] theorem State.send_inputs (s : State) (i : Instr) : (s.send i).inputs = s.inputs := rfl
@[simp] theorem State.send_cur (s : State) (i : Instr) : (s.send i).cur = s.cur := rfl
@[simp] theorem State.send_issueLeft (s : State) (i : Instr) : (s.send i).issueLeft = s.issueLeft := rfl
@[simp] theorem State.send_op (s : State) (i : Instr) : (s.send i).op = s.op := rfl
@[simp] theorem State.send_hand (s : State) (i : Instr) : (s.send i).hand = s.hand := rfl
@[simp] theorem State.send_choice (s : State) (i : Instr) : (s.send i).choice = s.choice := rfl
@[simp] theorem State.send_freeCtr (s : State) (i : Instr) : (s.send i).freeCtr = s.freeCtr := rfl
@[simp] theorem State.send_serial (s : State) (i : Instr) : (s.send i).serial = s.serial := rfl

/-! `emit` changes `out` alone. -/
@[simp] theorem State.emit_ptime (s : State) (o : Out) : (s.emit o).ptime = s.ptime := rfl
@[simp] theorem State.emit_stopped (s : State) (o : Out) : (s.emit o).stopped = s.stopped := rfl
@[simp] theorem State.emit_gusts (s : State) (o : Out) : (s.emit o).gusts = s.gusts := rfl
@[simp] theorem State.emit_squalls (s : State) (o : Out) : (s.emit o).squalls = s.squalls := rfl
@[simp] theorem State.emit_cores (s : State) (o : Out) : (s.emit o).cores = s.cores := rfl
@[simp] theorem State.emit_dies (s : State) (o : Out) : (s.emit o).dies = s.dies := rfl
@[simp] theorem State.emit_rimClocks (s : State) (o : Out) : (s.emit o).rimClocks = s.rimClocks := rfl
@[simp] theorem State.emit_rimCounters (s : State) (o : Out) : (s.emit o).rimCounters = s.rimCounters := rfl
@[simp] theorem State.emit_rimSnaps (s : State) (o : Out) : (s.emit o).rimSnaps = s.rimSnaps := rfl
@[simp] theorem State.emit_hbm (s : State) (o : Out) : (s.emit o).hbm = s.hbm := rfl
@[simp] theorem State.emit_hostMem (s : State) (o : Out) : (s.emit o).hostMem = s.hostMem := rfl
@[simp] theorem State.emit_peers (s : State) (o : Out) : (s.emit o).peers = s.peers := rfl
@[simp] theorem State.emit_unreached (s : State) (o : Out) : (s.emit o).unreached = s.unreached := rfl
@[simp] theorem State.emit_flash (s : State) (o : Out) : (s.emit o).flash = s.flash := rfl
@[simp] theorem State.emit_homes (s : State) (o : Out) : (s.emit o).homes = s.homes := rfl
@[simp] theorem State.emit_secClocks (s : State) (o : Out) : (s.emit o).secClocks = s.secClocks := rfl
@[simp] theorem State.emit_poison (s : State) (o : Out) : (s.emit o).poison = s.poison := rfl
@[simp] theorem State.emit_portPoison (s : State) (o : Out) : (s.emit o).portPoison = s.portPoison := rfl
@[simp] theorem State.emit_heads (s : State) (o : Out) : (s.emit o).heads = s.heads := rfl
@[simp] theorem State.emit_counters (s : State) (o : Out) : (s.emit o).counters = s.counters := rfl
@[simp] theorem State.emit_contexts (s : State) (o : Out) : (s.emit o).contexts = s.contexts := rfl
@[simp] theorem State.emit_fronts (s : State) (o : Out) : (s.emit o).fronts = s.fronts := rfl
@[simp] theorem State.emit_nextFront (s : State) (o : Out) : (s.emit o).nextFront = s.nextFront := rfl
@[simp] theorem State.emit_graphs (s : State) (o : Out) : (s.emit o).graphs = s.graphs := rfl
@[simp] theorem State.emit_images (s : State) (o : Out) : (s.emit o).images = s.images := rfl
@[simp] theorem State.emit_paging (s : State) (o : Out) : (s.emit o).paging = s.paging := rfl
@[simp] theorem State.emit_pagingWait (s : State) (o : Out) : (s.emit o).pagingWait = s.pagingWait := rfl
@[simp] theorem State.emit_shuttered (s : State) (o : Out) : (s.emit o).shuttered = s.shuttered := rfl
@[simp] theorem State.emit_outstanding (s : State) (o : Out) : (s.emit o).outstanding = s.outstanding := rfl
@[simp] theorem State.emit_lostReqs (s : State) (o : Out) : (s.emit o).lostReqs = s.lostReqs := rfl
@[simp] theorem State.emit_cuts (s : State) (o : Out) : (s.emit o).cuts = s.cuts := rfl
@[simp] theorem State.emit_ticketDevice (s : State) (o : Out) : (s.emit o).ticketDevice = s.ticketDevice := rfl
@[simp] theorem State.emit_ticketSystem (s : State) (o : Out) : (s.emit o).ticketSystem = s.ticketSystem := rfl
@[simp] theorem State.emit_snapAt (s : State) (o : Out) : (s.emit o).snapAt = s.snapAt := rfl
@[simp] theorem State.emit_snapped (s : State) (o : Out) : (s.emit o).snapped = s.snapped := rfl
@[simp] theorem State.emit_boot (s : State) (o : Out) : (s.emit o).boot = s.boot := rfl
@[simp] theorem State.emit_deferred (s : State) (o : Out) : (s.emit o).deferred = s.deferred := rfl
@[simp] theorem State.emit_sysWaits (s : State) (o : Out) : (s.emit o).sysWaits = s.sysWaits := rfl
@[simp] theorem State.emit_flight (s : State) (o : Out) : (s.emit o).flight = s.flight := rfl
@[simp] theorem State.emit_inputs (s : State) (o : Out) : (s.emit o).inputs = s.inputs := rfl
@[simp] theorem State.emit_cur (s : State) (o : Out) : (s.emit o).cur = s.cur := rfl
@[simp] theorem State.emit_issueLeft (s : State) (o : Out) : (s.emit o).issueLeft = s.issueLeft := rfl
@[simp] theorem State.emit_op (s : State) (o : Out) : (s.emit o).op = s.op := rfl
@[simp] theorem State.emit_hand (s : State) (o : Out) : (s.emit o).hand = s.hand := rfl
@[simp] theorem State.emit_choice (s : State) (o : Out) : (s.emit o).choice = s.choice := rfl
@[simp] theorem State.emit_freeCtr (s : State) (o : Out) : (s.emit o).freeCtr = s.freeCtr := rfl
@[simp] theorem State.emit_serial (s : State) (o : Out) : (s.emit o).serial = s.serial := rfl

/-! `setHbmByte` changes `hbm` alone. -/
@[simp] theorem State.setHbmByte_ptime (s : State) (a : Nat) (b : BitVec 8) : (s.setHbmByte a b).ptime = s.ptime := rfl
@[simp] theorem State.setHbmByte_stopped (s : State) (a : Nat) (b : BitVec 8) : (s.setHbmByte a b).stopped = s.stopped := rfl
@[simp] theorem State.setHbmByte_gusts (s : State) (a : Nat) (b : BitVec 8) : (s.setHbmByte a b).gusts = s.gusts := rfl
@[simp] theorem State.setHbmByte_squalls (s : State) (a : Nat) (b : BitVec 8) : (s.setHbmByte a b).squalls = s.squalls := rfl
@[simp] theorem State.setHbmByte_cores (s : State) (a : Nat) (b : BitVec 8) : (s.setHbmByte a b).cores = s.cores := rfl
@[simp] theorem State.setHbmByte_dies (s : State) (a : Nat) (b : BitVec 8) : (s.setHbmByte a b).dies = s.dies := rfl
@[simp] theorem State.setHbmByte_rimClocks (s : State) (a : Nat) (b : BitVec 8) : (s.setHbmByte a b).rimClocks = s.rimClocks := rfl
@[simp] theorem State.setHbmByte_rimCounters (s : State) (a : Nat) (b : BitVec 8) : (s.setHbmByte a b).rimCounters = s.rimCounters := rfl
@[simp] theorem State.setHbmByte_rimSnaps (s : State) (a : Nat) (b : BitVec 8) : (s.setHbmByte a b).rimSnaps = s.rimSnaps := rfl
@[simp] theorem State.setHbmByte_hostMem (s : State) (a : Nat) (b : BitVec 8) : (s.setHbmByte a b).hostMem = s.hostMem := rfl
@[simp] theorem State.setHbmByte_peers (s : State) (a : Nat) (b : BitVec 8) : (s.setHbmByte a b).peers = s.peers := rfl
@[simp] theorem State.setHbmByte_unreached (s : State) (a : Nat) (b : BitVec 8) : (s.setHbmByte a b).unreached = s.unreached := rfl
@[simp] theorem State.setHbmByte_flash (s : State) (a : Nat) (b : BitVec 8) : (s.setHbmByte a b).flash = s.flash := rfl
@[simp] theorem State.setHbmByte_homes (s : State) (a : Nat) (b : BitVec 8) : (s.setHbmByte a b).homes = s.homes := rfl
@[simp] theorem State.setHbmByte_secClocks (s : State) (a : Nat) (b : BitVec 8) : (s.setHbmByte a b).secClocks = s.secClocks := rfl
@[simp] theorem State.setHbmByte_poison (s : State) (a : Nat) (b : BitVec 8) : (s.setHbmByte a b).poison = s.poison := rfl
@[simp] theorem State.setHbmByte_portPoison (s : State) (a : Nat) (b : BitVec 8) : (s.setHbmByte a b).portPoison = s.portPoison := rfl
@[simp] theorem State.setHbmByte_heads (s : State) (a : Nat) (b : BitVec 8) : (s.setHbmByte a b).heads = s.heads := rfl
@[simp] theorem State.setHbmByte_counters (s : State) (a : Nat) (b : BitVec 8) : (s.setHbmByte a b).counters = s.counters := rfl
@[simp] theorem State.setHbmByte_contexts (s : State) (a : Nat) (b : BitVec 8) : (s.setHbmByte a b).contexts = s.contexts := rfl
@[simp] theorem State.setHbmByte_fronts (s : State) (a : Nat) (b : BitVec 8) : (s.setHbmByte a b).fronts = s.fronts := rfl
@[simp] theorem State.setHbmByte_nextFront (s : State) (a : Nat) (b : BitVec 8) : (s.setHbmByte a b).nextFront = s.nextFront := rfl
@[simp] theorem State.setHbmByte_graphs (s : State) (a : Nat) (b : BitVec 8) : (s.setHbmByte a b).graphs = s.graphs := rfl
@[simp] theorem State.setHbmByte_images (s : State) (a : Nat) (b : BitVec 8) : (s.setHbmByte a b).images = s.images := rfl
@[simp] theorem State.setHbmByte_paging (s : State) (a : Nat) (b : BitVec 8) : (s.setHbmByte a b).paging = s.paging := rfl
@[simp] theorem State.setHbmByte_pagingWait (s : State) (a : Nat) (b : BitVec 8) : (s.setHbmByte a b).pagingWait = s.pagingWait := rfl
@[simp] theorem State.setHbmByte_shuttered (s : State) (a : Nat) (b : BitVec 8) : (s.setHbmByte a b).shuttered = s.shuttered := rfl
@[simp] theorem State.setHbmByte_outstanding (s : State) (a : Nat) (b : BitVec 8) : (s.setHbmByte a b).outstanding = s.outstanding := rfl
@[simp] theorem State.setHbmByte_lostReqs (s : State) (a : Nat) (b : BitVec 8) : (s.setHbmByte a b).lostReqs = s.lostReqs := rfl
@[simp] theorem State.setHbmByte_cuts (s : State) (a : Nat) (b : BitVec 8) : (s.setHbmByte a b).cuts = s.cuts := rfl
@[simp] theorem State.setHbmByte_ticketDevice (s : State) (a : Nat) (b : BitVec 8) : (s.setHbmByte a b).ticketDevice = s.ticketDevice := rfl
@[simp] theorem State.setHbmByte_ticketSystem (s : State) (a : Nat) (b : BitVec 8) : (s.setHbmByte a b).ticketSystem = s.ticketSystem := rfl
@[simp] theorem State.setHbmByte_snapAt (s : State) (a : Nat) (b : BitVec 8) : (s.setHbmByte a b).snapAt = s.snapAt := rfl
@[simp] theorem State.setHbmByte_snapped (s : State) (a : Nat) (b : BitVec 8) : (s.setHbmByte a b).snapped = s.snapped := rfl
@[simp] theorem State.setHbmByte_boot (s : State) (a : Nat) (b : BitVec 8) : (s.setHbmByte a b).boot = s.boot := rfl
@[simp] theorem State.setHbmByte_deferred (s : State) (a : Nat) (b : BitVec 8) : (s.setHbmByte a b).deferred = s.deferred := rfl
@[simp] theorem State.setHbmByte_sysWaits (s : State) (a : Nat) (b : BitVec 8) : (s.setHbmByte a b).sysWaits = s.sysWaits := rfl
@[simp] theorem State.setHbmByte_out (s : State) (a : Nat) (b : BitVec 8) : (s.setHbmByte a b).out = s.out := rfl
@[simp] theorem State.setHbmByte_flight (s : State) (a : Nat) (b : BitVec 8) : (s.setHbmByte a b).flight = s.flight := rfl
@[simp] theorem State.setHbmByte_inputs (s : State) (a : Nat) (b : BitVec 8) : (s.setHbmByte a b).inputs = s.inputs := rfl
@[simp] theorem State.setHbmByte_cur (s : State) (a : Nat) (b : BitVec 8) : (s.setHbmByte a b).cur = s.cur := rfl
@[simp] theorem State.setHbmByte_issueLeft (s : State) (a : Nat) (b : BitVec 8) : (s.setHbmByte a b).issueLeft = s.issueLeft := rfl
@[simp] theorem State.setHbmByte_op (s : State) (a : Nat) (b : BitVec 8) : (s.setHbmByte a b).op = s.op := rfl
@[simp] theorem State.setHbmByte_hand (s : State) (a : Nat) (b : BitVec 8) : (s.setHbmByte a b).hand = s.hand := rfl
@[simp] theorem State.setHbmByte_choice (s : State) (a : Nat) (b : BitVec 8) : (s.setHbmByte a b).choice = s.choice := rfl
@[simp] theorem State.setHbmByte_freeCtr (s : State) (a : Nat) (b : BitVec 8) : (s.setHbmByte a b).freeCtr = s.freeCtr := rfl
@[simp] theorem State.setHbmByte_serial (s : State) (a : Nat) (b : BitVec 8) : (s.setHbmByte a b).serial = s.serial := rfl

/-! `setHbmLine` changes `hbm` alone. -/
@[simp] theorem State.setHbmLine_ptime (s : State) (p : Nat) (l : List Nat) : (s.setHbmLine p l).ptime = s.ptime := rfl
@[simp] theorem State.setHbmLine_stopped (s : State) (p : Nat) (l : List Nat) : (s.setHbmLine p l).stopped = s.stopped := rfl
@[simp] theorem State.setHbmLine_gusts (s : State) (p : Nat) (l : List Nat) : (s.setHbmLine p l).gusts = s.gusts := rfl
@[simp] theorem State.setHbmLine_squalls (s : State) (p : Nat) (l : List Nat) : (s.setHbmLine p l).squalls = s.squalls := rfl
@[simp] theorem State.setHbmLine_cores (s : State) (p : Nat) (l : List Nat) : (s.setHbmLine p l).cores = s.cores := rfl
@[simp] theorem State.setHbmLine_dies (s : State) (p : Nat) (l : List Nat) : (s.setHbmLine p l).dies = s.dies := rfl
@[simp] theorem State.setHbmLine_rimClocks (s : State) (p : Nat) (l : List Nat) : (s.setHbmLine p l).rimClocks = s.rimClocks := rfl
@[simp] theorem State.setHbmLine_rimCounters (s : State) (p : Nat) (l : List Nat) : (s.setHbmLine p l).rimCounters = s.rimCounters := rfl
@[simp] theorem State.setHbmLine_rimSnaps (s : State) (p : Nat) (l : List Nat) : (s.setHbmLine p l).rimSnaps = s.rimSnaps := rfl
@[simp] theorem State.setHbmLine_hostMem (s : State) (p : Nat) (l : List Nat) : (s.setHbmLine p l).hostMem = s.hostMem := rfl
@[simp] theorem State.setHbmLine_peers (s : State) (p : Nat) (l : List Nat) : (s.setHbmLine p l).peers = s.peers := rfl
@[simp] theorem State.setHbmLine_unreached (s : State) (p : Nat) (l : List Nat) : (s.setHbmLine p l).unreached = s.unreached := rfl
@[simp] theorem State.setHbmLine_flash (s : State) (p : Nat) (l : List Nat) : (s.setHbmLine p l).flash = s.flash := rfl
@[simp] theorem State.setHbmLine_homes (s : State) (p : Nat) (l : List Nat) : (s.setHbmLine p l).homes = s.homes := rfl
@[simp] theorem State.setHbmLine_secClocks (s : State) (p : Nat) (l : List Nat) : (s.setHbmLine p l).secClocks = s.secClocks := rfl
@[simp] theorem State.setHbmLine_poison (s : State) (p : Nat) (l : List Nat) : (s.setHbmLine p l).poison = s.poison := rfl
@[simp] theorem State.setHbmLine_portPoison (s : State) (p : Nat) (l : List Nat) : (s.setHbmLine p l).portPoison = s.portPoison := rfl
@[simp] theorem State.setHbmLine_heads (s : State) (p : Nat) (l : List Nat) : (s.setHbmLine p l).heads = s.heads := rfl
@[simp] theorem State.setHbmLine_counters (s : State) (p : Nat) (l : List Nat) : (s.setHbmLine p l).counters = s.counters := rfl
@[simp] theorem State.setHbmLine_contexts (s : State) (p : Nat) (l : List Nat) : (s.setHbmLine p l).contexts = s.contexts := rfl
@[simp] theorem State.setHbmLine_fronts (s : State) (p : Nat) (l : List Nat) : (s.setHbmLine p l).fronts = s.fronts := rfl
@[simp] theorem State.setHbmLine_nextFront (s : State) (p : Nat) (l : List Nat) : (s.setHbmLine p l).nextFront = s.nextFront := rfl
@[simp] theorem State.setHbmLine_graphs (s : State) (p : Nat) (l : List Nat) : (s.setHbmLine p l).graphs = s.graphs := rfl
@[simp] theorem State.setHbmLine_images (s : State) (p : Nat) (l : List Nat) : (s.setHbmLine p l).images = s.images := rfl
@[simp] theorem State.setHbmLine_paging (s : State) (p : Nat) (l : List Nat) : (s.setHbmLine p l).paging = s.paging := rfl
@[simp] theorem State.setHbmLine_pagingWait (s : State) (p : Nat) (l : List Nat) : (s.setHbmLine p l).pagingWait = s.pagingWait := rfl
@[simp] theorem State.setHbmLine_shuttered (s : State) (p : Nat) (l : List Nat) : (s.setHbmLine p l).shuttered = s.shuttered := rfl
@[simp] theorem State.setHbmLine_outstanding (s : State) (p : Nat) (l : List Nat) : (s.setHbmLine p l).outstanding = s.outstanding := rfl
@[simp] theorem State.setHbmLine_lostReqs (s : State) (p : Nat) (l : List Nat) : (s.setHbmLine p l).lostReqs = s.lostReqs := rfl
@[simp] theorem State.setHbmLine_cuts (s : State) (p : Nat) (l : List Nat) : (s.setHbmLine p l).cuts = s.cuts := rfl
@[simp] theorem State.setHbmLine_ticketDevice (s : State) (p : Nat) (l : List Nat) : (s.setHbmLine p l).ticketDevice = s.ticketDevice := rfl
@[simp] theorem State.setHbmLine_ticketSystem (s : State) (p : Nat) (l : List Nat) : (s.setHbmLine p l).ticketSystem = s.ticketSystem := rfl
@[simp] theorem State.setHbmLine_snapAt (s : State) (p : Nat) (l : List Nat) : (s.setHbmLine p l).snapAt = s.snapAt := rfl
@[simp] theorem State.setHbmLine_snapped (s : State) (p : Nat) (l : List Nat) : (s.setHbmLine p l).snapped = s.snapped := rfl
@[simp] theorem State.setHbmLine_boot (s : State) (p : Nat) (l : List Nat) : (s.setHbmLine p l).boot = s.boot := rfl
@[simp] theorem State.setHbmLine_deferred (s : State) (p : Nat) (l : List Nat) : (s.setHbmLine p l).deferred = s.deferred := rfl
@[simp] theorem State.setHbmLine_sysWaits (s : State) (p : Nat) (l : List Nat) : (s.setHbmLine p l).sysWaits = s.sysWaits := rfl
@[simp] theorem State.setHbmLine_out (s : State) (p : Nat) (l : List Nat) : (s.setHbmLine p l).out = s.out := rfl
@[simp] theorem State.setHbmLine_flight (s : State) (p : Nat) (l : List Nat) : (s.setHbmLine p l).flight = s.flight := rfl
@[simp] theorem State.setHbmLine_inputs (s : State) (p : Nat) (l : List Nat) : (s.setHbmLine p l).inputs = s.inputs := rfl
@[simp] theorem State.setHbmLine_cur (s : State) (p : Nat) (l : List Nat) : (s.setHbmLine p l).cur = s.cur := rfl
@[simp] theorem State.setHbmLine_issueLeft (s : State) (p : Nat) (l : List Nat) : (s.setHbmLine p l).issueLeft = s.issueLeft := rfl
@[simp] theorem State.setHbmLine_op (s : State) (p : Nat) (l : List Nat) : (s.setHbmLine p l).op = s.op := rfl
@[simp] theorem State.setHbmLine_hand (s : State) (p : Nat) (l : List Nat) : (s.setHbmLine p l).hand = s.hand := rfl
@[simp] theorem State.setHbmLine_choice (s : State) (p : Nat) (l : List Nat) : (s.setHbmLine p l).choice = s.choice := rfl
@[simp] theorem State.setHbmLine_freeCtr (s : State) (p : Nat) (l : List Nat) : (s.setHbmLine p l).freeCtr = s.freeCtr := rfl
@[simp] theorem State.setHbmLine_serial (s : State) (p : Nat) (l : List Nat) : (s.setHbmLine p l).serial = s.serial := rfl

/-! `setHostLine` changes `hostMem` alone. -/
@[simp] theorem State.setHostLine_ptime (s : State) (p : Nat) (l : List Nat) : (s.setHostLine p l).ptime = s.ptime := rfl
@[simp] theorem State.setHostLine_stopped (s : State) (p : Nat) (l : List Nat) : (s.setHostLine p l).stopped = s.stopped := rfl
@[simp] theorem State.setHostLine_gusts (s : State) (p : Nat) (l : List Nat) : (s.setHostLine p l).gusts = s.gusts := rfl
@[simp] theorem State.setHostLine_squalls (s : State) (p : Nat) (l : List Nat) : (s.setHostLine p l).squalls = s.squalls := rfl
@[simp] theorem State.setHostLine_cores (s : State) (p : Nat) (l : List Nat) : (s.setHostLine p l).cores = s.cores := rfl
@[simp] theorem State.setHostLine_dies (s : State) (p : Nat) (l : List Nat) : (s.setHostLine p l).dies = s.dies := rfl
@[simp] theorem State.setHostLine_rimClocks (s : State) (p : Nat) (l : List Nat) : (s.setHostLine p l).rimClocks = s.rimClocks := rfl
@[simp] theorem State.setHostLine_rimCounters (s : State) (p : Nat) (l : List Nat) : (s.setHostLine p l).rimCounters = s.rimCounters := rfl
@[simp] theorem State.setHostLine_rimSnaps (s : State) (p : Nat) (l : List Nat) : (s.setHostLine p l).rimSnaps = s.rimSnaps := rfl
@[simp] theorem State.setHostLine_hbm (s : State) (p : Nat) (l : List Nat) : (s.setHostLine p l).hbm = s.hbm := rfl
@[simp] theorem State.setHostLine_peers (s : State) (p : Nat) (l : List Nat) : (s.setHostLine p l).peers = s.peers := rfl
@[simp] theorem State.setHostLine_unreached (s : State) (p : Nat) (l : List Nat) : (s.setHostLine p l).unreached = s.unreached := rfl
@[simp] theorem State.setHostLine_flash (s : State) (p : Nat) (l : List Nat) : (s.setHostLine p l).flash = s.flash := rfl
@[simp] theorem State.setHostLine_homes (s : State) (p : Nat) (l : List Nat) : (s.setHostLine p l).homes = s.homes := rfl
@[simp] theorem State.setHostLine_secClocks (s : State) (p : Nat) (l : List Nat) : (s.setHostLine p l).secClocks = s.secClocks := rfl
@[simp] theorem State.setHostLine_poison (s : State) (p : Nat) (l : List Nat) : (s.setHostLine p l).poison = s.poison := rfl
@[simp] theorem State.setHostLine_portPoison (s : State) (p : Nat) (l : List Nat) : (s.setHostLine p l).portPoison = s.portPoison := rfl
@[simp] theorem State.setHostLine_heads (s : State) (p : Nat) (l : List Nat) : (s.setHostLine p l).heads = s.heads := rfl
@[simp] theorem State.setHostLine_counters (s : State) (p : Nat) (l : List Nat) : (s.setHostLine p l).counters = s.counters := rfl
@[simp] theorem State.setHostLine_contexts (s : State) (p : Nat) (l : List Nat) : (s.setHostLine p l).contexts = s.contexts := rfl
@[simp] theorem State.setHostLine_fronts (s : State) (p : Nat) (l : List Nat) : (s.setHostLine p l).fronts = s.fronts := rfl
@[simp] theorem State.setHostLine_nextFront (s : State) (p : Nat) (l : List Nat) : (s.setHostLine p l).nextFront = s.nextFront := rfl
@[simp] theorem State.setHostLine_graphs (s : State) (p : Nat) (l : List Nat) : (s.setHostLine p l).graphs = s.graphs := rfl
@[simp] theorem State.setHostLine_images (s : State) (p : Nat) (l : List Nat) : (s.setHostLine p l).images = s.images := rfl
@[simp] theorem State.setHostLine_paging (s : State) (p : Nat) (l : List Nat) : (s.setHostLine p l).paging = s.paging := rfl
@[simp] theorem State.setHostLine_pagingWait (s : State) (p : Nat) (l : List Nat) : (s.setHostLine p l).pagingWait = s.pagingWait := rfl
@[simp] theorem State.setHostLine_shuttered (s : State) (p : Nat) (l : List Nat) : (s.setHostLine p l).shuttered = s.shuttered := rfl
@[simp] theorem State.setHostLine_outstanding (s : State) (p : Nat) (l : List Nat) : (s.setHostLine p l).outstanding = s.outstanding := rfl
@[simp] theorem State.setHostLine_lostReqs (s : State) (p : Nat) (l : List Nat) : (s.setHostLine p l).lostReqs = s.lostReqs := rfl
@[simp] theorem State.setHostLine_cuts (s : State) (p : Nat) (l : List Nat) : (s.setHostLine p l).cuts = s.cuts := rfl
@[simp] theorem State.setHostLine_ticketDevice (s : State) (p : Nat) (l : List Nat) : (s.setHostLine p l).ticketDevice = s.ticketDevice := rfl
@[simp] theorem State.setHostLine_ticketSystem (s : State) (p : Nat) (l : List Nat) : (s.setHostLine p l).ticketSystem = s.ticketSystem := rfl
@[simp] theorem State.setHostLine_snapAt (s : State) (p : Nat) (l : List Nat) : (s.setHostLine p l).snapAt = s.snapAt := rfl
@[simp] theorem State.setHostLine_snapped (s : State) (p : Nat) (l : List Nat) : (s.setHostLine p l).snapped = s.snapped := rfl
@[simp] theorem State.setHostLine_boot (s : State) (p : Nat) (l : List Nat) : (s.setHostLine p l).boot = s.boot := rfl
@[simp] theorem State.setHostLine_deferred (s : State) (p : Nat) (l : List Nat) : (s.setHostLine p l).deferred = s.deferred := rfl
@[simp] theorem State.setHostLine_sysWaits (s : State) (p : Nat) (l : List Nat) : (s.setHostLine p l).sysWaits = s.sysWaits := rfl
@[simp] theorem State.setHostLine_out (s : State) (p : Nat) (l : List Nat) : (s.setHostLine p l).out = s.out := rfl
@[simp] theorem State.setHostLine_flight (s : State) (p : Nat) (l : List Nat) : (s.setHostLine p l).flight = s.flight := rfl
@[simp] theorem State.setHostLine_inputs (s : State) (p : Nat) (l : List Nat) : (s.setHostLine p l).inputs = s.inputs := rfl
@[simp] theorem State.setHostLine_cur (s : State) (p : Nat) (l : List Nat) : (s.setHostLine p l).cur = s.cur := rfl
@[simp] theorem State.setHostLine_issueLeft (s : State) (p : Nat) (l : List Nat) : (s.setHostLine p l).issueLeft = s.issueLeft := rfl
@[simp] theorem State.setHostLine_op (s : State) (p : Nat) (l : List Nat) : (s.setHostLine p l).op = s.op := rfl
@[simp] theorem State.setHostLine_hand (s : State) (p : Nat) (l : List Nat) : (s.setHostLine p l).hand = s.hand := rfl
@[simp] theorem State.setHostLine_choice (s : State) (p : Nat) (l : List Nat) : (s.setHostLine p l).choice = s.choice := rfl
@[simp] theorem State.setHostLine_freeCtr (s : State) (p : Nat) (l : List Nat) : (s.setHostLine p l).freeCtr = s.freeCtr := rfl
@[simp] theorem State.setHostLine_serial (s : State) (p : Nat) (l : List Nat) : (s.setHostLine p l).serial = s.serial := rfl

/-! `setPortLine` changes `peers` alone. -/
@[simp] theorem State.setPortLine_ptime (s : State) (d p : Nat) (l : List Nat) : (s.setPortLine (.remote d p) l).ptime = s.ptime := rfl
@[simp] theorem State.setPortLine_stopped (s : State) (d p : Nat) (l : List Nat) : (s.setPortLine (.remote d p) l).stopped = s.stopped := rfl
@[simp] theorem State.setPortLine_gusts (s : State) (d p : Nat) (l : List Nat) : (s.setPortLine (.remote d p) l).gusts = s.gusts := rfl
@[simp] theorem State.setPortLine_squalls (s : State) (d p : Nat) (l : List Nat) : (s.setPortLine (.remote d p) l).squalls = s.squalls := rfl
@[simp] theorem State.setPortLine_cores (s : State) (d p : Nat) (l : List Nat) : (s.setPortLine (.remote d p) l).cores = s.cores := rfl
@[simp] theorem State.setPortLine_dies (s : State) (d p : Nat) (l : List Nat) : (s.setPortLine (.remote d p) l).dies = s.dies := rfl
@[simp] theorem State.setPortLine_rimClocks (s : State) (d p : Nat) (l : List Nat) : (s.setPortLine (.remote d p) l).rimClocks = s.rimClocks := rfl
@[simp] theorem State.setPortLine_rimCounters (s : State) (d p : Nat) (l : List Nat) : (s.setPortLine (.remote d p) l).rimCounters = s.rimCounters := rfl
@[simp] theorem State.setPortLine_rimSnaps (s : State) (d p : Nat) (l : List Nat) : (s.setPortLine (.remote d p) l).rimSnaps = s.rimSnaps := rfl
@[simp] theorem State.setPortLine_hbm (s : State) (d p : Nat) (l : List Nat) : (s.setPortLine (.remote d p) l).hbm = s.hbm := rfl
@[simp] theorem State.setPortLine_hostMem (s : State) (d p : Nat) (l : List Nat) : (s.setPortLine (.remote d p) l).hostMem = s.hostMem := rfl
@[simp] theorem State.setPortLine_unreached (s : State) (d p : Nat) (l : List Nat) : (s.setPortLine (.remote d p) l).unreached = s.unreached := rfl
@[simp] theorem State.setPortLine_flash (s : State) (d p : Nat) (l : List Nat) : (s.setPortLine (.remote d p) l).flash = s.flash := rfl
@[simp] theorem State.setPortLine_homes (s : State) (d p : Nat) (l : List Nat) : (s.setPortLine (.remote d p) l).homes = s.homes := rfl
@[simp] theorem State.setPortLine_secClocks (s : State) (d p : Nat) (l : List Nat) : (s.setPortLine (.remote d p) l).secClocks = s.secClocks := rfl
@[simp] theorem State.setPortLine_poison (s : State) (d p : Nat) (l : List Nat) : (s.setPortLine (.remote d p) l).poison = s.poison := rfl
@[simp] theorem State.setPortLine_portPoison (s : State) (d p : Nat) (l : List Nat) : (s.setPortLine (.remote d p) l).portPoison = s.portPoison := rfl
@[simp] theorem State.setPortLine_heads (s : State) (d p : Nat) (l : List Nat) : (s.setPortLine (.remote d p) l).heads = s.heads := rfl
@[simp] theorem State.setPortLine_counters (s : State) (d p : Nat) (l : List Nat) : (s.setPortLine (.remote d p) l).counters = s.counters := rfl
@[simp] theorem State.setPortLine_contexts (s : State) (d p : Nat) (l : List Nat) : (s.setPortLine (.remote d p) l).contexts = s.contexts := rfl
@[simp] theorem State.setPortLine_fronts (s : State) (d p : Nat) (l : List Nat) : (s.setPortLine (.remote d p) l).fronts = s.fronts := rfl
@[simp] theorem State.setPortLine_nextFront (s : State) (d p : Nat) (l : List Nat) : (s.setPortLine (.remote d p) l).nextFront = s.nextFront := rfl
@[simp] theorem State.setPortLine_graphs (s : State) (d p : Nat) (l : List Nat) : (s.setPortLine (.remote d p) l).graphs = s.graphs := rfl
@[simp] theorem State.setPortLine_images (s : State) (d p : Nat) (l : List Nat) : (s.setPortLine (.remote d p) l).images = s.images := rfl
@[simp] theorem State.setPortLine_paging (s : State) (d p : Nat) (l : List Nat) : (s.setPortLine (.remote d p) l).paging = s.paging := rfl
@[simp] theorem State.setPortLine_pagingWait (s : State) (d p : Nat) (l : List Nat) : (s.setPortLine (.remote d p) l).pagingWait = s.pagingWait := rfl
@[simp] theorem State.setPortLine_shuttered (s : State) (d p : Nat) (l : List Nat) : (s.setPortLine (.remote d p) l).shuttered = s.shuttered := rfl
@[simp] theorem State.setPortLine_outstanding (s : State) (d p : Nat) (l : List Nat) : (s.setPortLine (.remote d p) l).outstanding = s.outstanding := rfl
@[simp] theorem State.setPortLine_lostReqs (s : State) (d p : Nat) (l : List Nat) : (s.setPortLine (.remote d p) l).lostReqs = s.lostReqs := rfl
@[simp] theorem State.setPortLine_cuts (s : State) (d p : Nat) (l : List Nat) : (s.setPortLine (.remote d p) l).cuts = s.cuts := rfl
@[simp] theorem State.setPortLine_ticketDevice (s : State) (d p : Nat) (l : List Nat) : (s.setPortLine (.remote d p) l).ticketDevice = s.ticketDevice := rfl
@[simp] theorem State.setPortLine_ticketSystem (s : State) (d p : Nat) (l : List Nat) : (s.setPortLine (.remote d p) l).ticketSystem = s.ticketSystem := rfl
@[simp] theorem State.setPortLine_snapAt (s : State) (d p : Nat) (l : List Nat) : (s.setPortLine (.remote d p) l).snapAt = s.snapAt := rfl
@[simp] theorem State.setPortLine_snapped (s : State) (d p : Nat) (l : List Nat) : (s.setPortLine (.remote d p) l).snapped = s.snapped := rfl
@[simp] theorem State.setPortLine_boot (s : State) (d p : Nat) (l : List Nat) : (s.setPortLine (.remote d p) l).boot = s.boot := rfl
@[simp] theorem State.setPortLine_deferred (s : State) (d p : Nat) (l : List Nat) : (s.setPortLine (.remote d p) l).deferred = s.deferred := rfl
@[simp] theorem State.setPortLine_sysWaits (s : State) (d p : Nat) (l : List Nat) : (s.setPortLine (.remote d p) l).sysWaits = s.sysWaits := rfl
@[simp] theorem State.setPortLine_out (s : State) (d p : Nat) (l : List Nat) : (s.setPortLine (.remote d p) l).out = s.out := rfl
@[simp] theorem State.setPortLine_flight (s : State) (d p : Nat) (l : List Nat) : (s.setPortLine (.remote d p) l).flight = s.flight := rfl
@[simp] theorem State.setPortLine_inputs (s : State) (d p : Nat) (l : List Nat) : (s.setPortLine (.remote d p) l).inputs = s.inputs := rfl
@[simp] theorem State.setPortLine_cur (s : State) (d p : Nat) (l : List Nat) : (s.setPortLine (.remote d p) l).cur = s.cur := rfl
@[simp] theorem State.setPortLine_issueLeft (s : State) (d p : Nat) (l : List Nat) : (s.setPortLine (.remote d p) l).issueLeft = s.issueLeft := rfl
@[simp] theorem State.setPortLine_op (s : State) (d p : Nat) (l : List Nat) : (s.setPortLine (.remote d p) l).op = s.op := rfl
@[simp] theorem State.setPortLine_hand (s : State) (d p : Nat) (l : List Nat) : (s.setPortLine (.remote d p) l).hand = s.hand := rfl
@[simp] theorem State.setPortLine_choice (s : State) (d p : Nat) (l : List Nat) : (s.setPortLine (.remote d p) l).choice = s.choice := rfl
@[simp] theorem State.setPortLine_freeCtr (s : State) (d p : Nat) (l : List Nat) : (s.setPortLine (.remote d p) l).freeCtr = s.freeCtr := rfl
@[simp] theorem State.setPortLine_serial (s : State) (d p : Nat) (l : List Nat) : (s.setPortLine (.remote d p) l).serial = s.serial := rfl

/-! `withMask` changes `sreg` alone. -/
@[simp] theorem Gust.withMask_ref (g : Gust) (m : Mask) : (g.withMask m).ref = g.ref := rfl
@[simp] theorem Gust.withMask_age (g : Gust) (m : Mask) : (g.withMask m).age = g.age := rfl
@[simp] theorem Gust.withMask_slot (g : Gust) (m : Mask) : (g.withMask m).slot = g.slot := rfl
@[simp] theorem Gust.withMask_status (g : Gust) (m : Mask) : (g.withMask m).status = g.status := rfl
@[simp] theorem Gust.withMask_halted (g : Gust) (m : Mask) : (g.withMask m).halted = g.halted := rfl
@[simp] theorem Gust.withMask_pc (g : Gust) (m : Mask) : (g.withMask m).pc = g.pc := rfl
@[simp] theorem Gust.withMask_preg (g : Gust) (m : Mask) : (g.withMask m).preg = g.preg := rfl
@[simp] theorem Gust.withMask_vreg (g : Gust) (m : Mask) : (g.withMask m).vreg = g.vreg := rfl
@[simp] theorem Gust.withMask_vbase (g : Gust) (m : Mask) : (g.withMask m).vbase = g.vbase := rfl
@[simp] theorem Gust.withMask_stack (g : Gust) (m : Mask) : (g.withMask m).stack = g.stack := rfl
@[simp] theorem Gust.withMask_sent (g : Gust) (m : Mask) : (g.withMask m).sent = g.sent := rfl
@[simp] theorem Gust.withMask_maskWrote (g : Gust) (m : Mask) : (g.withMask m).maskWrote = g.maskWrote := rfl
@[simp] theorem Gust.withMask_since (g : Gust) (m : Mask) : (g.withMask m).since = g.since := rfl
@[simp] theorem Gust.withMask_priv (g : Gust) (m : Mask) : (g.withMask m).priv = g.priv := rfl
@[simp] theorem Gust.withMask_trapActive (g : Gust) (m : Mask) : (g.withMask m).trapActive = g.trapActive := rfl
@[simp] theorem Gust.withMask_stepBit (g : Gust) (m : Mask) : (g.withMask m).stepBit = g.stepBit := rfl
@[simp] theorem Gust.withMask_tvec (g : Gust) (m : Mask) : (g.withMask m).tvec = g.tvec := rfl
@[simp] theorem Gust.withMask_tpc (g : Gust) (m : Mask) : (g.withMask m).tpc = g.tpc := rfl
@[simp] theorem Gust.withMask_tm (g : Gust) (m : Mask) : (g.withMask m).tm = g.tm := rfl
@[simp] theorem Gust.withMask_gfr (g : Gust) (m : Mask) : (g.withMask m).gfr = g.gfr := rfl
@[simp] theorem Gust.withMask_laneRec (g : Gust) (m : Mask) : (g.withMask m).laneRec = g.laneRec := rfl
@[simp] theorem Gust.withMask_laneFaulted (g : Gust) (m : Mask) : (g.withMask m).laneFaulted = g.laneFaulted := rfl
@[simp] theorem Gust.withMask_ptimeh (g : Gust) (m : Mask) : (g.withMask m).ptimeh = g.ptimeh := rfl
@[simp] theorem Gust.withMask_nlast (g : Gust) (m : Mask) : (g.withMask m).nlast = g.nlast := rfl
@[simp] theorem Gust.withMask_kcount (g : Gust) (m : Mask) : (g.withMask m).kcount = g.kcount := rfl
@[simp] theorem Gust.withMask_gangRows (g : Gust) (m : Mask) : (g.withMask m).gangRows = g.gangRows := rfl
@[simp] theorem Gust.withMask_gangMap (g : Gust) (m : Mask) : (g.withMask m).gangMap = g.gangMap := rfl
@[simp] theorem Gust.withMask_key (g : Gust) (m : Mask) : (g.withMask m).key = g.key := rfl
@[simp] theorem Gust.withMask_ctr (g : Gust) (m : Mask) : (g.withMask m).ctr = g.ctr := rfl
@[simp] theorem Gust.withMask_liveTiles (g : Gust) (m : Mask) : (g.withMask m).liveTiles = g.liveTiles := rfl
@[simp] theorem Gust.withMask_liveSlots (g : Gust) (m : Mask) : (g.withMask m).liveSlots = g.liveSlots := rfl
@[simp] theorem Gust.withMask_bnum (g : Gust) (m : Mask) : (g.withMask m).bnum = g.bnum := rfl
@[simp] theorem Gust.withMask_doneUpto (g : Gust) (m : Mask) : (g.withMask m).doneUpto = g.doneUpto := rfl
@[simp] theorem Gust.withMask_lost (g : Gust) (m : Mask) : (g.withMask m).lost = g.lost := rfl
@[simp] theorem Gust.withMask_faults (g : Gust) (m : Mask) : (g.withMask m).faults = g.faults := rfl
@[simp] theorem Gust.withMask_lostIn (g : Gust) (m : Mask) : (g.withMask m).lostIn = g.lostIn := rfl
@[simp] theorem Gust.withMask_far (g : Gust) (m : Mask) : (g.withMask m).far = g.far := rfl
@[simp] theorem Gust.withMask_opened (g : Gust) (m : Mask) : (g.withMask m).opened = g.opened := rfl
@[simp] theorem Gust.withMask_waited (g : Gust) (m : Mask) : (g.withMask m).waited = g.waited := rfl
@[simp] theorem Gust.withMask_touched (g : Gust) (m : Mask) : (g.withMask m).touched = g.touched := rfl
@[simp] theorem Gust.withMask_unacked (g : Gust) (m : Mask) : (g.withMask m).unacked = g.unacked := rfl
@[simp] theorem Gust.withMask_loads (g : Gust) (m : Mask) : (g.withMask m).loads = g.loads := rfl
@[simp] theorem Gust.withMask_atoms (g : Gust) (m : Mask) : (g.withMask m).atoms = g.atoms := rfl
@[simp] theorem Gust.withMask_replay (g : Gust) (m : Mask) : (g.withMask m).replay = g.replay := rfl
@[simp] theorem Gust.withMask_pageWait (g : Gust) (m : Mask) : (g.withMask m).pageWait = g.pageWait := rfl
@[simp] theorem Gust.withMask_fillFaults (g : Gust) (m : Mask) : (g.withMask m).fillFaults = g.fillFaults := rfl
@[simp] theorem Gust.withMask_reply (g : Gust) (m : Mask) : (g.withMask m).reply = g.reply := rfl
@[simp] theorem Gust.withMask_issued (g : Gust) (m : Mask) : (g.withMask m).issued = g.issued := rfl
@[simp] theorem Gust.withMask_latchCode (g : Gust) (m : Mask) : (g.withMask m).latchCode = g.latchCode := rfl
@[simp] theorem Gust.withMask_lateCode (g : Gust) (m : Mask) : (g.withMask m).lateCode = g.lateCode := rfl
@[simp] theorem Gust.withMask_packet (g : Gust) (m : Mask) : (g.withMask m).packet = g.packet := rfl
@[simp] theorem Gust.withMask_oldCode (g : Gust) (m : Mask) : (g.withMask m).oldCode = g.oldCode := rfl
@[simp] theorem Gust.withMask_dbgCmd (g : Gust) (m : Mask) : (g.withMask m).dbgCmd = g.dbgCmd := rfl
@[simp] theorem Gust.withMask_traceSync (g : Gust) (m : Mask) : (g.withMask m).traceSync = g.traceSync := rfl
@[simp] theorem Gust.withMask_traceCount (g : Gust) (m : Mask) : (g.withMask m).traceCount = g.traceCount := rfl
@[simp] theorem Gust.withMask_traceLost (g : Gust) (m : Mask) : (g.withMask m).traceLost = g.traceLost := rfl

/-! `withP` changes `preg` alone. -/
@[simp] theorem Gust.withP_ref (g : Gust) (n : Nat) (m : Mask) : (g.withP n m).ref = g.ref := rfl
@[simp] theorem Gust.withP_age (g : Gust) (n : Nat) (m : Mask) : (g.withP n m).age = g.age := rfl
@[simp] theorem Gust.withP_slot (g : Gust) (n : Nat) (m : Mask) : (g.withP n m).slot = g.slot := rfl
@[simp] theorem Gust.withP_status (g : Gust) (n : Nat) (m : Mask) : (g.withP n m).status = g.status := rfl
@[simp] theorem Gust.withP_halted (g : Gust) (n : Nat) (m : Mask) : (g.withP n m).halted = g.halted := rfl
@[simp] theorem Gust.withP_pc (g : Gust) (n : Nat) (m : Mask) : (g.withP n m).pc = g.pc := rfl
@[simp] theorem Gust.withP_sreg (g : Gust) (n : Nat) (m : Mask) : (g.withP n m).sreg = g.sreg := rfl
@[simp] theorem Gust.withP_vreg (g : Gust) (n : Nat) (m : Mask) : (g.withP n m).vreg = g.vreg := rfl
@[simp] theorem Gust.withP_vbase (g : Gust) (n : Nat) (m : Mask) : (g.withP n m).vbase = g.vbase := rfl
@[simp] theorem Gust.withP_stack (g : Gust) (n : Nat) (m : Mask) : (g.withP n m).stack = g.stack := rfl
@[simp] theorem Gust.withP_sent (g : Gust) (n : Nat) (m : Mask) : (g.withP n m).sent = g.sent := rfl
@[simp] theorem Gust.withP_maskWrote (g : Gust) (n : Nat) (m : Mask) : (g.withP n m).maskWrote = g.maskWrote := rfl
@[simp] theorem Gust.withP_since (g : Gust) (n : Nat) (m : Mask) : (g.withP n m).since = g.since := rfl
@[simp] theorem Gust.withP_priv (g : Gust) (n : Nat) (m : Mask) : (g.withP n m).priv = g.priv := rfl
@[simp] theorem Gust.withP_trapActive (g : Gust) (n : Nat) (m : Mask) : (g.withP n m).trapActive = g.trapActive := rfl
@[simp] theorem Gust.withP_stepBit (g : Gust) (n : Nat) (m : Mask) : (g.withP n m).stepBit = g.stepBit := rfl
@[simp] theorem Gust.withP_tvec (g : Gust) (n : Nat) (m : Mask) : (g.withP n m).tvec = g.tvec := rfl
@[simp] theorem Gust.withP_tpc (g : Gust) (n : Nat) (m : Mask) : (g.withP n m).tpc = g.tpc := rfl
@[simp] theorem Gust.withP_tm (g : Gust) (n : Nat) (m : Mask) : (g.withP n m).tm = g.tm := rfl
@[simp] theorem Gust.withP_gfr (g : Gust) (n : Nat) (m : Mask) : (g.withP n m).gfr = g.gfr := rfl
@[simp] theorem Gust.withP_laneRec (g : Gust) (n : Nat) (m : Mask) : (g.withP n m).laneRec = g.laneRec := rfl
@[simp] theorem Gust.withP_laneFaulted (g : Gust) (n : Nat) (m : Mask) : (g.withP n m).laneFaulted = g.laneFaulted := rfl
@[simp] theorem Gust.withP_ptimeh (g : Gust) (n : Nat) (m : Mask) : (g.withP n m).ptimeh = g.ptimeh := rfl
@[simp] theorem Gust.withP_nlast (g : Gust) (n : Nat) (m : Mask) : (g.withP n m).nlast = g.nlast := rfl
@[simp] theorem Gust.withP_kcount (g : Gust) (n : Nat) (m : Mask) : (g.withP n m).kcount = g.kcount := rfl
@[simp] theorem Gust.withP_gangRows (g : Gust) (n : Nat) (m : Mask) : (g.withP n m).gangRows = g.gangRows := rfl
@[simp] theorem Gust.withP_gangMap (g : Gust) (n : Nat) (m : Mask) : (g.withP n m).gangMap = g.gangMap := rfl
@[simp] theorem Gust.withP_key (g : Gust) (n : Nat) (m : Mask) : (g.withP n m).key = g.key := rfl
@[simp] theorem Gust.withP_ctr (g : Gust) (n : Nat) (m : Mask) : (g.withP n m).ctr = g.ctr := rfl
@[simp] theorem Gust.withP_liveTiles (g : Gust) (n : Nat) (m : Mask) : (g.withP n m).liveTiles = g.liveTiles := rfl
@[simp] theorem Gust.withP_liveSlots (g : Gust) (n : Nat) (m : Mask) : (g.withP n m).liveSlots = g.liveSlots := rfl
@[simp] theorem Gust.withP_bnum (g : Gust) (n : Nat) (m : Mask) : (g.withP n m).bnum = g.bnum := rfl
@[simp] theorem Gust.withP_doneUpto (g : Gust) (n : Nat) (m : Mask) : (g.withP n m).doneUpto = g.doneUpto := rfl
@[simp] theorem Gust.withP_lost (g : Gust) (n : Nat) (m : Mask) : (g.withP n m).lost = g.lost := rfl
@[simp] theorem Gust.withP_faults (g : Gust) (n : Nat) (m : Mask) : (g.withP n m).faults = g.faults := rfl
@[simp] theorem Gust.withP_lostIn (g : Gust) (n : Nat) (m : Mask) : (g.withP n m).lostIn = g.lostIn := rfl
@[simp] theorem Gust.withP_far (g : Gust) (n : Nat) (m : Mask) : (g.withP n m).far = g.far := rfl
@[simp] theorem Gust.withP_opened (g : Gust) (n : Nat) (m : Mask) : (g.withP n m).opened = g.opened := rfl
@[simp] theorem Gust.withP_waited (g : Gust) (n : Nat) (m : Mask) : (g.withP n m).waited = g.waited := rfl
@[simp] theorem Gust.withP_touched (g : Gust) (n : Nat) (m : Mask) : (g.withP n m).touched = g.touched := rfl
@[simp] theorem Gust.withP_unacked (g : Gust) (n : Nat) (m : Mask) : (g.withP n m).unacked = g.unacked := rfl
@[simp] theorem Gust.withP_loads (g : Gust) (n : Nat) (m : Mask) : (g.withP n m).loads = g.loads := rfl
@[simp] theorem Gust.withP_atoms (g : Gust) (n : Nat) (m : Mask) : (g.withP n m).atoms = g.atoms := rfl
@[simp] theorem Gust.withP_replay (g : Gust) (n : Nat) (m : Mask) : (g.withP n m).replay = g.replay := rfl
@[simp] theorem Gust.withP_pageWait (g : Gust) (n : Nat) (m : Mask) : (g.withP n m).pageWait = g.pageWait := rfl
@[simp] theorem Gust.withP_fillFaults (g : Gust) (n : Nat) (m : Mask) : (g.withP n m).fillFaults = g.fillFaults := rfl
@[simp] theorem Gust.withP_reply (g : Gust) (n : Nat) (m : Mask) : (g.withP n m).reply = g.reply := rfl
@[simp] theorem Gust.withP_issued (g : Gust) (n : Nat) (m : Mask) : (g.withP n m).issued = g.issued := rfl
@[simp] theorem Gust.withP_latchCode (g : Gust) (n : Nat) (m : Mask) : (g.withP n m).latchCode = g.latchCode := rfl
@[simp] theorem Gust.withP_lateCode (g : Gust) (n : Nat) (m : Mask) : (g.withP n m).lateCode = g.lateCode := rfl
@[simp] theorem Gust.withP_packet (g : Gust) (n : Nat) (m : Mask) : (g.withP n m).packet = g.packet := rfl
@[simp] theorem Gust.withP_oldCode (g : Gust) (n : Nat) (m : Mask) : (g.withP n m).oldCode = g.oldCode := rfl
@[simp] theorem Gust.withP_dbgCmd (g : Gust) (n : Nat) (m : Mask) : (g.withP n m).dbgCmd = g.dbgCmd := rfl
@[simp] theorem Gust.withP_traceSync (g : Gust) (n : Nat) (m : Mask) : (g.withP n m).traceSync = g.traceSync := rfl
@[simp] theorem Gust.withP_traceCount (g : Gust) (n : Nat) (m : Mask) : (g.withP n m).traceCount = g.traceCount := rfl
@[simp] theorem Gust.withP_traceLost (g : Gust) (n : Nat) (m : Mask) : (g.withP n m).traceLost = g.traceLost := rfl

/-! `withV` changes `vreg` alone. -/
@[simp] theorem Gust.withV_ref (g : Gust) (n : Nat) (w : Lanes) : (g.withV n w).ref = g.ref := rfl
@[simp] theorem Gust.withV_age (g : Gust) (n : Nat) (w : Lanes) : (g.withV n w).age = g.age := rfl
@[simp] theorem Gust.withV_slot (g : Gust) (n : Nat) (w : Lanes) : (g.withV n w).slot = g.slot := rfl
@[simp] theorem Gust.withV_status (g : Gust) (n : Nat) (w : Lanes) : (g.withV n w).status = g.status := rfl
@[simp] theorem Gust.withV_halted (g : Gust) (n : Nat) (w : Lanes) : (g.withV n w).halted = g.halted := rfl
@[simp] theorem Gust.withV_pc (g : Gust) (n : Nat) (w : Lanes) : (g.withV n w).pc = g.pc := rfl
@[simp] theorem Gust.withV_sreg (g : Gust) (n : Nat) (w : Lanes) : (g.withV n w).sreg = g.sreg := rfl
@[simp] theorem Gust.withV_preg (g : Gust) (n : Nat) (w : Lanes) : (g.withV n w).preg = g.preg := rfl
@[simp] theorem Gust.withV_vbase (g : Gust) (n : Nat) (w : Lanes) : (g.withV n w).vbase = g.vbase := rfl
@[simp] theorem Gust.withV_stack (g : Gust) (n : Nat) (w : Lanes) : (g.withV n w).stack = g.stack := rfl
@[simp] theorem Gust.withV_sent (g : Gust) (n : Nat) (w : Lanes) : (g.withV n w).sent = g.sent := rfl
@[simp] theorem Gust.withV_maskWrote (g : Gust) (n : Nat) (w : Lanes) : (g.withV n w).maskWrote = g.maskWrote := rfl
@[simp] theorem Gust.withV_since (g : Gust) (n : Nat) (w : Lanes) : (g.withV n w).since = g.since := rfl
@[simp] theorem Gust.withV_priv (g : Gust) (n : Nat) (w : Lanes) : (g.withV n w).priv = g.priv := rfl
@[simp] theorem Gust.withV_trapActive (g : Gust) (n : Nat) (w : Lanes) : (g.withV n w).trapActive = g.trapActive := rfl
@[simp] theorem Gust.withV_stepBit (g : Gust) (n : Nat) (w : Lanes) : (g.withV n w).stepBit = g.stepBit := rfl
@[simp] theorem Gust.withV_tvec (g : Gust) (n : Nat) (w : Lanes) : (g.withV n w).tvec = g.tvec := rfl
@[simp] theorem Gust.withV_tpc (g : Gust) (n : Nat) (w : Lanes) : (g.withV n w).tpc = g.tpc := rfl
@[simp] theorem Gust.withV_tm (g : Gust) (n : Nat) (w : Lanes) : (g.withV n w).tm = g.tm := rfl
@[simp] theorem Gust.withV_gfr (g : Gust) (n : Nat) (w : Lanes) : (g.withV n w).gfr = g.gfr := rfl
@[simp] theorem Gust.withV_laneRec (g : Gust) (n : Nat) (w : Lanes) : (g.withV n w).laneRec = g.laneRec := rfl
@[simp] theorem Gust.withV_laneFaulted (g : Gust) (n : Nat) (w : Lanes) : (g.withV n w).laneFaulted = g.laneFaulted := rfl
@[simp] theorem Gust.withV_ptimeh (g : Gust) (n : Nat) (w : Lanes) : (g.withV n w).ptimeh = g.ptimeh := rfl
@[simp] theorem Gust.withV_nlast (g : Gust) (n : Nat) (w : Lanes) : (g.withV n w).nlast = g.nlast := rfl
@[simp] theorem Gust.withV_kcount (g : Gust) (n : Nat) (w : Lanes) : (g.withV n w).kcount = g.kcount := rfl
@[simp] theorem Gust.withV_gangRows (g : Gust) (n : Nat) (w : Lanes) : (g.withV n w).gangRows = g.gangRows := rfl
@[simp] theorem Gust.withV_gangMap (g : Gust) (n : Nat) (w : Lanes) : (g.withV n w).gangMap = g.gangMap := rfl
@[simp] theorem Gust.withV_key (g : Gust) (n : Nat) (w : Lanes) : (g.withV n w).key = g.key := rfl
@[simp] theorem Gust.withV_ctr (g : Gust) (n : Nat) (w : Lanes) : (g.withV n w).ctr = g.ctr := rfl
@[simp] theorem Gust.withV_liveTiles (g : Gust) (n : Nat) (w : Lanes) : (g.withV n w).liveTiles = g.liveTiles := rfl
@[simp] theorem Gust.withV_liveSlots (g : Gust) (n : Nat) (w : Lanes) : (g.withV n w).liveSlots = g.liveSlots := rfl
@[simp] theorem Gust.withV_bnum (g : Gust) (n : Nat) (w : Lanes) : (g.withV n w).bnum = g.bnum := rfl
@[simp] theorem Gust.withV_doneUpto (g : Gust) (n : Nat) (w : Lanes) : (g.withV n w).doneUpto = g.doneUpto := rfl
@[simp] theorem Gust.withV_lost (g : Gust) (n : Nat) (w : Lanes) : (g.withV n w).lost = g.lost := rfl
@[simp] theorem Gust.withV_faults (g : Gust) (n : Nat) (w : Lanes) : (g.withV n w).faults = g.faults := rfl
@[simp] theorem Gust.withV_lostIn (g : Gust) (n : Nat) (w : Lanes) : (g.withV n w).lostIn = g.lostIn := rfl
@[simp] theorem Gust.withV_far (g : Gust) (n : Nat) (w : Lanes) : (g.withV n w).far = g.far := rfl
@[simp] theorem Gust.withV_opened (g : Gust) (n : Nat) (w : Lanes) : (g.withV n w).opened = g.opened := rfl
@[simp] theorem Gust.withV_waited (g : Gust) (n : Nat) (w : Lanes) : (g.withV n w).waited = g.waited := rfl
@[simp] theorem Gust.withV_touched (g : Gust) (n : Nat) (w : Lanes) : (g.withV n w).touched = g.touched := rfl
@[simp] theorem Gust.withV_unacked (g : Gust) (n : Nat) (w : Lanes) : (g.withV n w).unacked = g.unacked := rfl
@[simp] theorem Gust.withV_loads (g : Gust) (n : Nat) (w : Lanes) : (g.withV n w).loads = g.loads := rfl
@[simp] theorem Gust.withV_atoms (g : Gust) (n : Nat) (w : Lanes) : (g.withV n w).atoms = g.atoms := rfl
@[simp] theorem Gust.withV_replay (g : Gust) (n : Nat) (w : Lanes) : (g.withV n w).replay = g.replay := rfl
@[simp] theorem Gust.withV_pageWait (g : Gust) (n : Nat) (w : Lanes) : (g.withV n w).pageWait = g.pageWait := rfl
@[simp] theorem Gust.withV_fillFaults (g : Gust) (n : Nat) (w : Lanes) : (g.withV n w).fillFaults = g.fillFaults := rfl
@[simp] theorem Gust.withV_reply (g : Gust) (n : Nat) (w : Lanes) : (g.withV n w).reply = g.reply := rfl
@[simp] theorem Gust.withV_issued (g : Gust) (n : Nat) (w : Lanes) : (g.withV n w).issued = g.issued := rfl
@[simp] theorem Gust.withV_latchCode (g : Gust) (n : Nat) (w : Lanes) : (g.withV n w).latchCode = g.latchCode := rfl
@[simp] theorem Gust.withV_lateCode (g : Gust) (n : Nat) (w : Lanes) : (g.withV n w).lateCode = g.lateCode := rfl
@[simp] theorem Gust.withV_packet (g : Gust) (n : Nat) (w : Lanes) : (g.withV n w).packet = g.packet := rfl
@[simp] theorem Gust.withV_oldCode (g : Gust) (n : Nat) (w : Lanes) : (g.withV n w).oldCode = g.oldCode := rfl
@[simp] theorem Gust.withV_dbgCmd (g : Gust) (n : Nat) (w : Lanes) : (g.withV n w).dbgCmd = g.dbgCmd := rfl
@[simp] theorem Gust.withV_traceSync (g : Gust) (n : Nat) (w : Lanes) : (g.withV n w).traceSync = g.traceSync := rfl
@[simp] theorem Gust.withV_traceCount (g : Gust) (n : Nat) (w : Lanes) : (g.withV n w).traceCount = g.traceCount := rfl
@[simp] theorem Gust.withV_traceLost (g : Gust) (n : Nat) (w : Lanes) : (g.withV n w).traceLost = g.traceLost := rfl

/-! `withS` changes `sreg` alone. -/
@[simp] theorem Gust.withS_ref (g : Gust) (n : Nat) (w : Word) : (g.withS n w).ref = g.ref := rfl
@[simp] theorem Gust.withS_age (g : Gust) (n : Nat) (w : Word) : (g.withS n w).age = g.age := rfl
@[simp] theorem Gust.withS_slot (g : Gust) (n : Nat) (w : Word) : (g.withS n w).slot = g.slot := rfl
@[simp] theorem Gust.withS_status (g : Gust) (n : Nat) (w : Word) : (g.withS n w).status = g.status := rfl
@[simp] theorem Gust.withS_halted (g : Gust) (n : Nat) (w : Word) : (g.withS n w).halted = g.halted := rfl
@[simp] theorem Gust.withS_pc (g : Gust) (n : Nat) (w : Word) : (g.withS n w).pc = g.pc := rfl
@[simp] theorem Gust.withS_preg (g : Gust) (n : Nat) (w : Word) : (g.withS n w).preg = g.preg := rfl
@[simp] theorem Gust.withS_vreg (g : Gust) (n : Nat) (w : Word) : (g.withS n w).vreg = g.vreg := rfl
@[simp] theorem Gust.withS_vbase (g : Gust) (n : Nat) (w : Word) : (g.withS n w).vbase = g.vbase := rfl
@[simp] theorem Gust.withS_stack (g : Gust) (n : Nat) (w : Word) : (g.withS n w).stack = g.stack := rfl
@[simp] theorem Gust.withS_sent (g : Gust) (n : Nat) (w : Word) : (g.withS n w).sent = g.sent := rfl
@[simp] theorem Gust.withS_maskWrote (g : Gust) (n : Nat) (w : Word) : (g.withS n w).maskWrote = g.maskWrote := rfl
@[simp] theorem Gust.withS_since (g : Gust) (n : Nat) (w : Word) : (g.withS n w).since = g.since := rfl
@[simp] theorem Gust.withS_priv (g : Gust) (n : Nat) (w : Word) : (g.withS n w).priv = g.priv := rfl
@[simp] theorem Gust.withS_trapActive (g : Gust) (n : Nat) (w : Word) : (g.withS n w).trapActive = g.trapActive := rfl
@[simp] theorem Gust.withS_stepBit (g : Gust) (n : Nat) (w : Word) : (g.withS n w).stepBit = g.stepBit := rfl
@[simp] theorem Gust.withS_tvec (g : Gust) (n : Nat) (w : Word) : (g.withS n w).tvec = g.tvec := rfl
@[simp] theorem Gust.withS_tpc (g : Gust) (n : Nat) (w : Word) : (g.withS n w).tpc = g.tpc := rfl
@[simp] theorem Gust.withS_tm (g : Gust) (n : Nat) (w : Word) : (g.withS n w).tm = g.tm := rfl
@[simp] theorem Gust.withS_gfr (g : Gust) (n : Nat) (w : Word) : (g.withS n w).gfr = g.gfr := rfl
@[simp] theorem Gust.withS_laneRec (g : Gust) (n : Nat) (w : Word) : (g.withS n w).laneRec = g.laneRec := rfl
@[simp] theorem Gust.withS_laneFaulted (g : Gust) (n : Nat) (w : Word) : (g.withS n w).laneFaulted = g.laneFaulted := rfl
@[simp] theorem Gust.withS_ptimeh (g : Gust) (n : Nat) (w : Word) : (g.withS n w).ptimeh = g.ptimeh := rfl
@[simp] theorem Gust.withS_nlast (g : Gust) (n : Nat) (w : Word) : (g.withS n w).nlast = g.nlast := rfl
@[simp] theorem Gust.withS_kcount (g : Gust) (n : Nat) (w : Word) : (g.withS n w).kcount = g.kcount := rfl
@[simp] theorem Gust.withS_gangRows (g : Gust) (n : Nat) (w : Word) : (g.withS n w).gangRows = g.gangRows := rfl
@[simp] theorem Gust.withS_gangMap (g : Gust) (n : Nat) (w : Word) : (g.withS n w).gangMap = g.gangMap := rfl
@[simp] theorem Gust.withS_key (g : Gust) (n : Nat) (w : Word) : (g.withS n w).key = g.key := rfl
@[simp] theorem Gust.withS_ctr (g : Gust) (n : Nat) (w : Word) : (g.withS n w).ctr = g.ctr := rfl
@[simp] theorem Gust.withS_liveTiles (g : Gust) (n : Nat) (w : Word) : (g.withS n w).liveTiles = g.liveTiles := rfl
@[simp] theorem Gust.withS_liveSlots (g : Gust) (n : Nat) (w : Word) : (g.withS n w).liveSlots = g.liveSlots := rfl
@[simp] theorem Gust.withS_bnum (g : Gust) (n : Nat) (w : Word) : (g.withS n w).bnum = g.bnum := rfl
@[simp] theorem Gust.withS_doneUpto (g : Gust) (n : Nat) (w : Word) : (g.withS n w).doneUpto = g.doneUpto := rfl
@[simp] theorem Gust.withS_lost (g : Gust) (n : Nat) (w : Word) : (g.withS n w).lost = g.lost := rfl
@[simp] theorem Gust.withS_faults (g : Gust) (n : Nat) (w : Word) : (g.withS n w).faults = g.faults := rfl
@[simp] theorem Gust.withS_lostIn (g : Gust) (n : Nat) (w : Word) : (g.withS n w).lostIn = g.lostIn := rfl
@[simp] theorem Gust.withS_far (g : Gust) (n : Nat) (w : Word) : (g.withS n w).far = g.far := rfl
@[simp] theorem Gust.withS_opened (g : Gust) (n : Nat) (w : Word) : (g.withS n w).opened = g.opened := rfl
@[simp] theorem Gust.withS_waited (g : Gust) (n : Nat) (w : Word) : (g.withS n w).waited = g.waited := rfl
@[simp] theorem Gust.withS_touched (g : Gust) (n : Nat) (w : Word) : (g.withS n w).touched = g.touched := rfl
@[simp] theorem Gust.withS_unacked (g : Gust) (n : Nat) (w : Word) : (g.withS n w).unacked = g.unacked := rfl
@[simp] theorem Gust.withS_loads (g : Gust) (n : Nat) (w : Word) : (g.withS n w).loads = g.loads := rfl
@[simp] theorem Gust.withS_atoms (g : Gust) (n : Nat) (w : Word) : (g.withS n w).atoms = g.atoms := rfl
@[simp] theorem Gust.withS_replay (g : Gust) (n : Nat) (w : Word) : (g.withS n w).replay = g.replay := rfl
@[simp] theorem Gust.withS_pageWait (g : Gust) (n : Nat) (w : Word) : (g.withS n w).pageWait = g.pageWait := rfl
@[simp] theorem Gust.withS_fillFaults (g : Gust) (n : Nat) (w : Word) : (g.withS n w).fillFaults = g.fillFaults := rfl
@[simp] theorem Gust.withS_reply (g : Gust) (n : Nat) (w : Word) : (g.withS n w).reply = g.reply := rfl
@[simp] theorem Gust.withS_issued (g : Gust) (n : Nat) (w : Word) : (g.withS n w).issued = g.issued := rfl
@[simp] theorem Gust.withS_latchCode (g : Gust) (n : Nat) (w : Word) : (g.withS n w).latchCode = g.latchCode := rfl
@[simp] theorem Gust.withS_lateCode (g : Gust) (n : Nat) (w : Word) : (g.withS n w).lateCode = g.lateCode := rfl
@[simp] theorem Gust.withS_packet (g : Gust) (n : Nat) (w : Word) : (g.withS n w).packet = g.packet := rfl
@[simp] theorem Gust.withS_oldCode (g : Gust) (n : Nat) (w : Word) : (g.withS n w).oldCode = g.oldCode := rfl
@[simp] theorem Gust.withS_dbgCmd (g : Gust) (n : Nat) (w : Word) : (g.withS n w).dbgCmd = g.dbgCmd := rfl
@[simp] theorem Gust.withS_traceSync (g : Gust) (n : Nat) (w : Word) : (g.withS n w).traceSync = g.traceSync := rfl
@[simp] theorem Gust.withS_traceCount (g : Gust) (n : Nat) (w : Word) : (g.withS n w).traceCount = g.traceCount := rfl
@[simp] theorem Gust.withS_traceLost (g : Gust) (n : Nat) (w : Word) : (g.withS n w).traceLost = g.traceLost := rfl

end Sys2Proof.Machine
end

