-- ==== Sys2Proof/Laws/Trits.lean ====
section
/-! SUPPORT. What the shared trit arithmetic does: ranges, words and their values, trits of sums of trits, and masks and
lanes built lane by lane. -/

namespace Sys2Proof

theorem pow3_eq (n : Nat) : pow3 n = 3 ^ n := by simp [pow3]

theorem pow3_pos (n : Nat) : 0 < pow3 n := by rw [pow3_eq]; positivity

theorem pow3_add (m n : Nat) : pow3 (m + n) = pow3 m * pow3 n := by simp [pow3_eq, pow_add]

theorem two_maxT (n : Nat) : 2 * maxT n + 1 = pow3 n := by
  have h : (3 ^ n) % 2 = 1 := by
    induction n with
    | zero => rfl
    | succ n ih => rw [pow_succ]; omega
  have h0 : 0 < 3 ^ n := by positivity
  simp only [maxT, pow3, Int.ofNat_eq_natCast]
  omega

theorem maxT_nonneg (n : Nat) : 0 ≤ maxT n := Int.natCast_nonneg _

theorem maxT_add (m n : Nat) : maxT (m + n) = maxT m + pow3 m * maxT n := by
  have h1 := two_maxT m
  have h2 := two_maxT n
  have h3 := two_maxT (m + n)
  rw [pow3_add] at h3
  have h4 : pow3 m * (2 * maxT n + 1) = pow3 m * pow3 n := by rw [h2]
  have h5 : pow3 m * (2 * maxT n + 1) = 2 * (pow3 m * maxT n) + pow3 m := by ring
  omega

/-- A wrapped number lies in the balanced range. -/
theorem wrapT_range (x : Int) (n : Nat) : -(maxT n) ≤ wrapT x n ∧ wrapT x n ≤ maxT n := by
  have h := two_maxT n
  have h1 := Int.emod_nonneg (x + maxT n) (pow3_pos n).ne'
  have h2 := Int.emod_lt_of_pos (x + maxT n) (pow3_pos n)
  unfold wrapT
  omega

/-- A number in the balanced range is not changed by wrapping. -/
theorem wrapT_of_range {x : Int} {n : Nat} (h1 : -(maxT n) ≤ x) (h2 : x ≤ maxT n) : wrapT x n = x := by
  have h := two_maxT n
  unfold wrapT
  rw [Int.emod_eq_of_lt (by omega) (by omega)]
  omega

/-- A number is its low trits and the rest. -/
theorem wrapT_add_dropT (x : Int) (n : Nat) : wrapT x n + pow3 n * dropT x n = x := by
  have h := Int.emod_add_mul_ediv (x + maxT n) (pow3 n)
  unfold wrapT dropT
  linarith

@[simp] theorem dropT_zero (x : Int) : dropT x 0 = x := by simp [dropT, maxT, pow3]

theorem dropT_one (x : Int) : dropT x 1 = (x + 1) / 3 := rfl

theorem wrapT_one (x : Int) : wrapT x 1 = (x + 1) % 3 - 1 := rfl

/-- Dropping trits twice. -/
theorem dropT_dropT (x : Int) (a b : Nat) : dropT (dropT x a) b = dropT x (a + b) := by
  have h := pow3_pos a
  unfold dropT
  rw [pow3_add, maxT_add, ← Int.ediv_ediv_of_nonneg h.le]
  congr 1
  rw [show x + (maxT a + pow3 a * maxT b) = x + maxT a + pow3 a * maxT b by ring, Int.add_mul_ediv_left _ _ h.ne']

theorem tritI_range (x : Int) (i : Nat) : tritI x i = -1 ∨ tritI x i = 0 ∨ tritI x i = 1 := by
  have h := wrapT_range (dropT x i) 1
  have hm : maxT 1 = 1 := rfl
  unfold tritI
  omega

/-- The lowest trit of t + 3y. -/
theorem tritI_cons_zero {t : Int} (y : Int) (h : t = -1 ∨ t = 0 ∨ t = 1) : tritI (t + 3 * y) 0 = t := by
  simp only [tritI, dropT_zero, wrapT_one]
  omega

/-- The other trits of t + 3y. -/
theorem tritI_cons_succ {t : Int} (y : Int) (i : Nat) (h : t = -1 ∨ t = 0 ∨ t = 1) : tritI (t + 3 * y) (i + 1) = tritI y i := by
  unfold tritI
  rw [Nat.add_comm, ← dropT_dropT, dropT_one, show (t + 3 * y + 1) / 3 = y by omega]

/-- The trits of a number given by its trits. -/
theorem tritI_ofTrits {ts : List Int} (h : ∀ t ∈ ts, t = -1 ∨ t = 0 ∨ t = 1) (i : Nat) (hi : i < ts.length) :
    tritI (ofTrits ts) i = ts[i] := by
  induction ts generalizing i with
  | nil => simp at hi
  | cons t ts ih =>
    have ht := h t (by simp)
    cases i with
    | zero => exact tritI_cons_zero _ ht
    | succ i =>
      rw [ofTrits, tritI_cons_succ _ _ ht, ih (fun x hx => h x (by simp [hx])) i (by simpa using hi)]
      simp

/-- The list of trits of a number. -/
theorem tritsOf_eq (x : Int) (n : Nat) : tritsOf x n = (List.range n).map (tritI x) := by
  induction n generalizing x with
  | zero => rfl
  | succ n ih =>
    rw [tritsOf, ih, List.range_succ_eq_map, List.map_cons, List.map_map]
    congr 1
    · simp [tritI]
    · apply List.map_congr_left
      intro i _
      simp [tritI, dropT_dropT, Nat.add_comm]

/-- A number of n trits is within their range. -/
theorem ofTrits_range {ts : List Int} (h : ∀ t ∈ ts, t = -1 ∨ t = 0 ∨ t = 1) :
    -(maxT ts.length) ≤ ofTrits ts ∧ ofTrits ts ≤ maxT ts.length := by
  induction ts with
  | nil => simp [ofTrits, maxT]
  | cons t ts ih =>
    have ht := h t (by simp)
    have hi := ih fun x hx => h x (by simp [hx])
    have hm : maxT (ts.length + 1) = 1 + 3 * maxT ts.length := by
      rw [Nat.add_comm, maxT_add]; rfl
    simp only [ofTrits, List.length_cons, hm]
    omega

theorem wrap27_eq (x : Int) : wrap x 27 = wrapT x 27 := rfl

/-- A word holds its number modulo 3^27. -/
@[simp] theorem Word.val_ofInt (x : Int) : (Word.ofInt x).val = wrapT x 27 := rfl

/-- A word is the word of its value. -/
@[simp] theorem Word.ofInt_val (w : Word) : Word.ofInt w.val = w := by
  apply Word.ext_val
  rw [Word.val_ofInt, wrapT_of_range] <;> simp [maxT, w.ok.1, w.ok.2]

theorem Trit.val_range (t : Trit) : t.val = -1 ∨ t.val = 0 ∨ t.val = 1 := by cases t <;> simp [Trit.val]

@[simp] theorem Trit.sgn_val (t : Trit) : Trit.sgn t.val = t := by cases t <;> rfl

/-- The word of 27 given trits has those trits. -/
theorem Word.tritAt_tab (f : Nat → Trit) (i : Nat) (hi : i < 27) :
    (Word.ofInt (ofTrits ((List.range 27).map fun i => (f i).val))).tritAt i = f i := by
  have ht : ∀ t ∈ (List.range 27).map fun i => (f i).val, t = -1 ∨ t = 0 ∨ t = 1 := by
    intro t h
    obtain ⟨k, _, rfl⟩ := List.mem_map.1 h
    exact Trit.val_range _
  have hr := ofTrits_range ht
  rw [List.length_map, List.length_range] at hr
  unfold Word.tritAt Sys2Proof.tritAt
  rw [Word.val_ofInt, wrapT_of_range hr.1 hr.2, tritI_ofTrits ht i (by simpa using hi)]
  simp

/-- A mask built trit by trit has those trits. -/
theorem Mask.get_tab (f : Nat → Trit) (l : Nat) (hl : l < 81) : (Mask.tab f).get l = f l := by
  unfold Mask.get Mask.tab
  simp only
  split
  · rw [Word.tritAt_tab _ _ (by omega)]; simp
  · split
    · rw [Word.tritAt_tab _ _ (by omega)]; congr 1; omega
    · rw [Word.tritAt_tab _ _ (by omega)]; congr 1; omega

/-- Two masks with the same trits in every lane are read alike. -/
theorem Mask.get_update (m : Mask) (act : List Bool) (f : Nat → Trit) (l : Nat) (hl : l < 81) :
    (m.update act f).get l = if act.getD l false then f l else m.get l := by
  unfold Mask.update
  rw [Mask.get_tab _ _ hl]

/-- A vector rewritten in some lanes. -/
theorem Lanes.get_update (v : Lanes) (act : List Bool) (f : Nat → Word) (l : Nat) (hl : l < 81) (ha : act.length = 81) :
    (v.update act f).get l = if act.getD l false then f l else v.get l := by
  have hv := v.len
  unfold Lanes.update
  rw [Lanes.get_tab _ _ hl]
  simp only [List.getD_eq_getElem?_getD, Lanes.get]
  rw [List.getElem?_zipWith, List.getElem?_range hl, List.getElem?_eq_getElem (by simp; omega)]
  rw [List.getElem?_eq_getElem (l := act) (by omega), List.getElem?_eq_getElem (l := v.data) (by omega)]
  simp

theorem Trit.sgn_eq_plus {x : Int} (h : x = -1 ∨ x = 0 ∨ x = 1) : (Trit.sgn x = .plus ↔ x = 1) := by
  rcases h with rfl | rfl | rfl <;> simp [Trit.sgn]

/-- The trits of a mask, as a list. -/
theorem Mask.trits_getElem? (m : Mask) (l : Nat) (hl : l < 81) : m.trits[l]? = some (m.get l).val := by
  have hs : ∀ x i, (Trit.sgn (tritI x i)).val = tritI x i := by
    intro x i
    rcases tritI_range x i with h | h | h <;> rw [h] <;> rfl
  unfold Mask.trits Word.trits Mask.get Word.tritAt Sys2Proof.tritAt
  simp only [tritsOf_eq]
  split
  · rw [List.getElem?_append_left (by simp; omega), List.getElem?_append_left (by simp; omega)]
    simp [*]
  · split
    · rw [List.getElem?_append_left (by simp; omega), List.getElem?_append_right (by simp; omega)]
      simp [hs, show l - 27 < 27 by omega]
    · rw [List.getElem?_append_right (by simp; omega)]
      simp [hs, show l - 54 < 27 by omega]

end Sys2Proof

namespace Sys2Proof.Machine

theorem Gust.passes_length (g : Gust) (c : Int) : (g.passes c).length = 81 := by
  unfold Gust.passes
  split
  · simp
  · split <;> simp [Mask.trits, Word.trits, tritsOf_eq]

theorem Gust.active_length (g : Gust) (c : Int) : (g.active c).length = 81 := by
  simp [Gust.active, Gust.passes_length, Mask.trits, Word.trits, tritsOf_eq]

/-- The participating lanes, read from the list or as flags. -/
theorem Gust.mem_activeLanes (g : Gust) (c : Int) (l : Nat) :
    l ∈ g.activeLanes c ↔ l < 81 ∧ (g.active c).getD l false = true := by
  simp [Gust.activeLanes]

/-- An unguarded instruction's participating lanes are those whose mask trit is plus (R67). -/
theorem Gust.mem_activeLanes_zero (g : Gust) (l : Nat) : l ∈ g.activeLanes 0 ↔ l < 81 ∧ g.mask.get l = .plus := by
  rw [Gust.mem_activeLanes]
  refine and_congr_right fun hl => ?_
  have hp : (g.passes 0)[l]? = some true := by rw [Gust.passes, if_pos rfl, List.getElem?_replicate, if_pos hl]
  simp only [List.getD_eq_getElem?_getD, Gust.active, List.getElem?_zipWith, Mask.trits_getElem? _ _ hl, hp]
  cases g.mask.get l <;> simp [Trit.val]

/-- An instruction acts where it is unguarded or some lane participates (R67). -/
theorem Gust.acts_iff (g : Gust) (c : Int) : g.acts c = true ↔ c = 0 ∨ g.activeLanes c ≠ [] := by
  have h := g.active_length c
  simp only [Gust.acts, Bool.or_eq_true, beq_iff_eq, List.any_eq_true, id_eq, Gust.activeLanes, ne_eq,
    List.filter_eq_nil_iff, List.mem_range, not_forall, Bool.not_eq_true]
  refine or_congr_right ⟨fun ⟨x, hx, hxt⟩ => ?_, fun ⟨l, hl, hlt⟩ => ⟨true, ?_, rfl⟩⟩
  · obtain ⟨i, hi, rfl⟩ := List.getElem_of_mem hx
    exact ⟨i, by omega, by simp [hi, hxt]⟩
  · rw [List.getD_eq_getElem _ _ (by omega)] at hlt
    simp only [Bool.not_eq_false] at hlt
    exact hlt ▸ List.getElem_mem _

end Sys2Proof.Machine
end

