-- ==== Sys2Proof/Laws/Ops.lean ====
section
/-! SUPPORT. What the shared operations over gusts, squalls and instructions do, each said once. -/

namespace Sys2Proof.Machine

/-! Records by name. -/

/-- A gust found under a name has the name. -/
theorem State.gust?_ref {s : State} {r : GustRef} {g : Gust} (h : s.gust? r = some g) : g.ref = r := by
  simpa using List.find?_some h

/-- A squall found under a name has the name. -/
theorem State.squall?_q {s : State} {r : SqRef} {q : Squall} (h : s.squall? r = some q) : q.q = r := by
  simpa using List.find?_some h

/-- Replacing a record by one of the same name, in a list searched by name. -/
theorem find?_map_if {α κ : Type} [DecidableEq κ] (key : α → κ) (f : α → α) (k j : κ) (hf : ∀ x, key x = k → key (f x) = k) (l : List α) :
    (l.map fun x => if key x == k then f x else x).find? (fun x => key x == j) =
      if j = k then (l.find? fun x => key x == j).map f else l.find? fun x => key x == j := by
  induction l with
  | nil => simp
  | cons a t ih =>
    simp only [List.map_cons, List.find?_cons, ih]
    by_cases ha : key a = k
    · have hk : key (f a) = k := hf a ha
      rw [if_pos (by simp [ha]), hk, ha]
      by_cases hj : j = k
      · subst hj; simp
      · simp [hj, beq_eq_false_iff_ne.2 (Ne.symm hj)]
    · rw [if_neg (by simp [ha])]
      by_cases hj : j = k
      · subst hj; simp [beq_eq_false_iff_ne.2 ha]
      · simp [hj]

theorem State.gust?_onGust (s : State) (r j : GustRef) (f : Gust → Gust) (hf : ∀ g, g.ref = r → (f g).ref = r) :
    (s.onGust r f).gust? j = if j = r then (s.gust? j).map f else s.gust? j :=
  find?_map_if Gust.ref f r j hf s.gusts

/-- A replaced gust is found under its name, and the others are as they were. -/
theorem State.gust?_setGust (s : State) (g : Gust) (j : GustRef) :
    (s.setGust g).gust? j = if j = g.ref then (s.gust? j).map (fun _ => g) else s.gust? j :=
  find?_map_if Gust.ref (fun _ => g) g.ref j (fun _ _ => rfl) s.gusts

theorem State.gust?_setGust_self {s : State} {g h : Gust} (hg : s.gust? h.ref = some g) : (s.setGust h).gust? h.ref = some h := by
  rw [State.gust?_setGust]; simp [hg]

theorem State.squall?_onSquall (s : State) (r j : SqRef) (f : Squall → Squall) (hf : ∀ q, q.q = r → (f q).q = r) :
    (s.onSquall r f).squall? j = if j = r then (s.squall? j).map f else s.squall? j :=
  find?_map_if Squall.q f r j hf s.squalls

theorem State.squall?_setSquall (s : State) (q : Squall) (j : SqRef) :
    (s.setSquall q).squall? j = if j = q.q then (s.squall? j).map (fun _ => q) else s.squall? j :=
  find?_map_if Squall.q (fun _ => q) q.q j (fun _ _ => rfl) s.squalls

theorem State.front?_onFront (s : State) (n j : Nat) (f : Front → Front) (hf : ∀ x, x.num = n → (f x).num = n) :
    (s.onFront n f).front? j = if j = n then (s.front? j).map f else s.front? j :=
  find?_map_if Front.num f n j hf s.fronts

theorem State.home?_onHome (s : State) (n j : Nat) (f : HomeLine → HomeLine) (hf : ∀ x, x.line = n → (f x).line = n) :
    (s.onHome n f).home? j = if j = n then (s.home? j).map f else s.home? j :=
  find?_map_if HomeLine.line f n j hf s.homes

/-- Of two replacements of one gust the later stands. -/
theorem State.setGust_setGust (s : State) (g h : Gust) (hr : g.ref = h.ref) : (s.setGust g).setGust h = s.setGust h := by
  unfold State.setGust
  simp only [List.map_map, State.mk.injEq, true_and, and_true]
  apply List.map_congr_left
  intro x _
  by_cases hx : x.ref = h.ref <;> simp [hx, hr]

/-- Lookups that another part of the state decides. -/
@[simp] theorem State.squall?_onGust (s : State) (r : GustRef) (f : Gust → Gust) (q : SqRef) :
    (s.onGust r f).squall? q = s.squall? q := rfl
@[simp] theorem State.squall?_of_setGust (s : State) (g : Gust) (q : SqRef) : (s.setGust g).squall? q = s.squall? q := rfl
@[simp] theorem State.gust?_of_setSquall (s : State) (q : Squall) (r : GustRef) : (s.setSquall q).gust? r = s.gust? r := rfl
@[simp] theorem State.gust?_onSquall (s : State) (q : SqRef) (f : Squall → Squall) (r : GustRef) :
    (s.onSquall q f).gust? r = s.gust? r := rfl
@[simp] theorem State.gust?_onCore (s : State) (c : Nat) (f : Core → Core) (r : GustRef) : (s.onCore c f).gust? r = s.gust? r := rfl
@[simp] theorem State.gust?_onDie (s : State) (d : Nat) (f : Die → Die) (r : GustRef) : (s.onDie d f).gust? r = s.gust? r := rfl
@[simp] theorem State.squall?_onCore (s : State) (c : Nat) (f : Core → Core) (q : SqRef) :
    (s.onCore c f).squall? q = s.squall? q := rfl
@[simp] theorem State.squall?_onDie (s : State) (d : Nat) (f : Die → Die) (q : SqRef) : (s.onDie d f).squall? q = s.squall? q := rfl
@[simp] theorem State.core_setGust (s : State) (g : Gust) (c : Nat) : (s.setGust g).core c = s.core c := rfl
@[simp] theorem State.die_setGust (s : State) (g : Gust) (d : Nat) : (s.setGust g).die d = s.die d := rfl
@[simp] theorem State.core_onGust (s : State) (r : GustRef) (f : Gust → Gust) (c : Nat) : (s.onGust r f).core c = s.core c := rfl
@[simp] theorem State.die_onGust (s : State) (r : GustRef) (f : Gust → Gust) (d : Nat) : (s.onGust r f).die d = s.die d := rfl

theorem State.core_onCore (s : State) (c k : Nat) (f : Core → Core) (hk : k < s.cores.length) :
    (s.onCore c f).core k = if k = c then f (s.core k) else s.core k := by
  simp only [State.core, State.onCore, List.getD_eq_getElem?_getD, List.getElem?_modify, List.getElem?_eq_getElem hk]
  by_cases h : c = k
  · subst h; simp
  · simp [h, Ne.symm h]

theorem State.die_onDie (s : State) (d k : Nat) (f : Die → Die) (hk : k < s.dies.length) :
    (s.onDie d f).die k = if k = d then f (s.die k) else s.die k := by
  simp only [State.die, State.onDie, List.getD_eq_getElem?_getD, List.getElem?_modify, List.getElem?_eq_getElem hk]
  by_cases h : d = k
  · subst h; simp
  · simp [h, Ne.symm h]

/-! Registers of a gust. -/

@[simp] theorem Gust.withS_s (g : Gust) (n j : Nat) (w : Word) :
    (g.withS n w).s j = if j = n ∧ j < g.sreg.length then w else g.s j := by
  simp only [Gust.s, Gust.withS, List.getD_eq_getElem?_getD, List.getElem?_set]
  by_cases h : n = j
  · subst h
    by_cases hn : n < g.sreg.length <;> simp [hn]
  · simp [h, Ne.symm h]

@[simp] theorem Gust.withV_v (g : Gust) (n j : Nat) (w : Lanes) :
    (g.withV n w).v j = if j = n ∧ j < g.vreg.length then w else g.v j := by
  simp only [Gust.v, Gust.withV, List.getD_eq_getElem?_getD, List.getElem?_set]
  by_cases h : n = j
  · subst h
    by_cases hn : n < g.vreg.length <;> simp [hn]
  · simp [h, Ne.symm h]

@[simp] theorem Gust.withP_p (g : Gust) (n j : Nat) (m : Mask) :
    (g.withP n m).p j = if j = n ∧ j < g.preg.length then m else g.p j := by
  simp only [Gust.p, Gust.withP, List.getD_eq_getElem?_getD, List.getElem?_set]
  by_cases h : n = j
  · subst h
    by_cases hn : n < g.preg.length <;> simp [hn]
  · simp [h, Ne.symm h]

/-- A scalar below the mask words leaves the mask. -/
theorem Gust.withS_mask (g : Gust) {n : Nat} (w : Word) (h : n < 78) : (g.withS n w).mask = g.mask := by
  simp only [Gust.mask, Gust.withS_s]
  simp [show (78 : Nat) ≠ n by omega, show (79 : Nat) ≠ n by omega, show (80 : Nat) ≠ n by omega]

@[simp] theorem Gust.withV_mask (g : Gust) (n : Nat) (w : Lanes) : (g.withV n w).mask = g.mask := rfl
@[simp] theorem Gust.withP_mask (g : Gust) (n : Nat) (m : Mask) : (g.withP n m).mask = g.mask := rfl

/-- The mask written is the mask read, in a scalar file of 81 registers (R124, R133). -/
theorem Gust.withMask_mask (g : Gust) (m : Mask) (h : g.sreg.length = 81) : (g.withMask m).mask = m := by
  simp [Gust.mask, Gust.withMask, Gust.s, List.getD_eq_getElem?_getD, h]

theorem Gust.withMask_s (g : Gust) (m : Mask) {j : Nat} (h : j < 78) : (g.withMask m).s j = g.s j := by
  simp [Gust.withMask, Gust.s, List.getD_eq_getElem?_getD, show (78 : Nat) ≠ j by omega,
    show (79 : Nat) ≠ j by omega, show (80 : Nat) ≠ j by omega]

/-! An instruction of the issuing gust. -/

variable {s : State} {g : Gust} {q : Squall}

/-- An instruction of the issuing gust takes a next state. -/
theorem State.perform_issuing (h : s.Issuing g q) (body : Gust → Eff) :
    s.perform body = .next (((body g).settle g s.op).keepIssuing g) := by
  unfold State.perform
  simp only [h.cur, h.gust]

/-- A gust instruction acts (R67). -/
theorem State.performGust_acts (h : s.Issuing g q) (c : Ctl) (ha : g.acts c.guard = true) (body : Gust → Eff) :
    s.performGust c body = .next (((body g).settle g s.op).keepIssuing g) := by
  unfold State.performGust
  rw [State.perform_issuing h]
  simp [ha]

/-- A gust instruction whose guard lets no participating lane pass has no effect but the PC's advance (R67). -/
theorem State.performGust_not (h : s.Issuing g q) (c : Ctl) (ha : g.acts c.guard = false) (body : Gust → Eff) :
    s.performGust c body = .next ((s.complete g (g.pc + 1) 0 0 false).keepIssuing g) := by
  unfold State.performGust
  rw [State.perform_issuing h]
  simp [ha, Eff.settle]

/-- A lane instruction acts whatever its guard (R67). -/
theorem State.performAs_lane (h : s.Issuing g q) (c : Ctl) (body : Gust → Eff) :
    s.performAs c true body = .next (((body g).settle g s.op).keepIssuing g) := by
  unfold State.performAs
  rw [State.perform_issuing h]
  simp

/-- The layout of the gust's image. -/
theorem State.gustIsD_issuing (h : s.Issuing g q) : s.gustIsD g.ref = q.isD := by simp [State.gustIsD, h.squall]

/-- base_pc() of R114. -/
theorem State.basePc_issuing (h : s.Issuing g q) : s.basePc g = if q.isD then g.pc - g.pc % 3 else g.pc := by
  simp [State.basePc, State.gustIsD_issuing h]

/-- With tracing off a trace event changes nothing (R430). -/
theorem State.trace_off {r : GustRef} (h : ∀ q, s.squall? r.sq = some q → s.traceOn q.ctx = false) (k w : Int) :
    s.trace r k w = s := by
  unfold State.trace
  split
  · next q hq => simp [h q hq]
  · rfl

/-- A gust found in the state is the one that an update by name changes, where the name is its own alone. -/
theorem State.onGust_eq_setGust {r : GustRef} (f : Gust → Gust) (hf : (f g).ref = r)
    (hu : ∀ h ∈ s.gusts, h.ref = r → h = g) : s.onGust r f = s.setGust (f g) := by
  unfold State.onGust State.setGust
  simp only [State.mk.injEq, true_and, and_true, hf]
  apply List.map_congr_left
  intro h hh
  by_cases hr : h.ref = r
  · simp [hu h hh hr]
  · simp [hr]

/-- Entering the handler (R400): outside a handler, with a handler's address in TVEC, the one trap operation saves the mask
and the PC and goes there. -/
theorem State.trapEntry_enters {r : GustRef} {b : Squall} (hg : s.gust? r = some g) (hq : s.squall? r.sq = some b)
    (ht : g.trapActive = false) (hv : 0 ≤ g.tvec.val) (hd : b.isD = true → g.tvec.val % 3 = 0)
    (cause : Int) (own : List Rec) (gfr : Bool) (tpc at_ : Int) :
    s.trapEntry r cause own gfr tpc at_ =
      (s.setGust ({ g with gfr := (if gfr then own.headD g.gfr else g.gfr), tpc := Word.ofInt tpc, tm := g.mask,
                           trapActive := true, pc := g.tvec.val, status := .running, issued := false, packet := none,
                           laneFaulted := [], pageWait := none, fillFaults := [], sent := false, maskWrote := false }.withMask Mask.ones)).trace r 3 cause := by
  have h1 : g.tvec.val ≠ -1 := by omega
  have h2 : ¬(g.tvec.val < 0 ∨ (s.gustIsD r = true ∧ g.tvec.val % 3 ≠ 0)) := by
    rintro (h | ⟨h, h'⟩)
    · omega
    · exact h' (hd (by simpa [State.gustIsD, hq] using h))
  unfold State.trapEntry
  simp only [hg]
  rw [if_neg (by simp [ht]), if_neg h1, if_neg h2]

/-- In a handler the trap operation ends the front (R401). -/
theorem State.trapEntry_active {r : GustRef} (hg : s.gust? r = some g) (ht : g.trapActive = true)
    (cause : Int) (own : List Rec) (gfr : Bool) (tpc at_ : Int) :
    s.trapEntry r cause own gfr tpc at_ = s.endFrontOf { g with pc := at_ } 111 own := by
  unfold State.trapEntry
  simp only [hg]
  rw [if_pos ht]

/-- With no handler set the trap operation ends the front (R400). -/
theorem State.trapEntry_unset {r : GustRef} (hg : s.gust? r = some g) (ht : g.trapActive = false) (hv : g.tvec.val = -1)
    (cause : Int) (own : List Rec) (gfr : Bool) (tpc at_ : Int) :
    s.trapEntry r cause own gfr tpc at_ = s.endFrontOf { g with pc := at_ } 110 own := by
  unfold State.trapEntry
  simp only [hg]
  rw [if_neg (by simp [ht]), if_pos hv]

/-- A form of mod layout T in a vector shape rewrites lanes of its gust and nothing else (R140). -/
theorem State.performT_vec (h : s.Issuing g q) (c : Ctl) (o : TOps) (ho : o.sh.isVec = true) (cy : Bool) (nd na nb : Nat)
    (f : LaneFn) :
    let res := fun (l : Nat) => f (g.field o o.a na l) (g.bField o nb l) (g.field o o.d nd l)
    let g' := g.putLanes o.d (g.active c.guard) (fun l => (res l).1) nd
    s.performT c o cy nd na nb f = .next ((((s.setGust
      (if cy then g'.withP 26 ((g.p 26).update (g.active c.guard) fun l => (res l).2) else g'))).complete g (g.pc + 1) 0 0 false).keepIssuing g) := by
  intro res g'
  unfold State.performT
  rw [ho, State.performAs_lane h]
  simp only [State.runT, ho, if_true, Eff.settle]
  rfl

/-- A form of mod layout T in a scalar shape that acts writes its scalars in turn, and all of p26 under .cy (R140). -/
theorem State.performT_scal (h : s.Issuing g q) (c : Ctl) (o : TOps) (ho : o.sh.isVec = false) (ha : g.acts c.guard = true)
    (cy : Bool) (nd na nb : Nat) (f : LaneFn) :
    let res := f (g.field o o.a na 0) (g.bField o nb 0) (g.field o o.d nd 0)
    let t := s.writeSs g.ref o.d res.1
    s.performT c o cy nd na nb f = .next ((((if cy then t.writeP g.ref 26 (Mask.tab fun _ => res.2) else t)).complete g
      (g.pc + 1) 0 0 false).keepIssuing g) := by
  intro res t
  unfold State.performT State.performAs
  rw [State.perform_issuing h]
  simp only [ha, Bool.or_true, if_true, State.runT, ho, Eff.settle]
  rfl

end Sys2Proof.Machine
end

