-- ==== Sys2Proof/Laws/PerInstr.lean ====
section
/-! SUPPORT. What is proved constructor by constructor. -/

namespace Sys2Proof.Laws.Encoding

/-- A well-formed instruction has an instruction word (R54 to R72), and a step of another agent has none. -/
def Statement (i : Instr) : Prop := (i.wf = true → (encode i).isSome = true) ∧ (i.op = none → encode i = none)

theorem nop (c : Ctl) : Statement (.nop c) := ⟨fun _ => rfl, fun h => nomatch h⟩
theorem bra (c : Ctl) (off : Int) : Statement (.bra c off) := ⟨fun _ => rfl, fun h => nomatch h⟩
theorem brp (c : Ctl) (mode : BrpMode) (p : Nat) (off : Int) : Statement (.brp c mode p off) := ⟨fun _ => rfl, fun h => nomatch h⟩
theorem btri (c : Ctl) (a : Nat) (plus minus : Int) : Statement (.btri c a plus minus) := ⟨fun _ => rfl, fun h => nomatch h⟩
theorem split (c : Ctl) (p : Nat) (join els : Int) : Statement (.split c p join els) := ⟨fun _ => rfl, fun h => nomatch h⟩
theorem join (c : Ctl) : Statement (.join c) := ⟨fun _ => rfl, fun h => nomatch h⟩
theorem breakOut (c : Ctl) (n : Nat) : Statement (.breakOut c n) := ⟨fun _ => rfl, fun h => nomatch h⟩
theorem call (c : Ctl) (d : Nat) (off : Int) : Statement (.call c d off) := ⟨fun _ => rfl, fun h => nomatch h⟩
theorem calli (c : Ctl) (d a : Nat) : Statement (.calli c d a) := ⟨fun _ => rfl, fun h => nomatch h⟩
theorem ret (c : Ctl) (a : Nat) : Statement (.ret c a) := ⟨fun _ => rfl, fun h => nomatch h⟩
theorem exit (c : Ctl) : Statement (.exit c) := ⟨fun _ => rfl, fun h => nomatch h⟩
theorem yield (c : Ctl) (n : Nat) : Statement (.yield c n) := ⟨fun _ => rfl, fun h => nomatch h⟩
theorem yieldExpiry (r : GustRef) : Statement (.yieldExpiry r) := ⟨(fun h => nomatch h), fun _ => rfl⟩
theorem add (c : Ctl) (o : TOps) : Statement (.add c o) := ⟨fun _ => rfl, fun h => nomatch h⟩
theorem sub (c : Ctl) (o : TOps) : Statement (.sub c o) := ⟨fun _ => rfl, fun h => nomatch h⟩
theorem neg (c : Ctl) (o : TOps) : Statement (.neg c o) := ⟨fun _ => rfl, fun h => nomatch h⟩
theorem mul (c : Ctl) (o : TOps) : Statement (.mul c o) := ⟨fun _ => rfl, fun h => nomatch h⟩
theorem mulh (c : Ctl) (o : TOps) : Statement (.mulh c o) := ⟨fun _ => rfl, fun h => nomatch h⟩
theorem mad (c : Ctl) (o : TOps) : Statement (.mad c o) := ⟨fun _ => rfl, fun h => nomatch h⟩
theorem div (c : Ctl) (o : TOps) : Statement (.div c o) := ⟨fun _ => rfl, fun h => nomatch h⟩
theorem mod (c : Ctl) (o : TOps) : Statement (.mod c o) := ⟨fun _ => rfl, fun h => nomatch h⟩
theorem sht (c : Ctl) (o : TOps) : Statement (.sht c o) := ⟨fun _ => rfl, fun h => nomatch h⟩
theorem abs (c : Ctl) (o : TOps) : Statement (.abs c o) := ⟨fun _ => rfl, fun h => nomatch h⟩
theorem sgn (c : Ctl) (o : TOps) : Statement (.sgn c o) := ⟨fun _ => rfl, fun h => nomatch h⟩
theorem min (c : Ctl) (o : TOps) : Statement (.min c o) := ⟨fun _ => rfl, fun h => nomatch h⟩
theorem max (c : Ctl) (o : TOps) : Statement (.max c o) := ⟨fun _ => rfl, fun h => nomatch h⟩
theorem clamp (c : Ctl) (o : TOps) : Statement (.clamp c o) := ⟨fun _ => rfl, fun h => nomatch h⟩
theorem cmp (c : Ctl) (o : TOps) : Statement (.cmp c o) := ⟨fun _ => rfl, fun h => nomatch h⟩
theorem tand (c : Ctl) (o : TOps) : Statement (.tand c o) := ⟨fun _ => rfl, fun h => nomatch h⟩
theorem tor (c : Ctl) (o : TOps) : Statement (.tor c o) := ⟨fun _ => rfl, fun h => nomatch h⟩
theorem tsum (c : Ctl) (o : TOps) : Statement (.tsum c o) := ⟨fun _ => rfl, fun h => nomatch h⟩
theorem tmul (c : Ctl) (o : TOps) : Statement (.tmul c o) := ⟨fun _ => rfl, fun h => nomatch h⟩
theorem tcon (c : Ctl) (o : TOps) : Statement (.tcon c o) := ⟨fun _ => rfl, fun h => nomatch h⟩
theorem trot (c : Ctl) (o : TOps) : Statement (.trot c o) := ⟨fun _ => rfl, fun h => nomatch h⟩
theorem tcnt (c : Ctl) (o : TOps) : Statement (.tcnt c o) := ⟨fun _ => rfl, fun h => nomatch h⟩
theorem text (c : Ctl) (o : TOps) : Statement (.text c o) := ⟨fun _ => rfl, fun h => nomatch h⟩
theorem tins (c : Ctl) (o : TOps) : Statement (.tins c o) := ⟨fun _ => rfl, fun h => nomatch h⟩
theorem pack3 (c : Ctl) (o : TOps) : Statement (.pack3 c o) := ⟨fun _ => rfl, fun h => nomatch h⟩
theorem unpk3 (c : Ctl) (o : TOps) : Statement (.unpk3 c o) := ⟨fun _ => rfl, fun h => nomatch h⟩
theorem mov (c : Ctl) (o : TOps) : Statement (.mov c o) := ⟨fun _ => rfl, fun h => nomatch h⟩
theorem movi (c : Ctl) (o : TOps) : Statement (.movi c o) := ⟨fun _ => rfl, fun h => nomatch h⟩
theorem pset (c : Ctl) (o : TOps) : Statement (.pset c o) := ⟨fun _ => rfl, fun h => nomatch h⟩
theorem pand (c : Ctl) (d a b : Nat) : Statement (.pand c d a b) := ⟨fun _ => rfl, fun h => nomatch h⟩
theorem por (c : Ctl) (d a b : Nat) : Statement (.por c d a b) := ⟨fun _ => rfl, fun h => nomatch h⟩
theorem pnot (c : Ctl) (d a : Nat) : Statement (.pnot c d a) := ⟨fun _ => rfl, fun h => nomatch h⟩
theorem fadd (c : Ctl) (o : TOps) : Statement (.fadd c o) := ⟨fun _ => rfl, fun h => nomatch h⟩
theorem fsub (c : Ctl) (o : TOps) : Statement (.fsub c o) := ⟨fun _ => rfl, fun h => nomatch h⟩
theorem fmul (c : Ctl) (o : TOps) : Statement (.fmul c o) := ⟨fun _ => rfl, fun h => nomatch h⟩
theorem fma (c : Ctl) (o : TOps) : Statement (.fma c o) := ⟨fun _ => rfl, fun h => nomatch h⟩
theorem fmin (c : Ctl) (o : TOps) : Statement (.fmin c o) := ⟨fun _ => rfl, fun h => nomatch h⟩
theorem fmax (c : Ctl) (o : TOps) : Statement (.fmax c o) := ⟨fun _ => rfl, fun h => nomatch h⟩
theorem fcmp (c : Ctl) (o : TOps) : Statement (.fcmp c o) := ⟨fun _ => rfl, fun h => nomatch h⟩
theorem fcls (c : Ctl) (o : TOps) : Statement (.fcls c o) := ⟨fun _ => rfl, fun h => nomatch h⟩
theorem cvt (c : Ctl) (o : TOps) : Statement (.cvt c o) := ⟨fun _ => rfl, fun h => nomatch h⟩
theorem frnd (c : Ctl) (o : TOps) : Statement (.frnd c o) := ⟨fun _ => rfl, fun h => nomatch h⟩
theorem frcp (c : Ctl) (o : TOps) : Statement (.frcp c o) := ⟨fun _ => rfl, fun h => nomatch h⟩
theorem frsq (c : Ctl) (o : TOps) : Statement (.frsq c o) := ⟨fun _ => rfl, fun h => nomatch h⟩
theorem fsqt (c : Ctl) (o : TOps) : Statement (.fsqt c o) := ⟨fun _ => rfl, fun h => nomatch h⟩
theorem fexp (c : Ctl) (o : TOps) : Statement (.fexp c o) := ⟨fun _ => rfl, fun h => nomatch h⟩
theorem flog (c : Ctl) (o : TOps) : Statement (.flog c o) := ⟨fun _ => rfl, fun h => nomatch h⟩
theorem ftanh (c : Ctl) (o : TOps) : Statement (.ftanh c o) := ⟨fun _ => rfl, fun h => nomatch h⟩
theorem fsigm (c : Ctl) (o : TOps) : Statement (.fsigm c o) := ⟨fun _ => rfl, fun h => nomatch h⟩
theorem fsin (c : Ctl) (o : TOps) : Statement (.fsin c o) := ⟨fun _ => rfl, fun h => nomatch h⟩
theorem shfl (c : Ctl) (o : TOps) : Statement (.shfl c o) := ⟨fun _ => rfl, fun h => nomatch h⟩
theorem bcast (c : Ctl) (o : TOps) : Statement (.bcast c o) := ⟨fun _ => rfl, fun h => nomatch h⟩
theorem red (c : Ctl) (o : TOps) : Statement (.red c o) := ⟨fun _ => rfl, fun h => nomatch h⟩
theorem scan (c : Ctl) (o : TOps) : Statement (.scan c o) := ⟨fun _ => rfl, fun h => nomatch h⟩
theorem sort (c : Ctl) (o : TOps) : Statement (.sort c o) := ⟨fun _ => rfl, fun h => nomatch h⟩
theorem vtriad (c : Ctl) (o : TOps) : Statement (.vtriad c o) := ⟨fun _ => rfl, fun h => nomatch h⟩
theorem qnt (c : Ctl) (o : TOps) : Statement (.qnt c o) := ⟨fun _ => rfl, fun h => nomatch h⟩
theorem dqnt (c : Ctl) (o : TOps) : Statement (.dqnt c o) := ⟨fun _ => rfl, fun h => nomatch h⟩
theorem rand (c : Ctl) (o : TOps) : Statement (.rand c o) := ⟨fun _ => rfl, fun h => nomatch h⟩
theorem rseed (c : Ctl) (a b : Nat) : Statement (.rseed c a b) := ⟨fun _ => rfl, fun h => nomatch h⟩
theorem ldp (c : Ctl) (m : MOps) : Statement (.ldp c m) := ⟨fun _ => rfl, fun h => nomatch h⟩
theorem stp (c : Ctl) (m : MOps) : Statement (.stp c m) := ⟨fun _ => rfl, fun h => nomatch h⟩
theorem ldps (c : Ctl) (m : MOps) : Statement (.ldps c m) := ⟨fun _ => rfl, fun h => nomatch h⟩
theorem stps (c : Ctl) (m : MOps) : Statement (.stps c m) := ⟨fun _ => rfl, fun h => nomatch h⟩
theorem amop (c : Ctl) (op : Rmw) (ty : ETy) (m : MOps) : Statement (.amop c op ty m) := ⟨fun _ => rfl, fun h => nomatch h⟩
theorem barinit (c : Ctl) (b n : Nat) : Statement (.barinit c b n) := ⟨fun _ => rfl, fun h => nomatch h⟩
theorem bararr (c : Ctl) (d b p n : Nat) : Statement (.bararr c d b p n) := ⟨fun _ => rfl, fun h => nomatch h⟩
theorem barwait (c : Ctl) (b t : Nat) : Statement (.barwait c b t) := ⟨fun _ => rfl, fun h => nomatch h⟩
theorem barsync (c : Ctl) (b : Nat) : Statement (.barsync c b) := ⟨fun _ => rfl, fun h => nomatch h⟩
theorem bardrop (c : Ctl) (b p n : Nat) : Statement (.bardrop c b p n) := ⟨fun _ => rfl, fun h => nomatch h⟩
theorem barqry (c : Ctl) (d b : Nat) : Statement (.barqry c d b) := ⟨fun _ => rfl, fun h => nomatch h⟩
theorem gang (c : Ctl) (rows : Nat) (map : Int) : Statement (.gang c rows map) := ⟨fun _ => rfl, fun h => nomatch h⟩
theorem oclaim (c : Ctl) (o n : Nat) : Statement (.oclaim c o n) := ⟨fun _ => rfl, fun h => nomatch h⟩
theorem orlse (c : Ctl) (o n : Nat) : Statement (.orlse c o n) := ⟨fun _ => rfl, fun h => nomatch h⟩
theorem ofill (c : Ctl) (o a b : Nat) (src : FillSrc) : Statement (.ofill c o a b src) := ⟨fun _ => by cases src <;> rfl, fun h => nomatch h⟩
theorem ofence (c : Ctl) (o n : Nat) : Statement (.ofence c o n) := ⟨fun _ => rfl, fun h => nomatch h⟩
theorem mma (c : Ctl) (fmt : MFmt) (t a b third : Nat) : Statement (.mma c fmt t a b third) := ⟨fun _ => rfl, fun h => nomatch h⟩
theorem aclaim (c : Ctl) (t n : Nat) : Statement (.aclaim c t n) := ⟨fun _ => rfl, fun h => nomatch h⟩
theorem arlse (c : Ctl) (t n : Nat) : Statement (.arlse c t n) := ⟨fun _ => rfl, fun h => nomatch h⟩
theorem claimReleaseEffect (q : SqRef) : Statement (.claimReleaseEffect q) := ⟨(fun h => nomatch h), fun _ => rfl⟩
theorem azero (c : Ctl) (t n : Nat) : Statement (.azero c t n) := ⟨fun _ => rfl, fun h => nomatch h⟩
theorem ald (c : Ctl) (t a b : Nat) (src : AldSrc) : Statement (.ald c t a b src) := ⟨fun _ => by cases src <;> rfl, fun h => nomatch h⟩
theorem ast (c : Ctl) (d t : Nat) (status : Bool) : Statement (.ast c d t status) := ⟨fun _ => rfl, fun h => nomatch h⟩
theorem drain (c : Ctl) (t a b : Nat) (sp : Space) (off : Int) (scope : Scope) (ev : Int) (addTy : Option ETy) (count : Nat) : Statement (.drain c t a b sp off scope ev addTy count) := ⟨fun _ => rfl, fun h => nomatch h⟩
theorem rwait (c : Ctl) (a : Nat) (sp : Space) (off : Int) (scope : Scope) (clr : Bool) : Statement (.rwait c a sp off scope clr) := ⟨fun _ => rfl, fun h => nomatch h⟩
theorem ppoint (c : Ctl) (t n o m : Nat) : Statement (.ppoint c t n o m) := ⟨fun _ => rfl, fun h => nomatch h⟩
theorem ld (c : Ctl) (m : MOps) : Statement (.ld c m) := ⟨fun _ => rfl, fun h => nomatch h⟩
theorem st (c : Ctl) (m : MOps) : Statement (.st c m) := ⟨fun _ => rfl, fun h => nomatch h⟩
theorem lds (c : Ctl) (m : MOps) : Statement (.lds c m) := ⟨fun _ => rfl, fun h => nomatch h⟩
theorem sts (c : Ctl) (m : MOps) : Statement (.sts c m) := ⟨fun _ => rfl, fun h => nomatch h⟩
theorem atom (c : Ctl) (op : Rmw) (ty : ETy) (scalar : Bool) (m : MOps) : Statement (.atom c op ty scalar m) := ⟨fun _ => rfl, fun h => nomatch h⟩
theorem cas (c : Ctl) (f : CasField) (scalar : Bool) (m : MOps) : Statement (.cas c f scalar m) := ⟨fun _ => rfl, fun h => nomatch h⟩
theorem pref (c : Ctl) (line : Bool) (m : MOps) : Statement (.pref c line m) := ⟨fun _ => rfl, fun h => nomatch h⟩
theorem demote (c : Ctl) (m : MOps) : Statement (.demote c m) := ⟨fun _ => rfl, fun h => nomatch h⟩
theorem latch (c : Ctl) (ev : Int) (bc : BaseCls) (d a n : Nat) (off : Int) : Statement (.latch c ev bc d a n off) := ⟨fun _ => rfl, fun h => nomatch h⟩
theorem latcht (c : Ctl) (ev : Int) (bc : BaseCls) (d a b n : Nat) (off : Int) : Statement (.latcht c ev bc d a b n off) := ⟨fun _ => rfl, fun h => nomatch h⟩
theorem unlatch (c : Ctl) (sus : Bool) (bc : BaseCls) (a n : Nat) (off : Int) : Statement (.unlatch c sus bc a n off) := ⟨fun _ => rfl, fun h => nomatch h⟩
theorem latq (c : Ctl) (bc : BaseCls) (d a : Nat) (off : Int) : Statement (.latq c bc d a off) := ⟨fun _ => rfl, fun h => nomatch h⟩
theorem fence (c : Ctl) (ord : Order) (scope : Scope) : Statement (.fence c ord scope) := ⟨fun _ => rfl, fun h => nomatch h⟩
theorem ifence (c : Ctl) : Statement (.ifence c) := ⟨fun _ => rfl, fun h => nomatch h⟩
theorem probe (c : Ctl) (bc : BaseCls) (d a : Nat) (start : Bool) (off : Int) : Statement (.probe c bc d a start off) := ⟨fun _ => rfl, fun h => nomatch h⟩
theorem fref (c : Ctl) (d a b : Nat) (warm : Bool) : Statement (.fref c d a b warm) := ⟨fun _ => rfl, fun h => nomatch h⟩
theorem migr (c : Ctl) (d n : Nat) : Statement (.migr c d n) := ⟨fun _ => rfl, fun h => nomatch h⟩
theorem mpoint (c : Ctl) (n : Nat) : Statement (.mpoint c n) := ⟨fun _ => rfl, fun h => nomatch h⟩
theorem cpy (c : Ctl) (conv : Int) (ssp dsp : Space) (d a b : Nat) (h : Int) : Statement (.cpy c conv ssp dsp d a b h) := ⟨fun _ => rfl, fun h => nomatch h⟩
theorem cpyFrame (c : Ctl) (d a b : Nat) (h : Int) : Statement (.cpyFrame c d a b h) := ⟨fun _ => rfl, fun h => nomatch h⟩
theorem mcast (c : Ctl) (ssp : Space) (d a b : Nat) (h : Int) : Statement (.mcast c ssp d a b h) := ⟨fun _ => rfl, fun h => nomatch h⟩
theorem ovl (c : Ctl) (d a b e : Nat) (h : Int) : Statement (.ovl c d a b e h) := ⟨fun _ => rfl, fun h => nomatch h⟩
theorem thaw (c : Ctl) (ty : ETy) (kind : ThawKind) (d a b n : Nat) (h : Int) : Statement (.thaw c ty kind d a b n h) := ⟨fun _ => by cases kind <;> rfl, fun h => nomatch h⟩
theorem freeze (c : Ctl) (ty : ETy) (ssp : Space) (tab : Bool) (d a b m : Nat) (h : Int) : Statement (.freeze c ty ssp tab d a b m h) := ⟨fun _ => rfl, fun h => nomatch h⟩
theorem pgin (c : Ctl) (a : Nat) (h : Int) : Statement (.pgin c a h) := ⟨fun _ => rfl, fun h => nomatch h⟩
theorem pgout (c : Ctl) (a : Nat) (h : Int) : Statement (.pgout c a h) := ⟨fun _ => rfl, fun h => nomatch h⟩
theorem bclose (c : Ctl) (d : Nat) : Statement (.bclose c d) := ⟨fun _ => rfl, fun h => nomatch h⟩
theorem bwait (c : Ctl) (src : NumSrc) : Statement (.bwait c src) := ⟨fun _ => by cases src <;> rfl, fun h => nomatch h⟩
theorem bqry (c : Ctl) (d : Nat) : Statement (.bqry c d) := ⟨fun _ => rfl, fun h => nomatch h⟩
theorem gset (c : Ctl) (q : Nat) (v : Int) : Statement (.gset c q v) := ⟨fun _ => rfl, fun h => nomatch h⟩
theorem gclr (c : Ctl) (q : Nat) : Statement (.gclr c q) := ⟨fun _ => rfl, fun h => nomatch h⟩
theorem launch (c : Ctl) (d a : Nat) : Statement (.launch c d a) := ⟨fun _ => rfl, fun h => nomatch h⟩
theorem launchReply (r : GustRef) : Statement (.launchReply r) := ⟨(fun h => nomatch h), fun _ => rfl⟩
theorem lwait (c : Ctl) (d a : Nat) : Statement (.lwait c d a) := ⟨fun _ => rfl, fun h => nomatch h⟩
theorem lqry (c : Ctl) (d a : Nat) : Statement (.lqry c d a) := ⟨fun _ => rfl, fun h => nomatch h⟩
theorem prio (c : Ctl) (d : Nat) (src : NumSrc) : Statement (.prio c d src) := ⟨fun _ => by cases src <;> rfl, fun h => nomatch h⟩
theorem bindRecordRewrite (die front : Nat) : Statement (.bindRecordRewrite die front) := ⟨(fun h => nomatch h), fun _ => rfl⟩
theorem trap (c : Ctl) (n : Nat) : Statement (.trap c n) := ⟨fun _ => rfl, fun h => nomatch h⟩
theorem eret (c : Ctl) : Statement (.eret c) := ⟨fun _ => rfl, fun h => nomatch h⟩
theorem rdsr (c : Ctl) (d r : Nat) : Statement (.rdsr c d r) := ⟨fun _ => rfl, fun h => nomatch h⟩
theorem wrsr (c : Ctl) (r a : Nat) : Statement (.wrsr c r a) := ⟨fun _ => rfl, fun h => nomatch h⟩
theorem snap (c : Ctl) : Statement (.snap c) := ⟨fun _ => rfl, fun h => nomatch h⟩
theorem brk (c : Ctl) (n : Nat) : Statement (.brk c n) := ⟨fun _ => rfl, fun h => nomatch h⟩
theorem issueChoice (core : Nat) : Statement (.issueChoice core) := ⟨(fun h => nomatch h), fun _ => rfl⟩
theorem trapEntry (r : GustRef) (cause detail : Int) : Statement (.trapEntry r cause detail) := ⟨(fun h => nomatch h), fun _ => rfl⟩
theorem gustRetire (r : GustRef) : Statement (.gustRetire r) := ⟨(fun h => nomatch h), fun _ => rfl⟩
theorem loadSectorReturn (r : GustRef) (n : Nat) : Statement (.loadSectorReturn r n) := ⟨(fun h => nomatch h), fun _ => rfl⟩
theorem registerWindowWrite (core u : Nat) (w : Word) : Statement (.registerWindowWrite core u w) := ⟨(fun h => nomatch h), fun _ => rfl⟩
theorem commandAccept (core : Nat) : Statement (.commandAccept core) := ⟨(fun h => nomatch h), fun _ => rfl⟩
theorem matrixCommandRun (core : Nat) : Statement (.matrixCommandRun core) := ⟨(fun h => nomatch h), fun _ => rfl⟩
theorem matrixCommandComplete (core : Nat) : Statement (.matrixCommandComplete core) := ⟨(fun h => nomatch h), fun _ => rfl⟩
theorem fillComplete (core : Nat) : Statement (.fillComplete core) := ⟨(fun h => nomatch h), fun _ => rfl⟩
theorem drainApply (core : Nat) : Statement (.drainApply core) := ⟨(fun h => nomatch h), fun _ => rfl⟩
theorem engineCommandStart (q : EngQ) : Statement (.engineCommandStart q) := ⟨(fun h => nomatch h), fun _ => rfl⟩
theorem thawRingPoll (core : Nat) : Statement (.thawRingPoll core) := ⟨(fun h => nomatch h), fun _ => rfl⟩
theorem engineCommandComplete (q : EngQ) : Statement (.engineCommandComplete q) := ⟨(fun h => nomatch h), fun _ => rfl⟩
theorem batchComplete (r : GustRef) : Statement (.batchComplete r) := ⟨(fun h => nomatch h), fun _ => rfl⟩
theorem homeFill (line : Nat) : Statement (.homeFill line) := ⟨(fun h => nomatch h), fun _ => rfl⟩
theorem l1Fill (die : Nat) (loc : Loc) (first n : Nat) (ev : Int) : Statement (.l1Fill die loc first n ev) := ⟨(fun h => nomatch h), fun _ => rfl⟩
theorem l1WriteBack (die : Nat) (loc : Loc) (sector : Nat) : Statement (.l1WriteBack die loc sector) := ⟨(fun h => nomatch h), fun _ => rfl⟩
theorem homeApplyWrite (m : WriteMsg) : Statement (.homeApplyWrite m) := ⟨(fun h => nomatch h), fun _ => rfl⟩
theorem invalidation (die line sector : Nat) (stamp : List Nat) : Statement (.invalidation die line sector stamp) := ⟨(fun h => nomatch h), fun _ => rfl⟩
theorem dirtyNotice (die line sector : Nat) : Statement (.dirtyNotice die line sector) := ⟨(fun h => nomatch h), fun _ => rfl⟩
theorem forcedPublish (die line sector : Nat) : Statement (.forcedPublish die line sector) := ⟨(fun h => nomatch h), fun _ => rfl⟩
theorem homeRecall (line : Nat) : Statement (.homeRecall line) := ⟨(fun h => nomatch h), fun _ => rfl⟩
theorem atomicApply (r : GustRef) : Statement (.atomicApply r) := ⟨(fun h => nomatch h), fun _ => rfl⟩
theorem latchRequest (m : LatchReq) : Statement (.latchRequest m) := ⟨(fun h => nomatch h), fun _ => rfl⟩
theorem latchRelease (m : LatchRel) : Statement (.latchRelease m) := ⟨(fun h => nomatch h), fun _ => rfl⟩
theorem latchGrant (m : LatchGrant) : Statement (.latchGrant m) := ⟨(fun h => nomatch h), fun _ => rfl⟩
theorem latchLeaseLapse (line : Nat) (who : GustRef) : Statement (.latchLeaseLapse line who) := ⟨(fun h => nomatch h), fun _ => rfl⟩
theorem latchtDeadline (line : Nat) (who : GustRef) : Statement (.latchtDeadline line who) := ⟨(fun h => nomatch h), fun _ => rfl⟩
theorem deadlockProbeSend (line : Nat) (who : GustRef) : Statement (.deadlockProbeSend line who) := ⟨(fun h => nomatch h), fun _ => rfl⟩
theorem deadlockProbe (m : Probe) : Statement (.deadlockProbe m) := ⟨(fun h => nomatch h), fun _ => rfl⟩
theorem pageWalk (core ctx : Nat) (x : Int) : Statement (.pageWalk core ctx x) := ⟨(fun h => nomatch h), fun _ => rfl⟩
theorem laneRetranslate (r : GustRef) : Statement (.laneRetranslate r) := ⟨(fun h => nomatch h), fun _ => rfl⟩
theorem tlbLeaseExpiry (core : Nat) : Statement (.tlbLeaseExpiry core) := ⟨(fun h => nomatch h), fun _ => rfl⟩
theorem pageIn (n : Nat) : Statement (.pageIn n) := ⟨(fun h => nomatch h), fun _ => rfl⟩
theorem pageOut (n : Nat) : Statement (.pageOut n) := ⟨(fun h => nomatch h), fun _ => rfl⟩
theorem launchListConsume (ctx : Nat) : Statement (.launchListConsume ctx) := ⟨(fun h => nomatch h), fun _ => rfl⟩
theorem rangeDistribute (front die : Nat) : Statement (.rangeDistribute front die) := ⟨(fun h => nomatch h), fun _ => rfl⟩
theorem bindRecordWrite (b : BindChoice) : Statement (.bindRecordWrite b) := ⟨(fun h => nomatch h), fun _ => rfl⟩
theorem squallBind (front core : Nat) : Statement (.squallBind front core) := ⟨(fun h => nomatch h), fun _ => rfl⟩
theorem frontRetire (front : Nat) : Statement (.frontRetire front) := ⟨(fun h => nomatch h), fun _ => rfl⟩
theorem graphNodeAct (g node : Nat) : Statement (.graphNodeAct g node) := ⟨(fun h => nomatch h), fun _ => rfl⟩
theorem graphComplete (g : Nat) : Statement (.graphComplete g) := ⟨(fun h => nomatch h), fun _ => rfl⟩
theorem shutterRequest (q : SqRef) : Statement (.shutterRequest q) := ⟨(fun h => nomatch h), fun _ => rfl⟩
theorem forcedSave (q : SqRef) : Statement (.forcedSave q) := ⟨(fun h => nomatch h), fun _ => rfl⟩
theorem shutterSave (q : SqRef) : Statement (.shutterSave q) := ⟨(fun h => nomatch h), fun _ => rfl⟩
theorem shutterRestore (q : SqRef) (core : Nat) : Statement (.shutterRestore q core) := ⟨(fun h => nomatch h), fun _ => rfl⟩
theorem migrationTransfer (q : SqRef) : Statement (.migrationTransfer q) := ⟨(fun h => nomatch h), fun _ => rfl⟩
theorem migrationComplete (q : SqRef) : Statement (.migrationComplete q) := ⟨(fun h => nomatch h), fun _ => rfl⟩
theorem machineCheck (ctx : Nat) (cause : Int) (addr : CheckAt) : Statement (.machineCheck ctx cause addr) := ⟨(fun h => nomatch h), fun _ => rfl⟩
theorem frontEnd (front : Nat) (cause : Int) : Statement (.frontEnd front cause) := ⟨(fun h => nomatch h), fun _ => rfl⟩
theorem ptimeTick : Statement (.ptimeTick) := ⟨(fun h => nomatch h), fun _ => rfl⟩
theorem packageTimeStopped (die : Nat) : Statement (.packageTimeStopped die) := ⟨(fun h => nomatch h), fun _ => rfl⟩
theorem requestTimeout (r : TimedOut) : Statement (.requestTimeout r) := ⟨(fun h => nomatch h), fun _ => rfl⟩
theorem zargenTimeout (seq : Nat) : Statement (.zargenTimeout seq) := ⟨(fun h => nomatch h), fun _ => rfl⟩
theorem ucieFlitLost (f : FlitKind) : Statement (.ucieFlitLost f) := ⟨(fun h => nomatch h), fun _ => rfl⟩
theorem zargenWrite (m : ZPacket) : Statement (.zargenWrite m) := ⟨(fun h => nomatch h), fun _ => rfl⟩
theorem zargenRead (m : ZPacket) : Statement (.zargenRead m) := ⟨(fun h => nomatch h), fun _ => rfl⟩
theorem zargenAtomic (m : ZPacket) : Statement (.zargenAtomic m) := ⟨(fun h => nomatch h), fun _ => rfl⟩
theorem zargenAck (seq : Nat) : Statement (.zargenAck seq) := ⟨(fun h => nomatch h), fun _ => rfl⟩
theorem hostRead (fn : HostFn) (off n : Nat) : Statement (.hostRead fn off n) := ⟨(fun h => nomatch h), fun _ => rfl⟩
theorem hostWrite (fn : HostFn) (off : Nat) (bytes : List (BitVec 8)) : Statement (.hostWrite fn off bytes) := ⟨(fun h => nomatch h), fun _ => rfl⟩
theorem hostCompletion (ctx die line : Nat) (good : Bool) : Statement (.hostCompletion ctx die line good) := ⟨(fun h => nomatch h), fun _ => rfl⟩
theorem snapinEdge : Statement (.snapinEdge) := ⟨(fun h => nomatch h), fun _ => rfl⟩
theorem snapshotTriggerWrite : Statement (.snapshotTriggerWrite) := ⟨(fun h => nomatch h), fun _ => rfl⟩
theorem snapshotCapture : Statement (.snapshotCapture) := ⟨(fun h => nomatch h), fun _ => rfl⟩
theorem debugStop (r : GustRef) : Statement (.debugStop r) := ⟨(fun h => nomatch h), fun _ => rfl⟩
theorem debugResume (r : GustRef) : Statement (.debugResume r) := ⟨(fun h => nomatch h), fun _ => rfl⟩
theorem debugHold (r : GustRef) : Statement (.debugHold r) := ⟨(fun h => nomatch h), fun _ => rfl⟩
theorem debugRelease (r : GustRef) : Statement (.debugRelease r) := ⟨(fun h => nomatch h), fun _ => rfl⟩
theorem reset : Statement (.reset) := ⟨(fun h => nomatch h), fun _ => rfl⟩
theorem bootgo (v : Nat) : Statement (.bootgo v) := ⟨(fun h => nomatch h), fun _ => rfl⟩
theorem firmwareCheck : Statement (.firmwareCheck) := ⟨(fun h => nomatch h), fun _ => rfl⟩
theorem attestation (nonce : List (BitVec 8)) : Statement (.attestation nonce) := ⟨(fun h => nomatch h), fun _ => rfl⟩
theorem d3hotRequest : Statement (.d3hotRequest) := ⟨(fun h => nomatch h), fun _ => rfl⟩
theorem d3hotEnter : Statement (.d3hotEnter) := ⟨(fun h => nomatch h), fun _ => rfl⟩
theorem d0Return : Statement (.d0Return) := ⟨(fun h => nomatch h), fun _ => rfl⟩
theorem moduleLoad (m : ModuleLoad) : Statement (.moduleLoad m) := ⟨(fun h => nomatch h), fun _ => rfl⟩
theorem moduleUnload (image : Nat) : Statement (.moduleUnload image) := ⟨(fun h => nomatch h), fun _ => rfl⟩
theorem softError (p : SoftPlace) (trits : Nat) : Statement (.softError p trits) := ⟨(fun h => nomatch h), fun _ => rfl⟩
theorem bringUpComplete : Statement (.bringUpComplete) := ⟨(fun h => nomatch h), fun _ => rfl⟩
theorem d3coldEntry : Statement (.d3coldEntry) := ⟨(fun h => nomatch h), fun _ => rfl⟩

end Sys2Proof.Laws.Encoding
end

