-- ==== Sys2Proof/Tests/Slice0.lean ====
section
/-! SUPPORT. Tests: ill-formed terms refused, words written out from the encoding tables decoded, single instructions on
small states with results taken from the spec's tables and worked examples, and a witness for the hypotheses of every
statement. -/

section

set_option Elab.async false

open Sys2Proof Sys2Proof.Machine

/-! ## Ill-formed terms, one for each check of WellFormed -/

/-- Operands of a T form in vector shape. -/
def T.vv (ty : ETy) (var : Trit) (d a b : Nat) : TOps := { ty, sh := .vv, var, d, a, b, imm := 0 }
/-- Operands of a T form in scalar shape. -/
def T.ss (ty : ETy) (var : Trit) (d a b : Nat) : TOps := { ty, sh := .ss, var, d, a, b, imm := 0 }
/-- A relaxed memory operand with a scalar base. -/
def T.mem (sp : Space) (d a b : Nat) (off : Int) : MOps :=
  { ord := .rlx, scope := .dv, ev := 0, bc := .scalar, space := sp, d, a, b, off }

theorem test_wf_good : ([.nop ⟨27, 0⟩, .add ⟨-27, 121⟩ (T.vv .i9 .plus 80 0 5), .movi ⟨0, 0⟩ { ty := .i27, sh := .vi, var := .zero, d := 2, a := 0, b := 0, imm := 100 },
  .ldp ⟨0, 0⟩ { T.mem .p 1 2 0 3 with ord := .acq, bc := .vector }, .call ⟨0, 0⟩ 77 (-5), .split ⟨0, 0⟩ 26 1 (-7), .gang ⟨0, 0⟩ 1 4,
  .mma ⟨0, 0⟩ .w1i9 2186 80 78 2, .thaw ⟨0, 0⟩ .bw .slots 78 3 0 3 (-27), .bararr ⟨0, 0⟩ 1 26 2 729] : List Instr).all Instr.wf = true := by
  decide +kernel
theorem test_wf_guard : Instr.wf (.nop ⟨28, 0⟩) = false := by decide +kernel
theorem test_wf_hint : Instr.wf (.nop ⟨0, 122⟩) = false := by decide +kernel
theorem test_wf_unguarded : ([.join ⟨1, 0⟩, .split ⟨1, 0⟩ 0 1 0, .mma ⟨1, 0⟩ .i9 0 0 0 0, .mpoint ⟨1, 0⟩ 0,
  .migr ⟨1, 0⟩ 0 0, .ppoint ⟨1, 0⟩ 0 0 0 0] : List Instr).all (fun i => !i.wf) = true := by decide +kernel
theorem test_wf_type : Instr.wf (.add ⟨0, 0⟩ (T.vv .f27 .zero 0 0 0)) = false := by decide +kernel
theorem test_wf_shape_unused : Instr.wf (.mov ⟨0, 0⟩ (T.vv .i27 .zero 1 2 3)) = false := by decide +kernel
theorem test_wf_imm_unused : Instr.wf (.add ⟨0, 0⟩ { T.vv .i27 .zero 1 2 3 with imm := 1 }) = false := by decide +kernel
theorem test_wf_imm_range : Instr.wf (.movi ⟨0, 0⟩ { ty := .i27, sh := .vi, var := .zero, d := 2, a := 0, b := 0, imm := 3812798742494 }) = false := by
  decide +kernel
theorem test_wf_block_group : Instr.wf (.qnt ⟨0, 0⟩ { ty := .bw, sh := .vi, var := .zero, d := 2, a := 0, b := 0, imm := 3 }) = false := by
  decide +kernel
theorem test_wf_mem_order : Instr.wf (.ldp ⟨0, 0⟩ { T.mem .p 1 2 0 0 with ord := .rel }) = false := by decide +kernel
theorem test_wf_mem_space : Instr.wf (.ldp ⟨0, 0⟩ (T.mem .g 1 2 0 0)) = false := by decide +kernel
theorem test_wf_mem_base : Instr.wf (.lds ⟨0, 0⟩ { T.mem .g 1 2 0 0 with bc := .vector }) = false := by decide +kernel
theorem test_wf_mem_no_base : Instr.wf (.lds ⟨0, 0⟩ { T.mem .g 1 2 0 0 with bc := .none }) = false := by decide +kernel
theorem test_wf_mem_evict : Instr.wf (.ldp ⟨0, 0⟩ { T.mem .p 1 2 0 0 with ev := 1 }) = false := by decide +kernel
theorem test_wf_mem_unused : Instr.wf (.lds ⟨0, 0⟩ (T.mem .g 1 2 3 0)) = false := by decide +kernel
theorem test_wf_pref_scope : Instr.wf (.pref ⟨0, 0⟩ false { T.mem .g 0 2 0 0 with scope := .sy }) = false := by decide +kernel
theorem test_wf_register : Instr.wf (.add ⟨0, 0⟩ (T.ss .i27 .zero 81 0 0)) = false := by decide +kernel
theorem test_wf_run : Instr.wf (.oclaim ⟨0, 0⟩ 80 2) = false := by decide +kernel
theorem test_wf_call_mask : Instr.wf (.call ⟨0, 0⟩ 78 0) = false ∧ Instr.wf (.migr ⟨0, 0⟩ 80 0) = false := by decide +kernel
theorem test_wf_counts : ([.breakOut ⟨0, 0⟩ 0, .breakOut ⟨0, 0⟩ 28, .yield ⟨0, 0⟩ 730, .barinit ⟨0, 0⟩ 0 0, .bararr ⟨0, 0⟩ 0 0 0 730,
  .split ⟨0, 0⟩ 0 0 0, .latch ⟨0, 0⟩ 0 .scalar 0 0 10 0, .mpoint ⟨0, 0⟩ 19683, .ovl ⟨0, 0⟩ 0 0 0 27 0, .freeze ⟨0, 0⟩ .i9 .p false 0 0 0 0 0,
  .trap ⟨0, 0⟩ 9842, .azero ⟨0, 0⟩ 0 730] : List Instr).all (fun i => !i.wf) = true := by decide +kernel
theorem test_wf_amop : Instr.wf (.amop ⟨0, 0⟩ .and .t3 (T.mem .p 0 0 0 0)) = false := by decide +kernel
theorem test_wf_atom_cas : Instr.wf (.atom ⟨0, 0⟩ .cas .i27 true (T.mem .g 0 0 0 0)) = false := by decide +kernel
theorem test_wf_gang_map : Instr.wf (.gang ⟨0, 0⟩ 1 2) = false ∧ Instr.wf (.gang ⟨0, 0⟩ 2 1) = false := by decide +kernel
theorem test_wf_mma_third : Instr.wf (.mma ⟨0, 0⟩ .i9 0 0 0 1) = false ∧ Instr.wf (.mma ⟨0, 0⟩ .w1i9 0 0 0 3) = false := by decide +kernel
theorem test_wf_fence_relaxed : Instr.wf (.fence ⟨0, 0⟩ .rlx .dv) = false := by decide +kernel
theorem test_wf_cpy : Instr.wf (.cpy ⟨0, 0⟩ 1 .p .p 0 0 0 0) = false ∧ Instr.wf (.cpy ⟨0, 0⟩ 12 .g .p 0 0 0 0) = false ∧
  Instr.wf (.cpy ⟨0, 0⟩ 0 .g .p 0 0 0 28) = false := by decide +kernel
theorem test_wf_thaw : Instr.wf (.thaw ⟨0, 0⟩ .i27 .ring 0 0 0 0 0) = false ∧ Instr.wf (.thaw ⟨0, 0⟩ .bw (.glob .p) 0 0 0 0 0) = false := by
  decide +kernel
theorem test_wf_sysreg : Instr.wf (.rdsr ⟨0, 0⟩ 0 10) = false ∧ Instr.wf (.wrsr ⟨0, 0⟩ 4 0) = false ∧ Instr.wf (.rdsr ⟨0, 0⟩ 0 814) = true := by
  decide +kernel
theorem test_wf_gset : Instr.wf (.gset ⟨0, 0⟩ 0 0) = false ∧ Instr.wf (.prio ⟨0, 0⟩ 0 (.imm 2)) = false := by decide +kernel
theorem test_wf_drain : Instr.wf (.drain ⟨0, 0⟩ 0 0 0 .p 0 .dv 1 none 0) = false ∧
  Instr.wf (.drain ⟨0, 0⟩ 0 0 0 .g 0 .dv 0 (some .f9) 0) = false := by decide +kernel
theorem test_wf_act : Instr.wf .ptimeTick = false := by decide +kernel

/-! ## Words written out field by field from the encoding tables: op mod guard hint d a b imm, highest trit first -/

theorem test_decode_tcnt : decode (Claims.word [0, 1, -1, 1, -1, 1] [0, 1, -1, 0, 1, 1] (Claims.zeros 4) (Claims.zeros 5) [-1, -1, -1,
  -1, 0, -1, -1] [-1, -1, -1, -1, 0, -1, 0] (Claims.zeros 7) (Claims.zeros 39)) =
  .ok (.tcnt ⟨0, 0⟩ { ty := .t3, sh := .ss, var := .plus, d := 9, a := 10, b := 0, imm := 0 }) := by decide +kernel
theorem test_decode_fadd : decode (Claims.word [0, 1, 1, 0, 0, 1] [0, 0, -1, 0, 0, 0] (Claims.zeros 4) (Claims.zeros 5) [-1, -1, -1, -1,
  -1, -1, 0] [-1, -1, -1, -1, -1, -1, 1] [-1, -1, -1, -1, -1, 0, -1] (Claims.zeros 39)) =
  .ok (.fadd ⟨0, 0⟩ { ty := .f27, sh := .vv, var := .zero, d := 1, a := 2, b := 3, imm := 0 }) := by decide +kernel
theorem test_decode_frcp : decode (Claims.word [1, -1, -1, 0, 0, 1] [0, -1, 1, 0, 1, 0] (Claims.zeros 4) (Claims.zeros 5) [-1, -1, -1,
  -1, -1, -1, 0] [-1, -1, -1, -1, -1, -1, 1] (Claims.zeros 7) (Claims.zeros 39)) =
  .ok (.frcp ⟨0, 0⟩ { ty := .f9, sh := .ss, var := .zero, d := 1, a := 2, b := 0, imm := 0 }) := by decide +kernel
theorem test_decode_shfl : decode (Claims.word [1, -1, 0, 0, 0, 1] [0, 0, 0, 0, 0, -1] (Claims.zeros 4) (Claims.zeros 5) [-1, -1, -1, -1,
  -1, 1, 1] [-1, -1, -1, -1, 0, -1, -1] [-1, -1, -1, -1, 0, -1, 0] (Claims.zeros 39)) =
  .ok (.shfl ⟨0, 0⟩ { ty := .i27, sh := .vv, var := .minus, d := 8, a := 9, b := 10, imm := 0 }) := by decide +kernel
theorem test_decode_bararr : decode (Claims.word [1, 0, -1, 0, 1, -1] (Claims.zeros 6) (Claims.zeros 4) (Claims.zeros 5) [-1, -1, -1, -1,
  -1, -1, 1] [-1, -1, -1, -1, 0, -1, 0] [-1, -1, -1, -1, -1, 0, -1] (Claims.zeros 36 ++ [1, -1, -1])) =
  .ok (.bararr ⟨0, 0⟩ 2 10 3 5) := by decide +kernel
theorem test_decode_oclaim : decode (Claims.word [1, 0, 0, 0, 1, -1] (Claims.zeros 6) (Claims.zeros 4) (Claims.zeros 5) [-1, -1, -1, -1,
  -1, 0, -1] (Claims.zeros 7) (Claims.zeros 7) (Claims.zeros 36 ++ [1] ++ Claims.zeros 2)) =
  .ok (.oclaim ⟨0, 0⟩ 3 9) := by decide +kernel
theorem test_decode_sts : decode (Claims.word [1, 0, 1, 0, 1, 1] [0, -1, 0, 0, 1, -1] (Claims.zeros 4) (Claims.zeros 5) (Claims.zeros 7)
  [-1, -1, -1, -1, -1, 1, 1] [-1, -1, -1, -1, 0, -1, -1] (Claims.zeros 1 ++ [1, 0, 0, 0, 0, 0, 0, 0, 0, 0, 0, 0,
  0, 0, 0, 0, 0, 0, 0, 0, 0, 0, 0, 0, 0, 0, 0, 0, 0, 0, 0, 0, 0, 0, 0, -1, 1, 1])) =
  .ok (.sts ⟨0, 0⟩ { ord := .rel, scope := .dv, ev := 2, space := .g, bc := .scalar, d := 0, a := 8, b := 9, off := -5 }) := by decide +kernel
theorem test_decode_fence : decode (Claims.word [1, 1, -1, 1, -1, -1] [1, 0, 0, 1, 0, 0] (Claims.zeros 4) (Claims.zeros 5) (Claims.zeros
  7) (Claims.zeros 7) (Claims.zeros 7) (Claims.zeros 39)) =
  .ok (.fence ⟨0, 0⟩ .sc .sy) := by decide +kernel
theorem test_decode_fref : decode (Claims.word [1, 1, 0, 0, 1, -1] (Claims.zeros 6) (Claims.zeros 4) (Claims.zeros 5) [-1, -1, -1, -1,
  -1, 0, 0] [-1, -1, -1, -1, -1, 0, 1] [-1, -1, -1, -1, -1, 1, -1] (Claims.zeros 38 ++ [1])) =
  .ok (.fref ⟨0, 0⟩ 4 5 6 true) := by decide +kernel
theorem test_decode_bwait : decode (Claims.word [1, 1, 1, 1, 0, 0] (Claims.zeros 6) (Claims.zeros 4) (Claims.zeros 5) (Claims.zeros 7)
  [-1, -1, -1, -1, -1, 1, 0] (Claims.zeros 7) ([1] ++ Claims.zeros 38)) =
  .ok (.bwait ⟨0, 0⟩ (.reg 7)) := by decide +kernel
theorem test_decode_gset : decode (Claims.word [1, 1, 1, 1, 1, -1] (Claims.zeros 6) (Claims.zeros 4) (Claims.zeros 5) [-1, -1, -1, -1,
  -1, -1, 1] (Claims.zeros 7) (Claims.zeros 7) (Claims.zeros 38 ++ [-1])) =
  .ok (.gset ⟨0, 0⟩ 2 (-1)) := by decide +kernel
theorem test_decode_launch : decode (Claims.word [0, 0, -1, 0, 0, 1] (Claims.zeros 6) (Claims.zeros 4) (Claims.zeros 5) [-1, -1, -1, -1,
  -1, -1, 0] [-1, -1, -1, -1, -1, -1, 1] (Claims.zeros 7) (Claims.zeros 39)) =
  .ok (.launch ⟨0, 0⟩ 1 2) := by decide +kernel
theorem test_decode_rdsr : decode (Claims.word [0, 0, -1, 1, -1, 1] (Claims.zeros 6) (Claims.zeros 4) (Claims.zeros 5) [-1, -1, -1, -1,
  -1, -1, -1] (Claims.zeros 7) (Claims.zeros 7) (Claims.zeros 37 ++ [1] ++ Claims.zeros 1)) =
  .ok (.rdsr ⟨0, 0⟩ 0 3) := by decide +kernel
theorem test_decode_unassigned : decode (Claims.word [-1, 0, 0, 0, 0, 0] (Claims.zeros 6) (Claims.zeros 4) (Claims.zeros 5)
  (Claims.zeros 7) (Claims.zeros 7) (Claims.zeros 7) (Claims.zeros 39)) = .bad 1 := by decide +kernel
theorem test_decode_guard : decode (Claims.word (Claims.zeros 6) (Claims.zeros 6) [1, 0, 0, 1] (Claims.zeros 5)
  (Claims.zeros 7) (Claims.zeros 7) (Claims.zeros 7) (Claims.zeros 39)) = .bad 2 := by decide +kernel
theorem test_decode_mod : decode (Claims.word (Claims.zeros 6) [0, 0, 0, 0, 0, 1] (Claims.zeros 4) (Claims.zeros 5)
  (Claims.zeros 7) (Claims.zeros 7) (Claims.zeros 7) (Claims.zeros 39)) = .bad 3 := by decide +kernel
theorem test_decode_unused : decode (Claims.word (Claims.zeros 6) (Claims.zeros 6) (Claims.zeros 4) (Claims.zeros 5)
  (Claims.zeros 7) (Claims.zeros 7) [0, 0, 0, 0, 0, 0, 1] (Claims.zeros 39)) = .bad 4 := by decide +kernel
theorem test_decode_register : decode (Claims.word [0, 0, 1, 0, 0, 1] [0, 0, 0, 0, 1, 0] (Claims.zeros 4) (Claims.zeros 5)
  [-1, -1, 0, -1, -1, -1, -1] [-1, -1, -1, -1, -1, -1, -1] [-1, -1, -1, -1, -1, -1, -1] (Claims.zeros 39)) = .bad 5 := by decide +kernel

/-! ## A small machine: front 1 with one squall of one gust at PC 6 -/

/-- No guard, no hint. -/
def T.c : Ctl := ⟨0, 0⟩
/-- Guarded by p0, which holds no plus trit in the machine below: nothing acts. -/
def T.cg : Ctl := ⟨1, 0⟩

def T.alloc : Alloc := { v := 12, s := 78, p := 27, g := 27, scratch := 100, tiles := 2, slots := 5, bars := 2 }

def T.tile : TileSt := { owner := none, status := .zero, releasing := false }
def T.slot : SlotSt := { owner := none, fill := .ready, count := 0, fault := none, releasing := false, wrote := 0 }

/-- A squall on L-core 24. -/
def T.q : Squall :=
  { q := ⟨1, 0⟩, ctx := 0, idx := (0, 0, 0), core := 24, isD := false, image := 7, count := 1, alloc := T.alloc,
    bases := { scratch := 0, tile := 0, slot := 0, bar := 0 }, boundAt := 0, scratch := [], tileWords := [],
    tiles := List.replicate 2 T.tile, slotWords := [], slots := List.replicate 5 T.slot,
    bars := List.replicate 2 (Word.zero, Word.zero), guards := List.replicate 27 .zero, shutter := none, migration := none }

/-- The same on D-core 0. -/
def T.qd : Squall := { T.q with core := 0, isD := true, image := 8 }

/-- A privileged gust with every lane plus, scalar n at n, and a handler at 9. -/
def T.g : Gust :=
  { ref := ⟨1, 0, 0⟩, age := 0, slot := 0, status := .running, halted := false, pc := 6,
    sreg := (List.range 78).map Word.ofNat ++ List.replicate 3 Word.ones, preg := List.replicate 27 Mask.zero,
    vreg := List.replicate 12 (Lanes.tab fun l => Word.ofNat l), vbase := 0, stack := [], priv := true, trapActive := false,
    stepBit := false, tvec := Word.ofInt 9, tpc := Word.zero, tm := Mask.zero, gfr := List.replicate 9 Word.zero, laneRec := [],
    laneFaulted := [], ptimeh := Word.zero, nlast := none, kcount := 0, gangRows := 1, gangMap := Word.zero, key := Word.zero,
    ctr := 0, liveTiles := (0, 0), liveSlots := (0, 0), bnum := 0, doneUpto := 0, lost := 0, faults := [], lostIn := 0, far := [],
    opened := false, waited := 0, touched := [], unacked := 0, loads := [], atoms := [], replay := none, pageWait := none,
    fillFaults := [], reply := [], issued := false, latchCode := none, lateCode := none, packet := none, oldCode := [],
    dbgCmd := Word.zero, traceSync := false, traceCount := 0 }

def T.spec : FrontRec :=
  { prefer := .zero, prio := .zero, dims := 1, gusts := 1, imgL := 7, imgD := 8, alloc := T.alloc, n0 := 1, n1 := 1, n2 := 1,
    ranges := (0, 1) :: List.replicate 8 (1, 0), args := 0, save := 0, done := 0, msix := -1 }

def T.front : Front :=
  { num := 1, ctx := 0, by_ := .list, depth := 1, prio := .zero, ceiling := .zero, spec := T.spec, left := 1, sent := [], ending := none }

/-- The machine in which gust `g` of squall `q` issues. -/
def T.st (g : Gust) (q : Squall) : State :=
  { State.reset with gusts := [g], squalls := [q], fronts := [T.front], nextFront := 2, cur := some g.ref, unreached := [] }

def T.s : State := T.st T.g T.q

/-- Gust `g` with scalar `n` at `x`. -/
def T.set (g : Gust) (n : Nat) (x : Int) : Gust := g.withS n (Word.ofInt x)

theorem T.issuing : T.s.Issuing T.g T.q := ⟨rfl, rfl, rfl⟩
theorem T.noCmd : T.g.cmdCode ≠ 1 := by decide +kernel
theorem T.calm : T.g.Undisturbed T.q := ⟨by decide +kernel, ⟨rfl, rfl⟩, ⟨rfl, T.noCmd⟩, .inr ⟨rfl, .inl rfl⟩⟩
theorem T.handles : Claims.Handles T.g T.q := ⟨rfl, by decide +kernel, by decide +kernel⟩
theorem T.plain : Claims.Plain T.g T.q := ⟨rfl, rfl, rfl, rfl, rfl, T.noCmd⟩

/-- The gust that a next state leaves. -/
def T.gustOf (r : Result) : Option Gust :=
  match r with
  | .next t => t.gust? ⟨1, 0, 0⟩
  | _ => none

/-! ## Witnesses: register forms -/

theorem wit_ElementwiseVectorForms :
    (∃ f, Claims.elementRule (.add T.c (T.vv .i9 .minus 1 2 3)) = some (T.c, T.vv .i9 .minus 1 2 3, true, f)) ∧
    (T.vv .i9 .minus 1 2 3).sh.isVec = true ∧ T.s.Issuing T.g T.q ∧ T.g.Undisturbed T.q :=
  ⟨⟨_, rfl⟩, rfl, T.issuing, T.calm⟩

theorem wit_ElementwiseScalarForms :
    (∃ f, Claims.elementRule (.sub T.c (T.ss .i27 .zero 77 2 3)) = some (T.c, T.ss .i27 .zero 77 2 3, false, f)) ∧
    (∃ f, Claims.elementRule (.sub T.c (T.ss .i27 .zero 78 2 3)) = some (T.c, T.ss .i27 .zero 78 2 3, false, f)) ∧
    T.s.Issuing T.g T.q ∧ T.g.Undisturbed T.q ∧ T.g.acts T.cg.guard = false ∧ T.g.acts T.c.guard = true :=
  ⟨⟨_, rfl⟩, ⟨_, rfl⟩, T.issuing, T.calm, by decide +kernel, by decide +kernel⟩

theorem wit_TritwiseForms :
    (∃ f, Claims.tritRule (.tsum T.c (T.vv .i27 .zero 1 2 3)) = some (T.c, T.vv .i27 .zero 1 2 3, f)) ∧
    (∃ f, Claims.tritRule (.tcon T.c (T.ss .i27 .zero 80 2 3)) = some (T.c, T.ss .i27 .zero 80 2 3, f)) ∧
    T.s.Issuing T.g T.q ∧ T.g.Undisturbed T.q ∧ T.g.acts T.cg.guard = false ∧ T.g.acts T.c.guard = true :=
  ⟨⟨_, rfl⟩, ⟨_, rfl⟩, T.issuing, T.calm, by decide +kernel, by decide +kernel⟩

theorem wit_WordForms :
    (∃ f, Claims.wordRule T.g (.cvt T.c (T.vv .f27 .plus 1 2 0)) = some (T.c, T.vv .f27 .plus 1 2 0, false, 1, f)) ∧
    (∃ f, Claims.wordRule T.g (.unpk3 T.c (T.ss .t3 .zero 75 2 0)) = some (T.c, T.ss .t3 .zero 75 2 0, false, 3, f) ∧
      (f 0).1.length = 3 ∧ 75 + 3 ≤ 78) ∧
    T.s.Issuing T.g T.q ∧ T.g.Undisturbed T.q ∧ T.g.acts T.cg.guard = false ∧ T.g.acts T.c.guard = true :=
  ⟨⟨_, rfl⟩, ⟨_, rfl, by decide +kernel, by decide⟩, T.issuing, T.calm, by decide +kernel, by decide +kernel⟩

theorem wit_PredicateForms :
    (∃ f, Claims.predicateRule T.g (.pset T.c (T.vv .i9 .plus 26 2 3)) = some (T.c, 26, f)) ∧
    (∃ f, Claims.predicateRule T.g (.pand T.cg 0 1 2) = some (T.cg, 0, f)) ∧ T.s.Issuing T.g T.q ∧ T.g.Undisturbed T.q :=
  ⟨⟨_, rfl⟩, ⟨_, rfl⟩, T.issuing, T.calm⟩

theorem wit_LaneSourceForms :
    (∃ f, Claims.crossRule T.g (.shfl T.c (T.vv .i27 .minus 1 2 3)) = some (T.c, 1, f)) ∧
    (∃ f, Claims.crossRule T.g (.bcast T.c { T.vv .i27 .zero 1 2 3 with sh := .vs }) = some (T.c, 1, f)) ∧
    T.s.Issuing T.g T.q ∧ T.g.Undisturbed T.q := ⟨⟨_, rfl⟩, ⟨_, rfl⟩, T.issuing, T.calm⟩

theorem wit_BeatForms :
    (Claims.reduceOf (.red T.c (T.vv .i27 .zero 1 2 76)) = some (T.c, T.vv .i27 .zero 1 2 76, false)) ∧ 76 + 1 < 78 ∧
    (Claims.reduceOf (.scan T.cg (T.vv .i27 .zero 1 2 79)) = some (T.cg, T.vv .i27 .zero 1 2 79, true)) ∧
    T.g.activeLanes T.cg.guard = [] ∧ (T.vv .i27 .minus 1 2 0).ty = .i27 ∧ T.s.Issuing T.g T.q ∧ T.g.Undisturbed T.q :=
  ⟨rfl, by decide, rfl, by decide +kernel, rfl, T.issuing, T.calm⟩

theorem wit_QuantiseForm : let o : TOps := { T.vv .bw .zero 1 2 0 with sh := .vi, imm := 2 }
    (o.ty = .bw ∨ o.ty = .b3) ∧ 0 ≤ o.imm ∧ o.imm ≤ 2 ∧ o.d + 1 < T.g.vreg.length ∧ T.s.Issuing T.g T.q ∧ T.g.Undisturbed T.q ∧
    9 * o.imm.toNat + 8 ∈ T.g.activeLanes 0 ∧ 27 * o.imm.toNat + 3 * 8 + 2 ∈ T.g.activeLanes 0 :=
  ⟨.inl rfl, by decide, by decide, by decide +kernel, T.issuing, T.calm, by decide +kernel, by decide +kernel⟩

theorem wit_RandomForms : T.s.Issuing T.g T.q ∧ T.g.Undisturbed T.q ∧ T.g.acts 0 = true ∧ 80 ∈ T.g.activeLanes 0 :=
  ⟨T.issuing, T.calm, by decide +kernel, by decide +kernel⟩

/-! ## Witnesses: control, traps -/

/-- The gust in its handler, which was entered from PC 4 with every lane. -/
def T.gh : Gust := { T.g with trapActive := true, tpc := Word.ofInt 4, tm := Mask.ones }

/-- A path entry above a reconvergence entry; the second keeps the minus lanes' path. -/
def T.path : StackEntry := { kind := .minus, hold := false, pc := 12, mask := Mask.ones, rpc := 6 }
def T.region : StackEntry := { kind := .plus, hold := false, pc := 6, mask := Mask.ones, rpc := 6 }

/-- The gust with a stack. -/
def T.gs (st : List StackEntry) : Gust := { T.g with stack := st }

theorem wit_TransferForms :
    Claims.transferRule T.g T.q (.bra T.c (-6)) = some (T.c, some 0) ∧
    Claims.transferRule T.g T.q (.bra T.c (-7)) = some (T.c, some (-1)) ∧
    Claims.transferRule T.g T.qd (.bra T.c (-5)) = some (T.c, some 1) ∧
    (∃ t, Claims.transferRule T.g T.q (.brp T.cg .all 0 1) = some (T.cg, t)) ∧
    (T.st T.g T.qd).Issuing T.g T.qd ∧ T.g.Undisturbed T.qd ∧ Claims.Handles T.g T.qd ∧
    T.s.Issuing T.g T.q ∧ T.g.Undisturbed T.q ∧ T.g.acts T.c.guard = true ∧ T.g.acts T.cg.guard = false ∧
    Claims.TargetOk T.q 0 ∧ Claims.Handles T.g T.q :=
  ⟨by decide +kernel, by decide +kernel, by decide +kernel, ⟨_, rfl⟩, ⟨rfl, rfl, rfl⟩,
    ⟨by decide +kernel, ⟨rfl, rfl⟩, ⟨rfl, T.noCmd⟩, .inr ⟨rfl, .inl rfl⟩⟩, ⟨rfl, by decide +kernel, by decide +kernel⟩, T.issuing, T.calm,
    by decide +kernel, by decide +kernel, ⟨by decide, by decide⟩, T.handles⟩

theorem wit_CallForms :
    Claims.callRule T.g T.q (.call T.c 77 3) = some (T.c, 77, 9) ∧ Claims.callRule T.g T.q (.call T.c 0 (-7)) = some (T.c, 0, -1) ∧
    Claims.callRule T.g T.qd (.calli T.c 0 5) = some (T.c, 0, 5) ∧ T.s.Issuing T.g T.q ∧ T.g.Undisturbed T.q ∧
    (T.st T.g T.qd).Issuing T.g T.qd ∧ T.g.Undisturbed T.qd ∧ Claims.Handles T.g T.qd ∧
    Claims.TargetOk T.q 9 ∧ Claims.Handles T.g T.q ∧ T.g.acts 0 = true ∧ T.g.acts 1 = false :=
  ⟨by decide +kernel, by decide +kernel, by decide +kernel, T.issuing, T.calm, ⟨rfl, rfl, rfl⟩,
    ⟨by decide +kernel, ⟨rfl, rfl⟩, ⟨rfl, T.noCmd⟩, .inr ⟨rfl, .inl rfl⟩⟩, ⟨rfl, by decide +kernel, by decide +kernel⟩, ⟨by decide, by decide⟩, T.handles,
    by decide +kernel, by decide +kernel⟩

/-- SPLIT with one and with two entries pushed, and one whose second entry would be the 28th. -/
theorem wit_SplitForm : let g := { T.g with preg := Mask.ones :: ⟨Word.ofInt (-3812798742493), Word.zero, Word.zero⟩ :: List.replicate 25 Mask.zero }
    let deep := { g with stack := List.replicate 26 T.region }
    (T.st g T.q).Issuing g T.q ∧ Claims.Plain g T.q ∧ Claims.TargetOk T.q (6 + 2) ∧ Claims.TargetOk T.q (6 + 1) ∧
    (List.range 81).any (fun l => g.mask.get l == .plus && (g.p 0).get l == .minus) = false ∧ g.stack.length + 1 ≤ 27 ∧
    (List.range 81).any (fun l => g.mask.get l == .plus && (g.p 1).get l == .minus) = true ∧
    (T.st deep T.q).Issuing deep T.q ∧ Claims.Plain deep T.q ∧ 27 < deep.stack.length + 2 ∧ Claims.Handles deep T.q :=
  ⟨⟨rfl, rfl, rfl⟩, ⟨rfl, rfl, rfl, rfl, rfl, T.noCmd⟩, ⟨by decide, by decide⟩, ⟨by decide, by decide⟩, by decide +kernel, by decide +kernel,
    by decide +kernel, ⟨rfl, rfl, rfl⟩, ⟨rfl, rfl, rfl, rfl, rfl, T.noCmd⟩, by decide +kernel, ⟨rfl, by decide +kernel, by decide +kernel⟩⟩

/-- JOIN at a path entry, held or not, at a reconvergence entry with and without a parked lane, and with none that matches. -/
theorem wit_JoinForm :
    (∀ st, (T.st (T.gs st) T.q).Issuing (T.gs st) T.q ∧ Claims.Plain (T.gs st) T.q ∧ Claims.Handles (T.gs st) T.q) ∧
    (T.path.rpc = Claims.base T.g T.q ∧ T.path.kind = .minus ∧ T.path.hold = false) ∧
    (T.region.rpc = Claims.base T.g T.q ∧ T.region.kind = .plus ∧ (T.gs [T.region]).laneRec = []) ∧
    (let h : Gust := { T.gs [T.region] with laneRec := [(0, [])] }
     (T.st h T.q).Issuing h T.q ∧ Claims.Plain h T.q ∧ h.laneRec ≠ []) ∧
    ∀ e ∈ (T.gs []).stack.head?, e.rpc ≠ Claims.base (T.gs []) T.q :=
  ⟨fun _ => ⟨⟨rfl, rfl, rfl⟩, ⟨rfl, rfl, rfl, rfl, rfl, T.noCmd⟩, ⟨rfl, T.handles.2⟩⟩, by decide +kernel, by decide +kernel,
    ⟨⟨rfl, rfl, rfl⟩, ⟨rfl, rfl, rfl, rfl, rfl, T.noCmd⟩, by decide⟩, by decide +kernel⟩

theorem wit_LaneLeavingForms :
    (T.st (T.gs [T.path, T.region]) T.q).Issuing (T.gs [T.path, T.region]) T.q ∧ Claims.Plain (T.gs [T.path, T.region]) T.q ∧
    T.g.activeLanes 0 ≠ [] ∧ Claims.regions [T.path, T.region] < 2 ∧ Claims.Handles (T.gs [T.path, T.region]) T.q ∧
    (T.gs [T.path, T.region]).stack[1]? = some T.region ∧ T.region.kind = .plus ∧ Claims.regions ([T.path, T.region].take 1) + 1 = 1 ∧
    (T.gs [T.path, T.region]).acts 0 = true ∧ (T.gs [T.path, T.region]).laneRec = [] :=
  ⟨⟨rfl, rfl, rfl⟩, ⟨rfl, rfl, rfl, rfl, rfl, T.noCmd⟩, by decide +kernel, by decide +kernel, ⟨rfl, by decide +kernel, by decide +kernel⟩, rfl, rfl,
    by decide +kernel, by decide +kernel, rfl⟩

theorem wit_PathEnds : T.s.gust? T.g.ref = some T.g ∧ T.g.stack = [] ∧ (∀ l < 81, T.g.mask.get l ≠ .minus) ∧
    (let h := T.g.withMask (Mask.tab fun _ => .minus)
     (T.st h T.q).gust? h.ref = some h ∧ h.stack = [] ∧ ∃ l < 81, h.mask.get l = .minus) ∧
    (T.gs [T.path, T.region]).stack = T.path :: [T.region] ∧ (∃ l < 81, T.path.mask.get l = .plus) ∧
    (∀ l < 81, ({ T.path with mask := Mask.zero } : StackEntry).mask.get l ≠ .plus) :=
  ⟨rfl, rfl, by decide +kernel, ⟨rfl, rfl, 80, by decide, by decide +kernel⟩, rfl, ⟨0, by decide, by decide +kernel⟩, by decide +kernel⟩

theorem wit_YieldForms : T.s.Issuing T.g T.q ∧ T.g.Undisturbed T.q ∧ T.g.acts 0 = true ∧
    (let y : Gust := { T.g with status := .yielded 0 }
     (T.st y T.q).gust? y.ref = some y ∧ (T.st y T.q).squall? y.ref.sq = some T.q ∧ 0 ≤ ((T.st y T.q).core T.q.core).cycle) :=
  ⟨T.issuing, T.calm, by decide +kernel, rfl, rfl, Nat.zero_le _⟩

/-- TRAP and BRK with and without lanes, BRK routed to the debugger, and TRAP_ENTRY with a cause of each kind. -/
theorem wit_TrapCompletion : T.s.Issuing T.g T.q ∧ T.g.acts 0 = true ∧ T.g.acts 1 = false ∧ T.g.Undisturbed T.q ∧
    Claims.Handles T.g T.q ∧ tritI (T.s.context T.q.ctx).xdbg.val 25 ≠ 1 ∧
    (let u : State := { T.s with contexts := { Context.init with xdbg := Word.ofInt (3 ^ 25) } :: List.replicate 26 Context.init }
     u.Issuing T.g T.q ∧ tritI (u.context T.q.ctx).xdbg.val 25 = 1) ∧
    T.s.gust? T.g.ref = some T.g ∧ T.s.squall? T.g.ref.sq = some T.q ∧ (9 ≤ (11 : Int) ∧ (11 : Int) ≤ 11) ∧
    (8 : Int) ≠ 0 ∧ ¬(9 ≤ (8 : Int) ∧ (8 : Int) ≤ 11) :=
  ⟨T.issuing, by decide +kernel, by decide +kernel, T.calm, T.handles, by decide +kernel, ⟨⟨rfl, rfl, rfl⟩, by decide +kernel⟩, rfl, rfl,
    by decide, by decide, by decide⟩

/-- A trap inside a handler, with no handler, and with a bad one; control flow inside a handler. -/
theorem wit_HandlerLimits : ((T.st T.gh T.q).Issuing T.gh T.q ∧ T.gh.trapActive = true ∧ T.gh.acts 0 = true) ∧
    (let h := { T.g with tvec := Word.ofInt (-1) }
     (T.st h T.q).Issuing h T.q ∧ h.acts 0 = true ∧ h.tvec.val = -1 ∧ ¬ Claims.TargetOk T.q h.tvec.val) ∧
    (let h := { T.g with tvec := Word.ofInt (-2) }
     (T.st h T.q).Issuing h T.q ∧ h.tvec.val ≠ -1 ∧ ¬ Claims.TargetOk T.q h.tvec.val) :=
  ⟨⟨⟨rfl, rfl, rfl⟩, rfl, by decide +kernel⟩,
    ⟨⟨rfl, rfl, rfl⟩, by decide +kernel, by decide +kernel, fun h => absurd h.1 (by decide +kernel)⟩,
    ⟨rfl, rfl, rfl⟩, by decide +kernel, fun h => absurd h.1 (by decide +kernel)⟩

theorem wit_FaultRecordWords : T.g.stack.length ≤ 27 ∧ -wordMax ≤ T.g.pc ∧ T.g.pc ≤ wordMax ∧
    T.s.squall? T.g.ref.sq = some T.q ∧ T.q.core < 243 ∧ T.g.ref.gust < 27 ∧ -364 ≤ T.s.op ∧ T.s.op ≤ 364 ∧
    Int.ofNat T.g.ref.front ≤ wordMax ∧ Int.ofNat T.g.ref.lin ≤ wordMax := by
  refine ⟨?_, ?_, ?_, rfl, ?_, ?_, ?_, ?_, ?_, ?_⟩ <;> decide +kernel

theorem wit_EretForm : T.s.Issuing T.g T.q ∧ T.g.acts 0 = true ∧ Claims.Handles T.g T.q ∧
    (let h : Gust := { T.gh with tpc := Word.ofInt (-1) }
     (T.st h T.q).Issuing h T.q ∧ h.trapActive = true ∧ h.tpc.val < 0) ∧
    (T.st T.gh T.q).Issuing T.gh T.q ∧ T.gh.acts 0 = true ∧ T.gh.trapActive = true ∧ 0 ≤ T.gh.tpc.val ∧ T.gh.laneFaulted = [] ∧
    T.gh.maskWrote = false ∧ T.gh.cmdCode ≠ 1 ∧
    T.q.shutter = none ∧ (∃ l < 81, T.gh.tm.get l = .plus) ∧ (∀ x ∈ T.gh.laneRec, x.1 < 81) :=
  ⟨T.issuing, by decide +kernel, T.handles, ⟨⟨rfl, rfl, rfl⟩, rfl, by decide +kernel⟩, ⟨rfl, rfl, rfl⟩, by decide +kernel, rfl,
    by decide +kernel, rfl, rfl, by decide +kernel, rfl, ⟨0, by decide, by decide +kernel⟩, by decide +kernel⟩

theorem wit_CompletionChangesNothingElse : let h := T.g.withV 1 (Lanes.splat Word.ones)
    let t := T.s.setGust h
    T.s.Issuing T.g T.q ∧ T.g.Undisturbed T.q ∧ t.gust? T.g.ref = some h ∧ h.ref = T.g.ref ∧
    (∀ b, t.squall? T.g.ref.sq = some b → b.shutter = T.q.shutter ∧ b.isD = T.q.isD) ∧ (t.squall? T.g.ref.sq).isSome = true ∧
    h.mask = T.g.mask ∧ h.trapActive = T.g.trapActive ∧ h.stepBit = T.g.stepBit ∧ h.laneFaulted = [] ∧ h.laneRec = T.g.laneRec ∧
    h.stack = T.g.stack ∧ h.halted = false := by
  refine ⟨T.issuing, T.calm, rfl, rfl, ?_, rfl, rfl, rfl, rfl, rfl, rfl, rfl, rfl⟩
  intro b hb
  cases hb
  exact ⟨rfl, rfl⟩

theorem wit_MaskWordWrites : T.s.gust? T.g.ref = some T.g ∧ rising T.g.laneRec = true ∧ T.g.sreg.length = 81 ∧
    Word.zero.tritAt 26 ≠ .minus ∧
    (∃ l < 81, l / 27 = 2 ∧ (Word.ofInt (-1)).tritAt (l % 27) = .minus ∧ T.g.mask.get l ≠ .minus) :=
  ⟨rfl, rfl, by decide +kernel, by decide +kernel, 54, by decide +kernel⟩

/-! ## Witnesses: system registers -/

/-- The gust without privilege. -/
def T.gu : Gust := { T.g with priv := false }

theorem wit_SystemRegisterReads : T.s.Issuing T.g T.q ∧ T.g.acts 0 = true ∧ T.g.priv = true ∧
    (T.st T.gu T.q).Issuing T.gu T.q ∧ T.gu.acts 0 = true ∧ T.gu.priv = false ∧ Claims.Handles T.gu T.q ∧ T.q.core < 243 ∧
    T.q.bases.scratch < 531441 :=
  ⟨T.issuing, by decide +kernel, rfl, ⟨rfl, rfl, rfl⟩, by decide +kernel, rfl, ⟨rfl, by decide +kernel, by decide +kernel⟩,
    by decide, by decide⟩

theorem wit_SystemRegisterWrites : T.s.Issuing T.g T.q ∧ T.g.acts 0 = true ∧ T.g.Undisturbed T.q ∧ T.g.priv = true ∧
    T.g.quiet = true ∧ tritI (T.g.s 13).val 24 ≠ 1 ∧ (T.st T.gu T.q).Issuing T.gu T.q ∧ T.gu.priv = false ∧ Claims.Handles T.gu T.q :=
  ⟨T.issuing, by decide +kernel, T.calm, rfl, rfl, by decide +kernel, ⟨rfl, rfl, rfl⟩, rfl, ⟨rfl, by decide +kernel, by decide +kernel⟩⟩

theorem wit_SnapshotForms : T.s.Issuing T.g T.q ∧ T.g.acts 0 = true ∧ T.g.priv = true ∧ T.g.Undisturbed T.q ∧
    (T.st T.gu T.q).Issuing T.gu T.q ∧ T.gu.priv = false ∧ Claims.Handles T.gu T.q ∧
    ({ T.s with snapAt := some 729, ptime := 729 } : State).snapAt = some 729 ∧ 729 ≤ ({ T.s with ptime := 729 } : State).ptime ∧
    (∀ k, k < 243 → k < T.s.cores.length ∧ (T.s.core k).counters ≠ []) ∧ ∀ k, k < 9 → k < T.s.dies.length ∧ (T.s.die k).counters ≠ [] :=
  ⟨T.issuing, by decide +kernel, rfl, T.calm, ⟨rfl, rfl, rfl⟩, rfl, ⟨rfl, by decide +kernel, by decide +kernel⟩, rfl, le_rfl,
    by decide +kernel, by decide +kernel⟩

/-! ## Witnesses: memory -/

/-- A machine whose core 24 maps lines 0 to 531440 to themselves, and whose die 0 and homes hold lines 0 and 1, word w of line
p at 100p + w. -/
def T.w0 : Word := Word.ofInt (3 ^ 25 + 3 ^ 18)
def T.pte : TlbEntry := { ctx := 0, level := 4, base := 0, lines := 531441, w0 := T.w0, w1 := Word.zero, expires := 1000 }
def T.l1 (p : Nat) (dirty : Option Nat) : L1Line :=
  { loc := .dev p, words := (List.range 45).map fun w => (w, ⟨Word.ofNat (100 * p + w), dirty, 0, false⟩), stale := [], prio := 0, used := 0 }
def T.home (p : Nat) : HomeLine :=
  { line := p, words := (List.range 45).map fun w => Word.ofNat (100 * p + w), holders := [], noted := [], prio := 0, used := 0 }
def T.mapped (s : State) (dirty : Option Nat) : State :=
  { s with cores := s.cores.set 24 { Core.init with tlb := [T.pte] },
           dies := s.dies.set 0 { Die.init with l1 := [T.l1 0 dirty, T.l1 1 dirty] }, homes := [T.home 0, T.home 1] }
def T.m : State := T.mapped T.s none

theorem T.m_issuing : T.m.Issuing T.g T.q := ⟨rfl, rfl, rfl⟩

/-- Address x of a mapped line. -/
theorem T.at (x : Nat) (h : 1 ≤ x) (h2 : x < 90) (b : Bool) : Claims.At T.m T.g T.q (Int.ofNat x) b ⟨.dev (x / 45), x % 45⟩ := by
  have : ∀ x : Fin 90, 1 ≤ x.val → ∀ b, (1 ≤ Int.ofNat x.val ∧ Int.ofNat x.val ≤ wordMax ∧
      tlbFind (T.m.core T.q.core).tlb T.q.ctx ((Int.ofNat x.val).toNat / 45) T.m.ptime none = some T.pte ∧
      leafCheck T.pte.w0 b T.g.priv = none ∧ leafPlace T.pte.w0 T.pte.w1 (Int.ofNat x.val) = ⟨.dev (x.val / 45), x.val % 45⟩) := by
    decide +kernel
  obtain ⟨h1, h2, h3⟩ := this ⟨x, h2⟩ h b
  exact ⟨h1, h2, T.pte, h3⟩

/-- A load and a store in the scratchpad, and one past its end. -/
theorem wit_ScalarAccessForms : let m := T.mem .p 1 5 2 94
    T.s.Issuing T.g T.q ∧ T.g.acts 0 = true ∧ T.g.fillFaults = [] ∧ Claims.Handles T.g T.q ∧
    Claims.scalarAccess (.ldps T.c m) = some (T.c, m, false) ∧ Claims.scalarAccess (.stps T.c m) = some (T.c, m, true) ∧
    T.s.placeOf T.q T.g.priv .p (Int.ofNat 100) true = (.bad 20 0, T.s) ∧
    (let p := T.s.placeOf T.q T.g.priv .p (baseAddr T.g m.bc m.a m.off) false
     p.1.key.isSome = true ∧ p.2.clashes T.g [p.1] = false ∧ p.2.before T.g 0 .rlx .dv = some p.2 ∧
     (∃ v t, p.2.readPlace T.g T.q .rlx .dv 0 p.1 = (.ok v, t)) ∧ (∃ v t, p.2.loadOf T.g T.q m p.1 = (.ok (some v), t)) ∧
     ∃ t, p.2.writePlace T.g T.q .rlx .dv 0 (T.g.s 2) p.1 = (.ok (), t)) :=
  ⟨T.issuing, by decide +kernel, rfl, T.handles, rfl, rfl, by decide +kernel, rfl, rfl, rfl, ⟨_, _, rfl⟩, ⟨_, _, rfl⟩, _, rfl⟩

theorem wit_LaneFaultParks : T.s.gust? T.g.ref = some T.g ∧ 80 < 81 ∧ T.g.sreg.length = 81 := ⟨rfl, by decide, rfl⟩

/-- One word, a word for each lane, and one word for all lanes. -/
theorem wit_LocalScratchpadForms :
    (let m := T.mem .p 1 5 2 94
     T.s.Issuing T.g T.q ∧ T.g.acts 0 = true ∧ m.space = .p ∧ m.ord = .rlx ∧ T.g.fillFaults = [] ∧ T.s.ownWords T.g = [] ∧
     baseAddr T.g m.bc m.a m.off = Int.ofNat 99 ∧ 99 < T.q.alloc.scratch ∧
     T.s.holderOf T.q.core Bases.scratch Alloc.scratch (T.q.bases.scratch + 99) = some T.q ∧
     canonical (fun _ => Word.zero) T.q.scratch = true) ∧
    (let m := { T.mem .p 2 1 3 0 with bc := .vector }
     T.g.Undisturbed T.q ∧ Claims.OwnScratch T.s T.g T.q m (fun l => l) (T.g.activeLanes 0) ∧
     T.g.activeLanes 0 ≠ [] ∧ T.g.activeLanes 1 = []) ∧
    (let m := { T.mem .p 2 4 3 0 with bc := .vector }
     let g := T.g.withV 4 (Lanes.splat (Word.ofInt 99))
     (T.st g T.q).Issuing g T.q ∧ g.Undisturbed T.q ∧ Claims.OwnScratch (T.st g T.q) g T.q m (fun _ => 99) (g.activeLanes 0)) := by
  refine ⟨⟨T.issuing, by decide +kernel, rfl, rfl, rfl, rfl, by decide +kernel, by decide, rfl, rfl⟩,
    ⟨T.calm, ⟨rfl, rfl, rfl, ?_⟩, by decide +kernel, by decide +kernel⟩,
    ⟨rfl, rfl, rfl⟩, ⟨by decide +kernel, ⟨rfl, rfl⟩, ⟨rfl, T.noCmd⟩, .inr ⟨rfl, .inl rfl⟩⟩, ⟨rfl, rfl, rfl, ?_⟩⟩ <;> decide +kernel

/-- Lanes 0 to 80 at addresses 1 to 81, and scalar accesses of address 5. -/
theorem wit_CachedAccessForms : let m := T.mem .g 1 1 2 0
    T.m.Issuing T.g T.q ∧ T.g.Undisturbed T.q ∧ m.ev ≠ -4 ∧ T.m.ownWords T.g = [] ∧ T.g.acts 0 = true ∧ T.g.fillFaults = [] ∧
    T.g.activeLanes 0 ≠ [] ∧
    (∃ v : Nat → CWord, ∀ l ∈ T.g.activeLanes 0, ∀ b, Claims.At T.m T.g T.q (laneAddr T.g m l) b ⟨.dev ((l + 1) / 45), (l + 1) % 45⟩ ∧
      T.m.l1Hit 0 ⟨.dev ((l + 1) / 45), (l + 1) % 45⟩ = some (v l) ∧ (v l).bad = false ∧
      T.m.l1HoldsSector 0 ⟨.dev ((l + 1) / 45), (l + 1) % 45⟩ = true ∧ Claims.AtHome T.m (.dev ((l + 1) / 45))) ∧
    (∀ b, Claims.At T.m T.g T.q (baseAddr T.g .scalar 1 4) b ⟨.dev (5 / 45), 5 % 45⟩) ∧
    T.m.l1Hit 0 ⟨.dev (5 / 45), 5 % 45⟩ = some ⟨Word.ofInt 5, none, 0, false⟩ ∧ 77 < 78 := by
  have hx : ∀ l : Fin 81, laneAddr T.g (T.mem .g 1 1 2 0) l.val = Int.ofNat (l.val + 1) ∧
      ((T.m.l1Hit 0 ⟨.dev ((l.val + 1) / 45), (l.val + 1) % 45⟩).isSome = true ∧
        ∀ w ∈ T.m.l1Hit 0 ⟨.dev ((l.val + 1) / 45), (l.val + 1) % 45⟩, w.bad = false) ∧
      T.m.l1HoldsSector 0 ⟨.dev ((l.val + 1) / 45), (l.val + 1) % 45⟩ = true ∧ (T.m.home? ((l.val + 1) / 45)).isSome = true := by decide +kernel
  refine ⟨T.m_issuing, T.calm, by decide, rfl, by decide +kernel, rfl, by decide +kernel,
    ⟨fun l => (T.m.l1Hit 0 ⟨.dev ((l + 1) / 45), (l + 1) % 45⟩).getD ⟨Word.zero, none, 0, false⟩, fun l hl b => ?_⟩, fun b => ?_,
    by decide +kernel, by decide⟩
  · have hl81 := ((Gust.mem_activeLanes _ _ _).1 hl).1
    obtain ⟨h1, ⟨h2, h3⟩, h4, h5⟩ := hx ⟨l, hl81⟩
    obtain ⟨w, hw⟩ := Option.isSome_iff_exists.1 h2
    simp only at hw
    refine ⟨h1 ▸ T.at (l + 1) (by omega) (by omega) b, ?_, ?_, h4, h5⟩
    · simp only [hw, Option.getD_some]
    · simp only [hw, Option.getD_some]
      exact h3 w hw
  · have h := T.at 5 (by decide) (by decide) b
    rwa [show (Int.ofNat 5) = baseAddr T.g .scalar 1 4 by decide +kernel] at h

/-- A store of die 0 on its way to word 5 of line 0. -/
def T.narrow : WriteMsg :=
  { die := 0, stamp := clockZero, loc := .dev 0, word := 5, val := Word.ones, src := some T.g.ref, ctx := 0, ev := 0, lease := noLease, narrow := true }
theorem wit_StoreReachesL1 : T.narrow.narrow = true ∧ (∀ k, T.narrow.loc ≠ .win k) ∧
    T.m.l1HoldsSector T.narrow.die ⟨T.narrow.loc, T.narrow.word⟩ = true ∧ Claims.AtHome T.m T.narrow.loc ∧ T.narrow.die < T.m.dies.length := by
  refine ⟨rfl, fun k h => (nomatch h), ?_, rfl, ?_⟩ <;> decide +kernel

theorem wit_CacheWriteReadsBack : 0 < T.m.dies.length ∧ ∃ t, T.m.writeL1 0 0 ⟨.dev 0, 44⟩ Word.ones 0 = (.ok (), t) :=
  ⟨by decide +kernel, _, rfl⟩

/-- An atomic on a scratchpad word of the own core and of core 25 through window space, one on the accumulator region, and in
global space one of L1's words and one of the home's. -/
theorem wit_AtomicForms : let x : Int := -1 - 24 * 4782969 - 4782969 + 1 + (1594323 + 7)
    let m := T.mem .w 1 9 2 x
    let g := T.set T.g 9 0
    let b : Squall := { T.q with q := ⟨1, 1⟩, core := 25 }
    let s : State := { T.st g T.q with squalls := [T.q, b] }
    Claims.atomRule (.atom T.c .add .i27 true m) = some (T.c, m, true, .rmw .add .i27) ∧ s.Issuing g T.q ∧ g.fillFaults = [] ∧
    s.ownWords g = [] ∧ g.atoms = [] ∧ g.acts 0 = true ∧ g.priv = true ∧ baseAddr g .scalar 9 x = x ∧
    winPlace x = some (24, 1594323 + 7) ∧ winPlace (x - 4782969) = some (25, 1594323 + 7) ∧
    winReg (coreIsD 24) (1594323 + 7) = some (.scratch 7) ∧ winReg (coreIsD 25) (1594323 + 7) = some (.scratch 7) ∧
    s.holderOf 24 Bases.scratch Alloc.scratch 7 = some T.q ∧ s.holderOf 25 Bases.scratch Alloc.scratch 7 = some b ∧
    winPlace (x - 8) = some (24, 1594322) ∧ Claims.Handles g T.q ∧ T.g.activeLanes 0 ≠ [] ∧ T.g.activeLanes 1 = [] ∧
    Claims.atomRule (.cas T.cg .word false (T.mem .g 1 1 2 0)) = some (T.cg, T.mem .g 1 1 2 0, false, .cas .word) ∧
    Claims.Asked T.m 0 false ⟨.dev 0, 5⟩ (Word.ofNat 5) ∧ Claims.Asked T.m 0 true ⟨.dev 1, 5⟩ (Word.ofNat 105) := by
  refine ⟨rfl, ⟨rfl, rfl, rfl⟩, rfl, rfl, rfl, ?_, rfl, ?_, ?_, ?_, ?_, ?_, ?_, ?_, ?_, ⟨rfl, ?_, ?_⟩, ?_, ?_, rfl,
    ⟨_, rfl, rfl, rfl⟩, (fun i hi => (List.not_mem_nil hi).elim), rfl, _, rfl, rfl, rfl⟩ <;> decide +kernel

/-- An ATOM whose one word has not been applied. -/
def T.atom : PendAtom :=
  { kind := .rmw .add .i27, d := 3, scalar := true, ord := .rlx, scope := .cl, ev := 0, lease := noLease,
    items := [{ lane := 0, at_ := ⟨.dev 0, 5⟩, dOld := Word.zero, b := Word.ones, seen := Word.zero }] }

theorem wit_AtomicApplyStep : let a := T.atom
    let g : Gust := { T.g with atoms := [a] }
    let s := T.mapped (T.st g T.q) none
    s.gust? g.ref = some g ∧ s.squall? g.ref.sq = some T.q ∧ g.status = .running ∧ g.atoms = [a] ∧ a.scalar = true ∧ a.ord = .rlx ∧
    a.scope.wide = false ∧ a.d < 78 ∧
    a.ev ≠ -4 ∧ (∃ it v, a.items = [it] ∧ it.took = false ∧ it.at_ = ⟨.dev 0, 5⟩ ∧ s.l1Hit (dieOf T.q.core) it.at_ = some v ∧ v.bad = false) ∧
    a.lost = false ∧ s.joined (dieOf T.q.core) (.dev 0) = true ∧ Claims.AtHome s (.dev 0) :=
  ⟨rfl, rfl, rfl, rfl, rfl, rfl, rfl, by decide, by decide, ⟨_, _, rfl, rfl, rfl, rfl, rfl⟩, rfl, by decide +kernel, rfl⟩

/-- A load of lane 80 that waits for word 44 of line 0. -/
def T.load : PendLoad := { d := 2, scalar := false, ev := 0, items := [(80, ⟨.dev 0, 44⟩, Word.zero)], lease := noLease }

/-- The lines of another device, its line 0 raw. -/
def T.rawFar : State := { T.s with peers := [(1, [⟨243, 1⟩])] }

/-- An answer of a given value. -/
theorem T.answers {α : Type} {x : Answer α} {a : Except Int α} (h : x.1 = a) : ∃ t, x = (a, t) := ⟨x.2, Prod.ext h rfl⟩

/-- Loads whose words L1 holds; a lone lane's word there, on a remote line that has turned raw, and in a sector that is poisoned. -/
theorem wit_PendingAccessSteps : let l := T.load
    let st := fun (l : PendLoad) => T.mapped (T.st { T.g with loads := [l] } T.q) none
    let g : Gust := { T.g with loads := [l] }
    let w : Gust := { T.g with status := .waiting 271 .page }
    let far : PendLoad := { l with items := [(80, ⟨.remote 1 0, 44⟩, Word.zero)] }
    let fg : Gust := { T.g with loads := [far] }
    let f : State := { T.rawFar with gusts := [fg] }
    let p : State := { T.st g T.q with poison := [(0, 8)] }
    (st l).gust? g.ref = some g ∧ (st l).squall? g.ref.sq = some T.q ∧ g.loads = [l] ∧ l.lost = false ∧ l.items ≠ [] ∧ l.ev ≠ -4 ∧
    (st l).joined (dieOf T.q.core) (.dev 0) = true ∧
    (∀ x ∈ l.items, x.1 < 81 ∧ x.2.1.loc = .dev 0 ∧ sectorOf x.2.1.word = 8 ∧
      ((st l).l1Hit (dieOf T.q.core) x.2.1).any (fun w => !w.bad) = true) ∧ (l.items.map (·.1)).Nodup ∧
    (∃ v t, (st l).readRelaxed (dieOf T.q.core) ⟨.dev 0, 44⟩ l.ev = (.ok v, t)) ∧
    (f.gust? fg.ref = some fg ∧ f.squall? fg.ref.sq = some T.q ∧ fg.loads = [far] ∧ f.joined (dieOf T.q.core) (.remote 1 0) = true ∧
      ∃ c t, f.readRelaxed (dieOf T.q.core) ⟨.remote 1 0, 44⟩ far.ev = (.error c, t) ∧ 0 ≤ c) ∧
    (p.gust? g.ref = some g ∧ p.squall? g.ref.sq = some T.q ∧ p.joined (dieOf T.q.core) (.dev 0) = true ∧
      ∃ c t, p.readRelaxed (dieOf T.q.core) ⟨.dev 0, 44⟩ l.ev = (.error c, t) ∧ c < 0) ∧
    (T.st w T.q).gust? w.ref = some w ∧ w.status = .waiting 271 .page ∧ w.halted = false := by
  have h0 : ((T.mapped (T.st { T.g with loads := [T.load] } T.q) none).readRelaxed (dieOf T.q.core) ⟨.dev 0, 44⟩ T.load.ev).1 = .ok (Word.ofInt 44) := by
    decide +kernel
  have h1 : (({ T.rawFar with gusts := [{ T.g with loads := [{ T.load with items := [(80, ⟨.remote 1 0, 44⟩, Word.zero)] }] }] } : State).readRelaxed
      (dieOf T.q.core) ⟨.remote 1 0, 44⟩ T.load.ev).1 = .error 22 := by decide +kernel
  have h2 : (({ T.st { T.g with loads := [T.load] } T.q with poison := [(0, 8)] } : State).readRelaxed
      (dieOf T.q.core) ⟨.dev 0, 44⟩ T.load.ev).1 = .error (-4) := by decide +kernel
  refine ⟨rfl, rfl, rfl, rfl, ?_, ?_, ?_, ?_, ?_, ⟨_, T.answers h0⟩, ⟨rfl, rfl, rfl, ?_, 22, (T.answers h1).imp fun _ h => ⟨h, by decide⟩⟩,
    ⟨rfl, rfl, ?_, -4, (T.answers h2).imp fun _ h => ⟨h, by decide⟩⟩, rfl, rfl, rfl⟩ <;> decide +kernel

theorem wit_CacheHintForms : let m := T.mem .g 0 1 0 44
    T.m.Issuing T.g T.q ∧ T.g.acts 0 = true ∧ m.bc ≠ .vector ∧
    (∃ e, T.m.placeOf T.q T.g.priv .g (baseAddr T.g m.bc m.a m.off) false = (.mem ⟨.dev 1, 0⟩ e, T.m)) ∧ T.m.home? 1 = some (T.home 1) ∧
    (T.home 1).bad = [] ∧ T.m.poisoned 1 (sectorOf 0) = false ∧ m.ev ≠ -4 ∧ T.m.flight = [] ∧ homeDie 1 = dieOf T.q.core ∧
    (∃ n a t, T.m.placeOf T.q T.g.priv .g (23914845 + 1) false = (.bad n a, t) ∧ 0 < n ∧ n ≠ 20 ∧ n ≠ 21) :=
  ⟨T.m_issuing, by decide +kernel, by decide, ⟨_, rfl⟩, rfl, rfl, by decide +kernel, by decide, rfl, by decide +kernel,
    _, _, _, rfl, by decide +kernel, by decide +kernel, by decide +kernel⟩

theorem wit_FenceForms : T.s.Issuing T.g T.q ∧ T.g.acts 0 = true ∧ T.g.quiet = true ∧ T.g.unacked = 0 ∧ T.g.Undisturbed T.q ∧
    (let g : Gust := { T.g with unacked := 1, loads := [T.load] }
     (T.st g T.q).Issuing g T.q ∧ g.acts 0 = true ∧ g.quiet = false ∧ g.loads ≠ [] ∧ g.unacked ≠ 0) :=
  ⟨T.issuing, by decide +kernel, rfl, rfl, T.calm, ⟨rfl, rfl, rfl⟩, by decide +kernel, rfl, by decide +kernel, by decide⟩

theorem wit_ReleaseWritesBack : let s := T.mapped T.s (some 0)
    0 < s.dies.length ∧ ∀ x ∈ (s.die 0).l1, ∀ e ∈ x.words, ∀ k, e.2.dirty = some k → k ≤ (s.die 0).epoch := by
  refine ⟨by decide +kernel, fun x hx e he k hk => ?_⟩
  have h : ∀ x ∈ ((T.mapped T.s (some 0)).die 0).l1, ∀ e ∈ x.words, e.2.dirty = some 0 := by decide +kernel
  rw [h x hx e he] at hk
  cases hk
  exact Nat.zero_le _

/-- A barrier record (R189): state, phase, E, R. -/
def T.bar (st ph e n : Int) (arrived : Int) : Word × Word :=
  (Word.ofInt (st * 3 ^ 26 + ph * 3 ^ 25 + e * 3 ^ 18 + n * 3 ^ 11), Word.ofInt arrived)

/-- The squall with barrier 0 as given. -/
def T.qb (r : Word × Word) : Squall := { T.q with bars := [r, r] }

theorem wit_BarrierArrivals : T.s.Issuing T.g T.q ∧ T.g.acts 0 = true ∧ T.g.ref.gust < 27 ∧ 729 ≤ 729 ∧ Claims.Handles T.g T.q ∧
    T.g.quiet = true ∧ (barBad (T.q.bar 0) = false ∧ barState (T.q.bar 0) = 0) ∧
    (let r := T.bar 1 (-1) 3 2 0
     barBad r = false ∧ barState r = 1 ∧ barE r = 3 ∧ barE r ≠ 2 ∧ barArrived r 0 = false ∧ barR r < 3 ∧ 1 < barR r ∧ 2 = barR r ∧
     (T.st T.g (T.qb r)).Issuing T.g (T.qb r) ∧ (T.qb r).bar 0 = r) ∧
    (let r := T.bar 1 0 3 2 1
     barBad r = false ∧ barState r = 1 ∧ barArrived r 0 = true) := by
  refine ⟨T.issuing, ?_, ?_, le_rfl, T.handles, rfl, ⟨?_, ?_⟩, ⟨?_, ?_, ?_, ?_, ?_, ?_, ?_, ?_, ⟨rfl, rfl, rfl⟩, rfl⟩, ?_, ?_, ?_⟩ <;>
    decide +kernel

theorem wit_BarrierWaits : T.s.Issuing T.g T.q ∧ T.g.acts 0 = true ∧ T.g.ref.gust < 27 ∧ 1 < T.q.bars.length ∧ T.g.quiet = true ∧
    Claims.Handles T.g T.q ∧ (T.g.s 2).val = 2 ∧ (T.g.s 1).val = 1 ∧ (T.g.s 0).val = 0 ∧ barState (T.q.bar 0) = 0 ∧
    barBad (T.bar 1 0 2 3 0) = true ∧
    (let r := T.bar 1 1 2 2 0
     barBad r = false ∧ barState r = 1 ∧ barPhase r = 1 ∧ barPhase r ≠ 0 ∧ barArrived r 0 = false ∧ 1 < barR r ∧ 2 = barR r) ∧
    (let r := T.bar 1 1 2 1 0
     barBad r = false ∧ barState r = 1 ∧ barArrived r 0 = false ∧ barR r = 1) ∧
    (let r := T.bar 1 1 2 1 1
     barBad r = false ∧ barState r = 1 ∧ barArrived r 0 = true) ∧
    ∀ h ∈ T.s.gustsOf T.g.ref.sq, h.status = .running := by
  refine ⟨T.issuing, ?_, ?_, ?_, rfl, T.handles, ?_⟩ <;> decide +kernel

/-! ## Witnesses: latches, translation -/

/-- A queue head for line `p`. -/
def T.head (p : Nat) (hs : List Holder) (es : List Waiter) : QHead :=
  { line := p, holders := hs, entries := es, runN := 0, runB := 0, suspect := [] }
def T.holder (r : GustRef) (first cnt : Nat) : Holder := { who := r, ctx := 0, first, cnt }
def T.waiter (r : GustRef) (st : EntrySt) (entered : Nat) : Waiter :=
  { who := r, ctx := 0, first := 0, cnt := 1, cls := .zero, entered, deadline := some 5, st, lost := false, vaddr := 0, ev := 0,
    probeAt := entered + 729000, ver := entered }
def T.heads (s : State) (hs : List QHead) : State := { s with heads := hs }

/-- The gust of the machine, and another. -/
def T.r0 : GustRef := ⟨1, 0, 0⟩
def T.r1 : GustRef := ⟨1, 1, 0⟩

/-- The mapping of `T.mapped` with its lines in host memory. -/
def T.hosted : State :=
  { T.s with cores := T.s.cores.set 24 { Core.init with tlb := [{ T.pte with w0 := Word.ofInt (3 ^ 25 + 3 ^ 18 + 3 ^ 13) }] } }

theorem wit_LatchForms : T.m.Issuing T.g T.q ∧ T.g.acts 0 = true ∧ T.g.latchCode = none ∧ Claims.Handles T.g T.q ∧
    Claims.Latched T.m T.g T.q .scalar 44 1 0 true 0 44 ∧ Claims.Latched T.m T.g T.q .scalar 44 0 0 true 0 44 ∧
    T.m.latchesOf T.g.ref = [] ∧
    (let s := T.heads T.m [T.head 5 ((List.range 9).map fun k => T.holder T.r0 k 1) []]
     s.Issuing T.g T.q ∧ Claims.Latched s T.g T.q .scalar 44 1 0 true 0 44 ∧ 9 ≤ (s.latchesOf T.g.ref).length ∧
     ∀ h ∈ s.latchesOf T.g.ref, h.1 ≠ 0) ∧
    (let s := T.heads T.m [T.head 0 [T.holder T.r0 8 1] []]
     s.Issuing T.g T.q ∧ Claims.Latched s T.g T.q .scalar 44 1 0 true 0 44 ∧ (s.latchesOf T.g.ref).length < 9 ∧
     ∃ h ∈ s.latchesOf T.g.ref, h.1 = 0 ∧ h.2.1 < (Claims.span 44 1).1 + (Claims.span 44 1).2 ∧ (Claims.span 44 1).1 < h.2.1 + h.2.2) ∧
    (T.m.placeOf T.q T.g.priv .g (baseAddr T.g .scalar 44 0) true = (.mem ⟨.dev 0, 44⟩ 1000, T.m) ∧
      9 < (baseAddr T.g .scalar 44 0 % 45).toNat / 5 + 2) ∧
    (T.hosted.Issuing T.g T.q ∧
      T.hosted.placeOf T.q T.g.priv .g (baseAddr T.g .scalar 44 0) true = (.mem ⟨.host 0, 44⟩ 1000, T.hosted)) ∧
    T.g.activeLanes 1 = [] ∧
    (let g : Gust := { T.g with latchCode := some (-1) }
     (T.mapped (T.st g T.q) none).Issuing g T.q ∧ g.latchCode = some (-1)) := by
  refine ⟨T.m_issuing, ?_, rfl, T.handles, ⟨?_, rfl, ⟨1000, ?_⟩, ?_, ?_, ?_⟩, ⟨?_, rfl, ⟨1000, ?_⟩, ?_, ?_, ?_⟩, ?_,
    ⟨⟨rfl, rfl, rfl⟩, ⟨?_, rfl, ⟨1000, ?_⟩, ?_, ?_, ?_⟩, ?_, ?_⟩, ⟨⟨rfl, rfl, rfl⟩, ⟨?_, rfl, ⟨1000, ?_⟩, ?_, ?_, ?_⟩, ?_, ?_⟩, ⟨?_, ?_⟩,
    ⟨⟨rfl, rfl, rfl⟩, ?_⟩, ?_, ⟨rfl, rfl, rfl⟩, rfl⟩ <;> decide +kernel

theorem wit_UnlatchForms : let s := T.heads T.m [T.head 0 [T.holder T.r0 8 1] []]
    s.Issuing T.g T.q ∧ T.g.acts 0 = true ∧ Claims.Latched s T.g T.q .scalar 44 1 0 false 0 44 ∧
    (0, (Claims.span (baseAddr T.g .scalar 44 0) 1).1, 1) ∈ s.latchesOf T.g.ref ∧ T.g.quiet = true ∧
    (let g : Gust := { T.g with unacked := 1 }
     (T.heads (T.mapped (T.st g T.q) none) [T.head 0 [T.holder T.r0 8 1] []]).Issuing g T.q ∧ g.quiet = false) ∧
    (0, (Claims.span (baseAddr T.g .scalar 44 0) 1).1, 1) ∉ T.m.latchesOf T.g.ref ∧ Claims.Handles T.g T.q ∧
    (T.m.head? 0 = none ∧ ∃ h, s.head? 0 = some h ∧ h.holders.length ≤ 9 ∧ h.entries.length ≤ 243) := by
  refine ⟨⟨rfl, rfl, rfl⟩, ?_, ⟨?_, rfl, ⟨1000, ?_⟩, ?_, ?_, ?_⟩, ?_, rfl, ⟨⟨rfl, rfl, rfl⟩, rfl⟩, ?_, T.handles, rfl, _, rfl, ?_, ?_⟩ <;>
    decide +kernel

/-- A request for sector 0 of line 0. -/
def T.req (timed : Bool) (deadline : Nat) : LatchReq :=
  { who := T.r0, ctx := 0, die := 0, line := 0, first := 0, cnt := 1, timed, deadline, vaddr := 0, ev := 0 }

/-- A free line; 27 heads of its home slice; a conflicting holder, with room for entries and with 243 of them. -/
theorem wit_LatchRequestStep : (T.s.head? 0 = none ∧ (T.s.sliceHeads 0).length < 27 ∧ (T.s.gust? T.r0).isSome = true) ∧
    (let s := T.heads T.s (List.replicate 27 (T.head 1457 [] []))
     s.head? 0 = none ∧ 27 ≤ (s.sliceHeads 0).length) ∧
    (let h := T.head 0 [T.holder T.r1 0 9] []
     let s := T.heads T.s [h]
     s.head? 0 = some h ∧ (∀ e ∈ h.entries, e.st ≠ .queued ∧ e.expired s.ptime = false) ∧
     (∃ x ∈ h.held, (T.req true 0).first < x.2.1 + x.2.2 ∧ x.2.1 < 0 + 1) ∧
     (T.req true 0).deadline ≤ s.ptime ∧ (T.req false 0).timed = false ∧ s.ptime < (T.req true 1).deadline ∧
     ((s.sliceHeads 0).map fun k => k.entries.length).sum < 243) ∧
    (let h := T.head 0 [T.holder T.r1 0 9] (List.replicate 243 (T.waiter T.r1 .requeued 0))
     let s := T.heads T.s [h]
     s.head? 0 = some h ∧ (∀ e ∈ h.entries, e.st ≠ .queued ∧ e.expired s.ptime = false) ∧
     ¬ ((s.sliceHeads 0).map fun k => k.entries.length).sum < 243) := by
  refine ⟨⟨rfl, ?_, rfl⟩, ⟨?_, ?_⟩, ⟨rfl, ?_, ?_, ?_, rfl, ?_, ?_⟩, rfl, ?_, ?_⟩ <;> decide +kernel

/-- A head with a holder alone; with an offered entry whose lease ends now, with and without a deadline that has passed, and later; with
an entry whose deadline is 5. -/
theorem wit_LatchQueueSteps :
    (let h := T.head 0 [T.holder T.r0 0 1] []
     Claims.OneHead (T.heads T.s [h]) 0 h ∧ h.entries = []) ∧
    (∀ dl ∈ [none, some 5], let e := { T.waiter T.r0 (.offered 0) 0 with deadline := dl }
     let h := T.head 0 [] [e]
     Claims.OneHead { T.heads T.s [h] with ptime := 27000 } 0 h ∧ Claims.OneHead (T.heads T.s [h]) 0 h ∧ h.entries = [e] ∧
     e.st = .offered 0 ∧ 0 + 27000 ≤ ({ T.s with ptime := 27000 } : State).ptime ∧ T.s.ptime < 0 + 27000) ∧
    5 < ({ T.s with ptime := 27000 } : State).ptime ∧
    (let e := T.waiter T.r0 .queued 0
     let h := T.head 0 [T.holder T.r1 0 1] [e]
     Claims.OneHead (T.heads T.s [h]) 0 h ∧ h.entries = [e] ∧ e.deadline = some 5 ∧ e.offered = false ∧ T.s.ptime ≤ 5 ∧
     5 < ({ T.s with ptime := 6 } : State).ptime) := by
  refine ⟨⟨⟨rfl, ?_⟩, rfl⟩, fun dl h => ⟨⟨rfl, ?_⟩, ⟨rfl, ?_⟩, rfl, rfl, ?_, ?_⟩, ?_, ⟨rfl, ?_⟩, rfl, rfl, rfl, ?_, ?_⟩
  case refine_2 => intro k hk _; exact List.mem_singleton.1 hk
  case refine_3 => intro k hk _; exact List.mem_singleton.1 hk
  all_goals decide +kernel

theorem wit_LatchGrantStep : let m : LatchGrant := { who := T.r0, line := 0, first := 8, cnt := 1, status := 1, ev := 0, words := List.replicate 5 Word.ones, clk := clockZero }
    T.m.gust? m.who = some T.g ∧ T.m.squall? m.who.sq = some T.q ∧ m.words.length = 5 * m.cnt ∧ m.ev ≠ -4 ∧
    dieOf T.q.core < T.m.dies.length ∧ m.first + m.cnt ≤ 9 ∧ m.first ≤ 44 / 5 ∧ 44 / 5 < m.first + m.cnt := by
  refine ⟨rfl, rfl, ?_, ?_, ?_, ?_, ?_, ?_⟩ <;> decide +kernel

/-- Two gusts that each hold the line the other waits for, the second having waited less long. -/
theorem wit_DeadlockSteps : let e := T.waiter T.r0 .queued 1
    let f := T.waiter T.r1 .queued 2
    let s := T.heads T.s [T.head 0 [T.holder T.r1 0 1] [e], T.head 1 [T.holder T.r0 0 1] [f]]
    (s.head? 0).bind (fun h => h.entries.find? fun x => x.who == e.who) = some e ∧ e.offered = false ∧ s.ptime < e.probeAt ∧
    e.probeAt ≤ ({ s with ptime := 729001 } : State).ptime ∧ s.waitsAt e.who = some (0, e) ∧ s.waitsAt f.who = some (1, f) ∧
    f.offered = false ∧ e.entered < f.entered ∧ (s.head? 1).bind (fun h => h.entries.find? fun x => x.who == f.who) = some f ∧
    (s.waitsAt e.who).any (fun k => k.1 == 0 && k.2.stamp == e.stamp + 1 && !k.2.offered) = false := by
  refine ⟨rfl, rfl, ?_, ?_, rfl, rfl, rfl, ?_, rfl, ?_⟩ <;> decide +kernel

/-- A frame of 2 by 2 panes of 3 by 2 words, its record at address 9. -/
def T.frame : List Int := [1000, 3, 2, 2, 2, 2, 12, 6, 0]
def T.framed : State :=
  { T.m with dies := T.m.dies.set 0 { Die.init with l1 := [{ T.l1 0 none with
      words := (List.range 45).map fun w => (w, ⟨Word.ofInt (T.frame.getD (w - 9) 0), none, 0, false⟩) }] } }

/-- PROBE of an address that the core has a copy of, of one whose walk ends in an invalid entry, and of one in a context with a bad
root. FREF of the record at 9, and of the one at 10. -/
theorem wit_LookupCompletion : let x : Int := 45 * 531441
    let u : State := { T.m with contexts := { Context.init with xroot := Word.ofInt 1 } :: List.replicate 26 Context.init }
    T.m.Issuing T.g T.q ∧ T.g.acts 0 = true ∧ 1 ≤ baseAddr T.g .scalar 1 0 ∧ baseAddr T.g .scalar 1 0 ≤ wordMax ∧
    tlbFind (T.m.core T.q.core).tlb T.q.ctx ((baseAddr T.g .scalar 1 0).toNat / 45) T.m.ptime none = some T.pte ∧ T.pte.level ≤ 13 ∧
    baseAddr T.g .none 0 x = x ∧ x ≤ wordMax ∧
    tlbFind (T.m.core T.q.core).tlb T.q.ctx (x.toNat / 45) T.m.ptime none = none ∧
    (∃ t, T.m.walk (dieOf T.q.core) T.q.ctx x = (.leaf 7 0 Word.zero (Word.ofNat 1) none, t)) ∧
    u.Issuing T.g T.q ∧ (∃ t, u.walk (dieOf T.q.core) T.q.ctx x = (.bad 7 25 Word.zero 0, t)) ∧
    (T.g.s 9).val = 9 ∧ (T.g.s 10).val = 10 ∧ (T.g.s 3).val = 3 ∧ (T.g.s 4).val = 4 ∧ T.framed.Issuing T.g T.q ∧
    ∀ a ∈ [9, 10], ∃ k v, Claims.FrameRead T.framed T.g T.q a k v ∧
      (Claims.FrameOk (Claims.frame v) (T.g.s a).val ↔ a = 9) ∧ (a = 9 → (Claims.frame v).gr * (Claims.frame v).gc = 4) := by
  refine ⟨T.m_issuing, ?_, ?_, ?_, ?_, ?_, ?_, ?_, ?_, ⟨_, rfl⟩, ⟨rfl, rfl, rfl⟩, ⟨_, rfl⟩, ?_, ?_, ?_, ?_, ⟨rfl, rfl, rfl⟩, fun a ha => ?_⟩
  all_goals try decide +kernel
  have h : ∀ a ∈ [9, 10], ∀ n : Fin 9, ((1 ≤ (T.g.s a).val + Int.ofNat n.val ∧ (T.g.s a).val + Int.ofNat n.val ≤ wordMax ∧
      tlbFind (T.framed.core T.q.core).tlb T.q.ctx (((T.g.s a).val + Int.ofNat n.val).toNat / 45) T.framed.ptime none = some T.pte ∧
      leafCheck T.pte.w0 false T.g.priv = none ∧ leafPlace T.pte.w0 T.pte.w1 ((T.g.s a).val + Int.ofNat n.val) = ⟨.dev 0, a + n.val⟩) ∧
      T.framed.l1Hit (dieOf T.q.core) ⟨.dev 0, a + n.val⟩ = some ⟨Word.ofInt (T.frame.getD (a + n.val - 9) 0), none, 0, false⟩) := by
    decide +kernel
  refine ⟨fun n => ⟨.dev 0, a + n⟩, fun n => ⟨Word.ofInt (T.frame.getD (a + n - 9) 0), none, 0, false⟩,
    ⟨rfl, rfl, fun n hn => ?_⟩, ?_, ?_⟩
  · obtain ⟨⟨h1, h2, h3⟩, h4⟩ := h a ha ⟨n, hn⟩
    exact ⟨⟨h1, h2, T.pte, h3⟩, h4, rfl⟩
  all_goals
    unfold Claims.frame
    try unfold Claims.FrameOk
    simp only [List.mem_cons, List.not_mem_nil, or_false] at ha
    rcases ha with rfl | rfl <;> decide +kernel

theorem wit_LookupFaults : T.m.Issuing T.g T.q ∧ T.g.acts 0 = true ∧ Claims.Handles T.g T.q ∧ baseAddr T.g .scalar 1 (-1) < 1 :=
  ⟨T.m_issuing, by decide +kernel, T.handles, by decide +kernel⟩

/-! ## Witnesses: matrix, engines, batches -/

/-- A queued command of the gust on its core. -/
def T.cmd (i : Instr) (scal : List Int) (words : List Word) : Cmd :=
  { id := 5, instr := i, who := T.r0, ctx := 0, core := 24, priv := true, batch := 1, pcs := (Word.ofInt 6, Word.ofInt (-1), Word.zero),
    scal, words, targets := [], members := [], stage := .queued, fault := none, issuedAt := 5, prior := [], pageWait := none, waitAt := 0,
    fillFault := none, pos := 0,
    decoded := false, p0 := 0, raw := [], snap := [], oldSeg := none, record := none }

/-- Core 24 as given. -/
def T.on (s : State) (c : Core) : State := { s with cores := s.cores.set 24 c }

/-- The squall with its tiles and slots owned by gust `o`. -/
def T.qo (o : Nat) : Squall :=
  { T.q with tiles := List.replicate 2 { T.tile with owner := some o }, slots := List.replicate 5 { T.slot with owner := some o } }

theorem T.calm_of {g : Gust} {q : Squall} (h : g.mask.has 1 = true) (h1 : g.laneFaulted = [] ∧ g.maskWrote = false) (h2 : g.stepBit = false)
    (h3 : q.shutter = none ∧ g.cmdCode ≠ 1) (h4 : g.laneRec = []) : g.Undisturbed q := ⟨h, h1, h3, .inr ⟨h2, .inl h4⟩⟩

/-- A claim of all slots free; one that another gust holds up; a release of what is not owned, and of what is. -/
theorem wit_ClaimForms : Claims.claimRule (.oclaim T.c 0 5) = some (T.c, true, false, 0, 5) ∧
    Claims.claimRule (.arlse T.c 0 2) = some (T.c, false, true, 0, 2) ∧ T.s.Issuing T.g T.q ∧ T.g.acts 0 = true ∧ Claims.Handles T.g T.q ∧
    (∀ k, k < 5 → (T.q.slot k).owner = none) ∧
    ((T.st T.g (T.qo 3)).Issuing T.g (T.qo 3) ∧ ((T.qo 3).slot 4).owner = some 3 ∧ 3 ≠ T.g.ref.gust) ∧
    ((T.st T.g (T.qo 0)).Issuing T.g (T.qo 0) ∧ (∀ k, k < 2 → ((T.qo 0).tile k).owner = some T.g.ref.gust) ∧
      ((T.st T.g (T.qo 0)).core 24).matrixQ = [] ∧ (∀ x ∈ (T.qo 0).tiles, x.releasing = false) ∧
      (∀ x ∈ (T.qo 0).slots, x.releasing = false ∧ x.fill ≠ .pending) ∧
      ∀ h ∈ (T.st T.g (T.qo 0)).gustsOf T.g.ref.sq, h.status = .running) := by
  refine ⟨rfl, rfl, T.issuing, ?_, T.handles, ?_, ⟨⟨rfl, rfl, rfl⟩, rfl, ?_⟩, ⟨rfl, rfl, rfl⟩, ?_, ?_, ?_, ?_, ?_⟩ <;> decide +kernel

theorem wit_ReleaseEffectStep : T.s.squall? T.q.q = some T.q ∧ (∀ x ∈ T.s.squalls, x.q = T.q.q → x = T.q) ∧
    (∀ h ∈ T.s.gustsOf T.q.q, h.status = .running) ∧
    (let h : Gust := { T.g with status := .waiting 245 (.claim false 0 5 0) }
     let s := T.st h T.q
     s.gustsOf T.q.q = [h] ∧ h.halted = false ∧ ∀ k, k < 5 → T.q.owner false k = none) := by
  refine ⟨rfl, ?_, ?_, rfl, rfl, ?_⟩ <;> decide +kernel

theorem wit_GangAndPointForms : let q := { T.q with shutter := some (0, false) }
    T.s.Issuing T.g T.q ∧ T.g.acts 0 = true ∧ T.g.Undisturbed T.q ∧ Claims.Handles T.g T.q ∧ T.q.shutter = none ∧
    (T.g.ref.gust ∈ (List.range 27).filter (fun k => tritI (Word.ofInt 1).val k == 1) ∧
      ∀ k ∈ (List.range 27).filter (fun k => tritI (Word.ofInt 1).val k == 1), k < T.q.count) ∧
    (∃ k ∈ (List.range 27).filter (fun k => tritI (Word.ofInt 4).val k == 1), T.q.count ≤ k) ∧
    (∀ h ∈ T.s.gustsOf T.g.ref.sq, h.status = .running) ∧ (T.st T.g q).Issuing T.g q ∧ q.shutter ≠ none ∧
    T.g.mask.has 1 = true ∧ T.g.laneRec = [] ∧ T.g.stepBit = false ∧ T.g.laneFaulted = [] := by
  refine ⟨T.issuing, ?_, T.calm, T.handles, rfl, ⟨?_, ?_⟩, ?_, ?_, ⟨rfl, rfl, rfl⟩, ?_, ?_, rfl, rfl, rfl⟩ <;> decide +kernel

/-- Forms of each queue with what they need, a queue with room and a full one. -/
theorem wit_QueuedForms : let s := T.st T.g (T.qo 0)
    (∃ k, Claims.issue s T.g (T.qo 0) (.azero T.c 0 2) = some k ∧ k.ctl = T.c ∧ k.queue = .matrix ∧ k.ok) ∧
    (∃ k, Claims.issue s T.g (T.qo 0) (.ofill T.c 4 0 0 .regs) = some k ∧ k.ctl = T.c ∧ k.queue = .fill ∧ k.ok) ∧
    (∃ k, Claims.issue s T.g (T.qo 0) (.cpy T.c 0 .p .p 1 20 40 0) = some k ∧ k.ctl = T.c ∧ k.queue = .copy ∧ k.ok) ∧
    (∃ k, Claims.issue s T.g (T.qo 0) (.thaw T.c .bw .slots 0 45 0 1 0) = some k ∧ k.ctl = T.c ∧ k.queue = .codec ∧ k.ok) ∧
    (∃ k, Claims.issue s T.g (T.qo 0) (.pgin T.c 9 0) = some k ∧ k.ctl = T.c ∧ k.queue = .paging ∧ k.ok) ∧
    s.Issuing T.g (T.qo 0) ∧ T.g.acts 0 = true ∧ T.g.quiet = true ∧ T.q.core < s.cores.length ∧ (s.core 24).acceptQ = [] ∧
    (s.queue 24 .matrix).length < 27 ∧
    (let u := T.on s { Core.init with matrixQ := List.replicate 27 (T.cmd (.azero T.c 0 1) [] []) }
     u.Issuing T.g (T.qo 0) ∧ 27 ≤ (u.queue 24 .matrix).length) := by
  refine ⟨⟨_, rfl, rfl, rfl, ?_⟩, ⟨_, rfl, rfl, rfl, ?_⟩, ⟨_, rfl, rfl, rfl, ?_⟩, ⟨_, rfl, rfl, rfl, ?_⟩, ⟨_, rfl, rfl, rfl, ?_⟩,
    ⟨rfl, rfl, rfl⟩, ?_, rfl, ?_, rfl, ?_, ⟨rfl, rfl, rfl⟩, ?_⟩
  · show ∀ k, k < 2 → _
    decide +kernel
  · show ((T.qo 0).slot 4).owner = some 0
    decide +kernel
  · refine ⟨?_, ?_, .inl rfl, ?_, ?_⟩
    · decide +kernel
    · decide +kernel
    · show ∀ x ∈ Claims.from_ (T.g.s 20).val (convWords 0 (T.g.s 1).val.toNat), _ = none
      decide +kernel
    · show ∀ x ∈ Claims.from_ (T.g.s 40).val (convWords 0 (T.g.s 1).val.toNat), _ = none
      decide +kernel
  · refine ⟨?_, ?_, ?_⟩ <;> decide +kernel
  · refine ⟨rfl, ?_, ?_, ?_⟩ <;> decide +kernel
  all_goals decide +kernel

theorem wit_CommandAcceptStep : let c := T.cmd (.azero T.c 0 1) [] []
    let g : Gust := { T.g with status := .waiting 252 .accept }
    let s := T.on (T.st g (T.qo 0)) { Core.init with acceptQ := [c] }
    24 < s.cores.length ∧ (s.core 24).acceptQ = [c] ∧ c.core = 24 ∧ c.members = [] ∧ (s.queue 24 (cmdQ c.instr)).length < 27 ∧
    s.gust? c.who = some g ∧ s.squall? c.who.sq = some (T.qo 0) ∧ g.ref = c.who ∧ g.Undisturbed (T.qo 0) ∧ s.lateOverlay c = none := by
  refine ⟨?_, rfl, rfl, rfl, ?_, rfl, rfl, rfl, T.calm_of ?_ ⟨rfl, rfl⟩ rfl ⟨rfl, T.noCmd⟩ rfl, ?_⟩ <;> decide +kernel

/-- A gust without a gang that owns what it names, one that does not, and a member of a gang of two. -/
theorem wit_MatrixMultiplyForm : let s := T.st T.g (T.qo 0)
    s.Issuing T.g (T.qo 0) ∧ T.g.status = .running ∧ ((List.range 27).filter fun k => tritI T.g.gangMap.val k == 1).length ≤ 1 ∧
    ((T.qo 0).tile 1).owner = some T.g.ref.gust ∧
    (∀ o ∈ [0, 2, 3, 4], ((T.qo 0).slot o).owner = some T.g.ref.gust ∧ ((T.qo 0).slot o).fill = .ready) ∧
    (s.core 24).acceptQ = [] ∧ (s.core 24).matrixQ.length < 27 ∧
    (T.s.Issuing T.g T.q ∧ (T.q.tile 0).owner ≠ some T.g.ref.gust ∧ Claims.Handles T.g T.q) ∧
    (let g : Gust := { T.g with gangMap := Word.ofInt 4 }
     (T.st g T.q).Issuing g T.q ∧ 2 ≤ ((List.range 27).filter fun k => tritI g.gangMap.val k == 1).length ∧
     ∀ h ∈ (T.st g T.q).gustsOf g.ref.sq, h.status = .running) := by
  refine ⟨⟨rfl, rfl, rfl⟩, rfl, ?_, ?_, ?_, rfl, ?_, ⟨T.issuing, ?_, T.handles⟩, ⟨rfl, rfl, rfl⟩, ?_, ?_⟩ <;> decide +kernel

theorem wit_TileStoreForm : let s := T.st T.g (T.qo 0)
    s.Issuing T.g (T.qo 0) ∧ T.g.Undisturbed (T.qo 0) ∧ T.g.acts 0 = true ∧ ((T.qo 0).tile 1).owner = some T.g.ref.gust ∧
    (s.core 24).matrixQ = [] ∧ T.g.touched = [] := by
  refine ⟨⟨rfl, rfl, rfl⟩, T.calm_of ?_ ⟨rfl, rfl⟩ rfl ⟨rfl, T.noCmd⟩ rfl, ?_, ?_, rfl, rfl⟩ <;> decide +kernel

/-- RWAIT of scratchpad word 99 with no counter, and with a ready one. -/
theorem wit_CounterWaitForm : let k : Counter := { key := [4, 24, 1594323 + 99], scope := .dv, expected := 1, landed := 1, ready := true, ctx := 0 }
    let s : State := { T.s with counters := [k] }
    T.s.Issuing T.g T.q ∧ T.g.acts 0 = true ∧ T.g.fillFaults = [] ∧ T.s.ownWords T.g = [] ∧
    T.s.placeOf T.q T.g.priv .p ((T.g.s 9).val + 90) false = (.port 24 (1594323 + 99) (.scratch 99), T.s) ∧ T.s.counters = [] ∧
    s.Issuing T.g T.q ∧ s.placeOf T.q T.g.priv .p ((T.g.s 9).val + 90) false = (.port 24 (1594323 + 99) (.scratch 99), s) ∧
    (s.counters.find? fun x => x.key == [4, 24, 1594323 + 99] && x.ready) = some k ∧ ∀ h ∈ s.gusts, h.ref = T.g.ref := by
  refine ⟨T.issuing, ?_, rfl, rfl, ?_, rfl, ⟨rfl, rfl, rfl⟩, ?_, ?_, ?_⟩ <;> decide +kernel

/-- The head of the matrix queue as given. -/
def T.mx (c : Cmd) : State := T.on T.s { Core.init with matrixQ := [c] }

theorem wit_MatrixRuns : let z := T.cmd (.azero T.c 0 2) [] []
    let l := T.cmd (.ald T.c 1 0 0 .regs) [] (List.replicate 729 Word.ones)
    let m : MmaMember := { who := T.r0, tile := 1, a := 0, b := 4, batch := 1, early := false }
    let p : Cmd := { T.cmd (.mma T.c .i9 1 0 4 0) [] [] with members := [m] }
    let d : Cmd := { z with stage := .ran }
    24 < T.s.cores.length ∧ ((T.mx z).core 24).matrixQ = [z] ∧ ((T.mx l).core 24).matrixQ = [l] ∧ ((T.mx p).core 24).matrixQ = [p] ∧
    ((T.mx d).core 24).matrixQ = [d] ∧ z.core = 24 ∧ cmdQ z.instr = .matrix ∧ z.stage = .queued ∧ z.fillFault = none ∧
    (T.mx z).squall? z.who.sq = some T.q ∧ canonical Claims.zeroAt T.q.tileWords = true ∧ l.words.length = 729 ∧
    p.members = [m] ∧ m.early = false ∧ m.tile = 1 ∧ d.stage = .ran ∧ d.fault = none ∧ z.stage ≠ .ran := by
  refine ⟨?_, rfl, rfl, rfl, rfl, rfl, rfl, rfl, rfl, rfl, rfl, ?_, rfl, rfl, rfl, rfl, rfl, ?_⟩ <;> decide +kernel

def T.ud0 : Cmd := { T.cmd (.drain T.c 0 0 27 .p 0 .dv 0 none 0) [0, 27] [] with stage := .started }
def T.ur : Squall := { T.q with alloc := { T.alloc with scratch := 729 } }
def T.ud : State := T.on (T.st T.g T.ur) { Core.init with matrixQ := [T.ud0] }

theorem wit_FillAndDrainSteps : let c := T.cmd (.ofill T.c 4 0 0 .regs) [] (List.replicate 243 Word.ones)
    let q := { T.q with slots := List.replicate 5 { T.slot with count := 1, fill := .pending } }
    let s := T.on (T.st T.g q) { Core.init with fillQ := [c] }
    let d := T.ud0
    let r := T.ur
    let u := T.ud
    c.core = 24 ∧ s.squall? c.who.sq = some q ∧ (s.core 24).fillQ = [c] ∧ (s.core 24).matrixQ = [] ∧ c.words.length = 243 ∧
    (q.slot 4).count = 1 ∧ (q.slot 4).fault = none ∧ 4 < q.slots.length ∧ canonical Claims.zeroAt q.slotWords = true ∧
    u.squall? d.who.sq = some r ∧ (u.core 24).matrixQ = [d] ∧ d.stage = .started ∧ canonical Claims.zeroAt r.scratch = true ∧
    (∀ w, w < 729 → d.scal.getD 0 0 + 0 + Int.ofNat (w / 27) * d.scal.getD 1 0 + Int.ofNat (w % 27) = Int.ofNat w ∧
      w < r.alloc.scratch ∧ u.holderOf 24 Bases.scratch Alloc.scratch (r.bases.scratch + w) = some r) := by
  refine ⟨rfl, rfl, rfl, rfl, ?_, ?_, ?_, ?_, rfl, rfl, rfl, rfl, rfl, fun w hw => ⟨?_, hw, ?_⟩⟩
  · decide +kernel
  · decide +kernel
  · decide +kernel
  · decide +kernel
  · show (0 : Int) + 0 + Int.ofNat (w / 27) * 27 + Int.ofNat (w % 27) = Int.ofNat w
    simp only [Int.ofNat_eq_natCast]
    omega
  · exact (show ∀ w, w < 729 → T.ud.holderOf 24 Bases.scratch Alloc.scratch (T.ur.bases.scratch + w) = some T.ur by decide +kernel) w hw

/-- The squall of a gust whose slots are all its own, pending or faulted. -/
def T.qf (st : FillState) (f : Option CmdFault) : Squall :=
  { T.qo 0 with slots := List.replicate 5 { T.slot with owner := some 0, fill := st, fault := f } }

/-- A recorded fault of batch 1. -/
def T.cf : CmdFault := { batch := 1, words := T.s.mkRec T.g (-2) 33 0 (-1) 0, slot := none, serial := 3 }

/-- OFENCE of a run that is another's, of a pending one, and of a faulted one. -/
theorem wit_FillFenceForm : let h : Gust := { T.g with faults := [T.cf] }
    let q := T.qf .faulted (some T.cf)
    T.s.Issuing T.g T.q ∧ T.g.acts 0 = true ∧ (T.q.slot 4).owner ≠ some T.g.ref.gust ∧ Claims.Handles T.g T.q ∧
    ((T.st T.g (T.qf .pending none)).Issuing T.g (T.qf .pending none) ∧ ((T.qf .pending none).slot 4).owner = some T.g.ref.gust ∧
      ((T.qf .pending none).slot 4).fill = .pending) ∧
    ((T.st h q).Issuing h q ∧ (∀ j, j < 5 → (q.slot j).owner = some h.ref.gust ∧ (q.slot j).fill ≠ .pending) ∧
      (q.slot 0).fault = some T.cf ∧ 0 < q.slots.length ∧ Claims.Unreported (T.st h q) q T.cf ∧ Claims.Handles h q) := by
  refine ⟨T.issuing, ?_, ?_, T.handles, ⟨⟨rfl, rfl, rfl⟩, ?_, ?_⟩, ⟨rfl, rfl, rfl⟩, ?_, rfl, ?_,
    ⟨{ T.g with faults := [T.cf] }, ?_, T.cf, ?_, rfl⟩, rfl, T.handles.2⟩ <;> decide +kernel

/-- OFENCE of an owned run with nothing pending and nothing to report: without a fault, and with one that has been reported. -/
theorem wit_FillFenceCompletion : ∀ f ∈ [none, some T.cf], let q := T.qf .faulted f
    (T.st T.g q).Issuing T.g q ∧ T.g.acts 0 = true ∧ (∀ k, k < 5 → (q.slot k).owner = some T.g.ref.gust ∧ k < q.slots.length ∧
      (q.slot k).fill ≠ .pending) ∧ (¬ Claims.Unreported (T.st T.g q) q T.cf) ∧ ∀ x ∈ (T.st T.g q).squalls, x.q = q.q → x = q := by
  intro f hf
  refine ⟨⟨rfl, rfl, rfl⟩, by decide +kernel, ?_, fun ⟨h, hh, x, hx, _⟩ => ?_, fun x hx _ => List.mem_singleton.1 hx⟩
  · revert f
    decide +kernel
  · have h1 : h = T.g := List.mem_singleton.1 (List.mem_filter.1 hh).1
    subst h1
    cases hx

/-- The head of the copy queue as given. -/
def T.cp (c : Cmd) : State := T.on T.s { Core.init with copyQ := [c], segs := some ⟨7, 0, 9, 0, true, false, 0, 0, 0⟩ :: List.replicate 26 none }

/-- Slot q0 agrees with guard −1, disagrees with +1 and is open for 2; an overlay that slot q0 discards; a copy of ten words, and one whose
first words have landed; an overlay that has run. -/
theorem wit_EngineSteps : let c := fun (h : Int) => T.cmd (.cpy T.c 0 .p .p 1 2 3 h) [10, 0, 90, 0] []
    let q := { T.q with guards := .minus :: List.replicate 26 .zero }
    let s := { T.cp (c 1) with squalls := [q] }
    let o : Cmd := { T.cmd (.ovl T.c 0 0 0 0 0) [] [] with stage := .ran }
    let k : Cmd := { c 0 with decoded := true, raw := List.replicate 10 Word.ones, order := List.range 10, pos := 3 }
    24 < T.s.cores.length ∧ ((T.cp (c 0)).core 24).copyQ = [c 0] ∧ (c 0).core = 24 ∧ cmdQ (c 0).instr = .copy ∧
    (T.cp (c 0)).squall? (c 0).who.sq = some T.q ∧ (c 0).stage = .queued ∧ cmdGuard (c 0).instr = 0 ∧ cmdGuard (c 2).instr ≠ 0 ∧
    (∀ b ∈ T.s.squalls, b.core = 24 → b.migration = none) ∧ (T.q.guards.getD ((cmdGuard (c 2).instr).natAbs - 1) .zero).val = 0 ∧
    (s.squall? (c 1).who.sq = some q ∧ (q.guards.getD ((cmdGuard (c 1).instr).natAbs - 1) .zero).val ≠ 0 ∧
      (q.guards.getD ((cmdGuard (c 1).instr).natAbs - 1) .zero).val ≠ sgnI (cmdGuard (c 1).instr) ∧
      (q.guards.getD ((cmdGuard (c (-1)).instr).natAbs - 1) .zero).val = sgnI (cmdGuard (c (-1)).instr) ∧
      cmdGuard (.ovl T.c 0 0 0 0 1) = 1) ∧
    (0 + 10 ≤ 90 ∧ 90 + 10 ≤ T.q.alloc.scratch ∧ canonical Claims.zeroAt T.q.scratch = true ∧
      ∀ i, i < 100 → (T.cp (c 0)).holderOf 24 Bases.scratch Alloc.scratch (T.q.bases.scratch + i) = some T.q) ∧
    (k.decoded = true ∧ k.raw.length = 10 ∧ k.pos < 10 ∧ k.order.Perm (List.range 10)) ∧
    (((T.cp o).core 24).copyQ = [o] ∧ o.stage = .ran ∧ o.fault = none ∧ 0 < ((T.cp o).core 24).segs.length) := by
  refine ⟨?_, rfl, rfl, rfl, rfl, rfl, rfl, ?_, ?_, ?_, ⟨rfl, ?_, ?_, ?_, rfl⟩, ⟨?_, ?_, rfl, ?_⟩, ⟨rfl, ?_, ?_, List.Perm.refl _⟩,
    rfl, rfl, rfl, ?_⟩ <;> decide +kernel

/-- A ring of 27 words at 50 with its counts at 0, one word left to write, with room and without. -/
theorem wit_ThawRingStep : let c : Cmd := { T.cmd (.thaw T.c .bw .ring 0 1 2 0 0) [45, 0, 0, 0, 50, 27] [Word.zero] with
        stage := .started, decoded := true, pos := 2, raw := [Word.zero, Word.zero, Word.ones] }
    let f : Cmd := { c with p0 := 25 }
    let at_ := fun (c : Cmd) => T.on T.s { Core.init with codecQ := [c] }
    ((at_ c).core 24).codecQ = [c] ∧ c.core = 24 ∧ (at_ c).squall? c.who.sq = some T.q ∧ T.q.core = 24 ∧ c.fault = none ∧
    c.fillFault = none ∧ c.raw.length = c.pos + 1 ∧ c.raw[c.pos]? = some Word.ones ∧ Int.ofNat 50 + 27 ≤ Int.ofNat T.q.alloc.scratch ∧
    0 + 4 ≤ 50 ∧ c.p0 + Int.ofNat c.pos - (readAt Claims.zeroAt T.q.scratch 2).val < 27 ∧
    27 ≤ f.p0 + Int.ofNat f.pos - (readAt Claims.zeroAt T.q.scratch 2).val ∧
    ∀ i, i < 100 → (at_ c).holderOf 24 Bases.scratch Alloc.scratch (T.q.bases.scratch + i) = some T.q := by
  refine ⟨rfl, rfl, rfl, rfl, rfl, rfl, rfl, rfl, ?_, ?_, ?_, ?_, ?_⟩ <;> decide +kernel

/-- Storage from byte `a` on that holds `n` bytes of lines of zeros. -/
def T.store : Nat → Nat → List Host.Cell
  | _, 0 => []
  | a, n + 1 => (a, BitVec.ofNat 8 (zeroLineByte (a % 256))) :: T.store (a + 1) n

theorem T.store_read (n : Nat) : ∀ a i : Nat, a ≤ i → i < a + n →
    (readAt Config.storageByte (T.store a n) i).toNat = zeroLineByte (i % 256) % 256 := by
  induction n with
  | zero => intro a i h1 h2; omega
  | succ n ih =>
    intro a i h1 h2
    by_cases h : a = i
    · subst h
      simp [T.store, readAt, lookupAt]
    · have := ih (a + 1) i (by omega) (by omega)
      simpa [T.store, readAt, lookupAt, h] using this

/-- A context-paging record at physical word 0 of a page of 27 lines, without copies of its entry, and its page on storage. -/
def T.record : List Int := [-9 * 3 ^ 21 + 3 ^ 18, 1, 0, 14, 27, 0, 0, 0, 0]
def T.paged (c : Cmd) (ok : Int) : State :=
  { T.s with paging := [c], boot := { T.s.boot with controllers := [0] },
             homes := [{ T.home 0 with words := (List.range 45).map fun w => Word.ofInt (T.record.getD w 0 + (if w = 8 then ok else 0)) }],
             flash := [(0, 1, T.store 0 7168)] }

def T.pgc : Cmd := { T.cmd (.pgin T.c 0 0) [0] [] with stage := .started }
def T.pgo : Cmd := { T.cmd (.pgout T.c 0 0) [0] [] with stage := .started, decoded := true }
def T.prec : PageRec := { block := false, lba := 512, k := 3, copies := 1, ctrl := 0, ns := 1, first := 0, stored := 14, line := 27, pte := 0 }

/-- A line of zeros. -/
def T.zeroLine : List Nat := (List.range 256).map fun b => zeroLineByte b % 256

/-- The page on storage is 27 lines of zeros. -/
theorem T.stored (s : State) (h : s.flash = [(0, 1, T.store 0 7168)]) :
    pageLines T.prec (s.flashRead 0 1 (0 * 512) (14 * 512)) = .ok (List.replicate 27 T.zeroLine) := by
  have hr : s.flashRead 0 1 (0 * 512) (14 * 512) = (List.range 7168).map fun i => zeroLineByte (i % 256) % 256 := by
    unfold State.flashRead State.flashCells
    rw [h]
    refine List.map_congr_left fun i hi => ?_
    have := T.store_read 7168 0 (0 * 512 + i) (Nat.zero_le _) (by have := List.mem_range.1 hi; omega)
    simpa using this
  have hl : ∀ i, i < 27 → (((List.range 7168).map fun i => zeroLineByte (i % 256) % 256).drop (256 * i)).take 256 = T.zeroLine := by
    intro i hi
    refine List.ext_getElem (by simp [T.zeroLine]; omega) fun j h1 h2 => ?_
    have hj : j < 256 := by simpa [T.zeroLine] using h2
    simp [T.zeroLine, Nat.add_mod, Nat.mod_eq_of_lt hj]
  have hm : ((List.range (3 ^ 3)).map fun i =>
      (((List.range 7168).map fun i => zeroLineByte (i % 256) % 256).drop (256 * i)).take 256) = List.replicate 27 T.zeroLine := by
    refine List.ext_getElem (by simp) fun j h1 h2 => ?_
    have hj : j < 27 := by simpa using h2
    simp only [List.getElem_map, List.getElem_range, List.getElem_replicate]
    exact hl j hj
  unfold pageLines
  simp only [hr, show T.prec.block = false from rfl, show T.prec.k = 3 from rfl, Bool.not_false, if_true, hm]
  rw [if_neg]
  intro h
  obtain ⟨x, hx, hb⟩ := List.any_eq_true.1 h
  rw [List.eq_of_mem_replicate hx] at hb
  revert hb
  decide +kernel

theorem T.okOf {ε α : Type} {x : Except ε α} (h : x.isOk = true) : ∃ b, x = .ok b := by
  cases x with
  | error _ => cases h
  | ok b => exact ⟨b, rfl⟩

/-- An answer is one that `f` reads as `p`. -/
def T.okIs {σ ε α β : Type} [DecidableEq β] (r : Except ε α × σ) (f : α → β) (p : β) : Bool :=
  match r.1 with
  | .ok ws => decide (f ws = p)
  | .error _ => false

theorem T.recOf {σ ε α β : Type} [DecidableEq β] (r : Except ε α × σ) (f : α → β) (p : β) (h : T.okIs r f p = true) :
    ∃ ws, r = (.ok ws, r.2) ∧ f ws = p := by
  obtain ⟨x, t⟩ := r
  cases x with
  | error _ => cases h
  | ok ws => exact ⟨ws, rfl, of_decide_eq_true h⟩

theorem T.pageWords (c : Cmd) (ok : Int) (p : Option PageRec)
    (h : T.okIs ((T.paged c ok).physRead c (recAddrs 0)) pageRecOf p = true) :
    ∃ ws, (T.paged c ok).physRead c (recAddrs 0) = (.ok ws, ((T.paged c ok).physRead c (recAddrs 0)).2) ∧ pageRecOf ws = p :=
  T.recOf _ pageRecOf p h

/-- A page-in of a good record, and a page-out whose entries have turned absent. -/
theorem wit_PagingCompletion :
    (let s := T.paged T.pgc 0
     ∃ ws t ls, Claims.Paging s 0 T.pgc ∧ T.pgc.instr = .pgin T.c 0 0 ∧ s.physRead T.pgc (recAddrs 0) = (.ok ws, t) ∧
      pageRecOf ws = some T.prec ∧ t.ptesAt T.pgc T.prec.ptes = (.ok [], t) ∧ t.physWrite T.pgc [] = (.ok (), t) ∧
      T.prec.ctrl ∈ t.boot.controllers ∧
      pageLines T.prec (t.flashRead T.prec.ctrl T.prec.ns (T.prec.first * T.prec.lba) (T.prec.stored * T.prec.lba)) = .ok ls ∧
      ∃ w, (t.each (List.zip (List.range ls.length) ls) fun v e => v.setLineBytes 9 (.dev (T.prec.line + e.1)) e.2).physWrite T.pgc
        (Claims.entryWrites T.prec [] T.prec.line presentWord) = (.ok (), w)) ∧
    (let s := T.paged T.pgo 0
     ∃ ws t, Claims.Paging s 0 T.pgo ∧ T.pgo.instr = .pgout T.c 0 0 ∧ s.physRead T.pgo (recAddrs 0) = (.ok ws, t) ∧
      pageRecOf ws = some T.prec ∧ T.pgo.decoded = true ∧ T.pgo.p0 ≤ Int.ofNat t.ptime ∧ T.prec.ctrl ∈ t.boot.controllers ∧
      ∃ bytes, ((t.each ((List.range (3 ^ T.prec.k)).map (· + T.prec.line)) fun u l =>
        u.each (List.range 9) fun u k => u.publish 99 l k).pageBytes T.prec).1 = .ok bytes) := by
  obtain ⟨ws, h, hp⟩ := T.pageWords T.pgc 0 (some T.prec) (by decide +kernel)
  obtain ⟨us, i, ip⟩ := T.pageWords T.pgo 0 (some T.prec) (by decide +kernel)
  have hl := T.stored ((T.paged T.pgc 0).physRead T.pgc (recAddrs 0)).2 rfl
  refine ⟨⟨ws, _, _, ⟨rfl, rfl, rfl, rfl⟩, rfl, h, hp, ?_, ?_, ?_, hl, ?_⟩, us, _, ⟨rfl, rfl, rfl, rfl⟩, rfl, i, ip,
    rfl, ?_, ?_, T.okOf ?_⟩
  · rfl
  · rfl
  · decide +kernel
  · exact ⟨_, rfl⟩
  · decide +kernel
  · decide +kernel
  · decide +kernel

theorem wit_PagingFaults : Claims.Paging (T.paged T.pgc 1) 0 T.pgc ∧ T.pgc.pageWait = none ∧
    (∃ ws t, (T.paged T.pgc 1).physRead T.pgc (recAddrs 0) = (.ok ws, t) ∧ pageRecOf ws = none) ∧
    (∃ v, (T.paged T.pgc 0).physWrite T.pgc [(6, Word.ofInt 2), (7, (T.paged T.pgc 0).ptimeLow)] = (.ok (), v)) := by
  obtain ⟨vs, k, kp⟩ := T.pageWords T.pgc 1 none (by decide +kernel)
  exact ⟨⟨rfl, rfl, rfl, rfl⟩, rfl, ⟨vs, _, k, kp⟩, _, rfl⟩

theorem wit_BatchForms : T.s.Issuing T.g T.q ∧ T.g.acts 0 = true ∧ Claims.Handles T.g T.q ∧ T.g.bnum ≠ 3812798742492 ∧
    T.g.bnum < T.g.doneUpto + 27 ∧
    (let g : Gust := { T.g with bnum := 27 }
     (T.st g T.q).Issuing g T.q ∧ g.doneUpto + 27 ≤ g.bnum ∧ (27 : Int) ≤ Int.ofNat g.bnum ∧ Int.ofNat g.doneUpto < 27 ∧
     g.doneUpto < g.bnum ∧ (T.st g T.q).gust? g.ref = some g ∧ (T.st g T.q).allCmds = [] ∧
     (let c : Cmd := { T.cmd (.cpy T.c 0 .p .p 0 0 0 0) [] [] with id := 9 }
      let s := T.on (T.st g T.q) { Core.init with copyQ := [c] }
      ∃ k ∈ s.allCmds, k.record = none ∧ ∃ x ∈ k.refs, x.1 = g.ref ∧ x.2 ≤ g.doneUpto + 1)) ∧
    (let g : Gust := { T.g with bnum := 3812798742492 }
     (T.st g T.q).Issuing g T.q ∧ Claims.Handles g T.q) ∧
    (let g : Gust := { T.g with bnum := 2, doneUpto := 2 }
     (T.st g T.q).Issuing g T.q ∧ 0 < (2 : Int) ∧ 2 ≤ Int.ofNat g.bnum ∧ 2 ≤ Int.ofNat g.doneUpto ∧ g.faults = [] ∧ g.lost = 0) ∧
    (let g : Gust := { T.g with bnum := 2, doneUpto := 2, faults := [T.cf] }
     (T.st g T.q).Issuing g T.q ∧ Claims.Handles g T.q ∧ g.faults = [T.cf] ∧ Int.ofNat T.cf.batch ≤ 2) := by
  refine ⟨T.issuing, ?_, T.handles, ?_, ?_, ⟨⟨rfl, rfl, rfl⟩, ?_, ?_, ?_, ?_, rfl, ?_, ?_⟩, ⟨⟨rfl, rfl, rfl⟩, rfl, T.handles.2⟩,
    ⟨⟨rfl, rfl, rfl⟩, ?_, ?_, ?_, rfl, rfl⟩, ⟨rfl, rfl, rfl⟩, ⟨rfl, T.handles.2⟩, rfl, ?_⟩ <;> decide +kernel

theorem wit_GuardSlotForms : T.s.Issuing T.g T.q ∧ T.g.acts 0 = true ∧ (T.q.guards.getD 26 .zero).val ≠ -1 ∧ T.g.quiet = true ∧
    T.g.status = .running ∧ T.s.queued 24 = [] ∧
    (let g : Gust := { T.g with unacked := 1 }
     (T.st g T.q).Issuing g T.q ∧ g.quiet = false) ∧
    (let q := { T.q with guards := List.replicate 27 .minus }
     (T.st T.g q).Issuing T.g q ∧ (q.guards.getD 26 .zero).val = -1 ∧ Claims.Handles T.g q) ∧
    (let s := T.cp (T.cmd (.cpy T.c 0 .p .p 1 2 3 (-27)) [] [])
     s.Issuing T.g T.q ∧ ((s.queued T.q.core).filter fun x => x.who.sq == T.q.q && x.stage == .queued &&
       (cmdGuard x.instr).natAbs == 26 + 1) ≠ []) := by
  refine ⟨T.issuing, ?_, ?_, rfl, rfl, ?_, ⟨⟨rfl, rfl, rfl⟩, rfl⟩, ⟨⟨rfl, rfl, rfl⟩, ?_, rfl, T.handles.2⟩, ⟨rfl, rfl, rfl⟩, ?_⟩ <;>
    decide +kernel

/-! ## Witnesses: fronts, migration, scheduling -/

/-- A home line whose first words are given. -/
def T.hl (p : Nat) (ws : List Int) : HomeLine :=
  { line := p, words := (List.range 45).map (fun w => Word.ofInt (ws.getD w 0)), holders := [], noted := [], prio := 0, used := 0 }

/-- A page table of context 0: virtual lines 0 to 3^18 - 1 are the same lines of HBM4. -/
def T.tables : List HomeLine :=
  [T.hl 0 [3 * 3 ^ 25, 54], T.hl 1 (List.replicate 9 0 ++ [3 ^ 25 + 6 * 3 ^ 22 + 3 ^ 18, 0])]

/-- The front record of `T.rspec`, one squall of images 7 and 8. -/
def T.recordWords : List Int :=
  [3 ^ 22 + 3 ^ 18, 7, 8, 12 * 3 ^ 18 + 78 * 3 ^ 13 + 27 * 3 ^ 9 + 27 * 3 ^ 5, 100, 2 * 3 ^ 18 + 5 * 3 ^ 13 + 2 * 3 ^ 4, 1, 1, 1, 0, 1] ++
    List.replicate 17 0 ++ [1, 0, -1]
def T.rspec : FrontRec := { T.spec with ranges := (0, 1) :: List.replicate 8 (0, 0), save := 1 }
def T.images : List Image := [{ num := 7, ctx := 0, isD := false, priv := true, dir := 0 },
  { num := 8, ctx := 0, isD := true, priv := true, dir := 0 }]

/-- The machine with the table, the images, the record at 90, and the words given from 135 on. -/
def T.sys (s : State) (ws : List Int) : State :=
  { s with homes := T.tables ++ [T.hl 2 T.recordWords, T.hl 3 ws], images := T.images }

/-- An access answers words that `f` reads as `p`. -/
def T.okTo {σ α β : Type} [DecidableEq β] (r : SysAns α × σ) (f : α → β) (p : β) : Bool :=
  match r.1 with
  | .ok ws => decide (f ws = p)
  | _ => false

theorem T.ansOf {σ α β : Type} [DecidableEq β] (r : SysAns α × σ) (f : α → β) (p : β) (h : T.okTo r f p = true) :
    ∃ ws, r = (.ok ws, r.2) ∧ f ws = p := by
  obtain ⟨x, t⟩ := r
  cases x with
  | ok ws => exact ⟨ws, rfl, of_decide_eq_true h⟩
  | _ => cases h

theorem T.recordAt (s : State) (h : (T.okTo (s.sysReads 0 90 45) parseRec (some T.rspec) && (s.sysReads 0 90 45).2.recOk 0 T.rspec) = true) : Claims.Record s 0 90 T.rspec (s.sysReads 0 90 45).2 := by
  rw [Bool.and_eq_true] at h
  obtain ⟨ws, h1, h2⟩ := T.ansOf (s.sysReads 0 90 45) parseRec (some T.rspec) h.1
  exact ⟨by decide, by decide, ws, h1, h2, h.2⟩

theorem wit_LaunchForms : let a := { T.g with ref := ⟨1, 0, 1⟩ }
    let b := { T.g with unacked := 1 }
    let r := { T.g with reply := [(2, Word.ofNat 90)] }
    let f := { T.front with depth := 12 }
    let many := { T.st r T.q with fronts := List.replicate 19683 T.front }
    let s := T.sys (T.st r T.q) []
    (T.s.Issuing T.g T.q ∧ T.g.acts 0 = true ∧ T.g.ref.gust = 0 ∧ T.g.quiet = true) ∧
    ((T.st a T.q).Issuing a T.q ∧ a.acts 0 = true ∧ a.ref.gust ≠ 0 ∧ Claims.Handles a T.q) ∧
    ((T.st b T.q).Issuing b T.q ∧ b.quiet = false) ∧
    (let u := { T.st r T.q with fronts := [f] }
     u.gust? r.ref = some r ∧ u.front? r.ref.front = some f ∧ f.depth = 12) ∧
    (many.gust? r.ref = some r ∧ many.front? r.ref.front = some T.front ∧ Config.maxFronts ≤ many.fronts.length) ∧
    s.gust? r.ref = some r ∧ s.front? r.ref.front = some T.front ∧ T.front.depth ≠ 12 ∧ s.fronts.length < Config.maxFronts ∧
    s.pageAway 0 90 = false ∧ ∃ v, Claims.Record s 0 90 T.rspec v := by
  refine ⟨⟨T.issuing, ?_, rfl, rfl⟩, ⟨⟨rfl, rfl, rfl⟩, ?_, ?_, T.handles⟩, ⟨⟨rfl, rfl, rfl⟩, rfl⟩, ⟨rfl, rfl, rfl⟩, ⟨rfl, rfl, ?_⟩,
    rfl, rfl, ?_, ?_, ?_, _, T.recordAt _ ?_⟩
  · decide +kernel
  · decide +kernel
  · decide
  · show 19683 ≤ (List.replicate 19683 T.front).length
    rw [List.length_replicate]
  · decide
  · decide +kernel
  · decide +kernel
  · decide +kernel

/-- Front 1 issues; front 3 is live, front 2 has retired and front 5 is no front's. -/
def T.two : State := { T.s with fronts := [T.front, { T.front with num := 3 }], nextFront := 5 }

theorem wit_FrontQueries :
    (T.two.Issuing T.g T.q ∧ T.g.acts 0 = true ∧ Claims.Handles T.g T.q) ∧
    (0 < (T.g.s 1).val ∧ (T.g.s 1).val.toNat ∈ T.two.lineage 12 T.g.ref.front) ∧
    (¬ (0 < (T.g.s 3).val ∧ (T.g.s 3).val.toNat ∈ T.two.lineage 12 T.g.ref.front) ∧
      T.two.liveFront T.q.ctx (T.g.s 3).val = some { T.front with num := 3 }) ∧
    (¬ (0 < (T.g.s 2).val ∧ (T.g.s 2).val.toNat ∈ T.two.lineage 12 T.g.ref.front) ∧ T.two.liveFront T.q.ctx (T.g.s 2).val = none ∧
      0 < (T.g.s 2).val ∧ (T.g.s 2).val < Int.ofNat T.two.nextFront ∧ T.two.liveFront T.q.ctx (T.g.s 5).val = none ∧
      Int.ofNat T.two.nextFront ≤ (T.g.s 5).val ∧ (T.g.s 0).val = 0 ∧ T.two.liveFront T.q.ctx 0 = none ∧
      T.two.liveFront T.q.ctx (Int.ofNat T.g.ref.front) = some T.front ∧ T.front.depth ≤ 12) ∧
    ((1 : Int) < (T.g.s 2).val ∧ T.two.front? T.g.ref.front = some T.front ∧ ∀ k ∈ T.two.fronts, k.num = T.front.num → k = T.front) ∧
    0 < T.two.dies.length := by
  refine ⟨⟨⟨rfl, rfl, rfl⟩, ?_, T.handles⟩, ⟨?_, ?_⟩, ⟨?_, ?_⟩, ⟨?_, ?_, ?_, ?_, ?_, ?_, ?_, ?_, ?_, ?_⟩, ⟨?_, rfl, ?_⟩, ?_⟩ <;> decide +kernel

/-- After bring-up, with the launch list of context 0 at 135 and `w` its first word. -/
def T.list (w : Int) : State :=
  { T.sys T.s [0, w] with boot := { T.s.boot with bootst := 2 },
                          contexts := { Context.init with xlist := Word.ofNat 135 } :: List.replicate 26 Context.init }

/-- The states between the reads and the translations of a launch. -/
def T.list1 (w : Int) : State := ((T.list w).sysRead 0 135).2
def T.list2 (w : Int) : State := ((T.list1 w).sysRead 0 136).2
def T.list3 (w : Int) : State := ((T.list2 w).sysTranslate 0 136 true).2
def T.list4 (w : Int) : State := ((T.list3 w).sysTranslate 0 135 true).2

/-- A word of the launch list at 135 that is zero, and one that names the record at 90. -/
theorem wit_LaunchList :
    ∀ w ∈ [(0 : Int), 90], let s := T.list w
      s.stopped = false ∧ s.boot.bootst = 2 ∧ s.boot.power ≠ .d3hot ∧ (s.context 0).xlist.val = 135 ∧
      (∃ p1 p2, s.sysRead 0 135 = (.ok Word.zero, T.list1 w) ∧ (T.list1 w).sysRead 0 136 = (.ok (Word.ofInt w), T.list2 w) ∧
        (T.list2 w).sysTranslate 0 136 true = (.ok p1, T.list3 w) ∧ (T.list3 w).sysTranslate 0 135 true = (.ok p2, T.list4 w) ∧
        (T.list4 w).fronts.length < Config.maxFronts ∧ ∃ v, Claims.Record (T.list4 w) 0 90 T.rspec v) := by
  intro w hw
  have h : ∀ w ∈ [(0 : Int), 90], ((T.list w).context 0).xlist.val = 135 ∧ ((T.list w).sysRead 0 135).1 = .ok Word.zero ∧
      ((T.list1 w).sysRead 0 136).1 = .ok (Word.ofInt w) ∧ ((T.list2 w).sysTranslate 0 136 true).1 = .ok ⟨.dev 3, 1⟩ ∧
      ((T.list3 w).sysTranslate 0 135 true).1 = .ok ⟨.dev 3, 0⟩ ∧ (T.list4 w).fronts.length < Config.maxFronts ∧
      (T.okTo ((T.list4 w).sysReads 0 90 45) parseRec (some T.rspec) && ((T.list4 w).sysReads 0 90 45).2.recOk 0 T.rspec) = true := by
    decide +kernel
  obtain ⟨h1, h2, h3, h4, h5, h6, h7⟩ := h w hw
  exact ⟨rfl, rfl, by show Power.d0 ≠ Power.d3hot; decide, h1, _, _, Prod.ext h2 rfl, Prod.ext h3 rfl, Prod.ext h4 rfl,
    Prod.ext h5 rfl, h6, _, T.recordAt _ h7⟩

/-- Nodes: a launch, a join of two, a condition on the word at 136, and a second join. -/
def T.graph (st : List NodeSt) : Graph :=
  { id := 4, ctx := 0, nodes := [⟨1, 0, 90, [1]⟩, ⟨-1, 2, 0, [2]⟩, ⟨2, 0, 136, [0, 1, 3]⟩, ⟨-1, 1, 0, []⟩], st, done := 0, msix := -1, failed := 0, ending := none }
def T.idle : NodeSt := { arrivals := 0, ready := false, acting := false }
def T.rdy : NodeSt := { arrivals := 0, ready := true, acting := false }
def T.graphs (st : List NodeSt) : State := { T.sys T.s [] with graphs := [T.graph st] }

theorem wit_GraphSteps :
    (let st := [T.rdy, T.idle, T.idle, T.idle]
     (T.graphs st).graph? 4 = some (T.graph st) ∧ (T.graph st).failed = 0 ∧ (∃ n, (T.graph st).nodes[0]? = some n ∧ n.ty = 1 ∧ n.arg = 90) ∧
     (T.graph st).st[0]? = some T.rdy ∧ T.rdy.ready = true ∧ (T.graphs st).fronts.length < Config.maxFronts ∧
     ∃ u, Claims.Record (T.graphs st) 0 90 T.rspec u ∧ 0 < u.nextFront) ∧
    (let st := [T.idle, T.rdy, T.idle, T.idle]
     (T.graphs st).graph? 4 = some (T.graph st) ∧ (∃ n, (T.graph st).nodes[1]? = some n ∧ n.ty = -1 ∧ n.succ = [Int.ofNat 2]) ∧
     ∃ m, (T.graph st).nodes[2]? = some m ∧ m.ty ≠ -1 ∧ (T.graph st).st[2]? = some T.idle) ∧
    (∀ y ∈ [T.idle, { T.idle with arrivals := 1 }, T.rdy], let st := [T.idle, y, T.rdy, T.idle]
     (T.graphs st).graph? 4 = some (T.graph st) ∧ ∃ n m, (T.graph st).nodes[2]? = some n ∧ n.ty ∈ [2, 3, 4] ∧
       (T.graph st).st[2]? = some T.rdy ∧ (∃ v u, (T.graphs st).sysRead 0 n.arg = (.ok v, u) ∧ u.graph? 4 = some (T.graph st) ∧
         n.succ.getD (Claims.condition n.ty v.val) (-1) = Int.ofNat 1) ∧ (T.graph st).nodes[1]? = some m ∧ m.ty = -1 ∧
       (T.graph st).st[1]? = some y ∧ (y.arrivals + 1 < m.need ∨ m.need ≤ y.arrivals + 1 ∨ y.ready = true)) ∧
    (let st := [T.idle, T.idle]
     (T.graphs st).graph? 4 = some (T.graph st) ∧ (∀ z ∈ (T.graph st).st, z.ready = false ∧ z.acting = false) ∧
       (T.graphs st).graphFronts 4 = false) := by
  refine ⟨⟨rfl, rfl, ⟨_, rfl, rfl, rfl⟩, rfl, rfl, ?_, _, T.recordAt _ ?_, ?_⟩, ⟨rfl, ⟨_, rfl, rfl, rfl⟩, _, rfl, ?_, rfl⟩, ?_, rfl, ?_, ?_⟩
  · decide
  · decide +kernel
  · decide +kernel
  · decide
  · intro y hy
    have h : ∀ y ∈ [T.idle, { T.idle with arrivals := 1 }, T.rdy], let s := T.graphs [T.idle, y, T.rdy, T.idle]
        (s.sysRead 0 136).1 = .ok Word.zero ∧ (s.sysRead 0 136).2.graph? 4 = some (T.graph [T.idle, y, T.rdy, T.idle]) := by decide +kernel
    refine ⟨rfl, _, _, rfl, by decide, rfl, ⟨_, _, Prod.ext (h y hy).1 rfl, (h y hy).2, by decide +kernel⟩, rfl, rfl, rfl, ?_⟩
    by_cases k : y.arrivals + 1 < 2
    · exact .inl k
    · exact .inr (.inl (Nat.not_lt.1 k))
  · decide
  · decide +kernel

/-- A graph with nothing ready or acting, and one that has failed with a node ready and none acting. -/
theorem wit_GraphCompletes :
    (let st := [T.idle, T.idle]
     (T.graphs st).graph? 4 = some (T.graph st) ∧ (∀ z ∈ (T.graph st).st, z.acting = false ∧ ((T.graph st).failed = 0 → z.ready = false)) ∧
       (T.graphs st).graphFronts 4 = false ∧ ∀ k ∈ (T.graphs st).graphs, k.id = 4 → k = T.graph st) ∧
    (let g := { T.graph [T.rdy] with failed := -2, done := 136 }
     let s := { T.sys T.s [] with graphs := [g] }
     s.graph? 4 = some g ∧ (∀ z ∈ g.st, z.acting = false ∧ (g.failed = 0 → z.ready = false)) ∧ s.graphFronts 4 = false ∧
       (∀ k ∈ s.graphs, k.id = 4 → k = g) ∧ g.done ≠ 0) := by
  refine ⟨⟨rfl, ?_, ?_, ?_⟩, rfl, ?_, ?_, ?_, ?_⟩ <;> decide +kernel

/-- Two gusts of core 24 that can issue, of class N and, by the bind record of front 2, of class B. -/
def T.q2 : Squall := { T.q with q := ⟨2, 0⟩ }
def T.g2 : Gust := { T.g with ref := ⟨2, 0, 0⟩, age := 1 }
def T.mixed (n b : Nat) : State :=
  T.on { T.s with gusts := [T.g, T.g2], squalls := [T.q, T.q2], fronts := [T.front, { T.front with num := 2, prio := .minus }],
                  dies := T.s.dies.set 0 { Die.init with bindRecs := [⟨0, 2, .minus, .zero, Word.ones, 0, 1⟩] } }
    { Core.init with waitN := n, waitB := b }

theorem wit_IssueChoice : 24 < (T.mixed 8 25).cores.length ∧ (∀ g k, ¬ Claims.Ready T.s 0 k g) ∧
    ∀ n b, ((T.mixed n b).core 24).waitN = n ∧ ((T.mixed n b).core 24).waitB = b ∧
      Claims.Ready (T.mixed n b) 24 .zero T.g ∧ Claims.Ready (T.mixed n b) 24 .minus T.g2 := by
  refine ⟨by decide +kernel, ?_, fun n b => ⟨rfl, rfl, ⟨.head _, T.q, rfl, rfl, rfl, rfl⟩, ⟨.tail _ (.head _), T.q2, rfl, rfl, rfl, rfl⟩⟩⟩
  rintro g k ⟨hg, q, hq, hc, -⟩
  rw [List.mem_singleton.1 hg] at hq
  cases hq
  exact absurd hc (by decide)

/-- The gust has exited; with a second gust of its squall, alone, and with a latch. -/
theorem wit_GustRetire : let g := { T.g with status := .retiring }
    let h := { T.g with ref := ⟨1, 0, 1⟩ }
    let s := { T.st g T.q with gusts := [g, h] }
    let l := { T.st g T.q with heads := [{ line := 3, holders := [⟨g.ref, 0, 0, 1⟩], entries := [], runN := 0, runB := 0, suspect := [] }] }
    g.status = .retiring ∧ g.halted = false ∧ g.quiet = true ∧ g.reply = [] ∧ g.faults = [] ∧ g.lost = 0 ∧ Claims.Handles g T.q ∧
    (s.gust? g.ref = some g ∧ s.squall? g.ref.sq = some T.q ∧ s.cmdPending g.ref (g.bnum + 1) = false ∧ s.latchesOf g.ref = [] ∧
      s.allCmds = [] ∧
      (∀ k ∈ s.gustsOf g.ref.sq, k.ref ≠ g.ref → k.status = .running) ∧ (∃ k ∈ s.gustsOf g.ref.sq, k.ref ≠ g.ref) ∧
      (s.core T.q.core).matrixQ = [] ∧ 0 < T.q.tiles.length ∧ 0 < T.q.alloc.tiles ∧ 0 < T.q.slots.length ∧ 0 < T.q.alloc.slots ∧
      (T.q.slot 0).fill ≠ .pending ∧ (T.q.slot 0).releasing = false ∧ (T.q.tile 0).releasing = false ∧
      ((T.qo 0).tile 0).owner = some 0 ∧ ((T.qo 0).slot 0).owner = some 0 ∧ ((T.qo 0).slot 0).fill ≠ .pending) ∧
    ((T.st g T.q).gustsOf g.ref.sq = [g] ∧ (T.st g T.q).latchesOf g.ref = []) ∧
    (l.gust? g.ref = some g ∧ l.latchesOf g.ref ≠ [] ∧ l.cmdPending g.ref (g.bnum + 1) = false) := by
  refine ⟨rfl, rfl, rfl, rfl, rfl, rfl, T.handles, ⟨rfl, rfl, ?_, ?_, ?_, ?_, ⟨_, .tail _ (.head _), ?_⟩, rfl, ?_, ?_, ?_, ?_, ?_, ?_, ?_,
    rfl, rfl, ?_⟩, ⟨rfl, ?_⟩, rfl, ?_, ?_⟩
  all_goals decide +kernel

/-- A bind record of front 1 on die 0 that lets every core take its squalls, and what its distributor holds. -/
def T.bind : BindRec := { place := 0, front := 1, prio := .zero, policy := .zero, coreSet := Word.ones, quantum := 0, save := 1 }
def T.dist : Dist := { front := 1, subs := (List.range 27).map fun k => (k, 0, 0), pool := (0, 1) }
def T.plan : State :=
  { State.reset with fronts := [{ T.front with spec := T.rspec, sent := [0] }], nextFront := 2, images := T.images,
                     dies := State.reset.dies.set 0 { Die.init with bindRecs := [T.bind], dists := [T.dist] } }
def T.held : Held := { alloc := T.alloc, bases := { scratch := 0, tile := 0, slot := 0, bar := 0 }, slots := [0], vbases := [0] }

theorem wit_RangeDistribute : let s := { T.plan with fronts := [T.front] }
    s.front? 1 = some T.front ∧ s.bindRec? 0 1 = some T.bind ∧ 0 ∉ T.front.sent := by
  exact ⟨rfl, rfl, by decide +kernel⟩

theorem wit_BindRecordWrite : let x : BindChoice := { die := 0, front := 1, policy := .zero, coreSet := Word.ones, quantum := 1594323 }
    0 < T.s.dies.length ∧ T.s.front? x.front = some T.front ∧ (T.front.spec.ranges.getD x.die (0, 0)).2 ≠ 0 ∧
    T.s.bindRec? x.die x.front = none ∧ x.quantum ≤ 1594323 ∧ (∀ k, k < 27 → x.coreSet.tritAt k ≠ .minus) ∧
    (∃ p, p < 72 ∧ ∀ b ∈ (T.s.die x.die).bindRecs, b.place ≠ p) := by
  refine ⟨?_, ?_, ?_, ?_, ?_, ?_, 71, ?_, ?_⟩ <;> decide +kernel

theorem wit_SquallBind : T.plan.stopped = false ∧
    T.plan.bindPlan 1 24 = some ({ T.front with spec := T.rspec, sent := [0] }, 0, { T.dist with pool := (1, 0) }, T.held) ∧
    T.plan.bindFirst 24 ((T.plan.bindRec? (dieOf 24) 1).elim .zero (·.prio)) true = false ∧ T.plan.squall? ⟨1, 0⟩ = none ∧
    T.plan.gustsOf ⟨1, 0⟩ = [] ∧ T.plan.traceOn 0 = false ∧ T.rspec.alloc.s ≤ 78 := by
  refine ⟨rfl, ?_, ?_, rfl, rfl, ?_, ?_⟩ <;> decide +kernel

/-- R362: the record of a front that no core has taken a squall of, by the table. -/
theorem test_bind_record_words : (T.plan.bindRecWords 0 T.bind).map Word.val =
    [1, 3 ^ 24, 3812798742493, 0, 1, 0, 0, 1, 0] := by decide +kernel

theorem wit_FrontRetire : ∀ a ∈ [(0 : Int), 136], let f := { T.front with left := 0, spec := { T.front.spec with done := a } }
    let s := { T.s with fronts := [f] }
    s.front? f.num = some f ∧ (∀ k ∈ s.fronts, k.num = f.num → k = f) ∧ f.ending = none ∧ f.left = 0 ∧ s.childrenOf f.num = [] ∧
    f.by_ = .list :=
  fun _ _ => ⟨rfl, fun _ h _ => List.mem_singleton.1 h, rfl, rfl, rfl, rfl⟩

/-- A gust at MIGR 5, with its status to go to s3. -/
def T.gm : Gust := { T.g with status := .waiting 64 (.migr (.migr T.c 3 5)) }

theorem wit_MigrationForms : let a := T.gs [T.region]
    let b := { T.g with bnum := 1 }
    let o := { T.g with opened := true }
    let h := { T.g with ref := ⟨1, 0, 1⟩ }
    let k := { T.gm with ref := ⟨1, 0, 2⟩ }
    let s := { T.s with gusts := [T.g, h, k] }
    let u := { T.s with images := T.images, dies := T.s.dies.set 0 { Die.init with bindRecs := [T.bind] } }
    ((T.st a T.q).Issuing a T.q ∧ a.acts 0 = true ∧ a.stack ≠ [] ∧ Claims.Handles a T.q) ∧
    (T.s.Issuing T.g T.q ∧ T.g.acts 0 = true ∧ T.g.stack = [] ∧ T.g.Undisturbed T.q) ∧
    ((T.st b T.q).Issuing b T.q ∧ b.stack = [] ∧ b.doneUpto < b.bnum) ∧
    ((T.st o T.q).Issuing o T.q ∧ o.bnum ≤ o.doneUpto ∧ o.faults = [] ∧ o.lost = 0 ∧ o.opened = true ∧ Claims.Handles o T.q) ∧
    (s.Issuing T.g T.q ∧ T.g.opened = false ∧
      (∃ x ∈ s.gustsOf T.g.ref.sq, x.ref ≠ T.g.ref ∧ x.status ≠ .retired ∧ x.arrivedAt = none) ∧
      ∀ x ∈ s.gustsOf T.g.ref.sq, x.ref ≠ T.g.ref → ∀ y, x.arrivedAt = some y → y.2 = 5) ∧
    (u.Issuing T.g T.q ∧ u.gustsOf T.g.ref.sq = [T.g] ∧ T.q.migration = none ∧ T.q.shutter = none ∧ T.g.halted = false ∧
      u.traceOn T.q.ctx = false ∧ (∃ im, u.image? T.q.image = some im ∧ im.dir = 0) ∧ Claims.Bound u T.q T.front T.bind) := by
  refine ⟨⟨⟨rfl, rfl, rfl⟩, ?_, ?_, ⟨rfl, T.handles.2⟩⟩, ⟨T.issuing, ?_, rfl, T.calm⟩, ⟨⟨rfl, rfl, rfl⟩, rfl, ?_⟩,
    ⟨⟨rfl, rfl, rfl⟩, ?_, rfl, rfl, rfl, T.handles⟩, ⟨⟨rfl, rfl, rfl⟩, rfl, ⟨_, .tail _ (.head _), ?_, ?_, rfl⟩, ?_⟩,
    ⟨rfl, rfl, rfl⟩, rfl, rfl, rfl, rfl, ?_, ⟨_, rfl, rfl⟩, rfl, rfl⟩
  · decide +kernel
  · exact List.cons_ne_nil _ _
  · decide +kernel
  · decide +kernel
  · decide +kernel
  · decide +kernel
  · decide +kernel
  · intro x hx hne y hy
    have : x = { T.g with ref := ⟨1, 0, 1⟩ } ∨ x = { T.gm with ref := ⟨1, 0, 2⟩ } := by
      have := List.mem_of_mem_filter hx
      simp only [List.mem_cons, List.not_mem_nil, or_false] at this
      rcases this with rfl | h | h
      · exact absurd rfl hne
      · exact .inl h
      · exact .inr h
    rcases this with rfl | rfl
    · cases hy
    · cases hy; rfl
  · decide +kernel

/-- The squall before its transfer at point 5, and after it. -/
def T.mg (moved : Bool) : Migration :=
  { point := 5, target := 0, bases := { scratch := 0, tile := 0, slot := 0, bar := 0 }, slots := [4], vbases := [12], moved, table := [] }
def T.tableWords (e : Int) : List Word :=
  [5, 3 ^ 26, 6, 9, 1, 0, 3 ^ 9, 2 * 3 ^ 9, 0, e, 3 ^ 14 + 6].map Word.ofInt
def T.mgw (ws : List Word) : Migration := { T.mg true with table := ws }
def T.qmg (moved : Bool) : Squall := { T.q with migration := some (T.mg moved) }

/-- A directory of six points at 135, its fifth point's table at 180, whose header's first word and entry are given. -/
def T.tabled (w e : Int) : State :=
  { T.st T.gm (T.qmg false) with
      homes := T.tables ++ [T.hl 3 (6 :: List.replicate 22 0 ++ [180]),
        T.hl 4 [w, 3 ^ 26, 6, 9, 1, 0, 3 ^ 9, 2 * 3 ^ 9, 0, e, 3 ^ 14 + 6]],
      images := [{ num := 7, ctx := 0, isD := false, priv := true, dir := 135 }] }
def T.tab1 (w e : Int) : State := ((T.tabled w e).tableAddr (T.qmg false) 5).2
def T.tab2 (w e : Int) : State := ((T.tab1 w e).sysReads 0 180 9).2
def T.tab3 (w e : Int) : State := ((T.tab2 w e).sysReads 0 189 2).2

/-- The entry that moves v1 to v2, or s1 to s2. -/
def T.move (k : MapKind) : MapEntry := ⟨k, ⟨false, 1⟩, ⟨false, 2⟩⟩

/-- What the words of a table of one entry say to `q`. -/
def T.table (q : Squall) (ws : List Word) : Option (Int × List MapEntry) :=
  match (T.mgw ws).parsed q T.gm.pc with
  | .ok (h, es, _) => some (h.target, es)
  | .error _ => none

theorem T.tableOk (q : Squall) (ws : List Word) (x : Int × List MapEntry) (h : T.table q ws = some x) :
    ∃ m es ps, (T.mgw ws).parsed q T.gm.pc = .ok (m, es, ps) ∧ es = x.2 := by
  unfold T.table at h
  split at h
  · rename_i m es ps e
    cases h
    exact ⟨m, es, ps, e, rfl⟩
  · cases h

/-- The two ends of a header: one that names point 5, and one that names point 6. -/
theorem wit_MigrationTransfer :
    (∀ w ∈ [(5 : Int), 6], ∀ e ∈ [(3 ^ 24 : Int), -3 ^ 24], let s := T.tabled w e
      s.squall? T.q.q = some (T.qmg false) ∧ (T.qmg false).migration = some (T.mg false) ∧ (T.qmg false).q = T.q.q ∧
      (s.gustsOf T.q.q).find? (fun k => k.arrivedAt.isSome) = some T.gm ∧
      (∀ k ∈ s.gustsOf T.q.q, k.loads = [] ∧ k.atoms = [] ∧ k.reply = []) ∧ (∀ c ∈ (s.core (T.qmg false).core).copyQ, c.stage = .queued) ∧
      s.releaseEffect T.q.q = s ∧ s.tableAddr (T.qmg false) 5 = (.ok 180, T.tab1 w e) ∧
      ∃ hw, (T.tab1 w e).sysReads 0 180 9 = (.ok hw, T.tab2 w e) ∧
        (mapHead hw (T.qmg false) 5 T.gm.pc).isSome = (w == 5) ∧ T.gm.stack = []) ∧
    (∀ e ∈ [(3 ^ 24 : Int), -3 ^ 24], ∃ ws, (T.tab2 5 e).sysReads 0 189 2 = (.ok ws, T.tab3 5 e)) ∧
    ∀ e ∈ [(3 ^ 24 : Int), -3 ^ 24, 0], T.table (T.qmg false) (T.tableWords e) =
      if e = 0 then none else some (9, [T.move (if e = 3 ^ 24 then .vec else .scal)]) := by
  refine ⟨?_, ?_, by decide +kernel⟩
  · intro w hw e he
    have h : ∀ w ∈ [(5 : Int), 6], ∀ e ∈ [(3 ^ 24 : Int), -3 ^ 24],
        (∀ k ∈ (T.tabled w e).gustsOf T.q.q, k.loads = [] ∧ k.atoms = [] ∧ k.reply = []) ∧
        (∀ c ∈ ((T.tabled w e).core (T.qmg false).core).copyQ, c.stage = .queued) ∧
        (T.tabled w e).releaseEffect T.q.q = T.tabled w e ∧
        ((T.tabled w e).tableAddr (T.qmg false) 5).1 = .ok 180 ∧
        T.okTo ((T.tab1 w e).sysReads 0 180 9) (fun ws => (mapHead ws (T.qmg false) 5 T.gm.pc).isSome) (w == 5) = true := by
      decide +kernel
    obtain ⟨h1, hc, h2, h3, h4⟩ := h w hw e he
    obtain ⟨ws, h5, h6⟩ := T.ansOf _ _ _ h4
    exact ⟨rfl, rfl, rfl, rfl, h1, hc, h2, Prod.ext h3 rfl, ws, h5, h6, rfl⟩
  · intro e he
    have h : ∀ e ∈ [(3 ^ 24 : Int), -3 ^ 24], T.okTo ((T.tab2 5 e).sysReads 0 189 2) (fun ws => ws.length) 2 = true := by decide +kernel
    obtain ⟨ws, h5, -⟩ := T.ansOf _ _ _ (h e he)
    exact ⟨ws, h5⟩

theorem wit_MigrationComplete : ∀ k ∈ [MapKind.vec, .scal],
    let m := T.mgw (T.tableWords (if k = .vec then 3 ^ 24 else -3 ^ 24))
    let q := { T.q with migration := some m }
    let s := T.st T.gm q
    s.squall? T.q.q = some q ∧ q.migration = some m ∧ m.moved = true ∧ s.front? q.q.front = some T.front ∧
    s.gustsOf q.q = [T.gm] ∧ T.gm.arrivedAt = some (3, 5) ∧ m.slots = [4] ∧ m.vbases = [12] ∧
    (∃ h es ps, m.parsed q T.gm.pc = .ok (h, es, ps) ∧ es = [T.move k]) ∧
    s.traceOn q.ctx = false ∧ q.shutter = none ∧ T.gm.Undisturbed q ∧
    ∀ w, Instr.homeApplyWrite w ∈ s.flight → w.loc ≠ .win q.core := by
  intro k hk
  have h : ∀ k ∈ [MapKind.vec, .scal], let ws := T.tableWords (if k = .vec then 3 ^ 24 else -3 ^ 24)
      T.table { T.q with migration := some (T.mgw ws) } ws = some (9, [T.move k]) := by decide +kernel
  refine ⟨rfl, rfl, rfl, rfl, rfl, rfl, rfl, rfl, T.tableOk _ _ _ (h k hk), rfl, rfl, T.calm_of ?_ ⟨rfl, rfl⟩ rfl ⟨rfl, T.noCmd⟩ rfl, fun w hw => ?_⟩
  · decide +kernel
  · cases hw

/-! ## Witnesses: shuttering -/

/-- The first line of a device's memory, its words 1 and 2 being 1 and 20000. -/
@[irreducible] def T.farCells : List Host.Cell :=
  writeCells hbmDefault [] 0 (packedLine ((List.range 45).map fun w => Word.ofInt (if w = 1 then 1 else if w = 2 then 20000 else 0)))

/-- A page table that puts virtual lines 0 to 3^18 - 1 of context 0 on the same lines of device 1092; `a` and `b` are the last
uses of its two lines and `k` the next identity. Its words 1 and 2 there hold one save area of 20000 words. -/
def T.far (s : State) (a b k : Nat) : State :=
  { s with homes := [{ T.hl 0 [3 * 3 ^ 25, 54] with used := a },
                     { T.hl 1 (List.replicate 9 0 ++ [-2 * 3 ^ 25 + 6 * 3 ^ 22 + 3 ^ 18 - 3 ^ 8]) with used := b }, T.hl 2 []],
           peers := [(1092, T.farCells)], unreached := [], portPoison := [], serial := k }

def T.farLeaf : Word := Word.ofInt (-2 * 3 ^ 25 + 6 * 3 ^ 22 + 3 ^ 18 - 3 ^ 8)

/-- A line is packed. -/
def T.okOr : LineKind → Bool
  | .packed _ => true
  | _ => false

/-- Reads of the four table words in a state that is as after reset where they look. -/
structure T.Bare (s : State) : Prop where
  poison : s.poison = []
  dies : s.dies = State.reset.dies
  flight : s.flight = []
  contexts : s.contexts = State.reset.contexts
  waits : s.sysWaits = []
  clocks : s.secClocks = []
  rim : s.rimClocks = State.reset.rimClocks

theorem T.noFlush {s : State} (h : s.flight = []) (d : Nat) (loc : Loc) : s.flushLoc d loc = s := by
  have e : ({ s with flight := s.flight.filter fun i => !behind d loc i } : State) = s := by
    cases s
    simp only at h
    subst h
    rfl
  have e' : s.flight.filter (behind d loc) = [] := by rw [h]; rfl
  cases loc <;> simp only [State.flushLoc, State.flushPort, e, e', State.each, List.foldl_nil]

/-- A home line after a read. -/
def T.touch (u : Nat) (x : HomeLine) : HomeLine := { x with prio := max x.prio (l2Prio 0), used := u }

theorem T.read_home {s : State} {p w : Nat} {h : HomeLine} (hb : T.Bare s) (hh : s.home? p = some h) (hn : h.noted = []) (hx : h.bad = []) :
    s.readWide 9 ⟨.dev p, w⟩ 0 = (.ok (h.words.getD w Word.zero), { s with
      homes := s.homes.map (fun x => if x.line == p then T.touch s.serial x else x), serial := s.serial + 1 }) := by
  obtain ⟨h1, h2, h3, h4, h5, h6, h7⟩ := hb
  have k : (({ s with serial := s.serial + 1 } : State).onHome p (T.touch s.serial)).home? p = some (T.touch s.serial h) := by
    rw [State.home?_onHome _ _ _ (T.touch s.serial) fun x hx => hx, if_pos rfl]
    show (s.home? p).map _ = _
    rw [hh]
    rfl
  have e : s.rimClocks.modify 0 (fun c => clockMax c clockZero) = s.rimClocks := by rw [h7]; rfl
  have ef : s.flushLoc 9 (.dev p) = s := T.noFlush h3 9 _
  have e0 : s.poisoned p (sectorOf w) = false := by simp [State.poisoned, h1]
  have e1 : s.homeFill p 0 = (.ok h.words, ({ s with serial := s.serial + 1 } : State).onHome p (T.touch s.serial)) := by
    unfold State.homeFill
    rw [hh]
    rfl
  have e2 : (({ s with serial := s.serial + 1 } : State).onHome p (T.touch s.serial)).publish 9 p (sectorOf w) =
      ({ s with serial := s.serial + 1 } : State).onHome p (T.touch s.serial) := by
    simp only [State.publish, k]
    simp [T.touch, hn, State.each]
  have e3 : (({ s with serial := s.serial + 1 } : State).onHome p (T.touch s.serial)).receive 9
      ((({ s with serial := s.serial + 1 } : State).onHome p (T.touch s.serial)).secClock p (sectorOf w)) =
      ({ s with serial := s.serial + 1 } : State).onHome p (T.touch s.serial) := by
    have c0 : (({ s with serial := s.serial + 1 } : State).onHome p (T.touch s.serial)).secClock p (sectorOf w) = clockZero := by
      simp [State.secClock, State.onHome, h6, lookupAt]
    rw [c0]
    simp only [State.receive, State.onHome, show ¬ (9 : Nat) < 9 by decide, if_false, Nat.sub_self, e]
  have e4 : (({ s with serial := s.serial + 1 } : State).onHome p (T.touch s.serial)).l1Hit 9 ⟨.dev p, w⟩ = none := by
    show ((State.l1? _ 9 _).bind _) = none
    have : (({ s with serial := s.serial + 1 } : State).onHome p (T.touch s.serial)).l1? 9 (.dev p) = none := by
      show ((s.dies.getD 9 Die.init).l1.find? _) = none
      rw [h2]; rfl
    rw [this]; rfl
  unfold State.readWide
  simp only [ef, e0, e1, e2, k, e3, e4, Bool.false_eq_true, if_false, T.touch, hx, List.contains_nil]
  rfl

/-- The four reads of a walk. -/
theorem T.reads (s : State) (h : T.Bare s) (a b k : Nat) :
    (T.far s a b k).readWide 9 (physWord 0) 0 = (.ok (Word.ofInt (3 * 3 ^ 25)), T.far s k b (k + 1)) ∧
    (T.far s a b k).readWide 9 (physWord 1) 0 = (.ok (Word.ofInt 54), T.far s k b (k + 1)) ∧
    (T.far s a b k).readWide 9 (physWord 54) 0 = (.ok T.farLeaf, T.far s a k (k + 1)) ∧
    (T.far s a b k).readWide 9 (physWord 55) 0 = (.ok Word.zero, T.far s a k (k + 1)) := by
  have hb : T.Bare (T.far s a b k) := ⟨h.poison, h.dies, h.flight, h.contexts, h.waits, h.clocks, h.rim⟩
  refine ⟨?_, ?_, ?_, ?_⟩
  · exact (T.read_home (p := 0) (w := 0) hb rfl rfl rfl).trans rfl
  · exact (T.read_home (p := 0) (w := 1) hb rfl rfl rfl).trans rfl
  · exact (T.read_home (p := 1) (w := 9) hb rfl rfl rfl).trans rfl
  · exact (T.read_home (p := 1) (w := 10) hb rfl rfl rfl).trans rfl

theorem T.index (line : Nat) (h : line < 3 ^ 18) : walkIndex line 7 = 0 ∧ walkIndex line 6 = 0 := by
  unfold walkIndex
  constructor
  · rw [Nat.div_eq_of_lt (by omega)]
  · rw [Nat.div_eq_of_lt (by omega)]

theorem T.noDie (t : State) (h : t.dies = State.reset.dies) (f : Die → Die) : t.onDie 9 f = t := by
  cases t
  simp only at h
  subst h
  rfl

theorem T.noWait (t : State) (h : t.sysWaits = []) (f : SysWait → Bool) : { t with sysWaits := t.sysWaits.filter f } = t := by
  cases t
  simp only at h
  subst h
  rfl

theorem T.walk (s : State) (h : T.Bare s) (a b k line : Nat) (hl : line < 3 ^ 18) :
    (T.far s a b k).walkFrom 9 0 line 7 0 none = (.leaf 6 54 T.farLeaf Word.zero none, T.far s (k + 1) (k + 3) (k + 4)) := by
  obtain ⟨h7, h6⟩ := T.index line hl
  have r0 : ∀ a b k, (T.far s a b k).rawNode 0 = false := fun a b k => rfl
  have r1 : ∀ a b k, (T.far s a b k).rawNode 54 = false := fun a b k => rfl
  rw [State.walkFrom]
  simp only [h7, r0, Bool.false_eq_true, show ¬ (9 : Nat) < 9 by decide, if_false, Nat.mul_zero, Nat.add_zero, (T.reads s h a b k).1, Nat.zero_add,
    (T.reads s h k b (k + 1)).2.1]
  rw [show pteBad 7 (Word.ofInt (3 * 3 ^ 25)) (Word.ofInt 54) = false by decide +kernel,
    show pteType (Word.ofInt (3 * 3 ^ 25)) = 3 by decide +kernel]
  simp only [Bool.false_eq_true, if_false, if_true]
  have e : ∀ e : TlbEntry, (T.far s (k + 1) b (k + 1 + 1)).onDie 9 (fun x => { x with walks := tlbPut x.walks Config.walkCacheEntries e }) =
      T.far s (k + 1) b (k + 1 + 1) := by
    exact fun e => T.noDie (T.far s (k + 1) b (k + 1 + 1)) h.dies _
  rw [e, show (Word.ofInt 54).val.toNat = 54 by decide +kernel, State.walkFrom]
  simp only [h6, r1, Bool.false_eq_true, show ¬ (9 : Nat) < 9 by decide, if_false, Nat.mul_zero, Nat.add_zero, (T.reads s h (k + 1) b (k + 1 + 1)).2.2.1,
    (T.reads s h (k + 1) (k + 1 + 1) (k + 1 + 1 + 1)).2.2.2]
  rw [show pteBad 6 T.farLeaf Word.zero = false by decide +kernel, show pteType T.farLeaf = -2 by decide +kernel]
  rfl

theorem T.translates (s : State) (h : T.Bare s) (a b k : Nat) (x : Int) (h1 : 1 ≤ x) (h2 : x < 45 * 3 ^ 18) (w : Bool) :
    (T.far s a b k).sysTranslate 0 x w = (.ok ⟨.remote 1092 (x.toNat / 45), x.toNat % 45⟩, T.far s (k + 1) (k + 3) (k + 4)) := by
  have hx : ¬ (x < 1 ∨ x > wordMax) := by
    have : wordMax = 3812798742493 := by decide
    omega
  have hl : x.toNat / 45 < 3 ^ 18 := by omega
  have hw : (T.far s a b k).walk 9 0 x = (.leaf 6 54 T.farLeaf Word.zero none, T.far s (k + 1) (k + 3) (k + 4)) := by
    unfold State.walk
    have hc : (T.far s a b k).context 0 = Context.init := by
      show s.contexts.getD 0 Context.init = _
      rw [h.contexts]; rfl
    simp only [hc]
    rw [show Context.init.xroot.val = 0 by decide +kernel, show nodeOk 0 = true by decide]
    exact T.walk s h a b k _ hl
  unfold State.sysTranslate
  rw [if_neg hx, hw]
  have hs : ∀ f : SysWait → Bool,
      { T.far s (k + 1) (k + 3) (k + 4) with sysWaits := (T.far s (k + 1) (k + 3) (k + 4)).sysWaits.filter f } =
        T.far s (k + 1) (k + 3) (k + 4) := fun f => T.noWait (T.far s (k + 1) (k + 3) (k + 4)) h.waits f
  have hf : leafCheck T.farLeaf w true = none := by revert w; decide +kernel
  have hp : leafPlace T.farLeaf Word.zero x = ⟨.remote 1092 (x.toNat / 45), x.toNat % 45⟩ := by
    unfold leafPlace
    simp only [show pteType T.farLeaf = -2 by decide +kernel, show (pteK T.farLeaf).toNat = 18 by decide +kernel,
      show (fld T.farLeaf.val 14 8 + 1093).toNat = 1092 by decide +kernel, Nat.mod_eq_of_lt hl, show Word.zero.val.toNat = 0 from rfl, if_true, Nat.zero_add]
  simp only [show pteType T.farLeaf = -2 by decide +kernel]
  simp only [show ¬ (-2 : Int) = 0 by decide, show ¬ ((-2 : Int) = -1 ∨ (-2 : Int) = 2) by decide, if_false, hs, hf, hp]

/-- The bytes of that device are a packed line everywhere. -/
theorem T.packed_far (s : State) (a b k p q : Nat) : ∃ ws, (T.far s a b k).portWords (.remote 1092 p) [q] = .ok ws ∧
    (T.far State.reset 0 0 0).portWords (.remote 1092 p) [] = .ok ws := by
  have hk : ∀ e ∈ T.farCells, e.1 < 256 := by decide +kernel
  have hn : ∀ m : List Host.Cell, (∀ e ∈ m, e.1 < 256) → ∀ j, 256 ≤ j → lookupAt m j = none := by
    intro m
    induction m with
    | nil => exact fun _ _ _ => rfl
    | cons e m ih =>
      intro h j hj
      have : ¬ e.1 = j := by have := h e (.head _); omega
      simpa [lookupAt, this] using ih (fun x hx => h x (.tail _ hx)) j hj
  have hz : ∀ p, 1 ≤ p → (T.far State.reset 0 0 0).portLine (.remote 1092 p) = T.zeroLine := by
    intro p hp
    refine List.map_congr_left fun b hb => ?_
    have hb := List.mem_range.1 hb
    have : (T.far State.reset 0 0 0).peerCells 1092 = T.farCells := rfl
    rw [this]
    simp [readAt, hn _ hk (256 * p + b) (by omega), hbmDefault, Nat.mod_eq_of_lt hb]
  have ok : ∀ l, T.okOr (readLine l) = true → ∃ ws, (match readLine l with
      | .packed ws => (.ok ws : Except Int (List Word))
      | .raw _ => .error 22
      | .broken c => .error c) = .ok ws := by
    intro l h
    cases e : readLine l with
    | packed ws => exact ⟨ws, rfl⟩
    | raw _ => rw [e] at h; cases h
    | broken _ => rw [e] at h; cases h
  have : ∃ ws, (T.far State.reset 0 0 0).portWords (.remote 1092 p) [] = .ok ws := by
    refine ok _ ?_
    rcases Nat.eq_zero_or_pos p with rfl | hp
    · decide +kernel
    · rw [hz p hp]; decide +kernel
  obtain ⟨ws, h⟩ := this
  exact ⟨ws, h, h⟩

/-- Word `x` there. -/
def T.farWord (x : Int) : Word :=
  match (T.far State.reset 0 0 0).portWords (.remote 1092 (x.toNat / 45)) [] with
  | .ok ws => ((sectorWords (sectorOf (x.toNat % 45))).map fun w => ws.getD w Word.zero).getD (x.toNat % 45 % 5) Word.zero
  | .error _ => Word.zero

theorem T.reads_far (s : State) (h : T.Bare s) (a b k : Nat) (x : Int) (h1 : 1 ≤ x) (h2 : x < 45 * 3 ^ 18) :
    (T.far s a b k).sysRead 0 x = (.ok (T.farWord x), T.far s (k + 1) (k + 3) (k + 4)) := by
  unfold State.sysRead
  rw [T.translates s h a b k x h1 h2]
  have : (T.far s (k + 1) (k + 3) (k + 4)).l1Hit 9 ⟨.remote 1092 (x.toNat / 45), x.toNat % 45⟩ = none := by
    show ((s.dies.getD 9 Die.init).l1.find? _).bind _ = none
    rw [h.dies]; rfl
  obtain ⟨ws, h3, h4⟩ := T.packed_far s (k + 1) (k + 3) (k + 4) (x.toNat / 45) (sectorOf (x.toNat % 45))
  have e := T.noFlush (s := T.far s (k + 1) (k + 3) (k + 4)) h.flight 9 (.remote 1092 (x.toNat / 45))
  simp only [State.readWide, State.readBelow, this, State.belowL1, e, h3, T.farWord, h4]

/-- Reads of consecutive words. -/
theorem T.all_far (s : State) (h : T.Bare s) (n : Nat) : ∀ (a b k : Nat) (x : Int), 1 ≤ x → x + Int.ofNat n < 45 * 3 ^ 18 →
    ∃ ws a' b' k', (T.far s a b k).sysReads 0 x n = (.ok ws, T.far s a' b' k') := by
  induction n with
  | zero => exact fun a b k x _ _ => ⟨[], a, b, k, rfl⟩
  | succ n ih =>
    intro a b k x h1 h2
    simp only [Int.ofNat_eq_natCast, Nat.cast_add, Nat.cast_one] at h2
    obtain ⟨ws, a', b', k', e⟩ := ih (k + 1) (k + 3) (k + 4) (x + 1) (by omega) (by simp only [Int.ofNat_eq_natCast]; omega)
    exact ⟨T.farWord x :: ws, a', b', k', by rw [State.sysReads, T.reads_far s h a b k x h1 (by omega)]; simp only [e]⟩

theorem T.ready_far (s : State) (h : T.Bare s) (x : Int) (h1 : 1 ≤ x) (w : Bool) (n : Nat) : ∀ a b k : Nat,
    x + 45 * Int.ofNat n < 45 * 3 ^ 18 → ∃ a' b' k', (T.far s a b k).areaReady 0 x w n = (.ok (), T.far s a' b' k') := by
  induction n with
  | zero => exact fun a b k _ => ⟨a, b, k, rfl⟩
  | succ n ih =>
    intro a b k h2
    simp only [Int.ofNat_eq_natCast, Nat.cast_add, Nat.cast_one] at h2
    obtain ⟨a', b', k', e⟩ := ih (k + 1) (k + 3) (k + 4) (by simp only [Int.ofNat_eq_natCast]; omega)
    refine ⟨a', b', k', ?_⟩
    rw [State.areaReady, T.translates s h a b k _ (by simp only [Int.ofNat_eq_natCast]; omega) (by simp only [Int.ofNat_eq_natCast]; omega)]
    exact e

/-- A request that is due and one whose quantum has not passed; a request that stands, 9 µs young and old. -/
theorem wit_ShutterRequests : let b := { T.bind with quantum := 1 }
    let s := fun (r : BindRec) (q : Squall) => { T.st T.g q with dies := T.s.dies.set 0 { Die.init with bindRecs := [r] } }
    let q := { T.q with shutter := some (0, false) }
    T.q.migration = none ∧ (∀ r ∈ [T.bind, b], ∀ k ∈ [T.q, q], (s r k).squall? T.q.q = some k ∧ (s r k).bindRec? (dieOf k.core) 1 = some r) ∧
    (T.q.shutter = none ∧ (s T.bind T.q).waiters (dieOf T.q.core) = [] ∧ T.q.boundAt + 1000 * T.bind.quantum ≤ (s T.bind T.q).ptime) ∧
    ¬ ((∃ w ∈ (s b T.q).waiters (dieOf T.q.core), (s b T.q).givesWay T.q w = true) ∨
      ((s b T.q).waiters (dieOf T.q.core) = [] ∧ T.q.boundAt + 1000 * b.quantum ≤ (s b T.q).ptime)) ∧
    (q.shutter = some (0, false) ∧ (s b q).ptime < 0 + 9000) ∧
    (let u := { s b q with ptime := 9000 }
     u.squall? T.q.q = some q ∧ 0 + 9000 ≤ u.ptime ∧ ∃ g ∈ u.gustsOf T.q.q, g.halted = false) := by
  refine ⟨rfl, ?_, ⟨rfl, ?_, ?_⟩, ?_, ⟨rfl, ?_⟩, rfl, ?_, _, .head _, rfl⟩ <;> decide +kernel

/-- A word of that device written. -/
theorem T.writes_far (s : State) (h : T.Bare s) (a b k : Nat) (x : Int) (v : Word) (h1 : 1 ≤ x) (h2 : x < 45 * 3 ^ 18) :
    ∃ c, (T.far s a b k).sysWrite 0 x v = (.ok (), { ((T.far s (k + 1) (k + 3) (k + 4)).stamp 9).2 with peers := c }) := by
  obtain ⟨ws, h3, -⟩ := T.packed_far s (k + 1) (k + 3) (k + 4) (x.toNat / 45) (sectorOf (x.toNat % 45))
  have e := T.noFlush (s := T.far s (k + 1) (k + 3) (k + 4)) h.flight 9 (.remote 1092 (x.toNat / 45))
  refine ⟨(((T.far s (k + 1) (k + 3) (k + 4)).stamp 9).2.setPortLine (.remote 1092 (x.toNat / 45))
    (packedLine (ws.set (x.toNat % 45) v))).peers, ?_⟩
  unfold State.sysWrite
  rw [T.translates s h a b k x h1 h2]
  simp only [State.writeAtHome, e, h3, State.setPortLine]

/-- The squall, stopped for a request, with `n` words of scratchpad and the image it has taken. -/
def T.qs (n : Nat) (a : Option Int) : Squall :=
  { T.q with shutter := some (0, false), alloc := { T.alloc with scratch := n }, saveTo := a }
def T.stopped (n : Nat) (a : Option Int) : State :=
  { T.st { T.g with halted := true } (T.qs n a) with fronts := [{ T.front with spec := T.rspec }] }

theorem T.bare (n : Nat) (a : Option Int) : T.Bare (T.stopped n a) := ⟨rfl, rfl, rfl, rfl, rfl, rfl, rfl⟩

/-- The words of its image. -/
def T.size (n : Nat) : Nat := 27 + 243 + 729 + 243 + 162 + 81 * T.alloc.v + 1 + 2 * T.alloc.bars + 730 * T.alloc.tiles + 244 * T.alloc.slots + n + 10692

/-- A squall whose gust has not stopped; the taking of an image that is large enough and of one that is not; and the write, drained and
not. -/
theorem wit_ShutterSave : let f := { T.front with spec := T.rspec }
    (let s := T.st T.g (T.qs 100 none)
     s.squall? T.q.q = some (T.qs 100 none) ∧ ∃ g ∈ s.gustsOf T.q.q, g.halted = false) ∧
    (∀ n ∈ [(100 : Nat), 9000], let s := T.far (T.stopped n none) 0 0 0
      s.squall? T.q.q = some (T.qs n none) ∧ s.front? T.q.q.front = some f ∧ (T.qs n none).shutter = some (0, false) ∧
      (T.qs n none).migration = none ∧ (T.qs n none).saveTo = none ∧ (∀ g ∈ s.gustsOf T.q.q, g.halted = true) ∧
      ∃ t, s.sysReads 0 f.spec.save 2 = (.ok [Word.ofInt 1, Word.ofInt 20000], t) ∧
        (n = 9000 → (Word.ofInt 20000).val < Int.ofNat (T.size n)) ∧
        (n = 100 → 1 ≤ (Word.ofInt 1).val ∧ Int.ofNat (T.size n) ≤ (Word.ofInt 20000).val ∧
          let a := f.spec.save + 9 + Int.ofNat (T.q.q.lin % (Word.ofInt 1).val.toNat) * (Word.ofInt 20000).val
          ∃ t2 t3, t.sysRead 0 a = (.ok Word.zero, t2) ∧ t2.sysWrite 0 a (Word.ofNat (T.q.q.lin + 1)) = (.ok (), t3))) ∧
    (let s := T.far (T.stopped 100 (some 10)) 0 0 0
     s.squall? T.q.q = some (T.qs 100 (some 10)) ∧ s.front? T.q.q.front = some f ∧ (T.qs 100 (some 10)).saveTo = some 10 ∧
     s.drained (T.qs 100 (some 10)) = true ∧
     (∃ t3, s.areaReady 0 10 true (linesOf (T.size 100)) = (.ok (), t3) ∧ t3.savedCmds (T.qs 100 (some 10)) = [] ∧
       (∀ g ∈ t3.gustsOf T.q.q, g.entries = []) ∧ t3.squall? T.q.q = some (T.qs 100 (some 10)) ∧
       (∀ w, Instr.homeApplyWrite w ∈ t3.flight → w.loc ≠ .win T.q.core) ∧ ∀ g ∈ t3.gusts, g.loads = [] ∧ g.atoms = []) ∧
     (T.st T.g (T.qs 100 (some 10))).drained (T.qs 100 (some 10)) = false) := by
  intro f
  refine ⟨⟨rfl, _, .head _, rfl⟩, fun n hn => ?_, rfl, rfl, rfl, by decide +kernel, ?_, by decide +kernel⟩
  · have e1 := T.reads_far (T.stopped n none) (T.bare n none) 0 0 0 1 (by decide) (by decide)
    have e2 := T.reads_far (T.stopped n none) (T.bare n none) 1 3 4 2 (by decide) (by decide)
    have e3 := T.reads_far (T.stopped n none) (T.bare n none) 5 7 8 10 (by decide) (by decide)
    rw [show T.farWord 1 = Word.ofInt 1 by decide +kernel] at e1
    rw [show T.farWord 2 = Word.ofInt 20000 by decide +kernel] at e2
    rw [show T.farWord 10 = Word.zero by decide +kernel] at e3
    refine ⟨rfl, rfl, rfl, rfl, rfl, fun g hg => by rw [List.mem_singleton.1 hg], T.far (T.stopped n none) 5 7 8, ?_, ?_, ?_⟩
    · show (T.far (T.stopped n none) 0 0 0).sysReads 0 1 2 = _
      simp only [State.sysReads, e1, show (1 : Int) + 1 = 2 by decide]
      simp only [e2]
    · rintro rfl; decide +kernel
    · rintro rfl
      obtain ⟨c, e⟩ := T.writes_far (T.stopped 100 none) (T.bare 100 none) 9 11 12 10 (Word.ofNat (T.q.q.lin + 1)) (by decide) (by decide)
      exact ⟨by decide +kernel, by decide +kernel, _, _, e3, e⟩
  · obtain ⟨a, b, k, e⟩ := T.ready_far (T.stopped 100 (some 10)) (T.bare 100 (some 10)) 10 (by decide) true (linesOf (T.size 100)) 0 0 0 (by decide)
    exact ⟨_, e, (show (T.stopped 100 (some 10)).savedCmds (T.qs 100 (some 10)) = [] by decide +kernel),
      (show ∀ g ∈ (T.stopped 100 (some 10)).gustsOf T.q.q, g.entries = [] by decide +kernel), rfl,
      fun w hw => (List.not_mem_nil hw).elim, fun g hg => by rw [List.mem_singleton.1 hg]; exact ⟨rfl, rfl⟩⟩

/-- The same squall shuttered, its image at 10. -/
def T.shut : Shuttered :=
  { q := ⟨1, 0⟩, ctx := 0, die := 0, isD := false, image := 7, at_ := 0, area := 10, count := 1, alloc := T.alloc, gs := [T.g.rest],
    releasing := ([], []), waitEntries := [], cmds := [], fails := [], slotFaults := [], slotWrote := [] }
def T.sr : State := { State.reset with fronts := [{ T.front with spec := T.rspec }], nextFront := 2, images := T.images, shuttered := [T.shut] }

theorem wit_ShutterRestore : let s := T.far T.sr 0 0 0
    s.shut? T.shut.q = some T.shut ∧ s.front? T.shut.q.front = some { T.front with spec := T.rspec } ∧
    s.restorePlan T.shut 24 = some T.held ∧ s.stopped = false ∧ s.bindFirst 24 (s.shutKlass T.shut) false = false ∧
    (∀ y ∈ s.shuttered, s.shutKlass y = s.shutKlass T.shut → y.at_ < T.shut.at_ → s.restorePlan y 24 = none) ∧
    T.shut.gs = [T.g.rest] ∧ T.g.rest.ref.sq = T.shut.q ∧ T.g.rest.ref.gust = 0 ∧ T.g.rest.status = .running ∧
    ∃ ws t1 u, s.sysReads T.shut.ctx T.shut.area (imageMap T.shut.count T.shut.alloc).size = (.ok ws, t1) ∧
      t1.sysWrite T.shut.ctx T.shut.area Word.zero = (.ok (), u) ∧ u.squall? T.shut.q = none ∧ u.gustsOf T.shut.q = [] ∧ u.heads = [] ∧
      u.traceOn T.shut.ctx = false := by
  have hb : T.Bare T.sr := ⟨rfl, rfl, rfl, rfl, rfl, rfl, rfl⟩
  obtain ⟨ws, a, b, k, e⟩ := T.all_far T.sr hb (imageMap 1 T.alloc).size 0 0 0 10 (by decide) (by decide +kernel)
  obtain ⟨c, e'⟩ := T.writes_far T.sr hb a b k 10 Word.zero (by decide) (by decide)
  refine ⟨rfl, rfl, by decide +kernel, rfl, by decide +kernel, ?_, rfl, rfl, rfl, rfl, ws, _, _, e, e', rfl, rfl, rfl, ?_⟩
  · intro y hy _ h
    rw [List.mem_singleton.1 hy] at h
    exact absurd h (by decide)
  · show T.sr.traceOn 0 = false
    decide +kernel

theorem wit_Discards : T.s.front? 1 = some T.front ∧ T.front.ctx < 27 := ⟨rfl, by decide⟩

/-! ## Witnesses: caches, links, the device -/

/-- Line 3 is not in its home slice; line 0 is, a write of word 1 by die 2 comes to it while dies 0, 1 and 2 hold its sector 0. -/
def T.shared : HomeLine := { T.home 0 with holders := [(0, 0), (1, 0), (2, 0), (0, 1)] }
def T.write : WriteMsg := { die := 2, stamp := List.replicate 12 1, loc := .dev 0, word := 1, val := Word.ones, src := some T.g.ref, ctx := 0, ev := 0, lease := 5 }

theorem wit_HomeSteps : let s := { T.m with homes := [T.shared] }
    T.m.home? 3 = none ∧ readLine (T.m.hbmLine 3) = .packed (List.replicate 45 Word.zero) ∧
    (T.m.l2Set (homeSet 3)).length < 5 ∧ 3 < Config.deviceLines ∧
    (s.home? 0 = some T.shared ∧ T.write.loc = .dev 0 ∧ T.write.narrow = false ∧ s.joined T.write.die (.dev 0) = true ∧
      s.poisoned 0 (sectorOf T.write.word) = false ∧ T.write.src = some T.g.ref ∧ s.gust? T.g.ref = some T.g ∧
      T.write.die < s.dies.length ∧ 1 ≠ T.write.die ∧ 1 ≠ homeDie 0 ∧ (1, sectorOf T.write.word) ∈ T.shared.holders) ∧
    (T.m.home? 0 = some (T.home 0) ∧ (T.home 0).noted = [] ∧ (T.home 0).bad = [] ∧ (T.home 0).words.length = 45 ∧ canonical hbmDefault T.m.hbm = true) := by
  refine ⟨?_, ?_, ?_, ?_, ⟨rfl, rfl, rfl, ?_, ?_, rfl, rfl, ?_, ?_, ?_, ?_⟩, rfl, rfl, rfl, ?_, rfl⟩ <;> decide +kernel

/-- Die 0 holds line 0, all of it dirty and all of it clean; its home has noted sector 0, and has not. -/
theorem wit_L1Steps :
    (∀ dirty ∈ [none, some 0], let s := T.mapped T.s dirty
      s.home? 0 = some (T.home 0) ∧ 0 < s.dies.length ∧ s.poisoned 0 0 = false ∧ homeDie 0 = 0 ∧
      s.l1? 0 (.dev 0) = some (T.l1 0 dirty) ∧ (∀ y ∈ (s.die 0).l1, y.loc = .dev 0 → y = T.l1 0 dirty) ∧
      rising (T.l1 0 dirty).words = true ∧ (T.home 0).words.length = 45 ∧
      (∀ y ∈ (s.die 0).l1, ∀ e ∈ y.words, ∀ k, e.2.dirty = some k → k = 0) ∧ (T.home 0).bad = [] ∧
      (∀ m, Instr.homeApplyWrite m ∉ s.flight) ∧ ∀ e ∈ (T.l1 0 dirty).words, e.2.bad = false) ∧
    (0, 0) ∉ (T.home 0).noted ∧
    (let h := { T.home 0 with noted := [(0, 0)] }
     ({ T.m with homes := [h] } : State).home? 0 = some h ∧ (0, 0) ∈ h.noted) ∧
    let n : NearLine := { line := 0, sectors := [(0, [Word.zero])], prio := 0, used := 0 }
    let s := { T.m with dies := [{ Die.init with l1 := [T.l1 0 none], near := [n] }] }
    s.near? 0 0 = some n ∧ rising n.sectors = true := by
  refine ⟨?_, ?_, ⟨rfl, ?_⟩, rfl, rfl⟩
  · intro dirty hd
    have h : ∀ dirty ∈ [none, some (0 : Nat)], let s := T.mapped T.s dirty
        0 < s.dies.length ∧ s.poisoned 0 0 = false ∧ (∀ y ∈ (s.die 0).l1, y.loc = .dev 0 → y = T.l1 0 dirty) ∧ rising (T.l1 0 dirty).words = true ∧
        (T.home 0).words.length = 45 ∧ (∀ y ∈ (s.die 0).l1, ∀ e ∈ y.words, e.2.dirty = none ∨ e.2.dirty = some 0) ∧
        ∀ e ∈ (T.l1 0 dirty).words, e.2.bad = false := by decide +kernel
    obtain ⟨h0, h1, h2, h3, h4, h5, h6⟩ := h dirty hd
    refine ⟨rfl, h0, h1, by decide +kernel, rfl, h2, h3, h4, fun y hy e he k hk => ?_, rfl, fun m hm => (List.not_mem_nil hm).elim, h6⟩
    rcases h5 y hy e he with h | h <;> rw [h] at hk <;> cases hk
    rfl
  · decide +kernel
  · decide +kernel

theorem wit_TranslationSteps : let w := Word.ofInt (3 ^ 25 + 6 * 3 ^ 22 + 3 ^ 18)
    let s := T.sys T.s []
    let u := { T.m with ptime := 1000 }
    24 < s.cores.length ∧ (1 : Int) ≤ 90 ∧ (90 : Int) ≤ wordMax ∧ pteType w = 1 ∧ pteBad 6 w Word.zero = false ∧
    (∃ t, s.walk (dieOf 24) 0 90 = (.leaf 6 54 w Word.zero none, t) ∧ tlbFind (t.core 24).tlb 0 2 t.ptime none = none ∧
      ∃ v, t.walk (dieOf 24) 0 90 = (.leaf 6 54 w Word.zero (some 1000), v) ∧ 24 < v.cores.length) ∧
    ∃ e ∈ (u.core 24).tlb, e.expires ≤ u.ptime := by
  have h : ((T.sys T.s []).walk (dieOf 24) 0 90).1 = .leaf 6 54 (Word.ofInt (3 ^ 25 + 6 * 3 ^ 22 + 3 ^ 18)) Word.zero none ∧
      (((T.sys T.s []).walk (dieOf 24) 0 90).2.walk (dieOf 24) 0 90).1 =
        .leaf 6 54 (Word.ofInt (3 ^ 25 + 6 * 3 ^ 22 + 3 ^ 18)) Word.zero (some 1000) := by decide +kernel
  refine ⟨?_, ?_, ?_, ?_, ?_, ⟨_, Prod.ext h.1 rfl, ?_, _, Prod.ext h.2 rfl, ?_⟩, _, .head _, ?_⟩ <;> decide +kernel

theorem wit_WindowWrites : winReg (coreIsD 24) (2388204 + 81 * 0 + 77) = some (.scal 0 77) ∧ T.s.gustIn 24 0 = some T.g ∧
    winReg (coreIsD 24) (1594323 + 99) = some (.scratch 99) ∧ T.s.holderOf 24 Bases.scratch Alloc.scratch 99 = some T.q := by
  refine ⟨?_, ?_, ?_, ?_⟩ <;> decide +kernel

/-- A tick that an access holds up, and one that none does; a die that has seen no tick, and one that has; requests that have stood
for their limit; a transaction answered in time, and one that is 2187000 ticks old. -/
theorem wit_TimeSteps : let o : Outstanding := { seq := 3, ctx := 0, who := some T.g.ref, at_ := 0, dest := 1, line := 2, words := [] }
    let s := { T.s with outstanding := [o] }
    let p := { o with who := none }
    let u := { T.s with outstanding := [p], ptime := 2187000 }
    let l : PendLoad := { T.load with items := [(80, ⟨.dev 81, 44⟩, Word.zero), (79, ⟨.host 5, 44⟩, Word.zero)], words := [Word.ones] }
    let g : Gust := { T.g with loads := [l] }
    (∃ g ∈ (T.st { T.g with loads := [{ l with lease := 1 }] } T.q).gusts, ∃ l ∈ g.loads, l.lost = false ∧ l.lease ≤ T.s.ptime + 1) ∧
    (¬ ((∃ g ∈ T.s.gusts, (∃ l ∈ g.loads, l.lost = false ∧ l.lease ≤ T.s.ptime + 1) ∨
        ∃ a ∈ g.atoms, a.lost = false ∧ a.lease ≤ T.s.ptime + 1) ∨
      (∃ m, Instr.homeApplyWrite m ∈ T.s.flight ∧ m.lease ≤ T.s.ptime + 1 ∧ T.s.joined m.die m.loc = true) ∨
      ∃ m, Instr.latchRequest m ∈ T.s.flight ∧ m.lease ≤ T.s.ptime + 1 ∧ T.s.joined m.die (.dev m.line) = true)) ∧
    (T.s.deferred = [] ∧ T.s.hand = [] ∧ (∀ f ∈ T.s.fronts, f.ending = none) ∧ ∀ g ∈ T.s.graphs, g.ending = none) ∧
    ((∀ k, k < 27 → ((T.on T.s { Core.init with quiet := 729 }).core (27 * 1 + k)).quiet < 729) ∧
      729 ≤ ((T.on T.s { Core.init with quiet := 729 }).core (27 * 0 + 24)).quiet ∧ ∀ f ∈ T.s.fronts, f.ctx < 27) ∧
    (∃ d st, Instr.invalidation d 0 8 st ∈ ({ T.s with flight := [.invalidation 1 0 8 clockZero] } : State).flight) ∧
    (∀ z ∈ T.s.overdue, z.1 ≠ 0) ∧
    (let v := { T.st g T.q with ptime := 243000 }
     (v.overdue.find? fun z => z.1 == 0) = some (0, [Word.ones], 45 * 81 + 44) ∧ g ∈ v.gusts ∧ v.squall? g.ref.sq = some T.q ∧
     l ∈ g.loads ∧ homeDie 81 ≠ dieOf T.q.core ∧ l.sentAt + 243000 ≤ v.ptime) ∧
    (∀ z ∈ T.s.openRequests, z.1 = 0 → z.2.2.1.loc ≠ .host 5) ∧
    ((T.st g T.q).openRequests.find? fun z => z.1 == 0 && z.2.2.1.loc == .host 5) = some (0, 0, ⟨.host 5, 44⟩, 0, [Word.ones]) ∧
    (s.outstanding.find? fun x => x.seq == 3) = some o ∧ o.who = some T.g.ref ∧
    s.ptime < o.at_ + 2187000 ∧ (u.outstanding.find? fun x => x.seq == 3) = some p ∧ p.at_ + 2187000 ≤ u.ptime ∧ p.who = none ∧
    (({ u with outstanding := [o] } : State).outstanding.find? fun x => x.seq == 3) = some o := by
  refine ⟨⟨_, .head _, _, .head _, rfl, by decide⟩, ?_, ⟨rfl, rfl, ?_, ?_⟩, ⟨?_, ?_, ?_⟩, ⟨_, _, .head _⟩, ?_, ⟨?_, .head _, rfl, .head _, ?_, ?_⟩,
    ?_, ?_, rfl, rfl, ?_, rfl, ?_, rfl, rfl⟩
  · rintro (h | ⟨m, hm, -⟩ | ⟨m, hm, -⟩)
    · revert h; decide +kernel
    · exact List.not_mem_nil hm
    · exact List.not_mem_nil hm
  all_goals decide +kernel

def T.packet : ZPacket :=
  { dest := 0, src := 5, line := 0, word := 44, val := Word.ones, cmp := Word.zero, op := .swap, ty := .i27, seq := 1 }

/-- Packets for another device, for no device and for this one, sound and poisoned; a load whose data is lost; a write that is lost. -/
theorem wit_PortSteps : let s := { T.m with boot := { T.m.boot with bootst := 2 } }
    let g : Gust := { T.g with loads := [T.load] }
    (s.forMe { T.packet with dest := 2187 } = false ∧ s.forOther { T.packet with dest := 2187 } = false) ∧
    (s.forMe { T.packet with dest := 1 } = false ∧ s.forOther { T.packet with dest := 1 } = true ∧
      ∃ ws, readLine (s.portLine (.remote 1 0)) = .packed ws) ∧
    s.forMe T.packet = true ∧ T.packet.bad = false ∧ s.home? T.packet.line = some (T.home 0) ∧
    s.poisoned T.packet.line (sectorOf T.packet.word) = false ∧ s.dies.length = 9 ∧ s.flight = [] ∧
    (T.home 0).noted = [] ∧ (T.home 0).bad = [] ∧
    s.openRequests = [] ∧ (∃ z ∈ (T.st g T.q).openRequests, z.1 = 0) ∧
    (let w : WriteMsg := { T.write with die := 1, narrow := false }
     (({ s with flight := [.homeApplyWrite w] } : State).flight.find? (writeTo 0 [sectorOf 1])) = some (.homeApplyWrite w)) := by
  refine ⟨⟨?_, ?_⟩, ⟨?_, ?_, ?_⟩, ?_, rfl, rfl, ?_, ?_, rfl, rfl, rfl, ?_, ?_, ?_⟩
  case refine_5 =>
    have h : T.okOr (readLine (({ T.m with boot := { T.m.boot with bootst := 2 } } : State).portLine (.remote 1 0))) = true := by decide +kernel
    revert h
    cases readLine (({ T.m with boot := { T.m.boot with bootst := 2 } } : State).portLine (.remote 1 0)) <;> simp [T.okOr]
  all_goals decide +kernel

/-- The last bytes of the last line; a whole line with tag 1, with tag 0 and packed bytes, with tag 0 and one that is not, and
with no tag. -/
theorem wit_HostSteps : let s := { State.reset with boot := { State.reset.boot with bootst := 2 } }
    let line := Config.deviceLines - 1
    let form := fun (b t : Nat) => List.replicate 242 (0 : BitVec 8) ++ [BitVec.ofNat 8 b, BitVec.ofNat 8 t] ++ List.replicate 12 0
    let bs := fun (b t : Nat) => (form b t).map BitVec.toNat
    State.reset.boot.bootst ≠ 2 ∧ s.boot.bootst = 2 ∧ line < Config.deviceLines ∧ 255 + 1 ≤ 256 ∧ (∀ e ∈ s.poison, e.1 ≠ line) ∧
    (∃ ws u, s.readLineAt 9 (.dev line) = (ws, u) ∧ ∀ c, readLine ws ≠ .broken c) ∧ s.boot.bootst < 2 ^ 32 ∧ s.home? line = none ∧
    s.flight = [] ∧
    canonical hbmDefault s.hbm = true ∧ (∀ b ∈ [0, 242, 243, 255], ∀ t ∈ [0, 1, 2], (form b t).length = 256) ∧
    (bs 243 1).getD 243 0 = 1 ∧ ((bs 242 0).getD 243 0 = 0 ∧ ∀ k, k < 243 → (bs 242 0).getD k 0 ≤ 242) ∧
    ((bs 243 0).getD 243 0 = 0 ∧ (bs 243 0).getD 242 0 = 243) ∧ (bs 0 2).getD 243 0 = 2 := by
  refine ⟨?_, rfl, ?_, ?_, ?_, ⟨_, _, rfl, ?_⟩, ?_, rfl, rfl, rfl, ?_, ?_, ?_, ?_, ?_⟩
  case refine_5 =>
    have h : T.okOr (readLine (State.reset.readLineAt 9 (.dev (Config.deviceLines - 1))).1) = true := by decide +kernel
    intro c e
    rw [show readLine (State.reset.readLineAt 9 (.dev (Config.deviceLines - 1))).1 = .broken c from e] at h
    cases h
  all_goals decide +kernel

/-- A gust with a debug command in its record. -/
def T.dbg (code : Int) (st : Status) (stack : List StackEntry) : Gust :=
  { T.g with dbgCmd := Word.ofInt (code * 3 ^ 24), status := st, stack }

theorem wit_DebugSteps : let h : StackEntry := { T.path with hold := true }
    (∀ c ∈ [(1 : Int), 2, 3, 4], ∀ st ∈ [Status.running, Status.stopped], ∀ k ∈ [[], [T.path], [h]], let g := T.dbg c st k
      (T.st g T.q).gust? g.ref = some g ∧ (T.st g T.q).squall? g.ref.sq = some T.q ∧ (T.st g T.q).traceOn T.q.ctx = false ∧
      g.sreg.length = 81 ∧ fld g.dbgCmd.val 26 24 = c ∧ g.mask.has 1 = true) ∧
    T.path.kind = .minus ∧ T.path.mask.has 1 = true ∧ T.path.hold = false := by
  refine ⟨?_, ?_, ?_, rfl⟩ <;> decide +kernel

theorem wit_BootSteps : let b := State.reset.boot
    let s := fun (b : Boot) => { State.reset with boot := b }
    (s b).boot.bootst = 1 ∧ (s b).boot.checking = false ∧ (s b).boot.running = false ∧ (s { b with checking := true }).boot.checking = true ∧
    (s { b with running := true }).boot.running = true ∧ (s { b with running := true }).boot.bootst = 1 ∧
    (List.replicate 32 (0 : BitVec 8)).length = 32 ∧ (s b).boot.power = .d0 ∧
    (let u := s { b with power := .d3hotWanted }
     u.boot.power = .d3hotWanted ∧ u.fronts = [] ∧ u.allCmds = [] ∧ u.pagingWait = [] ∧ ∀ c ∈ u.cores, c.acceptQ = []) ∧
    ({ T.s with boot := { b with power := .d3hotWanted } } : State).fronts ≠ [] ∧ (s { b with power := .d3hot }).boot.power = .d3hot := by
  refine ⟨rfl, rfl, rfl, rfl, rfl, rfl, ?_, rfl, ⟨rfl, rfl, ?_, rfl, ?_⟩, List.cons_ne_nil _ _, rfl⟩ <;> decide +kernel

theorem wit_SoftErrorSteps : T.m.home? 0 = some (T.home 0) ∧ 44 < 45 ∧ T.m.poisoned 0 (sectorOf 44) = false ∧ T.m.dies.length = 9 ∧
    T.m.flight = [] := by
  refine ⟨rfl, ?_, ?_, ?_, rfl⟩ <;> decide +kernel

/-- A container: a kernel "A" of the L layout, with three vector registers, whose scalar records are NOP and EXIT. -/
def T.code (i : Instr) : Syllables := (encode i).getD ⟨Word.zero, Word.zero, Word.zero⟩
def T.line (ws : List Int) : List Int := ws ++ List.replicate (45 - ws.length) 0
def T.container (magic : Int) : List Word :=
  let e := fun (k off len n : Int) => [k * 3 ^ 24 + (if k = 3 then 3 ^ 19 else 0), off, len, n, 0, 0, 0, 0, 0]
  let scal := fun (i : Instr) => [(T.code i).s0.val, (T.code i).s1.val, (T.code i).s2.val, 0, -1, -1, 0, 0, 0]
  ([T.line [magic, 0, 3, 1, 225], T.line (e 6 90 10 1 ++ e 3 135 18 2 ++ e 7 180 9 1),
    T.line [3 ^ 26 - 3 ^ 23 + 3 ^ 21 + 3 ^ 17, 9, 3 ^ 19, 0, 0, 0, 2, 0, 0, 65 * 3 ^ 18],
    T.line (scal (.nop T.c) ++ scal (.exit T.c)), T.line [0, -1, -1, 0, 0, 0, 0, 0, 0]].flatten).map Word.ofInt
def T.shell (ws : List Word) : List (List (BitVec 8)) :=
  (List.range (ws.length / 45)).map fun k => (packedLine ((ws.drop (45 * k)).take 45)).map (BitVec.ofNat 8)
def T.module (magic : Int) : ModuleLoad :=
  { ctx := 0, fn := .pf, priv := true, code := T.shell (T.container magic), base := 4500, maps := [] }

/-- R446 to R450: it is read and laid out; with another magic word it is refused. -/
theorem test_container : (loadPlan (T.module 122640)).map (fun p => (p.images.map (·.segs), p.images.map (·.dir), p.xref.map Word.val)) =
    some ([[(0, [T.code (.nop T.c), T.code (.exit T.c)])]], [0], [0, -1, -1, 0, 0, -1, 0, 0, 0]) := by decide +kernel
theorem test_container_magic : loadPlan (T.module 122641) = none := by decide +kernel

/-- An image of two syllables. -/
def T.laid : LaidImage :=
  { prog := 0, dir := 0, isD := false, code := [], segs := [(0, [⟨Word.zero, Word.zero, Word.zero⟩, ⟨Word.ones, Word.ones, Word.ones⟩])], lazies := [] }
def T.lplan : LoadPlan := { images := [T.laid], writes := [], data := [], codeAt := [], tables := [], xref := [] }

/-- It comes to the machine after bring-up, with and without a front of image 7; the container above is sound and there is room for
it; one with another magic word is not. -/
theorem wit_ModuleSteps :
    let s := { State.reset with boot := { State.reset.boot with bootst := 2 } }
    State.reset.boot.bootst ≠ 2 ∧ s.boot.bootst = 2 ∧ ((T.container 122641).getD 0 Word.zero).val ≠ 122640 ∧
    loadPlan (T.module 122641) = none ∧ (loadPlan (T.module 122640)).isSome = true ∧
    T.lplan.images = [T.laid] ∧ T.lplan.writes = [] ∧ T.lplan.tables = [] ∧
    T.laid.segs = [(0, [⟨Word.zero, Word.zero, Word.zero⟩, ⟨Word.ones, Word.ones, Word.ones⟩])] ∧
    T.laid.lazies = [] ∧ s.cores.length = 243 ∧ s.images.length < 9841 ∧
    (∀ c, c < 243 → canonical Claims.zeroAt (s.core c).isp = true ∧
      (∃ e : Nat, (s.core c).segs[e]? = some none) ∧ (firstFit (segRuns (s.core c)) Config.codePerCore 2).isSome = true) ∧
    (∃ f ∈ T.s.fronts, f.spec.imgL = 7 ∨ f.spec.imgD = 7) ∧ (∀ f ∈ T.s.fronts, f.spec.imgL ≠ 9 ∧ f.spec.imgD ≠ 9) := by
  have h : ∀ c, c < 243 → canonical Claims.zeroAt (State.reset.core c).isp = true ∧
      (State.reset.core c).segs[0]? = some none ∧ (firstFit (segRuns (State.reset.core c)) Config.codePerCore 2).isSome = true := by
    decide +kernel
  refine ⟨?_, rfl, ?_, test_container_magic, ?_, rfl, rfl, rfl, rfl, rfl, ?_, ?_, fun c hc => ⟨(h c hc).1, ⟨0, (h c hc).2.1⟩, (h c hc).2.2⟩,
    ⟨_, .head _, .inl rfl⟩, ?_⟩
  all_goals decide +kernel

/-- The shell lines of a container; a line that is not packed. -/
theorem wit_ModuleLines : (∀ m ∈ [122640, (122641 : Int)], containerWords (T.shell (T.container m)) = some (T.container m)) ∧
    ((T.container 122641).getD 0 Word.zero).val ≠ 122640 ∧
    (let l := List.replicate 256 (255 : BitVec 8)
     ∃ x ∈ [l], x.length ≠ 256 ∨ ∀ ws, readLine (x.map BitVec.toNat) ≠ .packed ws) := by
  refine ⟨?_, ?_, _, .head _, .inr fun ws e => ?_⟩
  · decide +kernel
  · decide +kernel
  · have h : (match readLine ((List.replicate 256 (255 : BitVec 8)).map BitVec.toNat) with | .packed _ => true | _ => false) = false := by
      decide +kernel
    rw [e] at h
    cases h

/-! ## Witnesses: the step -/

/-- The machine with instruction `i` at PC 6. -/
def T.run (g : Gust) (x : Syllables) : State :=
  T.on (T.st g T.q) { Core.init with segs := some ⟨7, 0, 9, 0, false, false, 0, 0, 0⟩ :: List.replicate 26 none,
                                     isp := [(18, x.s0), (19, x.s1), (20, x.s2)] }
def T.addVec (d : Nat) : Instr := .add T.c (T.vv .i27 .zero d 0 1)

/-- NOP, an ADD that waits for a load of v1, one of a register beyond the allotment, a word that is no instruction, and no code. -/
theorem wit_FetchAndRun : let g := { T.g with loads := [{ d := 1, scalar := false, ev := 0, items := [], lease := 5 }] }
    T.q.isD = false ∧ T.g.oldCode = [] ∧ Claims.Handles T.g T.q ∧
    (∀ i ∈ [Instr.nop T.c, T.addVec 2, T.addVec 80], ∀ h ∈ [T.g, g], let s := T.run h (T.code i)
      s.Issuing h T.q ∧ s.codeIndex T.q.core T.q.image h.pc = .ok 6 ∧ decode (Claims.syllables s T.q.core 6) = .ok i) ∧
    (T.alloc.firstOut (T.addVec 2).uses = none ∧ T.alloc.firstOut (Instr.nop T.c).uses = none ∧
      T.alloc.firstOut (T.addVec 80).uses = some 80 ∧ T.g.blocksOn (T.addVec 2).uses = false ∧
      g.blocksOn (T.addVec 2).uses = true) ∧
    (let s := T.run T.g ⟨Word.ones, Word.ones, Word.ones⟩
     s.Issuing T.g T.q ∧ s.codeIndex T.q.core T.q.image T.g.pc = .ok 6 ∧ decode (Claims.syllables s T.q.core 6) = .bad 1) ∧
    T.s.codeIndex T.q.core T.q.image T.g.pc = .error 77 := by
  refine ⟨rfl, rfl, T.handles, fun i hi h hh => ?_, ⟨?_, ?_, ?_, ?_, ?_⟩, ⟨⟨rfl, rfl, rfl⟩, ?_, ?_⟩, ?_⟩
  · have k : ∀ i ∈ [Instr.nop T.c, T.addVec 2, T.addVec 80], ∀ h ∈ [T.g, { T.g with loads := [{ d := 1, scalar := false, ev := 0, items := [], lease := 5 }] }],
        (T.run h (T.code i)).cur = some h.ref ∧ (T.run h (T.code i)).gust? h.ref = some h ∧ (T.run h (T.code i)).squall? h.ref.sq = some T.q ∧
        (T.run h (T.code i)).codeIndex T.q.core T.q.image h.pc = .ok 6 ∧
        decode (Claims.syllables (T.run h (T.code i)) T.q.core 6) = .ok i := by decide +kernel
    obtain ⟨k1, k2, k3, k4, k5⟩ := k i hi h hh
    exact ⟨⟨k1, k2, k3⟩, k4, k5⟩
  all_goals decide +kernel

/-- A packet at 6 of ADD, SPLIT and NOP; SPLIT stands in a slot that forbids it. -/
theorem wit_PacketSlots : let sp : Instr := .split T.c 0 1 9
    let ws := [T.code (T.addVec 2), T.code sp, T.code (.nop T.c)]
    let g := { T.g with packet := some (6, ws) }
    let h := { g with pc := 7 }
    (T.st g T.qd).Issuing g T.qd ∧ T.qd.isD = true ∧ g.packet = some (g.pc - g.pc % 3, ws) ∧
    (∃ x, ws[(g.pc % 3).toNat]? = some x ∧ decode x = .ok (T.addVec 2)) ∧ (T.addVec 2).slotOk true g.pc = true ∧
    T.qd.alloc.firstOut (T.addVec 2).uses = none ∧ g.blocksOn (T.addVec 2).uses = false ∧
    (T.st h T.qd).Issuing h T.qd ∧ h.packet = some (h.pc - h.pc % 3, ws) ∧
    (∃ x, ws[(h.pc % 3).toNat]? = some x ∧ decode x = .ok sp) ∧ sp.slotOk true h.pc = false ∧ Claims.Handles h T.qd := by
  refine ⟨⟨rfl, rfl, rfl⟩, rfl, rfl, ⟨_, rfl, ?_⟩, ?_, ?_, ?_, ⟨rfl, rfl, rfl⟩, rfl, ⟨_, rfl, ?_⟩, ?_, rfl, ?_, ?_⟩ <;> decide +kernel

theorem wit_ActRuns : State.reset.cur = none ∧ State.reset.boot.power ≠ .d3cold ∧
    ∃ a, State.reset.ready[(State.reset.pick State.reset.ready.length).1]? = some a ∧ a.act.fields = none := by
  have h : (1 < State.reset.ready.length ∧ ∀ a ∈ State.reset.ready, a.act.fields.isNone = true) := by decide +kernel
  have hk : (State.reset.pick State.reset.ready.length).1 < State.reset.ready.length := by
    rw [State.pick, if_neg (by omega)]
    exact Nat.mod_lt _ (by omega)
  exact ⟨rfl, by decide, _, List.getElem?_eq_getElem hk, Option.isNone_iff_eq_none.1 (h.2 _ (List.getElem_mem hk))⟩

theorem wit_DecodeEncodeRoundTrip : (Instr.mma ⟨0, 0⟩ .w1i9 2186 80 78 2).wf = true := by decide +kernel

theorem wit_DecodedIsWellFormed : decode (Claims.word (Claims.zeros 6) (Claims.zeros 6) (Claims.zeros 4) (Claims.zeros 5) (Claims.zeros 7)
    (Claims.zeros 7) (Claims.zeros 7) (Claims.zeros 39)) = .ok (.nop ⟨0, 0⟩) := by decide +kernel

theorem wit_MemoryCanonicalInvariant : Memory.wf (T.run T.g (T.code (.nop T.c))) = true ∧ ∃ t, step (T.run T.g (T.code (.nop T.c))) = .next t := by
  have h : (match step (T.run T.g (T.code (.nop T.c))) with | .next _ => true | _ => false) = true := by decide +kernel
  refine ⟨by decide +kernel, ?_⟩
  generalize step (T.run T.g (T.code (.nop T.c))) = r at h ⊢
  cases r with
  | next t => exact ⟨t, rfl⟩
  | _ => cases h

/-! ## Single instructions: the spec's worked examples -/

/-- The gust after one instruction, and its words and trits. -/
def T.after (i : Instr) (g : Gust) : Gust := (T.gustOf (exec i (T.st g T.q))).getD T.g
def T.vec (g : Gust) (n : Nat) (f : Nat → Int) : Gust := g.withV n (Lanes.tab fun l => Word.ofInt (f l))
def T.els (ty : ETy) (w : Word) : List Int := elems w.val ty.width ty.count

/-- R142: 7 by 2 gives 3 and 1, −7 by 2 gives −3 and −1, 8 by 3 gives 3 and −1. -/
theorem test_div_mod : ([(7, 2), (-7, 2), (8, 3)].map fun (x : Int × Int) =>
    let g := T.set (T.set T.g 2 x.1) 3 x.2
    (((T.after (.div T.c (T.ss .i27 .zero 1 2 3)) g).s 1).val, ((T.after (.mod T.c (T.ss .i27 .zero 1 2 3)) g).s 1).val)) =
    [(3, 1), (-3, -1), (3, -1)] := by decide +kernel

/-- R145: c = 113 extracts trits 8 to 5 of 0t+0-00000. -/
theorem test_text : ((T.after (.text T.c (T.ss .i27 .zero 1 2 3)) (T.set (T.set T.g 2 1944) 3 113)).s 1).val = 8 := by decide +kernel

/-- The wide product: 5000 times 1, −100 and 9000, its high half, its low half with carries, and its saturated one. -/
def T.wide (var : Trit) : TOps := { ty := .i9, sh := .vi, var, d := 8, a := 7, b := 0, imm := 5000 * (1 + 3 ^ 9 + 3 ^ 18) }
theorem test_mulh : T.els .i9 (((T.after (.mulh T.c (T.wide .zero)) (T.vec T.g 7 fun _ => 3486782432701)).v 8).get 80) = [0, -25, 2286] := by
  decide +kernel
theorem test_mul_carry : (let g := T.after (.mul T.c (T.wide .minus)) (T.vec T.g 7 fun _ => 3486782432701)
    (T.els .i9 ((g.v 8).get 0), (g.p 26).get 80)) = ([5000, -7925, 4662], .minus) := by decide +kernel
theorem test_mul_saturates : (let g := T.after (.mul T.c (T.wide .plus)) (T.vec T.g 7 fun _ => 3486782432701)
    (T.els .i9 ((g.v 8).get 0), (g.p 26).get 80)) = ([5000, -9841, 9841], .zero) := by decide +kernel

/-- F9 trits written highest first (R30). -/
def T.f9 (ts : List Int) : Int := ts.foldl (fun x t => 3 * x + t) 0
/-- 729 + 271 is 999 in F9. -/
theorem test_fadd_inexact : T.els .f9 ((T.after (.fadd T.c (T.ss .f9 .zero 1 2 3))
    (T.set (T.set T.g 2 (T.f9 [1, -1, 0, 1, 0, 0, 0, 0, 0])) 3 (T.f9 [1, -1, -1, 1, 0, 1, 0, 0, 1]))).s 1) =
    [T.f9 [1, -1, 0, 1, 1, 0, 1, 0, 0], 0, 0] := by decide +kernel
/-- NEG of the F9 value 8 inverts the significand alone. -/
theorem test_neg_f9 : T.els .f9 ((T.after (.neg T.c (T.ss .f9 .zero 1 2 0)) (T.set T.g 2 (T.f9 [0, 1, -1, 1, 0, -1, 0, 0, 0]))).s 1) =
    [T.f9 [0, 1, -1, -1, 0, 1, 0, 0, 0], 0, 0] := by decide +kernel
/-- The binary16 value 200.5 narrows to 200 in F9. -/
theorem test_binary16_tie : bin16.toF ETy.f9.fmt 0x5A44 = T.f9 [1, -1, -1, 1, -1, 1, 1, 1, -1] := by decide +kernel

/-- The scan across beats: 729, 999, 999, with the total in s6 and 1 in s7. -/
theorem test_scan : (let g := T.vec T.g 4 fun l => if l = 0 then T.f9 [1, -1, 0, 1, 0, 0, 0, 0, 0] else
      if l = 27 then T.f9 [1, -1, -1, 1, 0, 1, 0, 0, 1] else if l = 54 then T.f9 [0, 0, 0, 1, 0, 0, 0, 0, 0] else 0
    let h := T.after (.scan T.c { T.vv .f9 .zero 3 4 6 with sh := .vs }) g
    ([26, 27, 80].map fun l => ((h.v 3).get l).val, (h.s 6).val, (h.s 7).val)) =
    ([T.f9 [1, -1, 0, 1, 0, 0, 0, 0, 0], T.f9 [1, -1, 0, 1, 1, 0, 1, 0, 0], T.f9 [1, -1, 0, 1, 1, 0, 1, 0, 0]],
      T.f9 [1, -1, 0, 1, 1, 0, 1, 0, 0], 1) := by decide +kernel

/-- One impulse of 27 in VTRIAD: −1, 2, −4 or 8 by the nonzero digits of the lane. -/
theorem test_vtriad : (let h := T.after (.vtriad T.c (T.vv .i27 .zero 1 2 0)) (T.vec T.g 2 fun l => if l = 0 then 27 else 0)
    [0, 1, 9, 18, 4, 24, 13, 26, 27].map fun l => ((h.v 1).get l).val) = [-1, 2, 2, 2, -4, -4, 8, 8, 0] := by decide +kernel

/-! Nested regions: SPLIT at PC 1, BREAK 2, JOIN. -/

def T.lanes (a b : Nat) : Mask := Mask.tab fun l => if a ≤ l ∧ l ≤ b then .plus else .minus
def T.one (pc : Int) (m : Mask) (ps : List Mask) (st : List StackEntry) : Gust :=
  { (T.g.withMask m) with pc, preg := ps ++ List.replicate (27 - ps.length) Mask.zero, stack := st }
def T.outer : List StackEntry := [⟨.minus, false, 8, T.lanes 54 80, 9⟩, ⟨.plus, false, 9, T.lanes 0 80, 9⟩]
/-- Where a gust stands: PC, the lanes of its mask, and its stack as kind, PC, lanes and reconvergence PC, the top first. -/
def T.at_ (g : Gust) : Int × List Nat × List (Trit × Int × List Nat × Int) :=
  let on_ := fun (m : Mask) => (List.range 81).filter fun l => m.get l == .plus
  (g.pc, on_ g.mask, g.stack.map fun e => (e.kind, e.pc, on_ e.mask, e.rpc))
def T.run_ (a b : Nat) : List Nat := (List.range 81).filter fun l => decide (a ≤ l ∧ l ≤ b)

theorem test_split_nested : T.at_ (T.after (.split T.c 1 5 4) (T.one 1 (T.lanes 0 53)
      [Mask.zero, Mask.tab fun l => if l ≤ 26 then .plus else if l ≤ 53 then .minus else .zero] T.outer)) =
    (2, T.run_ 0 26, [(.minus, 5, T.run_ 27 53, 6), (.plus, 6, T.run_ 0 53, 6), (.minus, 8, T.run_ 54 80, 9), (.plus, 9, T.run_ 0 80, 9)]) := by
  decide +kernel
theorem test_break_two : T.at_ (T.after (.breakOut ⟨3, 0⟩ 2) (T.one 2 (T.lanes 0 26) [Mask.zero, Mask.zero, T.lanes 0 8]
      ([⟨.minus, false, 5, T.lanes 27 53, 6⟩, ⟨.plus, false, 6, T.lanes 0 53, 6⟩] ++ T.outer))) =
    (3, T.run_ 9 26, [(.minus, 5, T.run_ 27 53, 6), (.plus, 6, T.run_ 9 53, 6), (.minus, 8, T.run_ 54 80, 9), (.plus, 9, T.run_ 0 80, 9)]) := by
  decide +kernel
theorem test_join_path : T.at_ (T.after (.join T.c) (T.one 6 (T.lanes 9 26) []
      ([⟨.minus, false, 5, T.lanes 27 53, 6⟩, ⟨.plus, false, 6, T.lanes 9 53, 6⟩] ++ T.outer))) =
    (5, T.run_ 27 53, [(.plus, 6, T.run_ 9 53, 6), (.minus, 8, T.run_ 54 80, 9), (.plus, 9, T.run_ 0 80, 9)]) := by decide +kernel
theorem test_join_region : T.at_ (T.after (.join T.c) (T.one 6 (T.lanes 27 53) [] (⟨.plus, false, 6, T.lanes 9 53, 6⟩ :: T.outer))) =
    (7, T.run_ 9 53, [(.minus, 8, T.run_ 54 80, 9), (.plus, 9, T.run_ 0 80, 9)]) := by decide +kernel

/-! Memory: one quintet, a zero line, and the class-4 page. -/

theorem test_quintet : (let b := packedLine ((8 :: List.replicate 44 (0 : Int)).map Word.ofInt)
    (b.getD 0 0, b.getD 1 0, b.getD 5 0, b.length)) = (0x81, 0x79, 0x79, 256) := by decide +kernel
theorem test_zero_line : (List.range 244).map zeroLineByte = List.replicate 243 0x79 ++ [0] := by decide +kernel
theorem test_page_digits : [7, 6, 5, 4, 3, 2, 1].map (walkIndex (1000000 / 45)) = [0, 0, 0, 0, 1, 3, 13] := by decide +kernel
theorem test_page_entry : (let w := Word.ofInt 598952075994
    (pteType w, pteK w, pteLease w, pteWrite w, ptePriv w, pteBad 1 w (Word.ofInt 4941000), leafPlace w (Word.ofInt 4941000) 1000000)) =
    (1, 4, 2, 1, 0, false, ⟨.dev 4941028, 10⟩) := by decide +kernel

/-- A trap: cause 5 of class 4 in the record, TPC after the TRAP, the PC at TVEC (R397, R400). -/
theorem test_trap_entry : (let h := T.after (.trap T.c 5) T.g
    (h.pc, h.tpc.val, h.trapActive, fld (h.gfr.getD 0 Word.zero).val 26 24, (h.gfr.getD 4 Word.zero).val)) = (9, 7, true, 4, 5) := by decide +kernel

end
end

section
/-! O35. An overlay that is accepted has the writes on their way to the code it replaces land first (`State.setSeg`), and a write
of code leaves its old word with every gust of the core that has not executed IFENCE since (R292, `State.putCode`): the issuing
gust too. So its record changes in more than `opened` and `touched`. -/

namespace Sys2Proof.Machine.OverlayRace

/-- Front 1: two squalls of one gust each, of image 7. -/
def front : Front :=
  { num := 1, ctx := 0, by_ := .list, depth := 1, prio := .zero, ceiling := .zero, left := 2, sent := [], ending := none,
    spec := { prefer := .zero, prio := .zero, dims := 1, gusts := 1, imgL := 7, imgD := 8,
              alloc := { v := 1, s := 78, p := 27, g := 27, scratch := 0, tiles := 0, slots := 0, bars := 0 },
              n0 := 2, n1 := 1, n2 := 1, ranges := (0, 2) :: List.replicate 8 (2, 0), args := 0, save := 0, done := 0, msix := -1 } }

/-- Squall `lin` of the front on L-core 24 + `lin`. -/
def squall (lin : Nat) : Squall :=
  squallAtBind State.reset front lin (24 + lin)
    { alloc := front.spec.alloc, bases := { scratch := 0, tile := 0, slot := 0, bar := 0 }, slots := [0], vbases := [0] }

/-- The gust of squall `lin`, with the operands of the overlay in its scalars: PC 0, three instructions, code address 1, index 0. -/
def gust (lin : Nat) : Gust :=
  gustAtBind ⟨1, lin, 0⟩ lin 0 0 front.spec.alloc true
    ([0, 3, 1, 0].map Word.ofInt ++ List.replicate 74 Word.zero ++ List.replicate 3 Word.ones) (List.replicate 27 Mask.zero)

/-- Gust 0 waits with its OVL for room in the copy queue. -/
def issuer : Gust := { gust 0 with status := .waiting 354 .accept }

/-- That OVL of entry 0, as it was issued. -/
def command : Cmd := State.reset.mkCmd issuer (squall 0) (.ovl ⟨0, 0⟩ 0 2 3 0 0) [0, 3, 1, 0] []

/-- Core 24: entry 0 holds PCs 0 to 2 at indices 0 to 2, and the overlay waits for room, which there is now. -/
def waitingCore : Core :=
  { Core.init with
    segs := some { image := 7, first := 0, count := 3, index := 0, pending := false, reserved := false,
                   oldFirst := 0, oldCount := 0, oldIndex := 0 } :: List.replicate 26 none,
    acceptQ := [command] }

/-- The gust on core 25 has just stored to word 0 of core 24's instruction scratchpad, and the store is on its way. -/
def state : State :=
  ({ State.reset with
      gusts := [issuer, gust 1], squalls := [squall 0, squall 1], fronts := [front], nextFront := 2,
      images := [{ num := 7, ctx := 0, isD := false, priv := true, dir := 0 }], cores := State.reset.cores.set 24 waitingCore } :
    State).sendWrite (gust 1) (dieOf 25) ⟨.win 24, (WinReg.code 0).off⟩ Word.ones 0 noLease

theorem issuer_undisturbed : issuer.Undisturbed (squall 0) where
  live := by decide +kernel
  clean := ⟨rfl, rfl⟩
  still := ⟨rfl, by decide +kernel⟩
  calm := .inr ⟨rfl, .inl rfl⟩

/-- The overlay passes the checks of R338 again as it is accepted. -/
theorem command_not_late : state.lateOverlay command = none := by decide +kernel

/-- Accepting the overlay lands the store, and the issuing gust keeps the word that it replaced (R292). -/
theorem issuer_oldCode_acceptNext :
    ((state.acceptNext 24).gust? command.who).map Gust.oldCode = some [(0, Word.zero)] := by decide +kernel

end Sys2Proof.Machine.OverlayRace

namespace Sys2Proof.Machine

/-- COMMAND_ACCEPT of a core that exists goes on with what its next acceptance leaves. -/
theorem exec_commandAccept {core : Nat} (h : core < 243) (s : State) :
    exec (.commandAccept core) s = .next (s.acceptNext core) :=
  if_pos (decide_eq_true h)

open OverlayRace

/-- Refutes O35 by its second half, for an OVL: the store that another core's gust has on its way to the code the overlay
replaces lands at the acceptance, and the issuing gust, in whose record the statement lets only `opened`, `touched` and the completion
change, keeps the old word in `oldCode`. (The first half has the same gap: an OVL at issue meets the same store.) -/
theorem not_queuedForms : ¬ Obligations.QueuedForms := by
  unfold Obligations.QueuedForms
  rintro ⟨-, accepts⟩
  obtain ⟨t, _, ht, -, -, -, hgust⟩ := accepts state 24 command [] issuer (squall 0) 354 (by decide) (by decide +kernel) rfl rfl rfl
    (by decide +kernel) (fun _ => rfl) rfl rfl rfl rfl issuer_undisturbed command_not_late
  obtain rfl : state.acceptNext 24 = t := by simpa [exec_commandAccept] using ht
  have kept : some [(0, Word.zero)] = some issuer.oldCode := by
    rw [← issuer_oldCode_acceptNext, hgust]
    rfl
  exact absurd kept (by decide)

end Sys2Proof.Machine
end

section
/-! O57. The canonical form of the memories is kept by every operation of the model: one lemma `wf_f` for each operation `f` that gives a
state, proved from those of the operations it calls. This section says what keeping the form means where an operation gives more than a
state: the effect of an instruction, the run of a command, a prepared instruction, an outcome. -/

namespace Sys2Proof.Machine

/-- The canonical form of the four byte memories, each by itself. -/
def MemOk (hbm host : List Host.Cell) (peers : List (Nat × List Host.Cell)) (flash : List (Nat × Nat × List Host.Cell)) : Bool :=
  canonical hbmDefault hbm && canonical Config.hostByte host && canonical (fun _ => []) peers &&
    (peers.all fun x => canonical hbmDefault x.2) && flash.all fun x => canonical Config.storageByte x.2.2

/-- The form looks at the four memories alone: an update of other fields leaves it as it is. -/
theorem wf_memOk (s : State) : Memory.wf s = MemOk s.hbm s.hostMem s.peers s.flash := rfl

/-- The state in an effect. -/
def Eff.state : Eff → State
  | .done s => s
  | .goto s _ => s
  | .region s _ _ => s
  | .back s _ => s
  | .fault s _ _ => s
  | .check s _ _ => s
  | .wait s _ => s
  | .stall s => s
  | .over s => s

/-- The state in which the run of a command ends. -/
def Ran.state : Ran → State
  | .ok s => s
  | .fail s _ _ => s
  | .wait s _ _ => s
  | .hold s => s

/-- The state in which the front of issue ends. -/
def Prep.state : Prep → State
  | .run _ s => s
  | .halt s => s

/-- An outcome keeps the form: its next state, if there is one, has it. -/
def Result.Keeps : Result → Prop
  | .next t => Memory.wf t = true
  | .fault _ => True
  | .refused _ => True

/-- The state that an access answers, in the form in which a match names it. -/
theorem wf_of_eq {α : Type} {x : α × State} {a : α} {t : State} (e : x = (a, t)) (h : Memory.wf x.2 = true) : Memory.wf t = true := by
  subst e
  exact h

end Sys2Proof.Machine
end

section
/-! O57: the parts of the state, and device memory with its caches. -/

namespace Sys2Proof.Machine

set_option Elab.async false

/-! ### Reading and writing the parts of the state -/

theorem wf_setGust {s : State} (h : Memory.wf s = true) (g) : Memory.wf (s.setGust g) = true := h

theorem wf_onGust {s : State} (h : Memory.wf s = true) (r f) : Memory.wf (s.onGust r f) = true := h

theorem wf_setSquall {s : State} (h : Memory.wf s = true) (q) : Memory.wf (s.setSquall q) = true := h

theorem wf_onSquall {s : State} (h : Memory.wf s = true) (q f) : Memory.wf (s.onSquall q f) = true := h

theorem wf_onCore {s : State} (h : Memory.wf s = true) (c f) : Memory.wf (s.onCore c f) = true := h

theorem wf_onDie {s : State} (h : Memory.wf s = true) (d f) : Memory.wf (s.onDie d f) = true := h

theorem wf_onFront {s : State} (h : Memory.wf s = true) (n f) : Memory.wf (s.onFront n f) = true := h

theorem wf_send {s : State} (h : Memory.wf s = true) (i) : Memory.wf (s.send i) = true := h

theorem wf_emit {s : State} (h : Memory.wf s = true) (o) : Memory.wf (s.emit o) = true := h

theorem wf_pick {s : State} (h : Memory.wf s = true) (n) : Memory.wf (s.pick n).2 = true := by
  unfold State.pick
  grind [wf_memOk]

theorem wf_anyOrder {α : Type} {s : State} (h : Memory.wf s = true) (n) (xs : List α) : Memory.wf (s.anyOrder n xs).2 = true := by
  induction n generalizing s xs with
  | zero => exact h
  | succ n ih => exact ih (wf_pick h _) _

theorem wf_unspecified {s : State} (h : Memory.wf s = true) : Memory.wf (s.unspecified).2 = true := h

theorem wf_fresh {s : State} (h : Memory.wf s = true) : Memory.wf (s.fresh).2 = true := h

theorem wf_each {α : Type} {s : State} {f : State → α → State} (h : Memory.wf s = true)
    (hf : ∀ t x, Memory.wf t = true → Memory.wf (f t x) = true) (xs) : Memory.wf (s.each xs f) = true := by
  induction xs generalizing s with
  | nil => exact h
  | cons x xs ih => exact ih (hf s x h)

/-! ### Device memory and its caches -/

theorem wf_onHome {s : State} (h : Memory.wf s = true) (p f) : Memory.wf (s.onHome p f) = true := h

theorem wf_onL1 {s : State} (h : Memory.wf s = true) (d loc f) : Memory.wf (s.onL1 d loc f) = true := by
  unfold State.onL1
  grind [wf_onDie]

theorem wf_raiseClocks {s : State} (h : Memory.wf s = true) (p qs st) : Memory.wf (s.raiseClocks p qs st) = true := h

theorem wf_addHolder {s : State} (h : Memory.wf s = true) (d p q) : Memory.wf (s.addHolder d p q) = true := by
  unfold State.addHolder
  grind [wf_onHome]

theorem wf_settleHolders {s : State} (h : Memory.wf s = true) (d) : Memory.wf (s.settleHolders d) = true := h

theorem wf_applyInvalidation {s : State} (h : Memory.wf s = true) (d p q) : Memory.wf (s.applyInvalidation d p q) = true := by
  unfold State.applyInvalidation
  grind [wf_onL1, wf_onDie, wf_onHome]

theorem wf_deliver {s : State} (h : Memory.wf s = true) (d clk) : Memory.wf (s.deliver d clk) = true := by
  unfold State.deliver
  grind [wf_each, wf_applyInvalidation, wf_memOk]

theorem wf_receive {s : State} (h : Memory.wf s = true) (d clk) : Memory.wf (s.receive d clk) = true := by
  unfold State.receive
  grind [wf_onDie, wf_deliver, wf_memOk]

theorem wf_stamp {s : State} (h : Memory.wf s = true) (d) : Memory.wf (s.stamp d).2 = true := by
  unfold State.stamp
  grind [wf_onDie, wf_memOk]

theorem wf_takeWords {s : State} (h : Memory.wf s = true) (d p ws) : Memory.wf (s.takeWords d p ws) = true := by
  unfold State.takeWords
  grind [wf_onDie, wf_onL1]

theorem wf_applyWords {s : State} (h : Memory.wf s = true) (d st p ws) : Memory.wf (s.applyWords d st p ws) = true := by
  unfold State.applyWords
  grind [wf_raiseClocks, wf_onHome, wf_each, wf_send, wf_onL1]

theorem wf_applyToHome {s : State} (h : Memory.wf s = true) (d st p ws) : Memory.wf (s.applyToHome d st p ws) = true :=
  wf_takeWords (wf_applyWords h ..) ..

theorem wf_addPoison {s : State} (h : Memory.wf s = true) (line qs) : Memory.wf (s.addPoison line qs) = true := by
  unfold State.addPoison
  grind [wf_onDie, wf_memOk]

theorem wf_addPortPoison {s : State} (h : Memory.wf s = true) (loc q) : Memory.wf (s.addPortPoison loc q) = true := by
  unfold State.addPortPoison
  grind [wf_memOk]

theorem wf_poisonBad {s : State} (h : Memory.wf s = true) (loc w v) : Memory.wf (s.poisonBad loc w v) = true := by
  unfold State.poisonBad
  grind [wf_addPoison, wf_addPortPoison]

theorem wf_dropHome {s : State} (h : Memory.wf s = true) (p) : Memory.wf (s.dropHome p) = true := by
  unfold State.dropHome
  grind [wf_each, wf_applyInvalidation, wf_deliver, wf_setHbmLine, wf_addPoison, wf_memOk]

theorem wf_acked {s : State} (h : Memory.wf s = true) (r) : Memory.wf (s.acked r) = true := by
  unfold State.acked
  grind [wf_onGust]

theorem wf_zargenAck {s : State} (h : Memory.wf s = true) (seq) : Memory.wf (s.zargenAck seq) = true := by
  unfold State.zargenAck
  grind [wf_acked, wf_memOk]

theorem wf_ackWrite {s : State} (h : Memory.wf s = true) (m) : Memory.wf (s.ackWrite m) = true := by
  unfold State.ackWrite
  grind [wf_send, wf_acked, wf_zargenAck]

theorem wf_endWrite {x : Answer Unit} (h : Memory.wf x.2 = true) (m) : Memory.wf (State.endWrite m x) = true := by
  unfold State.endWrite
  grind [wf_ackWrite, wf_send]

theorem wf_landPort {s : State} (h : Memory.wf s = true) (m) : Memory.wf (s.landPort m).2 = true := by
  unfold State.landPort
  grind [wf_setPortLine]

theorem wf_flushPort {s : State} (h : Memory.wf s = true) (d loc) : Memory.wf (s.flushPort d loc) = true := by
  unfold State.flushPort
  grind [wf_each, wf_endWrite, wf_landPort, wf_memOk]

theorem wf_overtake {s : State} (h : Memory.wf s = true) (d p ws) : Memory.wf (s.overtake d p ws) = true := by
  unfold State.overtake
  grind [wf_each, wf_acked, wf_memOk]

theorem wf_writeBackWords {s : State} (h : Memory.wf s = true) (d loc ws ctx) : Memory.wf (s.writeBackWords d loc ws ctx) = true := by
  unfold State.writeBackWords
  grind [wf_overtake, wf_stamp, wf_applyToHome, wf_raiseClocks, wf_setHbmLine, wf_each, wf_onL1, wf_send, wf_flushPort, wf_setPortLine]

theorem wf_note {s : State} (h : Memory.wf s = true) (d p q on) : Memory.wf (s.note d p q on) = true := by
  unfold State.note
  grind [wf_onHome]

theorem wf_writeBackOne {s : State} (h : Memory.wf s = true) (d loc w v) : Memory.wf (s.writeBackOne d loc w v) = true := by
  unfold State.writeBackOne
  grind [wf_poisonBad, wf_onL1, wf_writeBackWords, wf_note]

theorem wf_writeBack {s : State} (h : Memory.wf s = true) (d loc q) : Memory.wf (s.writeBack d loc q) = true := by
  unfold State.writeBack
  grind [wf_each, wf_writeBackOne, wf_poisonBad, wf_onL1, wf_writeBackWords, wf_note]

theorem wf_writeBackOlder {s : State} (h : Memory.wf s = true) (d) : Memory.wf (s.writeBackOlder d) = true := by
  unfold State.writeBackOlder
  grind [wf_each, wf_writeBackOne]

theorem wf_writeBackAll {s : State} (h : Memory.wf s = true) (d) : Memory.wf (s.writeBackAll d) = true := by
  unfold State.writeBackAll
  grind [wf_each, wf_writeBackOne]

theorem wf_releaseDies {s : State} (h : Memory.wf s = true) : Memory.wf (s.releaseDies) = true := by
  unfold State.releaseDies
  grind [wf_anyOrder, wf_each, wf_onDie, wf_writeBackAll]

theorem wf_publish {s : State} (h : Memory.wf s = true) (d p q) : Memory.wf (s.publish d p q) = true := by
  unfold State.publish
  grind [wf_each, wf_writeBack, wf_onDie]

theorem wf_recall {s : State} (h : Memory.wf s = true) (p) : Memory.wf (s.recall p) = true := by
  unfold State.recall
  grind [wf_dropHome, wf_each, wf_publish]

theorem wf_l2Room {s : State} (h : Memory.wf s = true) (k) : Memory.wf (s.l2Room k) = true := by
  unfold State.l2Room
  grind [wf_recall, wf_settleHolders, wf_onDie]

theorem wf_homeFill {s : State} (h : Memory.wf s = true) (p ev) : Memory.wf (s.homeFill p ev).2 = true := by
  unfold State.homeFill
  grind [wf_fresh, wf_onHome, wf_l2Room, wf_memOk]

theorem wf_evictL1 {s : State} (h : Memory.wf s = true) (d loc) : Memory.wf (s.evictL1 d loc) = true := by
  unfold State.evictL1
  grind [wf_each, wf_writeBack, wf_settleHolders, wf_onDie]

theorem wf_l1Touch {s : State} (h : Memory.wf s = true) (d loc ev) : Memory.wf (s.l1Touch d loc ev) = true := by
  unfold State.l1Touch
  grind [wf_fresh, wf_onL1, wf_evictL1, wf_onDie]

theorem wf_nearInstall {s : State} (h : Memory.wf s = true) (d p q ws ev) : Memory.wf (s.nearInstall d p q ws ev) = true := by
  unfold State.nearInstall
  grind [wf_fresh, wf_onDie, wf_l2Room]

theorem wf_nearHit {s : State} (h : Memory.wf s = true) (d p ev) : Memory.wf (s.nearHit d p ev) = true := by
  unfold State.nearHit
  grind [wf_fresh, wf_onDie]

theorem wf_landWrite {s : State} (h : Memory.wf s = true) (m) : Memory.wf (s.landWrite m).2 = true := by
  unfold State.landWrite
  grind [wf_homeFill, wf_applyWords, wf_landPort]

theorem wf_finishWrite {s : State} (h : Memory.wf s = true) (m) : Memory.wf (s.finishWrite m) = true := wf_endWrite (wf_landWrite h ..) ..

theorem wf_flushLoc {s : State} (h : Memory.wf s = true) (d loc) : Memory.wf (s.flushLoc d loc) = true := by
  unfold State.flushLoc
  grind [wf_each, wf_finishWrite, wf_flushPort, wf_memOk]

theorem wf_fetchSector {s : State} (h : Memory.wf s = true) (d p q ev) : Memory.wf (s.fetchSector d p q ev).2 = true := by
  unfold State.fetchSector
  grind [wf_nearHit, wf_flushLoc, wf_homeFill, wf_receive, wf_addHolder, wf_nearInstall]

theorem wf_belowL1 {s : State} (h : Memory.wf s = true) (d loc q ev) : Memory.wf (s.belowL1 d loc q ev).2 = true := by
  unfold State.belowL1
  grind [wf_fetchSector, wf_flushLoc]

theorem wf_l1Install {s : State} (h : Memory.wf s = true) (d loc q ws ev) : Memory.wf (s.l1Install d loc q ws ev) = true := by
  unfold State.l1Install
  grind [wf_onL1, wf_l1Touch, wf_addHolder]

theorem wf_l1Fill {s : State} (h : Memory.wf s = true) (d loc q ev) : Memory.wf (s.l1Fill d loc q ev).2 = true := by
  unfold State.l1Fill
  grind [wf_belowL1, wf_l1Install]

theorem wf_readBelow {s : State} (h : Memory.wf s = true) (d a ev) : Memory.wf (s.readBelow d a ev).2 = true := by
  unfold State.readBelow
  grind [wf_belowL1]

theorem wf_readRelaxed {s : State} (h : Memory.wf s = true) (d a ev) : Memory.wf (s.readRelaxed d a ev).2 = true := by
  unfold State.readRelaxed
  grind [wf_readBelow, wf_l1Touch, wf_l1Fill]

theorem wf_readNarrow {s : State} (h : Memory.wf s = true) (d a ev) : Memory.wf (s.readNarrow d a ev).2 = true := by
  unfold State.readNarrow
  grind [wf_l1Fill, wf_readRelaxed]

theorem wf_readWide {s : State} (h : Memory.wf s = true) (d a ev) : Memory.wf (s.readWide d a ev).2 = true := by
  unfold State.readWide
  grind [wf_flushLoc, wf_homeFill, wf_publish, wf_receive, wf_readBelow]

theorem wf_dropStale {s : State} (h : Memory.wf s = true) (d sys) : Memory.wf (s.dropStale d sys) = true := by
  unfold State.dropStale
  grind [wf_settleHolders, wf_onDie]

theorem wf_orderPoint {s : State} (h : Memory.wf s = true) (d sys) : Memory.wf (s.orderPoint d sys) = true :=
  wf_dropStale (wf_receive h ..) ..

theorem wf_storeMiss {s : State} (h : Memory.wf s = true) (d a ev) : Memory.wf (s.storeMiss d a ev).2 = true := by
  unfold State.storeMiss
  grind [wf_homeFill]

theorem wf_writeL1 {s : State} (h : Memory.wf s = true) (ctx d a v ev) : Memory.wf (s.writeL1 ctx d a v ev).2 = true := by
  unfold State.writeL1
  grind [wf_storeMiss, wf_l1Touch, wf_onL1, wf_addHolder, wf_note]

theorem wf_writeAtHome {s : State} (h : Memory.wf s = true) (d a v ev) : Memory.wf (s.writeAtHome d a v ev).2 = true := by
  unfold State.writeAtHome
  grind [wf_flushLoc, wf_homeFill, wf_stamp, wf_applyToHome, wf_setPortLine]

theorem wf_updateL1 {s : State} (h : Memory.wf s = true) (ctx d a ev f) : Memory.wf (s.updateL1 ctx d a ev f).2 = true := by
  unfold State.updateL1
  grind [wf_readRelaxed, wf_writeAtHome, wf_writeBackOlder, wf_writeL1, wf_writeBack]

theorem wf_storeL1 {s : State} (h : Memory.wf s = true) (ctx d a v ev) : Memory.wf (s.storeL1 ctx d a v ev) = true := by
  unfold State.storeL1
  grind [wf_writeL1, wf_writeBack, wf_writeAtHome, wf_writeBackOlder]

theorem wf_pruneL1 {s : State} (h : Memory.wf s = true) (d) : Memory.wf (s.pruneL1 d) = true := wf_onDie h ..

theorem wf_updateHome {s : State} (h : Memory.wf s = true) (d at_ ev f) : Memory.wf (s.updateHome d at_ ev f).2 = true := by
  unfold State.updateHome
  extract_lets q s1 s2
  have h1 : Memory.wf s1 = true := by
    unfold s1
    split
    · exact wf_settleHolders (wf_pruneL1 (wf_onL1 (wf_writeBack (wf_writeBackOlder h d) ..) ..) d) d
    · exact h
  have h2 : Memory.wf s2 = true := wf_flushLoc h1 ..
  clear_value s2
  split <;> grind [wf_homeFill, wf_publish, wf_receive, wf_stamp, wf_applyToHome, wf_setPortLine]

theorem wf_readHome {s : State} (h : Memory.wf s = true) (d a) : Memory.wf (s.readHome d a).2 = true := by
  unfold State.readHome
  grind [wf_flushLoc, wf_homeFill, wf_receive, wf_readBelow]

theorem wf_readLineAt {s : State} (h : Memory.wf s = true) (d loc) : Memory.wf (s.readLineAt d loc).2 = true := by
  unfold State.readLineAt
  grind [wf_flushLoc, wf_receive]

theorem wf_setLineBytes {s : State} (h : Memory.wf s = true) (d loc bs) : Memory.wf (s.setLineBytes d loc bs) = true := by
  unfold State.setLineBytes
  grind [wf_stamp, wf_recall, wf_each, wf_onL1, wf_raiseClocks, wf_setHbmLine, wf_setPortLine]

theorem wf_putLineAt {s : State} (h : Memory.wf s = true) (d p bs) : Memory.wf (s.putLineAt d p bs) = true := by
  unfold State.putLineAt
  grind [wf_flushLoc, wf_stamp, wf_applyToHome, wf_dropHome, wf_each, wf_onL1, wf_raiseClocks, wf_setHbmLine]

end Sys2Proof.Machine
end

section
/-! O57: translation, fault records, latches, windows and the ends of fronts. -/

namespace Sys2Proof.Machine

set_option Elab.async false

/-! ### Address translation -/

theorem wf_walkFrom {s : State} (h : Memory.wf s = true) (d ctx line n k x) : Memory.wf (s.walkFrom d ctx line n k x).2 = true := by
  induction n generalizing s d ctx line k x with
  | zero => exact h
  | succ n ih =>
    unfold State.walkFrom
    grind [wf_readWide, wf_onDie]

theorem wf_walk {s : State} (h : Memory.wf s = true) (d ctx x) : Memory.wf (s.walk d ctx x).2 = true := by
  unfold State.walk
  grind [wf_walkFrom]

theorem wf_queuePageIn {s : State} (h : Memory.wf s = true) (ctx record entry) : Memory.wf (s.queuePageIn ctx record entry) = true := by
  unfold State.queuePageIn
  grind [wf_fresh, wf_memOk]

theorem wf_refillPaging {s : State} (h : Memory.wf s = true) : Memory.wf (s.refillPaging) = true := h

theorem wf_startFill {s : State} (h : Memory.wf s = true) (d core ctx entry w0 w1 x) :
    Memory.wf (s.startFill d core ctx entry w0 w1 x) = true := by
  unfold State.startFill
  grind [wf_updateHome, wf_queuePageIn, wf_send]

theorem wf_translateBy {s : State} (h : Memory.wf s = true) (via core ctx x write priv fill) :
    Memory.wf (s.translateBy via core ctx x write priv fill).2 = true := by
  unfold State.translateBy
  grind [wf_walk, wf_startFill, wf_onCore]

theorem wf_translate {s : State} (h : Memory.wf s = true) (core ctx x write priv fill) :
    Memory.wf (s.translate core ctx x write priv fill).2 = true :=
  wf_translateBy h ..

theorem wf_under {α : Type} {s : State} {f : State → α × State} (h : Memory.wf s = true)
    (hf : ∀ t, Memory.wf t = true → Memory.wf (f t).2 = true) (who) :
    Memory.wf (s.under who f).2 = true := by
  unfold State.under
  grind [wf_memOk]

theorem wf_sysTranslate {s : State} (h : Memory.wf s = true) (ctx x write) : Memory.wf (s.sysTranslate ctx x write).2 = true := by
  unfold State.sysTranslate
  grind [wf_walk, wf_startFill, wf_memOk]

theorem wf_sysRead {s : State} (h : Memory.wf s = true) (ctx x) : Memory.wf (s.sysRead ctx x).2 = true := by
  unfold State.sysRead
  grind [wf_sysTranslate, wf_readWide]

theorem wf_sysWrite {s : State} (h : Memory.wf s = true) (ctx x v) : Memory.wf (s.sysWrite ctx x v).2 = true := by
  unfold State.sysWrite
  grind [wf_sysTranslate, wf_writeAtHome]

theorem wf_sysReads {s : State} (h : Memory.wf s = true) (ctx x n) : Memory.wf (s.sysReads ctx x n).2 = true := by
  induction n generalizing s ctx x with
  | zero => exact h
  | succ n ih =>
    unfold State.sysReads
    grind [wf_sysRead]

theorem wf_sysWrites {s : State} (h : Memory.wf s = true) (ctx x xs) : Memory.wf (s.sysWrites ctx x xs).2 = true := by
  induction xs generalizing s ctx x with
  | nil => exact h
  | cons y xs ih =>
    unfold State.sysWrites
    grind [wf_sysWrite]

theorem wf_sysPuts {s : State} (h : Memory.wf s = true) (ctx xs) : Memory.wf (s.sysPuts ctx xs).2 = true := by
  induction xs generalizing s ctx with
  | nil => exact h
  | cons x xs ih =>
    unfold State.sysPuts
    grind [wf_sysWrite]

theorem wf_sysPutAs {s : State} (h : Memory.wf s = true) (n ctx x v) : Memory.wf (s.sysPutAs n ctx x v) = true := by
  unfold State.sysPutAs
  grind [wf_under, wf_sysWrite, wf_memOk]

theorem wf_sysPut {s : State} (h : Memory.wf s = true) (ctx x v) : Memory.wf (s.sysPut ctx x v) = true := wf_sysPutAs h ..

theorem wf_failFill {s : State} (h : Memory.wf s = true) (entry cause) : Memory.wf (s.failFill entry cause) = true := by
  unfold State.failFill
  grind [wf_updateHome, wf_memOk]

/-! ### Fault records and register writes -/

theorem wf_laneFault {s : State} (h : Memory.wf s = true) (r l cause detail) : Memory.wf (s.laneFault r l cause detail) = true := by
  unfold State.laneFault
  grind [wf_setGust]

theorem wf_writeMaskWord {s : State} (h : Memory.wf s = true) (r k w) : Memory.wf (s.writeMaskWord r k w) = true := by
  unfold State.writeMaskWord
  grind [wf_setGust]

theorem wf_writeS {s : State} (h : Memory.wf s = true) (r n w) : Memory.wf (s.writeS r n w) = true := by
  unfold State.writeS
  grind [wf_writeMaskWord, wf_onGust]

theorem wf_writeSs {s : State} (h : Memory.wf s = true) (r n xs) : Memory.wf (s.writeSs r n xs) = true := by
  induction xs generalizing s r n with
  | nil => exact h
  | cons x xs ih =>
    unfold State.writeSs
    grind [wf_writeS]

theorem wf_writeV {s : State} (h : Memory.wf s = true) (r n w) : Memory.wf (s.writeV r n w) = true := wf_onGust h ..

theorem wf_writeP {s : State} (h : Memory.wf s = true) (r n m) : Memory.wf (s.writeP r n m) = true := wf_onGust h ..

/-! ### Line latches at the home slices -/

theorem wf_onHead {s : State} (h : Memory.wf s = true) (line f) : Memory.wf (s.onHead line f) = true := h

theorem wf_tellLatch {s : State} (h : Memory.wf s = true) (who line first cnt status ev) :
    Memory.wf (s.tellLatch who line first cnt status ev) = true :=
  wf_send h ..

theorem wf_sendGrant {s : State} (h : Memory.wf s = true) (who line first cnt status ev) :
    Memory.wf (s.sendGrant who line first cnt status ev) = true := by
  unfold State.sendGrant
  grind [wf_homeFill, wf_send]

theorem wf_grantLatch {s : State} (h : Memory.wf s = true) (who ctx line first cnt cls lost ev) :
    Memory.wf (s.grantLatch who ctx line first cnt cls lost ev) = true := by
  unfold State.grantLatch
  grind [wf_onHead, wf_each, wf_publish, wf_sendGrant]

theorem wf_onEntry {s : State} (h : Memory.wf s = true) (line who f) : Memory.wf (s.onEntry line who f) = true := by
  unfold State.onEntry
  grind [wf_fresh, wf_onHead]

theorem wf_endEntry {s : State} (h : Memory.wf s = true) (line e status) : Memory.wf (s.endEntry line e status) = true :=
  wf_tellLatch (wf_onHead h ..) ..

theorem wf_dropExpired {s : State} (h : Memory.wf s = true) (line) : Memory.wf (s.dropExpired line) = true := by
  unfold State.dropExpired
  grind [wf_each, wf_endEntry]

theorem wf_chooseLatch {s : State} (h : Memory.wf s = true) (line n) : Memory.wf (s.chooseLatch line n) = true := by
  induction n generalizing s line with
  | zero => exact h
  | succ n ih =>
    unfold State.chooseLatch
    grind [wf_grantLatch, wf_onHead, wf_onEntry]

theorem wf_chooseNext {s : State} (h : Memory.wf s = true) (line) : Memory.wf (s.chooseNext line) = true :=
  wf_chooseLatch (wf_dropExpired h ..) ..

theorem wf_latchRequest {s : State} (h : Memory.wf s = true) (m) : Memory.wf (s.latchRequest m) = true := by
  unfold State.latchRequest
  grind [wf_dropExpired, wf_tellLatch, wf_fresh, wf_grantLatch, wf_onHead, wf_chooseNext, wf_memOk]

theorem wf_latchRelease {s : State} (h : Memory.wf s = true) (m) : Memory.wf (s.latchRelease m) = true := by
  unfold State.latchRelease
  grind [wf_raiseClocks, wf_chooseNext, wf_onHead]

theorem wf_latchLapse {s : State} (h : Memory.wf s = true) (line who) : Memory.wf (s.latchLapse line who) = true := by
  unfold State.latchLapse
  grind [wf_fresh, wf_chooseNext, wf_onHead]

theorem wf_dropEntry {s : State} (h : Memory.wf s = true) (line who status) : Memory.wf (s.dropEntry line who status) = true := by
  unfold State.dropEntry
  grind [wf_chooseNext, wf_endEntry]

theorem wf_latchDeadline {s : State} (h : Memory.wf s = true) (line who) : Memory.wf (s.latchDeadline line who) = true := by
  unfold State.latchDeadline
  grind [wf_dropEntry]

theorem wf_latchRebound {s : State} (h : Memory.wf s = true) (who) : Memory.wf (s.latchRebound who) = true := by
  unfold State.latchRebound
  grind [wf_each, wf_chooseNext, wf_grantLatch, wf_dropEntry, wf_onEntry]

theorem wf_latchDiscard {s : State} (h : Memory.wf s = true) (gone) : Memory.wf (s.latchDiscard gone) = true := by
  unfold State.latchDiscard
  grind [wf_each, wf_publish, wf_chooseNext, wf_onHead]

/-! ### Window space -/

theorem wf_setFreeWord {s : State} (h : Memory.wf s = true) (core w v) : Memory.wf (s.setFreeWord core w v) = true := wf_onCore h ..

theorem wf_putUnheld {s : State} (h : Memory.wf s = true) (core ctx w v) : Memory.wf (s.putUnheld core ctx w v) = true := by
  unfold State.putUnheld
  grind [wf_setFreeWord]

theorem wf_putCode {s : State} (h : Memory.wf s = true) (core w v) : Memory.wf (s.putCode core w v) = true := by
  unfold State.putCode
  grind [wf_onCore, wf_memOk]

theorem wf_winPut {s : State} (h : Memory.wf s = true) (core ctx v w) : Memory.wf (s.winPut core ctx v w) = true := by
  unfold State.winPut
  grind [wf_putUnheld, wf_setSquall, wf_setGust, wf_putCode, wf_each, wf_onSquall, wf_setFreeWord]

theorem wf_occupy {s : State} (h : Memory.wf s = true) (q gs) : Memory.wf (s.occupy q gs) = true := wf_onCore h ..

theorem wf_vacate {s : State} (h : Memory.wf s = true) (q gs) : Memory.wf (s.vacate q gs) = true := by
  unfold State.vacate
  grind [wf_each, wf_setFreeWord]

/-! ### Fronts, the fault log and discards -/

theorem wf_acceptFront {s : State} (h : Memory.wf s = true) (ctx b depth ceiling f) :
    Memory.wf (s.acceptFront ctx b depth ceiling f).2 = true :=
  h

theorem wf_checkRead {s : State} (h : Memory.wf s = true) (ctx cause addr) : Memory.wf (s.checkRead ctx cause addr) = true := by
  unfold State.checkRead
  grind [wf_send]

theorem wf_launchAt {s : State} (h : Memory.wf s = true) (ctx b depth limit x) : Memory.wf (s.launchAt ctx b depth limit x).2 = true := by
  unfold State.launchAt
  grind [wf_sysReads, wf_checkRead, wf_acceptFront]

theorem wf_signal {s : State} (h : Memory.wf s = true) (ctx v) : Memory.wf (s.signal ctx v) = true := by
  unfold State.signal
  grind [wf_emit]

theorem wf_logTry {s : State} (h : Memory.wf s = true) (ctx rec) : Memory.wf (s.logTry ctx rec).2 = true := by
  unfold State.logTry
  grind [wf_sysReads, wf_sysPuts, wf_signal, wf_sysWrite]

theorem wf_keep {s : State} (h : Memory.wf s = true) (n d) : Memory.wf (s.keep n d) = true := h

theorem wf_logRecordAs {s : State} (h : Memory.wf s = true) (n ctx rec) : Memory.wf (s.logRecordAs n ctx rec) = true := by
  unfold State.logRecordAs
  grind [wf_under, wf_logTry, wf_keep]

theorem wf_logRecord {s : State} (h : Memory.wf s = true) (ctx rec) : Memory.wf (s.logRecord ctx rec) = true := wf_logRecordAs h ..

theorem wf_putWord {s : State} (h : Memory.wf s = true) (ctx x v) : Memory.wf (s.putWord ctx x v) = true := wf_sysPut h ..

theorem wf_imageWriteAs {s : State} (h : Memory.wf s = true) (n ctx x v) : Memory.wf (s.imageWriteAs n ctx x v) = true := by
  unfold State.imageWriteAs
  grind [wf_under, wf_sysWrite, wf_send, wf_keep]

theorem wf_imageWrite {s : State} (h : Memory.wf s = true) (ctx x v) : Memory.wf (s.imageWrite ctx x v) = true := wf_imageWriteAs h ..

theorem wf_packetTry {s : State} (h : Memory.wf s = true) (ctx r packet) : Memory.wf (s.packetTry ctx r packet).2 = true := by
  unfold State.packetTry
  grind [wf_onGust, wf_sysReads, wf_sysPuts, wf_sysWrite]

theorem wf_putPacketAs {s : State} (h : Memory.wf s = true) (n ctx r packet) : Memory.wf (s.putPacketAs n ctx r packet) = true := by
  unfold State.putPacketAs
  grind [wf_keep, wf_under, wf_packetTry]

theorem wf_putPacket {s : State} (h : Memory.wf s = true) (ctx r packet) : Memory.wf (s.putPacket ctx r packet) = true :=
  wf_putPacketAs h ..

theorem wf_flushDeferred {s : State} (h : Memory.wf s = true) : Memory.wf (s.flushDeferred) = true := by
  unfold State.flushDeferred
  grind [wf_each, wf_sysPutAs, wf_imageWriteAs, wf_logRecordAs, wf_putPacketAs, wf_memOk]

theorem wf_onGraph {s : State} (h : Memory.wf s = true) (id f) : Memory.wf (s.onGraph id f) = true := h

theorem wf_dropFront {s : State} (h : Memory.wf s = true) (f) : Memory.wf (s.dropFront f) = true := by
  unfold State.dropFront
  grind [wf_signal, wf_onGraph, wf_readHome, wf_failFill, wf_memOk]

theorem wf_finishFront {s : State} (h : Memory.wf s = true) (n) : Memory.wf (s.finishFront n) = true := by
  unfold State.finishFront
  grind [wf_under, wf_releaseDies, wf_sysWrite, wf_dropFront]

theorem wf_retireFront {s : State} (h : Memory.wf s = true) (n value) : Memory.wf (s.retireFront n value) = true := by
  unfold State.retireFront
  grind [wf_onFront, wf_finishFront, wf_memOk]

theorem wf_takeItems {s : State} (h : Memory.wf s = true) (core ctx mine k xs) : Memory.wf (s.takeItems core ctx mine k xs).2 = true := by
  induction xs generalizing s core ctx mine k with
  | nil => exact h
  | cons x xs ih =>
    unfold State.takeItems
    grind [wf_winPut]

theorem wf_takeAtoms {s : State} (h : Memory.wf s = true) (core ctx mine xs) : Memory.wf (s.takeAtoms core ctx mine xs).2 = true := by
  induction xs generalizing s core ctx mine with
  | nil => exact h
  | cons x xs ih =>
    unfold State.takeAtoms
    grind [wf_takeItems]

theorem wf_landPorts {s : State} (h : Memory.wf s = true) (core mine) : Memory.wf (s.landPorts core mine) = true := by
  unfold State.landPorts
  grind [wf_each, wf_acked, wf_winPut, wf_onGust, wf_takeAtoms, wf_memOk]

theorem wf_landInto {s : State} (h : Memory.wf s = true) (q) : Memory.wf (s.landInto q) = true := wf_landPorts h ..

theorem wf_leaveCore {s : State} (h : Memory.wf s = true) (q) : Memory.wf (s.leaveCore q) = true := by
  unfold State.leaveCore
  grind [wf_landInto, wf_vacate]

theorem wf_setSeg {s : State} (h : Memory.wf s = true) (core e x) : Memory.wf (s.setSeg core e x) = true := by
  unfold State.setSeg
  grind [wf_landPorts, wf_onCore]

theorem wf_putSeg {s : State} (h : Memory.wf s = true) (core e x) : Memory.wf (s.putSeg core e x) = true := wf_setSeg h ..

theorem wf_overlayEnd {s : State} (h : Memory.wf s = true) (c ran) : Memory.wf (s.overlayEnd c ran) = true := by
  unfold State.overlayEnd
  grind [wf_onCore, wf_setSeg, wf_putSeg]

theorem wf_endOverlays {s : State} (h : Memory.wf s = true) (cs) : Memory.wf (s.endOverlays cs) = true := by
  unfold State.endOverlays
  grind [wf_each, wf_overlayEnd]

theorem wf_dropSquall {s : State} (h : Memory.wf s = true) (q) : Memory.wf (s.dropSquall q) = true := by
  unfold State.dropSquall
  grind [wf_leaveCore, wf_endOverlays, wf_refillPaging, wf_memOk]

theorem wf_loseWrites {s : State} (h : Memory.wf s = true) (of) : Memory.wf (s.loseWrites of) = true := by
  unfold State.loseWrites
  grind [wf_each, wf_pick, wf_memOk]

theorem wf_discardFronts {s : State} (h : Memory.wf s = true) (ns) : Memory.wf (s.discardFronts ns) = true := by
  unfold State.discardFronts
  grind [wf_each, wf_putWord, wf_dropSquall, wf_loseWrites, wf_latchDiscard, wf_memOk]

theorem wf_endFront {s : State} (h : Memory.wf s = true) (n own ended) : Memory.wf (s.endFront n own ended) = true := by
  unfold State.endFront
  grind [wf_each, wf_logRecord, wf_discardFronts, wf_retireFront]

theorem wf_endFrontOf {s : State} (h : Memory.wf s = true) (g cause own) : Memory.wf (s.endFrontOf g cause own) = true := wf_endFront h ..

theorem wf_finishGraph {s : State} (h : Memory.wf s = true) (id) : Memory.wf (s.finishGraph id) = true := by
  unfold State.finishGraph
  grind [wf_under, wf_releaseDies, wf_sysWrite, wf_signal, wf_memOk]

theorem wf_retryWrites {s : State} (h : Memory.wf s = true) : Memory.wf (s.retryWrites) = true := by
  unfold State.retryWrites
  grind [wf_flushDeferred, wf_each, wf_finishFront, wf_finishGraph]

theorem wf_endGraph {s : State} (h : Memory.wf s = true) (g status) : Memory.wf (s.endGraph g status) = true :=
  wf_finishGraph (wf_onGraph h ..) ..

theorem wf_dropCommands {s : State} (h : Memory.wf s = true) (ctx) : Memory.wf (s.dropCommands ctx) = true := by
  unfold State.dropCommands
  grind [wf_endOverlays, wf_each, wf_refillPaging, wf_failFill, wf_memOk]

theorem wf_machineCheck {s : State} (h : Memory.wf s = true) (ctx rec) : Memory.wf (s.machineCheck ctx rec) = true := by
  unfold State.machineCheck
  grind [wf_discardFronts, wf_loseWrites, wf_dropCommands, wf_each, wf_retireFront, wf_endGraph, wf_logRecord, wf_memOk]

theorem wf_checkGust {s : State} (h : Memory.wf s = true) (g cause detail) : Memory.wf (s.checkGust g cause detail) = true := by
  unfold State.checkGust
  grind [wf_machineCheck]

end Sys2Proof.Machine
end

section
/-! O57: the end of an instruction, issue, and the forms of registers. -/

namespace Sys2Proof.Machine

set_option Elab.async false

/-! ### How an instruction ends, and traps -/

theorem wf_packet {s : State} (h : Memory.wf s = true) (ctx core r kind word7) : Memory.wf (s.packet ctx core r kind word7) = true := by
  unfold State.packet
  grind [wf_onGust, wf_putPacket]

theorem wf_trace {s : State} (h : Memory.wf s = true) (r kind word7) : Memory.wf (s.trace r kind word7) = true := by
  unfold State.trace
  grind [wf_packet]

theorem wf_trapEntry {s : State} (h : Memory.wf s = true) (r cause own gfr tpc a) :
    Memory.wf (s.trapEntry r cause own gfr tpc a) = true := by
  unfold State.trapEntry
  grind [wf_endFrontOf, wf_trace, wf_setGust]

theorem wf_gustFault {s : State} (h : Memory.wf s = true) (r cause step detail) : Memory.wf (s.gustFault r cause step detail) = true := by
  unfold State.gustFault
  grind [wf_trapEntry]

theorem wf_trapParked {s : State} (h : Memory.wf s = true) (r) : Memory.wf (s.trapParked r) = true := by
  unfold State.trapParked
  grind [wf_trapEntry]

theorem wf_stopGust {s : State} (h : Memory.wf s = true) (r why) : Memory.wf (s.stopGust r why) = true := wf_trace (wf_onGust h ..) ..

theorem wf_dbgEnd {s : State} (h : Memory.wf s = true) (r ok) : Memory.wf (s.dbgEnd r ok) = true := by
  unfold State.dbgEnd
  grind [wf_onGust]

theorem wf_stopOrdered {s : State} (h : Memory.wf s = true) (r) : Memory.wf (s.stopOrdered r) = true := by
  unfold State.stopOrdered
  grind [wf_stopGust, wf_dbgEnd]

theorem wf_pathEnd {s : State} (h : Memory.wf s = true) (r a n) : Memory.wf (s.pathEnd r a n) = true := by
  induction n generalizing s r a with
  | zero => exact h
  | succ n ih =>
    unfold State.pathEnd
    grind [wf_trapParked, wf_trace, wf_setGust, wf_stopGust]

theorem wf_stepEffect {s : State} (h : Memory.wf s = true) (r old) : Memory.wf (s.stepEffect r old) = true := by
  unfold State.stepEffect
  grind [wf_stopGust, wf_trapEntry]

theorem wf_shutterStop {s : State} (h : Memory.wf s = true) (r) : Memory.wf (s.shutterStop r) = true := by
  unfold State.shutterStop
  grind [wf_onGust]

theorem wf_boundary {s : State} (h : Memory.wf s = true) (r) : Memory.wf (s.boundary r) = true := wf_stopOrdered (wf_shutterStop h ..) ..

theorem wf_complete {s : State} (h : Memory.wf s = true) (old pc kind word7 point) :
    Memory.wf (s.complete old pc kind word7 point) = true := by
  unfold State.complete
  grind [wf_setGust, wf_trace, wf_endFrontOf, wf_trapParked, wf_pathEnd, wf_stepEffect, wf_boundary]

theorem wf_settle {e : Eff} (h : Memory.wf e.state = true) (old op) : Memory.wf (Eff.settle old op e) = true := by
  cases e <;> unfold Eff.settle <;> grind [Eff.state, wf_complete, wf_gustFault, wf_checkGust, wf_onGust, wf_shutterStop]

theorem wf_keepIssuing {s : State} (h : Memory.wf s = true) (old) : Memory.wf (s.keepIssuing old) = true := by
  unfold State.keepIssuing
  grind [wf_memOk]

theorem wf_perform {s : State} {body : Gust → Eff} (hbody : ∀ g, Memory.wf (body g).state = true) : Result.Keeps (s.perform body) := by
  unfold State.perform
  grind [wf_settle, wf_keepIssuing, Result.Keeps]

theorem wf_performGust {s : State} {body : Gust → Eff} (h : Memory.wf s = true) (hbody : ∀ g, Memory.wf (body g).state = true) (c) :
    Result.Keeps (s.performGust c body) := by
  unfold State.performGust
  grind [wf_perform, Eff.state]

theorem wf_performAs {s : State} {body : Gust → Eff} (h : Memory.wf s = true) (hbody : ∀ g, Memory.wf (body g).state = true) (c lane) :
    Result.Keeps (s.performAs c lane body) := by
  unfold State.performAs
  grind [wf_perform, Eff.state]

theorem wf_completeFor {s : State} (h : Memory.wf s = true) (r) : Memory.wf (s.completeFor r) = true := by
  unfold State.completeFor
  grind [wf_complete, wf_memOk]

theorem wf_wakeBarrier {s : State} (h : Memory.wf s = true) (q b) : Memory.wf (s.wakeBarrier q b) = true := by
  unfold State.wakeBarrier
  grind [wf_each, wf_completeFor, wf_dropStale]

theorem wf_windowWrite {s : State} (h : Memory.wf s = true) (core ctx v w) : Memory.wf (s.windowWrite core ctx v w) = true := by
  unfold State.windowWrite
  grind [wf_winPut, wf_wakeBarrier]

/-! ### Operands of mod layout T -/

theorem wf_runT {s : State} (h : Memory.wf s = true) (g c o cy nd na nb f) : Memory.wf (s.runT g c o cy nd na nb f).state = true := by
  unfold State.runT
  grind [wf_setGust, wf_writeSs, wf_writeP, Eff.state]

theorem wf_performT {s : State} (h : Memory.wf s = true) (c o cy nd na nb f) : Result.Keeps (s.performT c o cy nd na nb f) := by
  unfold State.performT
  grind [wf_performAs, wf_runT]

theorem wf_performElem {s : State} (h : Memory.wf s = true) (c o cy f) : Result.Keeps (s.performElem c o cy f) := by
  unfold State.performElem
  grind [wf_performT]

/-! ### Moves and predicates -/

theorem wf_performCmp {s : State} (h : Memory.wf s = true) (c o rel) : Result.Keeps (s.performCmp c o rel) := by
  unfold State.performCmp
  grind [wf_performAs, wf_setGust, Eff.state]

theorem wf_performPred {s : State} (h : Memory.wf s = true) (c d f) : Result.Keeps (s.performPred c d f) := by
  unfold State.performPred
  grind [wf_performAs, wf_setGust, Eff.state]

/-! ### Cross-lane forms -/

theorem wf_execShfl {s : State} (h : Memory.wf s = true) (c o) : Result.Keeps (execShfl c o s) := by
  unfold execShfl
  grind [wf_performAs, wf_setGust, Eff.state]

theorem wf_execBcast {s : State} (h : Memory.wf s = true) (c o) : Result.Keeps (execBcast c o s) := by
  unfold execBcast
  grind [wf_performAs, wf_setGust, Eff.state]

theorem wf_reduce {s : State} (h : Memory.wf s = true) (c o scan) : Result.Keeps (s.reduce c o scan) := by
  unfold State.reduce
  grind [wf_performAs, wf_setGust, wf_writeSs, Eff.state]

theorem wf_execSort {s : State} (h : Memory.wf s = true) (c o) : Result.Keeps (execSort c o s) := by
  unfold execSort
  grind [wf_performAs, wf_setGust, Eff.state]

theorem wf_execVtriad {s : State} (h : Memory.wf s = true) (c o) : Result.Keeps (execVtriad c o s) := by
  unfold execVtriad
  grind [wf_performAs, wf_setGust, Eff.state]

theorem wf_execQnt {s : State} (h : Memory.wf s = true) (c o) : Result.Keeps (execQnt c o s) := by
  unfold execQnt
  grind [wf_performAs, wf_setGust, Eff.state]

theorem wf_execDqnt {s : State} (h : Memory.wf s = true) (c o) : Result.Keeps (execDqnt c o s) := by
  unfold execDqnt
  grind [wf_performAs, wf_setGust, Eff.state]

theorem wf_execRand {s : State} (h : Memory.wf s = true) (c o) : Result.Keeps (execRand c o s) := by
  unfold execRand
  grind [wf_performAs, wf_setGust, Eff.state]

theorem wf_execRseed {s : State} (h : Memory.wf s = true) (c a b) : Result.Keeps (execRseed c a b s) := by
  unfold execRseed
  grind [wf_performGust, wf_setGust, Eff.state]

/-! ### Issue -/

theorem wf_syllable {s : State} (h : Memory.wf s = true) (g core w) : Memory.wf (s.syllable g core w).2 = true := by
  unfold State.syllable
  grind [wf_pick]

theorem wf_fetchAt {s : State} (h : Memory.wf s = true) (g core i) : Memory.wf (s.fetchAt g core i).2 = true := by
  unfold State.fetchAt
  grind [wf_syllable]

theorem wf_fetch {s : State} (h : Memory.wf s = true) (g q) : Memory.wf (s.fetch g q).2 = true := by
  unfold State.fetch
  grind [wf_fetchAt, wf_onGust]

theorem wf_countIssue {s : State} (h : Memory.wf s = true) (g core) : Memory.wf (s.countIssue g core) = true := by
  unfold State.countIssue
  grind [wf_onGust, wf_onCore]

theorem wf_prepare {s : State} (h : Memory.wf s = true) (r) : Memory.wf (s.prepare r).state = true := by
  unfold State.prepare
  split
  · next g q _ _ =>
    have hf := wf_fetch (wf_countIssue h g q.core) g q
    dsimp only
    split <;> rename_i e <;> rw [e] at hf
    · next c t => exact wf_gustFault (s := { t with op := 0 }) hf r c 0 0
    · next x t =>
      have ht : Memory.wf { t with op := (Fields.unpack x.toInt).op } = true := hf
      generalize ({ t with op := (Fields.unpack x.toInt).op } : State) = u at ht ⊢
      grind [Prep.state, wf_gustFault, wf_memOk]
  · exact h

theorem wf_issueChoice {s : State} (h : Memory.wf s = true) (core) : Memory.wf (s.issueChoice core) = true := by
  unfold State.issueChoice
  extract_lets ready u n b e c pick tick s1
  have h1 : Memory.wf s1 = true := wf_onCore h ..
  clear_value pick s1
  split
  · exact wf_onCore h1 ..
  · extract_lets s2
    have h2 : Memory.wf s2 = true := wf_onCore h1 ..
    clear_value s2
    grind [wf_fresh, wf_pick, wf_onGust, wf_memOk]

theorem wf_yieldExpiry {s : State} (h : Memory.wf s = true) (r) : Memory.wf (s.yieldExpiry r) = true := by
  unfold State.yieldExpiry
  grind [wf_setGust]

/-! ### The words of a squall -/

theorem wf_putSq {s : State} (h : Memory.wf s = true) (q w v) : Memory.wf (s.putSq q w v) = true := by
  unfold State.putSq
  grind [wf_windowWrite, wf_imageWrite]

theorem wf_unspecifieds {s : State} (h : Memory.wf s = true) (n) : Memory.wf (s.unspecifieds n).2 = true := by
  induction n generalizing s with
  | zero => exact h
  | succ n ih =>
    unfold State.unspecifieds
    grind [wf_unspecified]

theorem wf_touchRead {s : State} (h : Memory.wf s = true) (g ctx core w) : Memory.wf (s.touchRead g ctx core w).2 = true := by
  unfold State.touchRead
  grind [wf_unspecified]

theorem wf_fillsReach {s : State} (h : Memory.wf s = true) (q xs) : Memory.wf (s.fillsReach q xs).2 = true := by
  induction xs generalizing s q with
  | nil => exact h
  | cons x xs ih =>
    unfold State.fillsReach
    grind [wf_sysRead]

theorem wf_endFill {s : State} (h : Memory.wf s = true) (q o f) : Memory.wf (s.endFill q o f) = true := by
  unfold State.endFill
  grind [wf_onSquall, wf_sysRead, wf_imageWrite, wf_send, wf_memOk]

end Sys2Proof.Machine
end

section
/-! O57: accesses of gusts, barriers and control. -/

namespace Sys2Proof.Machine

set_option Elab.async false

/-! ### What the memory forms share -/

theorem wf_placeOf {s : State} (h : Memory.wf s = true) (q priv sp x write) : Memory.wf (s.placeOf q priv sp x write).2 = true := by
  unfold State.placeOf
  grind [wf_translate]

theorem wf_releasePart {s : State} (h : Memory.wf s = true) (die sc) : Memory.wf (s.releasePart die sc) = true := by
  unfold State.releasePart
  grind [wf_writeBackAll, wf_onDie]

theorem wf_ticket {s : State} (h : Memory.wf s = true) (die sc) : Memory.wf (s.ticket die sc) = true := by
  unfold State.ticket
  grind [wf_onDie, wf_memOk]

theorem wf_acquirePart {s : State} (h : Memory.wf s = true) (die sc) : Memory.wf (s.acquirePart die sc) = true := wf_dropStale h ..

theorem wf_orderedAfter {s : State} (h : Memory.wf s = true) (die sc) : Memory.wf (s.orderedAfter die sc) = true := by
  unfold State.orderedAfter
  grind [wf_orderPoint, wf_acquirePart]

theorem wf_before {s : State} (h : Memory.wf s = true) (g die o sc) : ∀ t, s.before g die o sc = some t → Memory.wf t = true := by
  unfold State.before
  grind [wf_releasePart]

theorem wf_ticketFor {s : State} (h : Memory.wf s = true) (die o sc) : Memory.wf (s.ticketFor die o sc) = true := by
  unfold State.ticketFor
  grind [wf_ticket]

theorem wf_readPlace {s : State} (h : Memory.wf s = true) (g q o sc ev p) : Memory.wf (s.readPlace g q o sc ev p).2 = true := by
  unfold State.readPlace
  grind [wf_readWide, wf_readNarrow, wf_readRelaxed, wf_touchRead]

theorem wf_await {s : State} (h : Memory.wf s = true) (r dest line) : Memory.wf (s.await r dest line) = true := by
  unfold State.await
  grind [wf_fresh, wf_memOk]

theorem wf_sendWrite {s : State} (h : Memory.wf s = true) (g die a v ev lease) : Memory.wf (s.sendWrite g die a v ev lease) = true := by
  unfold State.sendWrite
  grind [wf_stamp, wf_await, wf_takeWords, wf_send, wf_onGust]

theorem wf_sendToL1 {s : State} (h : Memory.wf s = true) (g die a v ev lease) : Memory.wf (s.sendToL1 g die a v ev lease) = true :=
  wf_send (wf_onGust h ..) ..

theorem wf_passL1 {s : State} (h : Memory.wf s = true) (g d a v ev lease) : Memory.wf (s.passL1 g d a v ev lease) = true := by
  unfold State.passL1
  grind [wf_onL1, wf_writeBackOlder, wf_writeBack, wf_note, wf_sendWrite]

theorem wf_writePlace {s : State} (h : Memory.wf s = true) (g q o sc ev v p) : Memory.wf (s.writePlace g q o sc ev v p).2 = true := by
  unfold State.writePlace
  grind [wf_writeL1, wf_writeBack, wf_writeBackOlder, wf_passL1, wf_storeMiss, wf_writeAtHome, wf_sendWrite, wf_sendToL1, wf_windowWrite]

theorem wf_updatePlace {s : State} (h : Memory.wf s = true) (q o sc ev f p) : Memory.wf (s.updatePlace q o sc ev f p).2 = true := by
  unfold State.updatePlace
  grind [wf_updateHome, wf_readNarrow, wf_updateL1, wf_windowWrite]

theorem wf_parkWaiting {s : State} (h : Memory.wf s = true) (r l) : Memory.wf (s.parkWaiting r l) = true := wf_onGust h ..

theorem wf_laneOutOf {x : Answer Word} (h : Memory.wf x.2 = true) : Memory.wf (laneOutOf x).2 = true := by
  unfold laneOutOf
  grind []

theorem wf_runLanes {f : State → Nat → Place → LaneOut × State} {a : LaneAcc}
    (hf : ∀ t l p, Memory.wf t = true → Memory.wf (f t l p).2 = true) (h : Memory.wf a.st = true) (r items) :
    Memory.wf (State.runLanes r f items a).st = true := by
  induction items generalizing a with
  | nil => exact h
  | cons x xs ih =>
    obtain ⟨l, x, p⟩ := x
    have hp := hf a.st l p h
    unfold State.runLanes
    split
    · exact h
    · split <;> rename_i e <;> rw [e] at hp
      · exact ih hp
      · exact ih hp
      · exact ih (wf_laneFault hp ..)
      · exact ih (wf_parkWaiting hp ..)
      · exact hp

theorem wf_lanePlaces {s : State} (h : Memory.wf s = true) (g q m write xs) : Memory.wf (s.lanePlaces g q m write xs).2 = true := by
  induction xs generalizing s g q m write with
  | nil => exact h
  | cons x xs ih =>
    unfold State.lanePlaces
    grind [wf_placeOf]

theorem wf_putVals {s : State} (h : Memory.wf s = true) (r d vs) : Memory.wf (s.putVals r d vs) = true := by
  unfold State.putVals
  grind [wf_onGust]

theorem wf_reachHome {s : State} (h : Memory.wf s = true) (d a ev all) : Memory.wf (s.reachHome d a ev all).2 = true := by
  unfold State.reachHome
  grind [wf_flushLoc, wf_homeFill]

theorem wf_reach {s : State} (h : Memory.wf s = true) (d a ev) : Memory.wf (s.reach d a ev).2 = true := by
  unfold State.reach
  grind [wf_reachHome]

theorem wf_loadRequest {s : State} (h : Memory.wf s = true) (d a ev lease) : Memory.wf (s.loadRequest d a ev lease).2 = true := by
  unfold State.loadRequest
  grind [wf_reach]

theorem wf_loadOf {s : State} (h : Memory.wf s = true) (g q m p) : Memory.wf (s.loadOf g q m p).2 = true := by
  unfold State.loadOf
  grind [wf_laneOutOf, wf_readPlace, wf_loadRequest]

theorem wf_shadowed {s : State} (h : Memory.wf s = true) (d ev p) : Memory.wf (s.shadowed d ev p).2 = true := by
  unfold State.shadowed
  grind [wf_storeMiss]

theorem wf_LaneOp_lane {s : State} (h : Memory.wf s = true) (op g q m items l p) :
    Memory.wf (LaneOp.lane op g q m items s l p).2 = true := by
  unfold LaneOp.lane
  grind [wf_loadOf, wf_writePlace, wf_shadowed, wf_laneOutOf, wf_updatePlace]

theorem wf_askSpans {s : State} (h : Memory.wf s = true) (s0 d m atHome ps) : Memory.wf (s.askSpans s0 d m atHome ps) = true := by
  unfold State.askSpans
  grind [wf_each, wf_publish, wf_fetchSector, wf_send]

theorem wf_atomLane {s : State} (h : Memory.wf s = true) (g q k m l p) : Memory.wf (s.atomLane g q k m l p).2 = true := by
  unfold State.atomLane
  grind [wf_reachHome, wf_reach, wf_laneOutOf, wf_updatePlace]

theorem wf_doLanes {s : State} (h : Memory.wf s = true) (g q op m items) : Memory.wf (s.doLanes g q op m items).st = true := by
  unfold State.doLanes
  grind [wf_runLanes, wf_LaneOp_lane, wf_putVals, wf_askSpans, wf_onGust]

theorem wf_failAs {s : State} (h : Memory.wf s = true) (c x phys) : Memory.wf (failAs s c x phys).state = true := by
  unfold failAs
  grind [Eff.state]

theorem wf_endLanes {a : LaneAcc} (h : Memory.wf a.st = true) (g q i m) : Memory.wf (State.endLanes a g q i m).state = true := by
  unfold State.endLanes
  grind [wf_ticketFor, wf_acquirePart, wf_onGust, Eff.state]

theorem wf_laneMemory {s : State} (h : Memory.wf s = true) (g c op i m) : Memory.wf (s.laneMemory g c op i m).state = true := by
  unfold State.laneMemory
  grind [wf_lanePlaces, wf_before, wf_endLanes, wf_doLanes, wf_ticketFor, Eff.state]

theorem wf_gustPlace {s : State} {k : State → Squall → Place → Eff} (h : Memory.wf s = true)
    (hk : ∀ t q p, Memory.wf t = true → Memory.wf (k t q p).state = true) (g sp x write) :
    Memory.wf (s.gustPlace g sp x write k).state = true := by
  unfold State.gustPlace
  grind [wf_placeOf, wf_failAs, wf_onGust, Eff.state]

theorem wf_endAccess {α : Type} {x : Answer α} {k : State → α → Eff} (h : Memory.wf x.2 = true)
    (hk : ∀ t x, Memory.wf t = true → Memory.wf (k t x).state = true) (p detail) :
    Memory.wf (endAccess x p detail k).state = true := by
  unfold endAccess
  grind [Eff.state]

theorem wf_scalarLoad {s : State} (h : Memory.wf s = true) (g m) : Memory.wf (s.scalarLoad g m).state = true := by
  unfold State.scalarLoad
  grind [wf_gustPlace, wf_before, wf_ticketFor, wf_laneOutOf, wf_readPlace, wf_loadOf, wf_writeS, wf_acquirePart, wf_onGust, Eff.state]

theorem wf_scalarStore {s : State} (h : Memory.wf s = true) (g m) : Memory.wf (s.scalarStore g m).state = true := by
  unfold State.scalarStore
  grind [wf_gustPlace, wf_before, wf_endAccess, wf_writePlace, wf_ticketFor, wf_acquirePart, Eff.state]

/-! ### Named barriers -/

theorem wf_setBar {s : State} (h : Memory.wf s = true) (q b r) : Memory.wf (s.setBar q b r) = true := wf_onSquall h ..

theorem wf_barForm {s : State} {body : Gust → Squall → BarRec → Eff} (h : Memory.wf s = true)
    (hbody : ∀ g q w, Memory.wf (body g q w).state = true) (c b) :
    Result.Keeps (s.barForm c b body) := by
  unfold State.barForm
  grind [wf_performGust, Eff.state]

theorem wf_execBarinit {s : State} (h : Memory.wf s = true) (c b n) : Result.Keeps (execBarinit c b n s) := by
  unfold execBarinit
  grind [wf_barForm, wf_setBar, Eff.state]

theorem wf_barTaken {s : State} (h : Memory.wf s = true) (g q b r done) : Memory.wf (s.barTaken g q b r done) = true := by
  unfold State.barTaken
  grind [wf_setBar, wf_releasePart, wf_wakeBarrier]

theorem wf_retestBarriers {s : State} (h : Memory.wf s = true) (q) : Memory.wf (s.retestBarriers q) = true := by
  unfold State.retestBarriers
  grind [wf_each, wf_completeFor, wf_acquirePart]

theorem wf_execBararr {s : State} (h : Memory.wf s = true) (c d b p n) : Result.Keeps (execBararr c d b p n s) := by
  unfold execBararr
  grind [wf_barForm, wf_writeP, wf_writeS, wf_barTaken, Eff.state]

theorem wf_barWaits {s : State} (h : Memory.wf s = true) (q b x) : Memory.wf (s.barWaits q b x).state = true := by
  unfold State.barWaits
  grind [wf_acquirePart, Eff.state]

theorem wf_execBarwait {s : State} (h : Memory.wf s = true) (c b n) : Result.Keeps (execBarwait c b n s) := by
  unfold execBarwait
  grind [wf_barForm, wf_barWaits, Eff.state]

theorem wf_execBarsync {s : State} (h : Memory.wf s = true) (c b) : Result.Keeps (execBarsync c b s) := by
  unfold execBarsync
  grind [wf_barForm, wf_barWaits, wf_barTaken, Eff.state]

theorem wf_execBardrop {s : State} (h : Memory.wf s = true) (c b p n) : Result.Keeps (execBardrop c b p n s) := by
  unfold execBardrop
  grind [wf_barForm, wf_writeP, wf_barTaken, Eff.state]

theorem wf_execBarqry {s : State} (h : Memory.wf s = true) (c d b) : Result.Keeps (execBarqry c d b s) := by
  unfold execBarqry
  grind [wf_performGust, wf_writeSs, Eff.state]

/-! ### Control forms -/

theorem wf_execNop {s : State} (h : Memory.wf s = true) (c) : Result.Keeps (execNop c s) := by
  unfold execNop
  grind [wf_performGust, Eff.state]

theorem wf_transfer {s : State} (h : Memory.wf s = true) (g x) : Memory.wf (s.transfer g x).state = true := by
  unfold State.transfer
  grind [Eff.state]

theorem wf_execBra {s : State} (h : Memory.wf s = true) (c off) : Result.Keeps (execBra c off s) := by
  unfold execBra
  grind [wf_performGust, wf_transfer]

theorem wf_execBrp {s : State} (h : Memory.wf s = true) (c mode p off) : Result.Keeps (execBrp c mode p off s) := by
  unfold execBrp
  grind [wf_performGust, wf_transfer, Eff.state]

theorem wf_execBtri {s : State} (h : Memory.wf s = true) (c a plus minus) : Result.Keeps (execBtri c a plus minus s) := by
  unfold execBtri
  grind [wf_performGust, wf_transfer, Eff.state]

theorem wf_handlerControl {s : State} (h : Memory.wf s = true) (g) : Memory.wf (s.handlerControl g).state = true := wf_endFrontOf h ..

theorem wf_execSplit {s : State} (h : Memory.wf s = true) (x p join els) : Result.Keeps (execSplit x p join els s) := by
  unfold execSplit
  grind [wf_perform, wf_handlerControl, wf_setGust, Eff.state]

theorem wf_execJoin {s : State} (h : Memory.wf s = true) (x) : Result.Keeps (execJoin x s) := by
  unfold execJoin
  grind [wf_perform, wf_handlerControl, wf_setGust, wf_stopGust, wf_trace, wf_onGust, Eff.state]

theorem wf_execBreak {s : State} (h : Memory.wf s = true) (c n) : Result.Keeps (execBreak c n s) := by
  unfold execBreak
  grind [wf_performGust, wf_handlerControl, wf_setGust, Eff.state]

theorem wf_callTo {s : State} (h : Memory.wf s = true) (g d x) : Memory.wf (s.callTo g d x).state = true := by
  unfold State.callTo
  grind [wf_writeS, Eff.state]

theorem wf_execCall {s : State} (h : Memory.wf s = true) (c d off) : Result.Keeps (execCall c d off s) := by
  unfold execCall
  grind [wf_performGust, wf_callTo]

theorem wf_execCalli {s : State} (h : Memory.wf s = true) (c d a) : Result.Keeps (execCalli c d a s) := by
  unfold execCalli
  grind [wf_performGust, wf_callTo]

theorem wf_execRet {s : State} (h : Memory.wf s = true) (c a) : Result.Keeps (execRet c a s) := by
  unfold execRet
  grind [wf_performGust, wf_transfer]

theorem wf_execExit {s : State} (h : Memory.wf s = true) (c) : Result.Keeps (execExit c s) := by
  unfold execExit
  grind [wf_performGust, wf_handlerControl, wf_setGust, Eff.state]

theorem wf_execYield {s : State} (h : Memory.wf s = true) (c n) : Result.Keeps (execYield c n s) := by
  unfold execYield
  grind [wf_performGust, wf_fresh, wf_complete, wf_onGust, Eff.state]

end Sys2Proof.Machine
end

section
/-! O57: queued commands and the engines. -/

namespace Sys2Proof.Machine

set_option Elab.async false

/-! ### Queued commands -/

theorem wf_onQueue {s : State} (h : Memory.wf s = true) (core q f) : Memory.wf (s.onQueue core q f) = true := by
  unfold State.onQueue
  grind [wf_onCore, wf_memOk]

theorem wf_setCmd {s : State} (h : Memory.wf s = true) (c) : Memory.wf (s.setCmd c) = true := by
  unfold State.setCmd
  grind [wf_onQueue]

theorem wf_overlayPend {s : State} (h : Memory.wf s = true) (c) : Memory.wf (s.overlayPend c) = true := by
  unfold State.overlayPend
  grind [wf_setSeg]

theorem wf_beginFills {s : State} (h : Memory.wf s = true) (c) : Memory.wf (s.beginFills c).2 = true := by
  unfold State.beginFills
  grind [wf_fresh, wf_setSquall]

theorem wf_undoFills {s : State} (h : Memory.wf s = true) (c) : Memory.wf (s.undoFills c) = true := by
  unfold State.undoFills
  grind [wf_onSquall]

theorem wf_acceptCmd {s : State} (h : Memory.wf s = true) (c) : Memory.wf (s.acceptCmd c) = true := by
  unfold State.acceptCmd
  grind [wf_fresh, wf_onQueue, wf_onGust, wf_each, wf_overlayPend]

theorem wf_submit {s : State} (h : Memory.wf s = true) (g c) : Memory.wf (s.submit g c).state = true := by
  unfold State.submit
  grind [wf_releasePart, wf_beginFills, wf_acceptCmd, wf_onCore, Eff.state]

theorem wf_batchComplete {s : State} (h : Memory.wf s = true) (r) : Memory.wf (s.batchComplete r) = true := by
  unfold State.batchComplete
  grind [wf_setGust]

theorem wf_recordFault {s : State} (h : Memory.wf s = true) (r f) : Memory.wf (s.recordFault r f) = true := by
  unfold State.recordFault
  grind [wf_setGust, wf_memOk]

theorem wf_endCmd {s : State} (h : Memory.wf s = true) (c fault) : Memory.wf (s.endCmd c fault) = true := by
  unfold State.endCmd
  grind [wf_fillsReach, wf_refillPaging, wf_onQueue, wf_recordFault, wf_each, wf_endFill]

theorem wf_checkCmd {s : State} (h : Memory.wf s = true) (c cause detail) : Memory.wf (s.checkCmd c cause detail) = true := by
  unfold State.checkCmd
  grind [wf_machineCheck, wf_refillPaging, wf_onQueue]

theorem wf_commandAccept {s : State} {accept : State → Cmd → State} (h : Memory.wf s = true)
    (haccept : ∀ t c, Memory.wf t = true → Memory.wf (accept t c) = true) (core) :
    Memory.wf (s.commandAccept core accept) = true := by
  unfold State.commandAccept
  grind [wf_onCore]

theorem wf_reachPlace {s : State} (h : Memory.wf s = true) (write p) : Memory.wf (s.reachPlace write p).2 = true := by
  unfold State.reachPlace
  grind [wf_sysTranslate]

theorem wf_cmdPlace {s : State} (h : Memory.wf s = true) (c sp x write) : Memory.wf (s.cmdPlace c sp x write).2 = true := by
  unfold State.cmdPlace
  grind [wf_translateBy, wf_reachPlace]

theorem wf_cmdPlaces {s : State} (h : Memory.wf s = true) (c sp write xs) : Memory.wf (s.cmdPlaces c sp write xs).2 = true := by
  induction xs generalizing s c sp write with
  | nil => exact h
  | cons x xs ih =>
    unfold State.cmdPlaces
    grind [wf_cmdPlace]

theorem wf_asCmd {α : Type} {x : Answer α} (h : Memory.wf x.2 = true) : Memory.wf (asCmd x).2 = true := by
  unfold asCmd
  grind []

theorem wf_cmdRead {s : State} (h : Memory.wf s = true) (c p) : Memory.wf (s.cmdRead c p).2 = true := by
  unfold State.cmdRead
  grind [wf_asCmd, wf_readHome, wf_touchRead, wf_sysRead]

theorem wf_markFar {s : State} (h : Memory.wf s = true) (c) : Memory.wf (s.markFar c) = true := by
  unfold State.markFar
  grind [wf_each, wf_onGust]

theorem wf_cmdWrite {s : State} (h : Memory.wf s = true) (c v p) : Memory.wf (s.cmdWrite c v p).2 = true := by
  unfold State.cmdWrite
  grind [wf_markFar, wf_asCmd, wf_writeAtHome, wf_putSq, wf_windowWrite]

theorem wf_cmdReads {s : State} (h : Memory.wf s = true) (c xs) : Memory.wf (s.cmdReads c xs).2 = true := by
  induction xs generalizing s c with
  | nil => exact h
  | cons x xs ih =>
    unfold State.cmdReads
    grind [wf_cmdRead]

theorem wf_cmdWrites {s : State} (h : Memory.wf s = true) (c xs) : Memory.wf (s.cmdWrites c xs).2 = true := by
  induction xs generalizing s c with
  | nil => exact h
  | cons x xs ih =>
    unfold State.cmdWrites
    grind [wf_cmdWrite]

theorem wf_thenXl {α : Type} {x : Xl α × State} {k : State → α → Ran} (h : Memory.wf x.2 = true)
    (hk : ∀ t x, Memory.wf t = true → Memory.wf (k t x).state = true) :
    Memory.wf (thenXl x k).state = true := by
  unfold thenXl
  grind [Ran.state]

theorem wf_thenRan {α : Type} {x : CmdAnswer α} {k : State → α → Ran} (h : Memory.wf x.2 = true)
    (hk : ∀ t x, Memory.wf t = true → Memory.wf (k t x).state = true) :
    Memory.wf (thenRan x k).state = true := by
  unfold thenRan
  grind [Ran.state]

theorem wf_landWords {s : State} {fin : State → Ran} (h : Memory.wf s = true)
    (hfin : ∀ t, Memory.wf t = true → Memory.wf (fin t).state = true) (c ps) :
    Memory.wf (s.landWords c ps fin).state = true := by
  unfold State.landWords
  grind [wf_pick, wf_thenRan, wf_cmdWrites, wf_setCmd, Ran.state]

theorem wf_writeRun {s : State} {fin : State → Ran} (h : Memory.wf s = true)
    (hfin : ∀ t, Memory.wf t = true → Memory.wf (fin t).state = true) (c sp ps ws) :
    Memory.wf (s.writeRun c sp ps ws fin).state = true := by
  unfold State.writeRun
  grind [wf_thenRan, wf_cmdWrites, wf_anyOrder, wf_landWords, wf_setCmd]

theorem wf_advance {s : State} {body : State → Ran} (h : Memory.wf s = true) (hbody : Memory.wf (body s).state = true) (c) :
    Memory.wf (s.advance c body) = true := by
  unfold State.advance
  split
  · exact wf_setCmd h _
  · split <;> grind [Ran.state, wf_setCmd, wf_checkCmd]

theorem wf_completeHead {s : State} (h : Memory.wf s = true) (core q) : Memory.wf (s.completeHead core q) = true := by
  unfold State.completeHead
  grind [wf_endCmd]

theorem wf_faultFor {s : State} (h : Memory.wf s = true) (r cause detail) : Memory.wf (s.faultFor r cause detail) = true := by
  unfold State.faultFor
  grind [wf_gustFault, wf_memOk]

/-! ### Frames, PROBE and FREF -/

theorem wf_walkAhead {s : State} (h : Memory.wf s = true) (core ctx priv f ps) : Memory.wf (s.walkAhead core ctx priv f ps) = true := by
  unfold State.walkAhead
  grind [wf_each, wf_translateBy]

theorem wf_cmdFrames {s : State} {k : State → Cmd → List Frame → Ran} (h : Memory.wf s = true)
    (hk : ∀ t c fs, Memory.wf t = true → Memory.wf (k t c fs).state = true) (c xs) :
    Memory.wf (s.cmdFrames c xs k).state = true := by
  unfold State.cmdFrames
  grind [wf_thenXl, wf_cmdPlaces, wf_thenRan, wf_cmdReads, wf_setCmd, Ran.state]

theorem wf_probe {s : State} (h : Memory.wf s = true) (g q d x start) : Memory.wf (s.probe g q d x start).state = true := by
  unfold State.probe
  grind [wf_writeSs, wf_walk, wf_startFill, Eff.state]

theorem wf_execProbe {s : State} (h : Memory.wf s = true) (c bc d a start off) : Result.Keeps (execProbe c bc d a start off s) := by
  unfold execProbe
  grind [wf_performGust, wf_probe, Eff.state]

theorem wf_frefWords {s : State} (h : Memory.wf s = true) (g q xs) :
    (∀ {e}, s.frefWords g q xs = .error e → Memory.wf e.state = true) ∧
      ∀ {x}, s.frefWords g q xs = .ok x → Memory.wf x.2 = true := by
  induction xs generalizing s with
  | nil => grind [State.frefWords]
  | cons y ys ih =>
    have hp := wf_placeOf h q g.priv .g y false
    unfold State.frefWords
    split
    · grind [wf_failAs]
    · grind [wf_onGust, Eff.state]
    · grind [wf_readPlace, Eff.state]

theorem wf_frefWords_error {s : State} (h : Memory.wf s = true) {g q xs e} (he : s.frefWords g q xs = .error e) :
    Memory.wf e.state = true :=
  (wf_frefWords h g q xs).1 he

theorem wf_frefWords_ok {s : State} (h : Memory.wf s = true) {g q xs ws t} (hx : s.frefWords g q xs = .ok (ws, t)) : Memory.wf t = true :=
  (wf_frefWords h g q xs).2 hx

theorem wf_execFref {s : State} (h : Memory.wf s = true) (c d a b warm) : Result.Keeps (execFref c d a b warm s) := by
  unfold execFref
  refine wf_performGust h (fun g => ?_) c
  dsimp only
  split
  · exact h
  · split
    · exact h
    · split
      · next hw => exact wf_frefWords_error h hw
      · next hw =>
        have hw := wf_frefWords_ok h hw
        grind [wf_walkAhead, wf_writeSs, Eff.state]

/-! ### Operand slots, tiles and the matrix engine -/

theorem wf_releaseEffect {s : State} (h : Memory.wf s = true) (q) : Memory.wf (s.releaseEffect q) = true := by
  unfold State.releaseEffect
  grind [wf_onSquall, wf_each, wf_completeFor, wf_setSquall]

theorem wf_claimForm {s : State} (h : Memory.wf s = true) (c tiles first n) : Result.Keeps (s.claimForm c tiles first n) := by
  unfold State.claimForm
  grind [wf_performGust, wf_setSquall, wf_fresh, Eff.state]

theorem wf_releaseForm {s : State} (h : Memory.wf s = true) (c tiles first n) : Result.Keeps (s.releaseForm c tiles first n) := by
  unfold State.releaseForm
  grind [wf_performGust, wf_releaseEffect, wf_setSquall, Eff.state]

theorem wf_ownedForm {s : State} {body : Gust → Squall → Eff} (h : Memory.wf s = true)
    (hbody : ∀ g q, Memory.wf (body g q).state = true) (c tiles first n) :
    Result.Keeps (s.ownedForm c tiles first n body) := by
  unfold State.ownedForm
  grind [wf_performGust, Eff.state]

theorem wf_execOfill {s : State} (h : Memory.wf s = true) (c o a b src) : Result.Keeps (execOfill c o a b src s) := by
  unfold execOfill
  grind [wf_ownedForm, wf_submit, Eff.state]

theorem wf_reportFault {s : State} (h : Memory.wf s = true) (r f) : Memory.wf (s.reportFault r f) = true := by
  unfold State.reportFault
  grind [wf_trapEntry, wf_memOk]

theorem wf_execOfence {s : State} (h : Memory.wf s = true) (c o n) : Result.Keeps (execOfence c o n s) := by
  unfold execOfence
  refine wf_ownedForm h (fun g q => ?_) c false o n
  dsimp only
  split
  · exact h
  · split
    · exact wf_reportFault (wf_onSquall h _ _) _ _
    · exact wf_each h (fun t k ht => by split; exacts [ht, wf_onSquall ht _ _]) _

theorem wf_breakGangs {s : State} (h : Memory.wf s = true) (r) : Memory.wf (s.breakGangs r) = true := by
  unfold State.breakGangs
  grind [wf_each, wf_faultFor]

theorem wf_execGang {s : State} (h : Memory.wf s = true) (c rows map) : Result.Keeps (execGang c rows map s) := by
  unfold execGang
  grind [wf_performGust, wf_onGust, wf_breakGangs, Eff.state]

theorem wf_acceptMma {s : State} (h : Memory.wf s = true) (c self) : Memory.wf (s.acceptMma c self) = true := by
  unfold State.acceptMma
  grind [wf_each, wf_faultFor, wf_acceptCmd, wf_completeFor]

theorem wf_fire {s : State} (h : Memory.wf s = true) (g q i ms) : Memory.wf (s.fire g q i ms).state = true := by
  unfold State.fire
  grind [wf_each, wf_faultFor, wf_acceptMma, wf_onCore, wf_onGust, Eff.state]

theorem wf_execMma {s : State} (h : Memory.wf s = true) (c fmt n a b third) : Result.Keeps (execMma c fmt n a b third s) := by
  unfold execMma
  grind [wf_perform, wf_fire, wf_each, wf_faultFor, Eff.state]

theorem wf_execAzero {s : State} (h : Memory.wf s = true) (c k n) : Result.Keeps (execAzero c k n s) := by
  unfold execAzero
  grind [wf_ownedForm, wf_submit]

theorem wf_execAld {s : State} (h : Memory.wf s = true) (c n a b src) : Result.Keeps (execAld c n a b src s) := by
  unfold execAld
  grind [wf_ownedForm, wf_submit, Eff.state]

theorem wf_execAst {s : State} (h : Memory.wf s = true) (c d n status) : Result.Keeps (execAst c d n status s) := by
  unfold execAst
  grind [wf_ownedForm, wf_unspecified, wf_writeS, wf_unspecifieds, wf_each, wf_writeV, Eff.state]

theorem wf_execDrain {s : State} (h : Memory.wf s = true) (c n a b sp off scope ev addTy count) :
    Result.Keeps (execDrain c n a b sp off scope ev addTy count s) := by
  unfold execDrain
  grind [wf_ownedForm, wf_submit, Eff.state]

theorem wf_countDrain {s : State} (h : Memory.wf s = true) (c scope key count) :
    ∀ t, s.countDrain c scope key count = .ok t → Memory.wf t = true := by
  unfold State.countDrain
  grind [wf_memOk]

theorem wf_landDrain {s : State} (h : Memory.wf s = true) (key) : Memory.wf (s.landDrain key) = true := h

theorem wf_drainLook {s : State} (h : Memory.wf s = true) (c scope ev p) : Memory.wf (s.drainLook c scope ev p).2 = true := by
  unfold State.drainLook
  grind [wf_asCmd, wf_readHome, wf_readRelaxed]

theorem wf_drainWord {s : State} (h : Memory.wf s = true) (c scope ev addTy p e) : Memory.wf (s.drainWord c scope ev addTy p e) = true := by
  unfold State.drainWord
  grind [wf_updateHome, wf_markFar, wf_updateL1, wf_storeL1, wf_cmdWrite, wf_cmdRead]

theorem wf_drainRun {s : State} (h : Memory.wf s = true) (c) : Memory.wf (s.drainRun c).state = true := by
  unfold State.drainRun
  split
  · refine wf_thenXl (wf_cmdPlaces h ..) fun t ps ht => ?_
    extract_lets look act
    have hlook {u} (hu : Memory.wf u = true) : Memory.wf (look u).2 = true :=
      List.foldlRecOn ps _ (motive := fun a : CmdAnswer Unit => Memory.wf a.2 = true) hu fun a ha p _ => by
        grind [wf_drainLook]
    have hact {u} (hu : Memory.wf u = true) : Memory.wf (act u) = true := wf_each hu (fun _ _ hv => wf_drainWord hv ..) _
    clear_value look act
    split
    · exact wf_thenRan (hlook ht) fun u _ hu => hact hu
    · exact wf_thenRan (hlook ht) fun u _ hu => hact hu
    · split
      · exact ht
      · next hk => exact wf_thenRan (hlook (wf_countDrain ht _ _ _ _ _ hk)) fun u _ hu => wf_landDrain (hact hu) _
  · exact h

theorem wf_matrixRun {s : State} (h : Memory.wf s = true) (c) : Memory.wf (s.matrixRun c).state = true := by
  unfold State.matrixRun
  grind [wf_each, wf_unspecifieds, wf_unspecified, wf_onSquall, wf_thenXl, wf_cmdPlaces, wf_thenRan, wf_cmdReads, Ran.state]

theorem wf_matrixCommandRun {s : State} (h : Memory.wf s = true) (core) : Memory.wf (s.matrixCommandRun core) = true := by
  unfold State.matrixCommandRun
  grind [wf_advance, wf_cmdPlaces, wf_setCmd, wf_checkCmd, wf_matrixRun, Ran.state]

theorem wf_drainApply {s : State} (h : Memory.wf s = true) (core) : Memory.wf (s.drainApply core) = true := by
  unfold State.drainApply
  grind [wf_advance, wf_drainRun]

theorem wf_thawSlot {s : State} (h : Memory.wf s = true) (c o w v) : Memory.wf (s.thawSlot c o w v) = true := by
  unfold State.thawSlot
  grind [wf_onSquall, wf_putSq]

theorem wf_fillRun {s : State} (h : Memory.wf s = true) (c) : Memory.wf (s.fillRun c).state = true := by
  unfold State.fillRun
  grind [wf_onSquall, wf_thenXl, wf_cmdPlaces, wf_thenRan, wf_cmdReads, wf_cmdFrames, wf_walkAhead, Ran.state]

theorem wf_fillComplete {s : State} (h : Memory.wf s = true) (core) : Memory.wf (s.fillComplete core) = true := by
  unfold State.fillComplete
  grind [wf_completeHead, wf_advance, wf_fillRun]

theorem wf_execRwait {s : State} (h : Memory.wf s = true) (c a sp off scope clr) : Result.Keeps (execRwait c a sp off scope clr s) := by
  unfold execRwait
  grind [wf_performGust, wf_gustPlace, wf_orderedAfter, wf_each, wf_completeFor, wf_memOk, Eff.state]

theorem wf_execPpoint {s : State} (h : Memory.wf s = true) (x k n o m) : Result.Keeps (execPpoint x k n o m s) := by
  unfold execPpoint
  grind [wf_perform, wf_onGust, wf_complete, Eff.state]

theorem wf_acceptNext {s : State} (h : Memory.wf s = true) (core) : Memory.wf (s.acceptNext core) = true := by
  unfold State.acceptNext
  grind [wf_commandAccept, wf_faultFor, wf_completeFor, wf_acceptCmd, wf_acceptMma]

/-! ### The copy, codec and paging engines -/

theorem wf_squallForm {s : State} {body : Gust → Squall → Eff} (h : Memory.wf s = true)
    (hbody : ∀ g q, Memory.wf (body g q).state = true) (c) :
    Result.Keeps (s.squallForm c body) := by
  unfold State.squallForm
  grind [wf_performGust, Eff.state]

theorem wf_orFault {s : State} {k : Eff} (h : Memory.wf s = true) (hk : Memory.wf k.state = true) (f) :
    Memory.wf (orFault s f k).state = true := by
  unfold orFault
  grind [Eff.state]

theorem wf_execCpy {s : State} (h : Memory.wf s = true) (c conv ssp dsp d a b x) : Result.Keeps (execCpy c conv ssp dsp d a b x s) := by
  unfold execCpy
  grind [wf_squallForm, wf_orFault, wf_submit, Eff.state]

theorem wf_execCpyFrame {s : State} (h : Memory.wf s = true) (c d a b x) : Result.Keeps (execCpyFrame c d a b x s) := by
  unfold execCpyFrame
  grind [wf_squallForm, wf_submit, Eff.state]

theorem wf_execMcast {s : State} (h : Memory.wf s = true) (c ssp d a b x) : Result.Keeps (execMcast c ssp d a b x s) := by
  unfold execMcast
  grind [wf_squallForm, wf_orFault, wf_submit, Eff.state]

theorem wf_execOvl {s : State} (h : Memory.wf s = true) (c d a b e x) : Result.Keeps (execOvl c d a b e x s) := by
  unfold execOvl
  grind [wf_squallForm, wf_orFault, wf_submit]

theorem wf_execThaw {s : State} (h : Memory.wf s = true) (c ty kind d a b n x) : Result.Keeps (execThaw c ty kind d a b n x s) := by
  unfold execThaw
  grind [wf_squallForm, wf_submit, Eff.state]

theorem wf_execFreeze {s : State} (h : Memory.wf s = true) (c ty ssp tab d a b m x) :
    Result.Keeps (execFreeze c ty ssp tab d a b m x s) := by
  unfold execFreeze
  grind [wf_squallForm, wf_orFault, wf_submit, Eff.state]

theorem wf_pagingForm {s : State} (h : Memory.wf s = true) (c i a) : Result.Keeps (s.pagingForm c i a) := by
  unfold State.pagingForm
  grind [wf_squallForm, wf_submit, Eff.state]

theorem wf_execBclose {s : State} (h : Memory.wf s = true) (c d) : Result.Keeps (execBclose c d s) := by
  unfold execBclose
  grind [wf_performGust, wf_writeS, wf_setGust, Eff.state]

theorem wf_reportBatches {s : State} (h : Memory.wf s = true) (g n) : ∀ t, s.reportBatches g n = some t → Memory.wf t = true := by
  unfold State.reportBatches
  grind [wf_reportFault, wf_gustFault, wf_onGust]

theorem wf_batchesWaited {s : State} (h : Memory.wf s = true) (g q n) : Memory.wf (s.batchesWaited g q n) = true := by
  unfold State.batchesWaited
  grind [wf_onGust, wf_orderedAfter]

theorem wf_execBwait {s : State} (h : Memory.wf s = true) (c src) : Result.Keeps (execBwait c src s) := by
  unfold execBwait
  grind [wf_squallForm, wf_reportBatches, wf_batchesWaited, Eff.state]

theorem wf_execBqry {s : State} (h : Memory.wf s = true) (c d) : Result.Keeps (execBqry c d s) := by
  unfold execBqry
  grind [wf_performGust, wf_writeSs, Eff.state]

theorem wf_execGset {s : State} (h : Memory.wf s = true) (c k v) : Result.Keeps (execGset c k v s) := by
  unfold execGset
  grind [wf_squallForm, wf_onSquall, wf_releasePart, Eff.state]

theorem wf_execGclr {s : State} (h : Memory.wf s = true) (c k) : Result.Keeps (execGclr c k s) := by
  unfold execGclr
  grind [wf_squallForm, wf_onSquall, Eff.state]

theorem wf_lineKind {s : State} (h : Memory.wf s = true) (d loc) : Memory.wf (s.lineKind d loc).2 = true := by
  unfold State.lineKind
  grind [wf_readLineAt]

theorem wf_cmdLines {s : State} (h : Memory.wf s = true) (c write xs) : Memory.wf (s.cmdLines c write xs).2 = true := by
  unfold State.cmdLines
  grind [wf_cmdPlaces]

theorem wf_rawBytes {s : State} (h : Memory.wf s = true) (d xs) : Memory.wf (s.rawBytes d xs).2 = true := by
  induction xs generalizing s d with
  | nil => exact h
  | cons x xs ih =>
    unfold State.rawBytes
    grind [wf_lineKind]

theorem wf_cmdReadsTo {s : State} (h : Memory.wf s = true) (c xs) : Memory.wf (s.cmdReadsTo c xs).2 = true := by
  induction xs generalizing s c with
  | nil => exact h
  | cons x xs ih =>
    unfold State.cmdReadsTo
    grind [wf_cmdRead]

theorem wf_Cmd_endRan {s : State} (h : Memory.wf s = true) (c) : Memory.wf (Cmd.endRan c s).state = true := by
  unfold Cmd.endRan
  grind [Ran.state]

theorem wf_blurred {s : State} (h : Memory.wf s = true) (xs) : Memory.wf (s.blurred xs).2 = true := by
  induction xs generalizing s with
  | nil => exact h
  | cons x xs ih =>
    unfold State.blurred
    grind [wf_unspecified]

theorem wf_copyWords {s : State} (h : Memory.wf s = true) (c sp src dst overlap) :
    Memory.wf (s.copyWords c sp src dst overlap).state = true := by
  unfold State.copyWords
  grind [wf_cmdReadsTo, wf_blurred, wf_writeRun, wf_Cmd_endRan]

theorem wf_copyIn {s : State} (h : Memory.wf s = true) (c code dsp n f sa sb) : Memory.wf (s.copyIn c code dsp n f sa sb).state = true := by
  unfold State.copyIn
  grind [wf_thenXl, wf_cmdPlaces, wf_landWords, wf_Cmd_endRan, wf_cmdLines, wf_rawBytes, wf_writeRun]

theorem wf_patchLine {s : State} (h : Memory.wf s = true) (c loc a bs) : ∀ t, s.patchLine c loc a bs = .ok t → Memory.wf t = true := by
  unfold State.patchLine
  grind [wf_markFar, wf_lineKind, wf_setLineBytes]

theorem wf_patchLines {s : State} (h : Memory.wf s = true) (c a bs xs) : Memory.wf (s.patchLines c a bs xs).state = true := by
  induction xs generalizing s c a bs with
  | nil => exact h
  | cons x xs ih =>
    unfold State.patchLines
    grind [wf_patchLine, Ran.state]

theorem wf_copyOut {s : State} (h : Memory.wf s = true) (c code ssp n f sa sb) :
    Memory.wf (s.copyOut c code ssp n f sa sb).state = true := by
  unfold State.copyOut
  grind [wf_thenXl, wf_cmdPlaces, wf_cmdLines, wf_thenRan, wf_cmdReads, wf_patchLines]

theorem wf_copyRun {s : State} (h : Memory.wf s = true) (c conv ssp dsp) : Memory.wf (s.copyRun c conv ssp dsp).state = true := by
  unfold State.copyRun
  grind [wf_copyIn, wf_copyOut, wf_thenXl, wf_cmdPlaces, wf_landWords, wf_Cmd_endRan, wf_copyWords, Ran.state]

theorem wf_frameRun {s : State} (h : Memory.wf s = true) (c) : Memory.wf (s.frameRun c).state = true := by
  unfold State.frameRun
  grind [wf_cmdFrames, wf_walkAhead, wf_thenXl, wf_cmdPlaces, wf_copyWords, Ran.state]

theorem wf_mcastRun {s : State} (h : Memory.wf s = true) (c ssp) : Memory.wf (s.mcastRun c ssp).state = true := by
  unfold State.mcastRun
  extract_lets n places reach
  have hreach {u ps} (hu : Memory.wf u = true) : Memory.wf (reach u ps).2 = true :=
    List.foldlRecOn ps _ (motive := fun a : Xl Unit × State => Memory.wf a.2 = true) hu fun a ha p _ => by
      grind [wf_reachPlace]
  clear_value reach
  have hfin u (hu : Memory.wf u = true) : Memory.wf (Ran.ok u).state = true := hu
  split
  · exact wf_thenXl (hreach h) fun t _ ht => wf_landWords ht hfin ..
  · exact wf_thenXl (wf_cmdPlaces h ..) fun t ps ht => wf_thenXl (hreach ht) fun t _ ht =>
      wf_thenRan (wf_cmdReads ht ..) fun t ws ht => wf_writeRun (wf_anyOrder ht ..) hfin ..

theorem wf_overlayRun {s : State} (h : Memory.wf s = true) (c) : Memory.wf (s.overlayRun c).state = true := by
  unfold State.overlayRun
  grind [wf_thenXl, wf_cmdPlaces, wf_thenRan, wf_cmdReads, wf_each, wf_putCode, Ran.state]

theorem wf_thawDest {s : State} (h : Memory.wf s = true) (c kind n) : Memory.wf (s.thawDest c kind n).2 = true := by
  unfold State.thawDest
  grind [wf_cmdPlaces]

theorem wf_ringWrite {s : State} (h : Memory.wf s = true) (c base size ws room) :
    Memory.wf (s.ringWrite c base size ws room).state = true := by
  induction ws generalizing s c room with
  | nil => exact wf_Cmd_endRan (wf_setCmd h _) _
  | cons w ws ih =>
    cases room with
    | zero => exact wf_setCmd h _
    | succ room =>
      refine wf_thenXl (wf_cmdPlace (wf_setCmd h _) ..) fun t p ht => ?_
      refine wf_thenXl (by split; exacts [wf_cmdPlaces ht .., ht]) fun t qs ht => ?_
      exact wf_thenRan (wf_cmdWrites ht ..) fun t _ ht => ih ht ..

theorem wf_thawWrite {s : State} (h : Memory.wf s = true) (c kind d ps) : Memory.wf (s.thawWrite c kind d ps).state = true := by
  unfold State.thawWrite
  grind [wf_thenRan, wf_cmdWrites, wf_Cmd_endRan, wf_landWords, wf_each, wf_thawSlot, wf_thenXl, wf_cmdPlaces,
    wf_cmdReads, wf_ringWrite, Ran.state]

theorem wf_thawRun {s : State} (h : Memory.wf s = true) (c ty kind d n) : Memory.wf (s.thawRun c ty kind d n).state = true := by
  unfold State.thawRun
  split
  · exact wf_thenXl (wf_thawDest h ..) fun t ps ht => wf_thawWrite ht ..
  · refine wf_thenXl (wf_cmdLines h ..) fun t ls ht => ?_
    split
    · exact ht
    · next l _ =>
      have hk := wf_lineKind ht (dieOf c.core) l
      split <;> rename_i e <;> rw [e] at hk
      · exact hk
      · exact hk
      · split
        · exact hk
        · split
          · exact hk
          · split
            · exact hk
            · refine wf_thenXl (wf_thawDest hk ..) fun t ps ht => wf_thenXl (wf_cmdLines ht ..) fun t lines ht => ?_
              exact wf_thawWrite (wf_setCmd (wf_anyOrder (wf_rawBytes ht ..) ..) _) ..

theorem wf_freeLine {s : State} (h : Memory.wf s = true) (d loc) : Memory.wf (s.freeLine d loc) = true := by
  unfold State.freeLine
  grind [wf_unspecifieds, wf_setLineBytes]

theorem wf_freezeRun {s : State} (h : Memory.wf s = true) (c ty ssp tab m) : Memory.wf (s.freezeRun c ty ssp tab m).state = true := by
  unfold State.freezeRun
  refine wf_thenXl (wf_cmdPlaces h ..) fun t src ht => ?_
  refine wf_thenXl (by split; exacts [wf_cmdPlaces ht .., ht]) fun t tps ht => ?_
  refine wf_thenXl (wf_cmdLines ht ..) fun t lines ht => ?_
  refine wf_thenRan (wf_cmdReads ht ..) fun t tw ht => ?_
  split
  · exact ht
  · refine wf_thenRan (wf_cmdReads ht ..) fun t ws ht => ?_
    extract_lets codes syms found bits bytes used u spoil u' lw head
    have hu : Memory.wf u = true := wf_each ht (fun v l hv => by split; exacts [hv, wf_markFar hv _]) _
    have hspoil : Memory.wf (spoil u) = true := wf_each hu (fun v l hv => wf_freeLine hv _ _) _
    have hu' : Memory.wf u' = true := wf_each hu (fun v e hv => wf_setLineBytes hv ..) _
    split
    · exact hspoil
    · split
      · exact hspoil
      · show Memory.wf (match lines.head? with | some l => _ | none => _) = true
        split
        · exact wf_setLineBytes hu' ..
        · exact hu'

theorem wf_engineRun {s : State} (h : Memory.wf s = true) (c) : Memory.wf (s.engineRun c).state = true := by
  unfold State.engineRun
  grind [wf_copyRun, wf_frameRun, wf_mcastRun, wf_overlayRun, wf_thawRun, wf_freezeRun, Ran.state]

theorem wf_physRead {s : State} (h : Memory.wf s = true) (c as) : Memory.wf (s.physRead c as).2 = true := wf_cmdReads h ..

theorem wf_physWrite {s : State} (h : Memory.wf s = true) (c es) : Memory.wf (s.physWrite c es).2 = true := wf_cmdWrites h ..

theorem wf_startCmd {s : State} (h : Memory.wf s = true) (c) : Memory.wf (s.startCmd c) = true := by
  unfold State.startCmd
  grind [wf_setCmd, wf_cmdPlaces, wf_cmdReads, wf_physWrite]

theorem wf_engineStart {s : State} (h : Memory.wf s = true) (e) : Memory.wf (s.engineStart e) = true := by
  unfold State.engineStart
  grind [wf_startCmd, wf_endCmd, wf_overlayEnd]

theorem wf_engineStep {s : State} (h : Memory.wf s = true) (c) : Memory.wf (s.engineStep c) = true := by
  unfold State.engineStep
  grind [wf_checkCmd, wf_setCmd, wf_advance, wf_engineRun]

theorem wf_thawRingPoll {s : State} (h : Memory.wf s = true) (core) : Memory.wf (s.thawRingPoll core) = true := by
  unfold State.thawRingPoll
  grind [wf_engineStep]

theorem wf_engineComplete {s : State} (h : Memory.wf s = true) (e) : Memory.wf (s.engineComplete e) = true := by
  unfold State.engineComplete
  grind [wf_endCmd, wf_engineStep, wf_overlayEnd]

theorem wf_ptesAt {s : State} (h : Memory.wf s = true) (c as) : Memory.wf (s.ptesAt c as).2 = true := by
  unfold State.ptesAt
  grind [wf_physRead]

theorem wf_pagingEnd {s : State} (h : Memory.wf s = true) (c fault) : Memory.wf (s.pagingEnd c fault) = true := by
  unfold State.pagingEnd
  grind [wf_checkCmd, wf_setCmd, wf_physWrite]

theorem wf_arrived {s : State} (h : Memory.wf s = true) (entry) : Memory.wf (s.arrived entry) = true := h

theorem wf_pageInFails {s : State} (h : Memory.wf s = true) (c ptes f) : Memory.wf (s.pageInFails c ptes f) = true := by
  unfold State.pageInFails
  grind [wf_pagingEnd, wf_each, wf_arrived, wf_failFill]

theorem wf_pageIn {s : State} (h : Memory.wf s = true) (n) : Memory.wf (s.pageIn n) = true := by
  unfold State.pageIn
  dsimp only
  split
  · exact h
  · split
    · exact wf_pageInFails h ..
    · split <;> rename_i e <;> have h := wf_of_eq e (wf_physRead h ..)
      · exact wf_pageInFails h ..
      · split
        · exact wf_pageInFails h ..
        · split <;> rename_i e <;> have h := wf_of_eq e (wf_ptesAt h ..)
          · exact wf_pageInFails h ..
          · split
            · exact wf_pageInFails h ..
            · split
              · exact wf_pageInFails h ..
              · split <;> rename_i e <;> have h := wf_of_eq e (wf_physWrite h ..)
                · exact wf_pageInFails h ..
                · split
                  · exact wf_pageInFails h ..
                  · split
                    · exact wf_pageInFails h ..
                    · split <;> rename_i e <;>
                        have h := wf_of_eq e (wf_physWrite (wf_each h (fun u x hu => wf_setLineBytes hu ..) _) ..)
                      · exact wf_pageInFails h ..
                      · exact wf_pagingEnd (wf_each h (fun u a hu => wf_arrived hu _) _) ..

theorem wf_wholeLines {s : State} (h : Memory.wf s = true) (xs) : Memory.wf (s.wholeLines xs).2 = true := by
  induction xs generalizing s with
  | nil => exact h
  | cons x xs ih =>
    unfold State.wholeLines
    grind [wf_lineKind]

theorem wf_pageBytes {s : State} (h : Memory.wf s = true) (p) : Memory.wf (s.pageBytes p).2 = true := by
  unfold State.pageBytes
  grind [wf_wholeLines]

theorem wf_pageOut {s : State} (h : Memory.wf s = true) (n) : Memory.wf (s.pageOut n) = true := by
  unfold State.pageOut
  dsimp only
  split
  · exact h
  · split
    · exact wf_pagingEnd h ..
    · have hr {c} := wf_physRead h c (recAddrs n)
      split <;> rename_i e <;> replace hr := e ▸ hr
      · exact wf_pagingEnd hr ..
      · split
        · exact wf_pagingEnd hr ..
        · grind [wf_ptesAt, wf_physWrite, wf_each, wf_publish, wf_pageBytes, wf_flashWrite, wf_setCmd, wf_pagingEnd]

end Sys2Proof.Machine
end

section
/-! O57: global memory, latch forms, binding, migration, launches and the system forms. -/

namespace Sys2Proof.Machine

set_option Elab.async false

/-! ### Global-memory forms and fences -/

theorem wf_execLd {s : State} (h : Memory.wf s = true) (c m) : Result.Keeps (execLd c m s) := by
  unfold execLd
  grind [wf_performAs, wf_laneMemory]

theorem wf_execSt {s : State} (h : Memory.wf s = true) (c m) : Result.Keeps (execSt c m s) := by
  unfold execSt
  grind [wf_performAs, wf_laneMemory]

theorem wf_execLds {s : State} (h : Memory.wf s = true) (c m) : Result.Keeps (execLds c m s) := by
  unfold execLds
  grind [wf_performGust, wf_scalarLoad]

theorem wf_execSts {s : State} (h : Memory.wf s = true) (c m) : Result.Keeps (execSts c m s) := by
  unfold execSts
  grind [wf_performGust, wf_scalarStore]

theorem wf_PendAtom_land {s : State} (h : Memory.wf s = true) (a r l v) : Memory.wf (PendAtom.land a s r l v) = true := by
  unfold PendAtom.land
  grind [wf_writeS, wf_putVals]

theorem wf_atomAt {s : State} (h : Memory.wf s = true) (q a it) : Memory.wf (s.atomAt q a it).2 = true := by
  unfold State.atomAt
  split
  · exact h
  · extract_lets f p
    clear_value p
    cases p with
    | none => exact h
    | some p =>
      have hu := wf_updatePlace h q a.ord a.scope a.ev f p
      simp only [Option.map_some]
      split <;> grind [wf_send]

theorem wf_atomStep {s : State} (h : Memory.wf s = true) (r q a it) : Memory.wf (s.atomStep r q a it) = true := by
  unfold State.atomStep
  grind [wf_atomAt, wf_PendAtom_land]

theorem wf_sendAtom {s : State} (h : Memory.wf s = true) (g q a) : Memory.wf (s.sendAtom g q a) = true := by
  unfold State.sendAtom
  grind [wf_each, wf_ticketFor, wf_atomStep, wf_onGust]

theorem wf_endAtom {s : State} (h : Memory.wf s = true) (g q o sc) : Memory.wf (s.endAtom g q o sc).state = true := by
  unfold State.endAtom
  grind [wf_acquirePart, Eff.state]

theorem wf_atomLanes {s : State} (h : Memory.wf s = true) (g q k i m items) : Memory.wf (s.atomLanes g q k i m items).state = true := by
  unfold State.atomLanes
  grind [wf_runLanes, wf_atomLane, wf_askSpans, wf_putVals, wf_sendAtom, wf_endAtom, wf_onGust, Eff.state]

theorem wf_laneAtom {s : State} (h : Memory.wf s = true) (g c k i m) : Memory.wf (s.laneAtom g c k i m).state = true := by
  unfold State.laneAtom
  grind [wf_lanePlaces, wf_before, wf_endLanes, wf_doLanes, wf_atomLanes, Eff.state]

theorem wf_scalarAtom {s : State} (h : Memory.wf s = true) (g k m) : Memory.wf (s.scalarAtom g k m).state = true := by
  unfold State.scalarAtom
  grind [wf_gustPlace, wf_before, wf_endAccess, wf_updatePlace, wf_ticketFor, wf_writeS, wf_acquirePart, wf_atomLane,
    wf_endAtom, wf_sendAtom, wf_onGust, Eff.state]

theorem wf_execAtom {s : State} (h : Memory.wf s = true) (c op ty scalar m) : Result.Keeps (execAtom c op ty scalar m s) := by
  unfold execAtom
  grind [wf_performGust, wf_scalarAtom, wf_performAs, wf_laneAtom]

theorem wf_execCas {s : State} (h : Memory.wf s = true) (c f scalar m) : Result.Keeps (execCas c f scalar m s) := by
  unfold execCas
  grind [wf_performGust, wf_scalarAtom, wf_performAs, wf_laneAtom]

theorem wf_atomicApply {s : State} (h : Memory.wf s = true) (r) : Memory.wf (s.atomicApply r) = true := by
  unfold State.atomicApply
  grind [wf_pick, wf_onGust, wf_each, wf_atomStep, wf_acquirePart, wf_settle, wf_memOk, Eff.state]

theorem wf_prefetch {s : State} (h : Memory.wf s = true) (q ev line a) : Memory.wf (s.prefetch q ev line a).2 = true := by
  unfold State.prefetch
  grind [wf_loadRequest, wf_send, wf_each, wf_fetchSector]

theorem wf_dropFailures {f : State → ℕ → WLoc → LaneOut × State} {s : State}
    (h : ∀ t l a, Memory.wf t = true → Memory.wf (f t l a).2 = true) (hs : Memory.wf s = true) (l p) :
    Memory.wf (dropFailures f s l p).2 = true := by
  unfold dropFailures
  grind []

theorem wf_hintForm {s : State} {f : Squall → State → ℕ → WLoc → LaneOut × State} (h : Memory.wf s = true)
    (hf : ∀ q t l a, Memory.wf t = true → Memory.wf (f q t l a).2 = true) (c m) :
    Result.Keeps (s.hintForm c m f) := by
  unfold State.hintForm
  grind [wf_performAs, wf_lanePlaces, wf_runLanes, wf_dropFailures, wf_placeOf, Eff.state]

theorem wf_execPref {s : State} (h : Memory.wf s = true) (c line m) : Result.Keeps (execPref c line m s) := by
  unfold execPref
  grind [wf_hintForm, wf_prefetch]

theorem wf_demote {s : State} (h : Memory.wf s = true) (d ev loc) : Memory.wf (s.demote d ev loc) = true := by
  unfold State.demote
  grind [wf_evictL1, wf_onL1, wf_onDie, wf_onHome]

theorem wf_execDemote {s : State} (h : Memory.wf s = true) (c m) : Result.Keeps (execDemote c m s) := by
  unfold execDemote
  grind [wf_hintForm, wf_demote]

theorem wf_execFence {s : State} (h : Memory.wf s = true) (c o sc) : Result.Keeps (execFence c o sc s) := by
  unfold execFence
  grind [wf_performGust, wf_before, wf_ticketFor, wf_acquirePart, Eff.state]

theorem wf_execIfence {s : State} (h : Memory.wf s = true) (c) : Result.Keeps (execIfence c s) := by
  unfold execIfence
  grind [wf_performGust, wf_onGust, Eff.state]

theorem wf_itemWord {s : State} (h : Memory.wf s = true) (q l a seen) : Memory.wf (s.itemWord q l a seen).2 = true := by
  unfold State.itemWord
  grind [wf_readRelaxed, wf_send]

theorem wf_loadReturn {s : State} (h : Memory.wf s = true) (r n) : Memory.wf (s.loadReturn r n) = true := by
  unfold State.loadReturn
  grind [wf_each, wf_itemWord, wf_writeS, wf_putVals, wf_onGust]

theorem wf_replayLanes {s : State} (h : Memory.wf s = true) (g q op rp) : Memory.wf (s.replayLanes g q op rp) = true := by
  unfold State.replayLanes
  grind [wf_settle, wf_onGust, wf_each, wf_laneFault, wf_lanePlaces, wf_endLanes, wf_doLanes, wf_atomLanes, wf_memOk, Eff.state]

theorem wf_laneRetranslate {s : State} (h : Memory.wf s = true) (r) : Memory.wf (s.laneRetranslate r) = true := by
  unfold State.laneRetranslate
  grind [wf_setGust, wf_replayLanes]

theorem wf_homeApplyWrite {s : State} (h : Memory.wf s = true) (m) : Memory.wf (s.homeApplyWrite m) = true := by
  unfold State.homeApplyWrite
  grind [wf_send, wf_acked, wf_writeL1, wf_windowWrite, wf_finishWrite]

/-! ### Latch forms -/

theorem wf_latchPlaces {s : State} (h : Memory.wf s = true) (g q write xs) :
    (∀ {e}, s.latchPlaces g q write xs = .error e → Memory.wf e.state = true) ∧
      ∀ {x}, s.latchPlaces g q write xs = .ok x → Memory.wf x.2 = true := by
  induction xs generalizing s with
  | nil => grind [State.latchPlaces]
  | cons y ys ih =>
    have hp := wf_placeOf h q g.priv .g y write
    unfold State.latchPlaces
    split <;> grind [wf_failAs, wf_onGust, Eff.state]

theorem wf_latchPlaces_error {s : State} (h : Memory.wf s = true) {g q write xs e} (he : s.latchPlaces g q write xs = .error e) :
    Memory.wf e.state = true :=
  (wf_latchPlaces h g q write xs).1 he

theorem wf_latchPlaces_ok {s : State} (h : Memory.wf s = true) {g q write xs ps t} (hx : s.latchPlaces g q write xs = .ok (ps, t)) :
    Memory.wf t = true :=
  (wf_latchPlaces h g q write xs).2 hx

/-- What a look for a latch answers keeps the form: the state, and the end of the instruction when it answers one. -/
def LatchFind.Keeps (x : LatchFind × State) : Prop :=
  Memory.wf x.2 = true ∧ ∀ {e}, x.1 = .ends e → Memory.wf e.state = true

theorem wf_latchFind {s : State} (h : Memory.wf s = true) (g q xs n write) : LatchFind.Keeps (s.latchFind g q xs n write) := by
  unfold State.latchFind
  split
  · grind [LatchFind.Keeps, Eff.state]
  · split
    · grind [LatchFind.Keeps, wf_latchPlaces_error]
    · next ps t hp =>
      have ht := wf_latchPlaces_ok h hp
      split
      · grind [LatchFind.Keeps, Eff.state]
      · extract_lets line words first cnt base
        clear_value line words first cnt base
        grind [LatchFind.Keeps, wf_homeFill, Eff.state]

theorem wf_latchFind_at {s t : State} {g q xs n write line first cnt base} (h : Memory.wf s = true)
    (he : s.latchFind g q xs n write = (.at_ line first cnt base, t)) : Memory.wf t = true :=
  wf_of_eq he (wf_latchFind h g q xs n write).1

theorem wf_latchFind_ends {s t : State} {g q xs n write e} (h : Memory.wf s = true)
    (he : s.latchFind g q xs n write = (.ends e, t)) : Memory.wf e.state = true :=
  (wf_latchFind h g q xs n write).2 (by rw [he])

theorem wf_latchForm {s : State} (h : Memory.wf s = true) (c ev bc d a n off t) : Result.Keeps (s.latchForm c ev bc d a n off t) := by
  unfold State.latchForm
  refine wf_performGust h (fun g => ?_) c
  grind [wf_onGust, wf_acquirePart, wf_writeS, wf_latchFind_at, wf_latchFind_ends, wf_send, Eff.state]

theorem wf_execUnlatch {s : State} (h : Memory.wf s = true) (c sus bc a n off) : Result.Keeps (execUnlatch c sus bc a n off s) := by
  unfold execUnlatch
  refine wf_performGust h (fun g => ?_) c
  grind [wf_latchFind_at, wf_latchFind_ends, wf_releasePart, wf_send, Eff.state]

theorem wf_execLatq {s : State} (h : Memory.wf s = true) (c bc d a off) : Result.Keeps (execLatq c bc d a off s) := by
  unfold execLatq
  refine wf_performGust h (fun g => ?_) c
  grind [wf_latchFind_at, wf_latchFind_ends, wf_writeSs, Eff.state]

theorem wf_latchGrant {s : State} (h : Memory.wf s = true) (m) : Memory.wf (s.latchGrant m) = true := by
  unfold State.latchGrant
  grind [wf_receive, wf_each, wf_settleHolders, wf_onL1, wf_l1Install, wf_onGust, wf_memOk]

theorem wf_probeSend {s : State} (h : Memory.wf s = true) (line who) : Memory.wf (s.probeSend line who) = true := by
  unfold State.probeSend
  grind [wf_onHead, wf_each, wf_send]

theorem wf_deadlockProbe {s : State} (h : Memory.wf s = true) (p) : Memory.wf (s.deadlockProbe p) = true := by
  unfold State.deadlockProbe
  grind [wf_dropEntry, wf_onDie, wf_each, wf_logRecord, wf_send]

/-! ### From a front to a bound squall -/

theorem wf_traceBind {s : State} (h : Memory.wf s = true) (r) : Memory.wf (s.traceBind r) = true := by
  unfold State.traceBind
  grind [wf_packet]

theorem wf_bindAt {s : State} (h : Memory.wf s = true) (f lin core x) : Memory.wf (s.bindAt f lin core x) = true := by
  unfold State.bindAt
  grind [wf_orderPoint, wf_each, wf_fresh, wf_occupy, wf_traceBind, wf_memOk]

theorem wf_bindRecordWrite {s : State} (h : Memory.wf s = true) (b) : Memory.wf (s.bindRecordWrite b) = true := by
  unfold State.bindRecordWrite
  grind [wf_onDie]

theorem wf_rangeDistribute {s : State} (h : Memory.wf s = true) (front die) : Memory.wf (s.rangeDistribute front die) = true := by
  unfold State.rangeDistribute
  grind [wf_onDie, wf_onFront]

theorem wf_squallBind {s : State} (h : Memory.wf s = true) (front core) : Memory.wf (s.squallBind front core) = true := by
  unfold State.squallBind
  grind [wf_bindAt, wf_onDie]

theorem wf_frontRetire {s : State} (h : Memory.wf s = true) (n) : Memory.wf (s.frontRetire n) = true := by
  unfold State.frontRetire
  grind [wf_retireFront]

theorem wf_bindRecordRewrite {s : State} (h : Memory.wf s = true) (die front) : Memory.wf (s.bindRecordRewrite die front) = true := by
  unfold State.bindRecordRewrite
  grind [wf_onDie]

/-! ### Migration -/

theorem wf_execMpoint {s : State} (h : Memory.wf s = true) (c n) : Result.Keeps (execMpoint c n s) := by
  unfold execMpoint
  grind [wf_performGust, wf_setGust, Eff.state]

theorem wf_failTransfer {s : State} (h : Memory.wf s = true) (q g target addr) : Memory.wf (s.failTransfer q g target addr) = true := by
  unfold State.failTransfer
  grind [wf_machineCheck]

theorem wf_tableAddr {s : State} (h : Memory.wf s = true) (q n) : Memory.wf (s.tableAddr q n).2 = true := by
  unfold State.tableAddr
  grind [wf_sysRead]

theorem wf_migrDecline {s : State} (h : Memory.wf s = true) (gs status) : Memory.wf (s.migrDecline gs status) = true := by
  unfold State.migrDecline
  grind [wf_each, wf_completeFor, wf_trace, wf_onGust]

theorem wf_migrJudge {s : State} (h : Memory.wf s = true) (r) : Memory.wf (s.migrJudge r) = true := by
  unfold State.migrJudge
  dsimp only
  split
  · exact h
  · split
    · exact h
    · split
      · exact h
      · next q _ _ g0 _ _ _ =>
        have ha := wf_tableAddr h q (g0.arrivedAt.getD (0, 0)).2
        split <;> rename_i e <;> rw [e] at ha
        · exact ha
        · exact wf_failTransfer ha ..
        · grind [wf_migrDecline, wf_pick, wf_onSquall]

theorem wf_migrArrive {s : State} (h : Memory.wf s = true) (g q i n) : Memory.wf (s.migrArrive g q i n).state = true := by
  unfold State.migrArrive
  grind [wf_each, wf_faultFor, wf_migrJudge, wf_shutterStop, wf_onGust, Eff.state]

theorem wf_execMigr {s : State} (h : Memory.wf s = true) (c d n) : Result.Keeps (execMigr c d n s) := by
  unfold execMigr
  grind [wf_squallForm, wf_reportBatches, wf_onGust, wf_migrArrive, Eff.state]

theorem wf_freeBlock {s : State} (h : Memory.wf s = true) (n) : Memory.wf (s.freeBlock n).2 = true := h

theorem wf_carryStores {s : State} (h : Memory.wf s = true) (q x) : Memory.wf (s.carryStores q x).2 = true := by
  unfold State.carryStores
  grind [wf_freeBlock]

theorem wf_applyMap {s : State} (h : Memory.wf s = true) (q m hd es pairs) : Memory.wf (s.applyMap q m hd es pairs) = true := by
  unfold State.applyMap
  extract_lets gs vals step
  exact wf_setSquall (List.foldlRecOn _ step (motive := fun x : Squall × State => Memory.wf x.2 = true) (wf_carryStores h ..)
    fun x hx y _ => by grind [wf_freeBlock, wf_fresh, wf_setGust]) _

theorem wf_migrationTransfer {s : State} (h : Memory.wf s = true) (r) : Memory.wf (s.migrationTransfer r) = true := by
  unfold State.migrationTransfer
  split
  · exact h
  · split
    · dsimp only
      split
      · exact h
      · have h1 := wf_releaseEffect h r
        generalize s.releaseEffect r = t at h1 ⊢
        next q _ _ _ m g0 _ _ _ =>
        have ha := wf_tableAddr h1 ((t.squall? r).getD q) m.point
        split <;> rename_i e <;> rw [e] at ha
        · exact ha
        · exact wf_failTransfer ha ..
        · next a _ =>
          split
          · exact wf_failTransfer ha ..
          · have hw := wf_sysReads ha ((t.squall? r).getD q).ctx a 9
            split <;> rename_i e <;> rw [e] at hw
            · exact hw
            · exact wf_failTransfer hw ..
            · grind [wf_sysReads, wf_failTransfer, wf_onSquall]
    · exact wf_migrJudge h r
    · exact h

theorem wf_migrationComplete {s : State} (h : Memory.wf s = true) (r) : Memory.wf (s.migrationComplete r) = true := by
  unfold State.migrationComplete
  split
  · split
    · split
      · exact h
      · split
        · exact wf_failTransfer h ..
        · extract_lets image s1 s2 s3 s4 s5
          have h5 : Memory.wf s5 = true :=
            wf_each (wf_occupy (wf_onSquall (wf_applyMap (wf_leaveCore h r) ..) ..) ..) (fun t g ht => by
              split
              · exact ht
              · exact wf_complete (wf_memOk _ ▸ wf_memOk _ ▸ wf_trace (wf_onGust ht _ _) ..) ..) _
          split
          · exact h5
          · exact h5
    · exact h
  · exact h

/-! ### Launches and the forms about fronts -/

theorem wf_released {s : State} {k : State → Eff} (h : Memory.wf s = true)
    (hk : ∀ t, Memory.wf t = true → Memory.wf (k t).state = true) (g q) :
    Memory.wf (s.released g q k).state = true := by
  unfold State.released
  grind [wf_releasePart, Eff.state]

theorem wf_execLaunch {s : State} (h : Memory.wf s = true) (c d a) : Result.Keeps (execLaunch c d a s) := by
  unfold execLaunch
  grind [wf_squallForm, wf_released, wf_send, wf_onGust, Eff.state]

theorem wf_launchChild {s : State} (h : Memory.wf s = true) (f x) : Memory.wf (s.launchChild f x).2 = true := by
  unfold State.launchChild
  grind [wf_launchAt]

theorem wf_launchReply {s : State} (h : Memory.wf s = true) (r) : Memory.wf (s.launchReply r) = true := by
  unfold State.launchReply
  grind [wf_launchChild, wf_writeS, wf_onGust, wf_completeFor]

theorem wf_frontsDone {s : State} (h : Memory.wf s = true) (ctx) : Memory.wf (s.frontsDone ctx) = true := by
  unfold State.frontsDone
  grind [wf_releaseDies, wf_each, wf_homeApplyWrite, wf_memOk]

theorem wf_execLwait {s : State} (h : Memory.wf s = true) (c d a) : Result.Keeps (execLwait c d a s) := by
  unfold execLwait
  grind [wf_squallForm, wf_writeS, wf_orderedAfter, wf_frontsDone, Eff.state]

theorem wf_execLqry {s : State} (h : Memory.wf s = true) (c d a) : Result.Keeps (execLqry c d a s) := by
  unfold execLqry
  grind [wf_squallForm, wf_writeSs, Eff.state]

theorem wf_execPrio {s : State} (h : Memory.wf s = true) (c d src) : Result.Keeps (execPrio c d src s) := by
  unfold execPrio
  grind [wf_squallForm, wf_onFront, wf_each, wf_send, wf_writeS, Eff.state]

/-! ### System forms -/

theorem wf_trapNext {s : State} (h : Memory.wf s = true) (g cause detail) : Memory.wf (s.trapNext g cause detail) = true :=
  wf_trapEntry h ..

theorem wf_execTrap {s : State} (h : Memory.wf s = true) (c n) : Result.Keeps (execTrap c n s) := by
  unfold execTrap
  grind [wf_performGust, wf_trapNext, Eff.state]

theorem wf_execBrk {s : State} (h : Memory.wf s = true) (c n) : Result.Keeps (execBrk c n s) := by
  unfold execBrk
  grind [wf_performGust, wf_stopGust, wf_onGust, wf_trapNext, Eff.state]

theorem wf_execEret {s : State} (h : Memory.wf s = true) (c) : Result.Keeps (execEret c s) := by
  unfold execEret
  grind [wf_performGust, wf_endFrontOf, wf_setGust, Eff.state]

theorem wf_execRdsr {s : State} (h : Memory.wf s = true) (c d r) : Result.Keeps (execRdsr c d r s) := by
  unfold execRdsr
  grind [wf_squallForm, wf_onGust, wf_writeS, Eff.state]

theorem wf_putContext {s : State} (h : Memory.wf s = true) (ctx r w) : Memory.wf (s.putContext ctx r w) = true := by
  unfold State.putContext
  grind [wf_each, wf_traceBind, wf_memOk]

theorem wf_execWrsr {s : State} (h : Memory.wf s = true) (c r a) : Result.Keeps (execWrsr c r a s) := by
  unfold execWrsr
  grind [wf_squallForm, wf_released, wf_putContext, wf_onGust, Eff.state]

theorem wf_snapTrigger {s : State} (h : Memory.wf s = true) : Memory.wf (s.snapTrigger) = true := by
  unfold State.snapTrigger
  grind [wf_memOk]

theorem wf_execSnap {s : State} (h : Memory.wf s = true) (c) : Result.Keeps (execSnap c s) := by
  unfold execSnap
  grind [wf_performGust, wf_snapTrigger, Eff.state]

theorem wf_trapStep {s : State} (h : Memory.wf s = true) (r cause detail) : Memory.wf (s.trapStep r cause detail) = true := by
  unfold State.trapStep
  grind [wf_trapParked, wf_trapNext, wf_gustFault]

theorem wf_squallRetire {s : State} (h : Memory.wf s = true) (q) : Memory.wf (s.squallRetire q) = true := by
  unfold State.squallRetire
  grind [wf_onFront, wf_dropSquall]

theorem wf_dropHeld {s : State} (h : Memory.wf s = true) (q) : Memory.wf (s.dropHeld q) = true := by
  unfold State.dropHeld
  grind [wf_each, wf_endCmd, wf_overlayEnd]

theorem wf_gustRetire {s : State} (h : Memory.wf s = true) (r) : Memory.wf (s.gustRetire r) = true := by
  unfold State.gustRetire
  extract_lets s1
  have h1 : Memory.wf s1 = true := by
    unfold s1
    split
    · cases s.squall? r.sq
      · exact h
      · exact wf_dropHeld h _
    · exact h
  clear_value s1
  split
  · split
    · exact h1
    · split
      · next e => exact wf_reportBatches (s := { s1 with op := 0 }) h1 _ _ _ e
      · split
        · exact wf_gustFault (s := { s1 with op := 0 }) h1 ..
        · exact wf_squallRetire (wf_migrJudge (wf_breakGangs (wf_releaseEffect (wf_onSquall
            (wf_onGust (s := { s1 with op := 0 }) h1 ..) ..) _) _) _) _
  · exact h1

end Sys2Proof.Machine
end

section
/-! O57: shuttering, graphs, caches, links, observation and bring-up. -/

namespace Sys2Proof.Machine

set_option Elab.async false

/-! ### Shuttering -/

theorem wf_shutterRequest {s : State} (h : Memory.wf s = true) (r) : Memory.wf (s.shutterRequest r) = true := by
  unfold State.shutterRequest
  grind [wf_setSquall, wf_memOk]

theorem wf_forcedSave {s : State} (h : Memory.wf s = true) (r) : Memory.wf (s.forcedSave r) = true := by
  unfold State.forcedSave
  grind [wf_setSquall, wf_onCore, wf_each, wf_undoFills, wf_onDie, wf_memOk]

theorem wf_areaReady {s : State} (h : Memory.wf s = true) (ctx x write n) : Memory.wf (s.areaReady ctx x write n).2 = true := by
  induction n generalizing s ctx x write with
  | zero => exact h
  | succ n ih =>
    unfold State.areaReady
    grind [wf_sysTranslate]

theorem wf_findImage {s : State} (h : Memory.wf s = true) (ctx save z i sa n) : Memory.wf (s.findImage ctx save z i sa n).2 = true := by
  induction n generalizing s ctx save z i sa with
  | zero => exact h
  | succ n ih =>
    unfold State.findImage
    grind [wf_sysRead]

theorem wf_shutterRefuse {s : State} (h : Memory.wf s = true) (q) : Memory.wf (s.shutterRefuse q) = true := by
  unfold State.shutterRefuse
  grind [wf_retestBarriers, wf_setSquall, wf_memOk]

theorem wf_areaCheck {s : State} (h : Memory.wf s = true) (ctx cause addr) : Memory.wf (s.areaCheck ctx cause addr) = true :=
  wf_machineCheck h ..

theorem wf_takeImage {s : State} (h : Memory.wf s = true) (q f) : Memory.wf (s.takeImage q f) = true := by
  unfold State.takeImage
  grind [wf_sysReads, wf_areaCheck, wf_shutterRefuse, wf_findImage, wf_sysWrite, wf_onSquall]

theorem wf_saveAt {s : State} (h : Memory.wf s = true) (q a forced) : Memory.wf (s.saveAt q a forced) = true := by
  unfold State.saveAt
  extract_lets s1 q1 gs waits cmds runs w
  have h1 : Memory.wf s1 = true := wf_landInto h q
  have hw : Memory.wf w.2 = true :=
    List.foldlRecOn runs _ (motive := fun x : SysAns Unit × State => Memory.wf x.2 = true) h1
      fun x hx r _ => by
        obtain ⟨x | _ | _, t⟩ := x
        · exact wf_sysWrites hx ..
        · exact hx
        · exact hx
  clear_value w s1
  split
  · exact wf_dropSquall hw _
  · exact wf_areaCheck hw ..
  · exact wf_areaCheck hw ..

theorem wf_shutterSave {s : State} (h : Memory.wf s = true) (r) : Memory.wf (s.shutterSave r) = true := by
  unfold State.shutterSave
  split
  · split
    · exact h
    · split
      · exact h
      · grind [wf_takeImage, wf_areaReady, wf_areaCheck, wf_saveAt]
  · exact h

theorem wf_squallFrom {s : State} (h : Memory.wf s = true) (x f core xs ws) : Memory.wf (s.squallFrom x f core xs ws).2 = true := by
  unfold State.squallFrom
  grind [wf_freeBlock]

theorem wf_requeue {s : State} (h : Memory.wf s = true) (core c) : Memory.wf (s.requeue core c) = true := by
  unfold State.requeue
  grind [wf_onQueue, wf_overlayPend]

theorem wf_restoreAt {s : State} (h : Memory.wf s = true) (x f core xs ws) : Memory.wf (s.restoreAt x f core xs ws) = true := by
  unfold State.restoreAt
  grind [wf_squallFrom, wf_orderPoint, wf_each, wf_fresh, wf_occupy, wf_requeue, wf_trace, wf_retestBarriers, wf_latchRebound, wf_memOk]

theorem wf_shutterRestore {s : State} (h : Memory.wf s = true) (r core) : Memory.wf (s.shutterRestore r core) = true := by
  unfold State.shutterRestore
  split
  · split
    · exact h
    · split
      · exact h
      · grind [wf_sysReads, wf_sysWrite, wf_areaCheck, wf_restoreAt]
  · exact h

/-! ### Launch lists and task graphs -/

theorem wf_refuseLaunch {s : State} (h : Memory.wf s = true) (ctx x code) : Memory.wf (s.refuseLaunch ctx x code).2 = true := by
  unfold State.refuseLaunch
  grind [wf_sysRead, wf_putWord, wf_checkRead]

theorem wf_refuseGraph {s : State} (h : Memory.wf s = true) (ctx xs) : Memory.wf (s.refuseGraph ctx xs) = true := by
  unfold State.refuseGraph
  grind [wf_fresh, wf_endGraph, wf_memOk]

theorem wf_takeGraph {s : State} (h : Memory.wf s = true) (ctx xs nodes) : Memory.wf (s.takeGraph ctx xs nodes) = true := wf_fresh h ..

theorem wf_launchGraph {s : State} (h : Memory.wf s = true) (ctx x) : Memory.wf (s.launchGraph ctx x).2 = true := by
  unfold State.launchGraph
  grind [wf_sysReads, wf_checkRead, wf_refuseGraph, wf_takeGraph]

theorem wf_launchRoot {s : State} (h : Memory.wf s = true) (ctx b x) : Memory.wf (s.launchRoot ctx b x).2 = true := by
  unfold State.launchRoot
  grind [wf_launchAt, wf_refuseLaunch]

theorem wf_writableAll {s : State} (h : Memory.wf s = true) (ctx xs) : Memory.wf (s.writableAll ctx xs).2 = true := by
  induction xs generalizing s ctx with
  | nil => exact h
  | cons x xs ih =>
    unfold State.writableAll
    grind [wf_sysTranslate, wf_checkRead]

theorem wf_launchListConsume {s : State} (h : Memory.wf s = true) (ctx) : Memory.wf (s.launchListConsume ctx) = true := by
  unfold State.launchListConsume
  grind [wf_sysRead, wf_checkRead, wf_writableAll, wf_launchRoot, wf_launchGraph, wf_sysPut]

theorem wf_waitPage {s : State} (h : Memory.wf s = true) (g i n acting) : Memory.wf (s.waitPage g i n acting) = true := by
  unfold State.waitPage
  grind [wf_sysTranslate, wf_onGraph, wf_checkRead]

theorem wf_graphNodeAct {s : State} (h : Memory.wf s = true) (id i) : Memory.wf (s.graphNodeAct id i) = true := by
  unfold State.graphNodeAct
  grind [wf_waitPage, wf_launchRoot, wf_onGraph, wf_sysRead, wf_checkRead]

theorem wf_graphComplete {s : State} (h : Memory.wf s = true) (id) : Memory.wf (s.graphComplete id) = true := by
  unfold State.graphComplete
  grind [wf_endGraph]

/-! ### Steps of the caches and walkers -/

theorem wf_homeFillStep {s : State} (h : Memory.wf s = true) (line) : Memory.wf (s.homeFillStep line) = true := by
  unfold State.homeFillStep
  grind [wf_homeFill]

theorem wf_l1FillStep {s : State} (h : Memory.wf s = true) (die loc first n ev) : Memory.wf (s.l1FillStep die loc first n ev) = true := by
  unfold State.l1FillStep
  grind [wf_each, wf_l1Fill]

theorem wf_l1WriteBackStep {s : State} (h : Memory.wf s = true) (die loc sector) : Memory.wf (s.l1WriteBackStep die loc sector) = true := by
  unfold State.l1WriteBackStep
  grind [wf_writeBack]

theorem wf_invalidationStep {s : State} (h : Memory.wf s = true) (die line sector stamp) :
    Memory.wf (s.invalidationStep die line sector stamp) = true := by
  unfold State.invalidationStep
  grind [wf_applyInvalidation, wf_deliver]

theorem wf_dirtyNoticeStep {s : State} (h : Memory.wf s = true) (die line sector) :
    Memory.wf (s.dirtyNoticeStep die line sector) = true := by
  unfold State.dirtyNoticeStep
  grind [wf_note]

theorem wf_forcedPublishStep {s : State} (h : Memory.wf s = true) (die line sector) :
    Memory.wf (s.forcedPublishStep die line sector) = true := by
  unfold State.forcedPublishStep
  grind [wf_onDie, wf_writeBack]

theorem wf_homeRecallStep {s : State} (h : Memory.wf s = true) (line) : Memory.wf (s.homeRecallStep line) = true := by
  unfold State.homeRecallStep
  grind [wf_recall]

theorem wf_regenRecord {s : State} (h : Memory.wf s = true) (ctx i) : Memory.wf (s.regenRecord ctx i).2 = true := by
  unfold State.regenRecord
  grind [wf_readWide]

theorem wf_launchRegen {s : State} (h : Memory.wf s = true) (core ctx entry w0 w1 x) :
    Memory.wf (s.launchRegen core ctx entry w0 w1 x) = true := by
  unfold State.launchRegen
  grind [wf_regenRecord, wf_failFill, wf_launchAt, wf_onFront, wf_send]

theorem wf_pageWalkStep {s : State} (h : Memory.wf s = true) (core ctx x) : Memory.wf (s.pageWalkStep core ctx x) = true := by
  unfold State.pageWalkStep
  grind [wf_walk, wf_launchRegen, wf_translate]

theorem wf_leaseExpiry {s : State} (h : Memory.wf s = true) (core) : Memory.wf (s.leaseExpiry core) = true := wf_onDie (wf_onCore h ..) ..

theorem wf_windowStep {s : State} (h : Memory.wf s = true) (core u w) : Memory.wf (s.windowStep core u w) = true := by
  unfold State.windowStep
  grind [wf_windowWrite]

/-! ### Package time, links and ports -/

theorem wf_ptimeTick {s : State} (h : Memory.wf s = true) : Memory.wf (s.ptimeTick) = true := by
  unfold State.ptimeTick
  grind [wf_retryWrites, wf_memOk]

theorem wf_bareCheck {s : State} (h : Memory.wf s = true) (ctx cause addr) : Memory.wf (s.bareCheck ctx cause addr) = true :=
  wf_machineCheck h ..

theorem wf_packageStopped {s : State} (h : Memory.wf s = true) (die) : Memory.wf (s.packageStopped die) = true := by
  unfold State.packageStopped
  grind [wf_emit, wf_each, wf_bareCheck, wf_memOk]

theorem wf_keptCheck {s : State} (h : Memory.wf s = true) (ctx cause addr words) : Memory.wf (s.keptCheck ctx cause addr words) = true := by
  unfold State.keptCheck
  grind [wf_bareCheck, wf_machineCheck]

theorem wf_requestTimeout {s : State} (h : Memory.wf s = true) (x) : Memory.wf (s.requestTimeout x) = true := by
  unfold State.requestTimeout
  grind [wf_keptCheck, wf_addPoison, wf_memOk]

theorem wf_zargenTimeout {s : State} (h : Memory.wf s = true) (seq) : Memory.wf (s.zargenTimeout seq) = true := by
  unfold State.zargenTimeout
  grind [wf_machineCheck, wf_bareCheck, wf_memOk]

theorem wf_countLost {s : State} (h : Memory.wf s = true) (d) : Memory.wf (s.countLost d) = true := wf_onDie h ..

theorem wf_dataLost {s : State} (h : Memory.wf s = true) (ctx) : Memory.wf (s.dataLost ctx) = true := by
  unfold State.dataLost
  grind [wf_pick, wf_keptCheck, wf_countLost, wf_bareCheck]

theorem wf_writeLost {s : State} (h : Memory.wf s = true) (line qs) : Memory.wf (s.writeLost line qs) = true := by
  unfold State.writeLost
  grind [wf_addPoison, wf_countLost, wf_acked, wf_pick, wf_each, wf_note, wf_onL1, wf_memOk]

theorem wf_requestLost {s : State} (h : Memory.wf s = true) (ctx) : Memory.wf (s.requestLost ctx) = true := by
  unfold State.requestLost
  grind [wf_pick, wf_onGust, wf_memOk]

theorem wf_flitLost {s : State} (h : Memory.wf s = true) (f) : Memory.wf (s.flitLost f) = true := by
  unfold State.flitLost
  grind [wf_dataLost, wf_writeLost, wf_addPoison, wf_countLost, wf_pick, wf_requestLost, wf_onDie, wf_memOk]

theorem wf_otherDevice {s : State} (h : Memory.wf s = true) (m f) : Memory.wf (s.otherDevice m f) = true := by
  unfold State.otherDevice
  dsimp only
  split
  · next ws _ =>
    cases f (ws.getD m.word Word.zero)
    · exact h
    · exact wf_setPortLine h (.remote ..) _
  · exact h

theorem wf_zargenWrite {s : State} (h : Memory.wf s = true) (m) : Memory.wf (s.zargenWrite m) = true := by
  unfold State.zargenWrite
  grind [wf_emit, wf_addPoison, wf_writeAtHome, wf_otherDevice]

theorem wf_zargenRead {s : State} (h : Memory.wf s = true) (m) : Memory.wf (s.zargenRead m) = true := by
  unfold State.zargenRead
  grind [wf_readWide, wf_emit]

theorem wf_zargenAtomic {s : State} (h : Memory.wf s = true) (m) : Memory.wf (s.zargenAtomic m) = true := by
  unfold State.zargenAtomic
  grind [wf_updateHome, wf_emit, wf_otherDevice]

theorem wf_hostCompletion {s : State} (h : Memory.wf s = true) (ctx line good) : Memory.wf (s.hostCompletion ctx line good) = true := by
  unfold State.hostCompletion
  grind [wf_keptCheck, wf_bareCheck]

theorem wf_hostPlace {s : State} (h : Memory.wf s = true) (fn line write) : Memory.wf (s.hostPlace fn line write).2 = true := by
  unfold State.hostPlace
  grind [wf_walk]

theorem wf_hostLineRead {s : State} (h : Memory.wf s = true) (p) : Memory.wf (s.hostLineRead p).2 = true := by
  unfold State.hostLineRead
  grind [wf_readLineAt]

theorem wf_hostReadParts {s : State} (h : Memory.wf s = true) (fn xs) : Memory.wf (s.hostReadParts fn xs).2 = true := by
  induction xs generalizing s fn with
  | nil => exact h
  | cons x xs ih =>
    unfold State.hostReadParts
    grind [wf_hostPlace, wf_hostLineRead]

theorem wf_hostRead {s : State} (h : Memory.wf s = true) (fn off n) : Memory.wf (s.hostRead fn off n) = true := by
  unfold State.hostRead
  grind [wf_emit, wf_hostReadParts, wf_bareCheck]

theorem wf_hostWritePart {s : State} (h : Memory.wf s = true) (p first bs) : Memory.wf (s.hostWritePart p first bs) = true := by
  unfold State.hostWritePart
  grind [wf_putLineAt, wf_each, wf_writeAtHome, wf_memOk]

theorem wf_hostWritePlaces {s : State} (h : Memory.wf s = true) (fn off bs xs) : Memory.wf (s.hostWritePlaces fn off bs xs).2 = true := by
  induction xs generalizing s fn off bs with
  | nil => exact h
  | cons x xs ih =>
    unfold State.hostWritePlaces
    grind [wf_hostPlace]

theorem wf_bar2Write {s : State} (h : Memory.wf s = true) (off bytes) : Memory.wf (s.bar2Write off bytes) = true := by
  unfold State.bar2Write
  grind [wf_snapTrigger, wf_memOk]

theorem wf_hostWrite {s : State} (h : Memory.wf s = true) (fn off bytes) : Memory.wf (s.hostWrite fn off bytes) = true := by
  unfold State.hostWrite
  grind [wf_bar2Write, wf_hostWritePlaces, wf_each, wf_hostWritePart, wf_emit]

/-! ### Snapshots and debug commands -/

theorem wf_snapCapture {s : State} (h : Memory.wf s = true) : Memory.wf (s.snapCapture) = true := by
  unfold State.snapCapture
  grind [wf_memOk]

theorem wf_debugStop {s : State} (h : Memory.wf s = true) (r) : Memory.wf (s.debugStop r) = true := by
  unfold State.debugStop
  grind [wf_dbgEnd, wf_stopOrdered, wf_stopGust]

theorem wf_runOn {s : State} (h : Memory.wf s = true) (r) : Memory.wf (s.runOn r) = true := by
  unfold State.runOn
  grind [wf_trace, wf_setGust, wf_pathEnd]

theorem wf_debugResume {s : State} (h : Memory.wf s = true) (r) : Memory.wf (s.debugResume r) = true := by
  unfold State.debugResume
  grind [wf_runOn, wf_dbgEnd]

theorem wf_debugHold {s : State} (h : Memory.wf s = true) (r) : Memory.wf (s.debugHold r) = true := by
  unfold State.debugHold
  grind [wf_runOn, wf_dbgEnd, wf_setGust]

theorem wf_debugRelease {s : State} (h : Memory.wf s = true) (r) : Memory.wf (s.debugRelease r) = true := by
  unfold State.debugRelease
  grind [wf_dbgEnd, wf_setGust]

/-! ### Scratchpad forms -/

theorem wf_execLdp {s : State} (h : Memory.wf s = true) (c m) : Result.Keeps (execLdp c m s) := by
  unfold execLdp
  grind [wf_performAs, wf_laneMemory]

theorem wf_execStp {s : State} (h : Memory.wf s = true) (c m) : Result.Keeps (execStp c m s) := by
  unfold execStp
  grind [wf_performAs, wf_laneMemory]

theorem wf_execLdps {s : State} (h : Memory.wf s = true) (c m) : Result.Keeps (execLdps c m s) := by
  unfold execLdps
  grind [wf_performGust, wf_scalarLoad]

theorem wf_execStps {s : State} (h : Memory.wf s = true) (c m) : Result.Keeps (execStps c m s) := by
  unfold execStps
  grind [wf_performGust, wf_scalarStore]

theorem wf_execAmop {s : State} (h : Memory.wf s = true) (c op ty m) : Result.Keeps (execAmop c op ty m s) := by
  unfold execAmop
  grind [wf_performAs, wf_laneAtom]

/-! ### Bring-up, loading and soft errors -/

theorem wf_resetDevice {s : State} (h : Memory.wf s = true) : Memory.wf s.resetDevice = true := by
  obtain ⟨-, hhost, hpeers, heach, hflash⟩ := (wf_iff s).1 h
  exact (wf_iff _).2 ⟨((wf_iff State.reset).1 wf_reset).1, hhost, hpeers, heach, hflash⟩

theorem wf_bootgo {s : State} (h : Memory.wf s = true) (v) : Memory.wf (s.bootgo v) = true := by
  unfold State.bootgo
  grind [wf_memOk]

theorem wf_firmwareCheck {s : State} (h : Memory.wf s = true) : Memory.wf (s.firmwareCheck) = true := by
  unfold State.firmwareCheck
  grind [wf_memOk]

theorem wf_attestation {s : State} (h : Memory.wf s = true) (nonce) : Memory.wf (s.attestation nonce) = true := by
  unfold State.attestation
  grind [wf_emit]

theorem wf_bringUp {s : State} (h : Memory.wf s = true) : Memory.wf s.bringUp = true := by
  unfold State.bringUp
  split
  · obtain ⟨-, hmem⟩ := (wf_iff s).1 h
    dsimp only
    split
    · exact (wf_iff _).2 ⟨rfl, hmem⟩
    · exact (wf_iff _).2 ⟨rfl, hmem⟩
  · exact h

theorem wf_d3hotRequest {s : State} (h : Memory.wf s = true) : Memory.wf (s.d3hotRequest) = true := by
  unfold State.d3hotRequest
  grind [wf_emit, wf_memOk]

theorem wf_d3hotEnter {s : State} (h : Memory.wf s = true) : Memory.wf (s.d3hotEnter) = true := by
  unfold State.d3hotEnter
  grind [wf_memOk]

theorem wf_d0Return {s : State} (h : Memory.wf s = true) : Memory.wf (s.d0Return) = true := by
  unfold State.d0Return
  grind [wf_memOk]

theorem wf_d3cold {s : State} (h : Memory.wf s = true) : Memory.wf (s.d3cold) = true := by
  unfold State.d3cold
  grind [wf_resetDevice, wf_memOk]

theorem wf_placeSeg {s : State} (h : Memory.wf s = true) (core image first count entry lazy code) :
    ∀ t, s.placeSeg core image first count entry lazy code = some t → Memory.wf t = true := by
  unfold State.placeSeg
  grind [wf_setSeg, wf_each, wf_putCode]

/-- A partial step folded over a list keeps the form when each step does. -/
theorem wf_foldl_bind {α : Type} {f : State → α → Option State}
    (hf : ∀ {s x t}, Memory.wf s = true → f s x = some t → Memory.wf t = true)
    {t : Option State} (ht : ∀ {u}, t = some u → Memory.wf u = true) (xs : List α) {u : State}
    (hu : xs.foldl (fun t x => t.bind fun s => f s x) t = some u) : Memory.wf u = true := by
  induction xs generalizing t with
  | nil => exact ht hu
  | cons x xs ih =>
    refine ih (fun {v} hv => ?_) hu
    obtain ⟨w, hw, hv⟩ := Option.bind_eq_some_iff.1 hv
    exact hf (ht hw) hv

theorem wf_placeImage {s : State} (h : Memory.wf s = true) (core num i) : ∀ t, s.placeImage core num i = some t → Memory.wf t = true :=
  fun _ ht =>
  wf_foldl_bind (fun hs e => wf_placeSeg hs _ _ _ _ _ _ _ _ e)
    (wf_foldl_bind (fun hs e => wf_placeSeg hs _ _ _ _ _ _ _ _ e) (fun e => Option.some.inj e ▸ h) i.lazies) i.segs ht

theorem wf_loadImage {s : State} (h : Memory.wf s = true) (m i) : ∀ x, s.loadImage m i = some x → Memory.wf x.2 = true := by
  intro x hx
  unfold State.loadImage at hx
  split at hx
  · cases hx
  · next n _ =>
    obtain ⟨t, ht, rfl⟩ := Option.map_eq_some_iff.1 hx
    have ht : Memory.wf t = true := wf_foldl_bind (f := fun s c => s.placeImage c n i) (fun hs e => wf_placeImage hs _ _ _ _ e)
      (fun e => Option.some.inj e ▸ h) _ ht
    exact ht

theorem wf_loadImages {s : State} (h : Memory.wf s = true) (m is) : ∀ x, s.loadImages m is = some x → Memory.wf x.2 = true := by
  induction is generalizing s with
  | nil => rintro x ⟨⟩; exact h
  | cons i is ih =>
    intro x hx
    obtain ⟨y, hy, hx⟩ := Option.bind_eq_some_iff.1 hx
    obtain ⟨z, hz, rfl⟩ := Option.map_eq_some_iff.1 hx
    exact ih (wf_loadImage h m i y hy) z hz

theorem wf_writeBlocks {s : State} (h : Memory.wf s = true) (ctx bs) : ∀ t, s.writeBlocks ctx bs = some t → Memory.wf t = true :=
  fun _ ht =>
  wf_foldl_bind (fun {s x t} hs e => by grind [wf_sysWrites]) (fun e => Option.some.inj e ▸ h) bs ht

theorem wf_install {s : State} (h : Memory.wf s = true) (m p) : ∀ t, s.install m p = some t → Memory.wf t = true := by
  intro t ht
  obtain ⟨x, hx, ht⟩ := Option.bind_eq_some_iff.1 ht
  obtain ⟨u, hu, rfl⟩ := Option.map_eq_some_iff.1 ht
  exact wf_writeBlocks (wf_loadImages h m _ x hx) _ _ u hu

theorem wf_moduleLoad {s : State} (h : Memory.wf s = true) (m) : Memory.wf (s.moduleLoad m) = true := by
  unfold State.moduleLoad
  split
  · exact h
  · split
    · exact h
    · next p _ =>
      cases e : s.install m p
      · exact h
      · exact wf_install h m p _ e

theorem wf_moduleUnload {s : State} (h : Memory.wf s = true) (n) : Memory.wf (s.moduleUnload n) = true := by
  unfold State.moduleUnload
  grind [wf_emit, wf_memOk]

theorem wf_strikeWord {s : State} (h : Memory.wf s = true) (p) : Memory.wf (s.strikeWord p) = true := by
  unfold State.strikeWord
  grind [wf_unspecified, wf_windowWrite, wf_onL1, wf_onDie, wf_onHome]

theorem wf_uncorrectable {s : State} (h : Memory.wf s = true) (p) : Memory.wf (s.uncorrectable p) = true := by
  unfold State.uncorrectable
  grind [wf_each, wf_bareCheck, wf_onL1, wf_onDie, wf_onHome]

theorem wf_softError {s : State} (h : Memory.wf s = true) (p trits) : Memory.wf (s.softError p trits) = true := by
  unfold State.softError
  grind [wf_onDie, wf_uncorrectable, wf_pick, wf_strikeWord]

/-! ### Steps of the other agents -/

theorem wf_agent {s : State} (h : Memory.wf s = true) (ok) : Result.Keeps (agent ok s) := by
  unfold agent
  grind [Result.Keeps]

theorem wf_frontEndStep {s : State} (h : Memory.wf s = true) (front cause) : Memory.wf (s.frontEndStep front cause) = true := by
  unfold State.frontEndStep
  grind [wf_endFrontOf, wf_endFront]

end Sys2Proof.Machine
end

section
/-! O57: every instruction and every step. -/

namespace Sys2Proof.Machine

set_option Elab.async false

theorem wf_exec {s : State} (h : Memory.wf s = true) (i : Instr) : Result.Keeps (exec i s) := by
  cases i with
  | nop c => exact wf_execNop h c
  | bra c off => exact wf_execBra h c off
  | brp c mode p off => exact wf_execBrp h c mode p off
  | btri c a plus minus => exact wf_execBtri h c a plus minus
  | split c p join els => exact wf_execSplit h c p join els
  | join c => exact wf_execJoin h c
  | breakOut c n => exact wf_execBreak h c n
  | call c d off => exact wf_execCall h c d off
  | calli c d a => exact wf_execCalli h c d a
  | ret c a => exact wf_execRet h c a
  | exit c => exact wf_execExit h c
  | yield c n => exact wf_execYield h c n
  | yieldExpiry => exact wf_yieldExpiry h ..
  | add => exact wf_performElem h ..
  | sub => exact wf_performElem h ..
  | neg => exact wf_performElem h ..
  | mul => exact wf_performElem h ..
  | mulh => exact wf_performElem h ..
  | mad => exact wf_performElem h ..
  | div => exact wf_performElem h ..
  | mod => exact wf_performElem h ..
  | sht => exact wf_performElem h ..
  | abs => exact wf_performElem h ..
  | sgn => exact wf_performElem h ..
  | min => exact wf_performElem h ..
  | max => exact wf_performElem h ..
  | clamp => exact wf_performElem h ..
  | cmp => exact wf_performElem h ..
  | tand => exact wf_performT h ..
  | tor => exact wf_performT h ..
  | tsum => exact wf_performT h ..
  | tmul => exact wf_performT h ..
  | tcon => exact wf_performT h ..
  | trot => exact wf_performElem h ..
  | tcnt => exact wf_performElem h ..
  | text => exact wf_performElem h ..
  | tins => exact wf_performElem h ..
  | pack3 => exact wf_performT h ..
  | unpk3 => exact wf_performT h ..
  | mov => exact wf_performT h ..
  | movi => exact wf_performT h ..
  | pset => exact wf_performCmp h ..
  | pand => exact wf_performPred h ..
  | por => exact wf_performPred h ..
  | pnot => exact wf_performPred h ..
  | fadd => exact wf_performElem h ..
  | fsub => exact wf_performElem h ..
  | fmul => exact wf_performElem h ..
  | fma => exact wf_performElem h ..
  | fmin => exact wf_performElem h ..
  | fmax => exact wf_performElem h ..
  | fcmp => exact wf_performCmp h ..
  | fcls => exact wf_performElem h ..
  | cvt => exact wf_performT h ..
  | frnd => exact wf_performElem h ..
  | frcp => exact wf_performElem h ..
  | frsq => exact wf_performElem h ..
  | fsqt => exact wf_performElem h ..
  | fexp => exact wf_performElem h ..
  | flog => exact wf_performElem h ..
  | ftanh => exact wf_performElem h ..
  | fsigm => exact wf_performElem h ..
  | fsin => exact wf_performElem h ..
  | shfl c o => exact wf_execShfl h c o
  | bcast c o => exact wf_execBcast h c o
  | red => exact wf_reduce h ..
  | scan => exact wf_reduce h ..
  | sort c o => exact wf_execSort h c o
  | vtriad c o => exact wf_execVtriad h c o
  | qnt c o => exact wf_execQnt h c o
  | dqnt c o => exact wf_execDqnt h c o
  | rand c o => exact wf_execRand h c o
  | rseed c a b => exact wf_execRseed h c a b
  | ldp c m => exact wf_execLdp h c m
  | stp c m => exact wf_execStp h c m
  | ldps c m => exact wf_execLdps h c m
  | stps c m => exact wf_execStps h c m
  | amop c op ty m => exact wf_execAmop h c op ty m
  | barinit c b n => exact wf_execBarinit h c b n
  | bararr c d b p n => exact wf_execBararr h c d b p n
  | barwait c b t => exact wf_execBarwait h c b t
  | barsync c b => exact wf_execBarsync h c b
  | bardrop c b p n => exact wf_execBardrop h c b p n
  | barqry c d b => exact wf_execBarqry h c d b
  | gang c rows map => exact wf_execGang h c rows map
  | oclaim => exact wf_claimForm h ..
  | orlse => exact wf_releaseForm h ..
  | ofill c o a b src => exact wf_execOfill h c o a b src
  | ofence c o n => exact wf_execOfence h c o n
  | mma c fmt t a b third => exact wf_execMma h c fmt t a b third
  | aclaim => exact wf_claimForm h ..
  | arlse => exact wf_releaseForm h ..
  | claimReleaseEffect => exact wf_releaseEffect h ..
  | azero c t n => exact wf_execAzero h c t n
  | ald c t a b src => exact wf_execAld h c t a b src
  | ast c d t status => exact wf_execAst h c d t status
  | drain c t a b sp off scope ev addTy count => exact wf_execDrain h c t a b sp off scope ev addTy count
  | rwait c a sp off scope clr => exact wf_execRwait h c a sp off scope clr
  | ppoint c t n o m => exact wf_execPpoint h c t n o m
  | ld c m => exact wf_execLd h c m
  | st c m => exact wf_execSt h c m
  | lds c m => exact wf_execLds h c m
  | sts c m => exact wf_execSts h c m
  | atom c op ty scalar m => exact wf_execAtom h c op ty scalar m
  | cas c f scalar m => exact wf_execCas h c f scalar m
  | pref c line m => exact wf_execPref h c line m
  | demote c m => exact wf_execDemote h c m
  | latch => exact wf_latchForm h ..
  | latcht => exact wf_latchForm h ..
  | unlatch c sus bc a n off => exact wf_execUnlatch h c sus bc a n off
  | latq c bc d a off => exact wf_execLatq h c bc d a off
  | fence c ord scope => exact wf_execFence h c ord scope
  | ifence c => exact wf_execIfence h c
  | probe c bc d a start off => exact wf_execProbe h c bc d a start off
  | fref c d a b warm => exact wf_execFref h c d a b warm
  | migr c d n => exact wf_execMigr h c d n
  | mpoint c n => exact wf_execMpoint h c n
  | cpy c conv ssp dsp d a b hint => exact wf_execCpy h c conv ssp dsp d a b hint
  | cpyFrame c d a b hint => exact wf_execCpyFrame h c d a b hint
  | mcast c ssp d a b hint => exact wf_execMcast h c ssp d a b hint
  | ovl c d a b e hint => exact wf_execOvl h c d a b e hint
  | thaw c ty kind d a b n hint => exact wf_execThaw h c ty kind d a b n hint
  | freeze c ty ssp tab d a b m hint => exact wf_execFreeze h c ty ssp tab d a b m hint
  | pgin => exact wf_pagingForm h ..
  | pgout => exact wf_pagingForm h ..
  | bclose c d => exact wf_execBclose h c d
  | bwait c src => exact wf_execBwait h c src
  | bqry c d => exact wf_execBqry h c d
  | gset c q v => exact wf_execGset h c q v
  | gclr c q => exact wf_execGclr h c q
  | launch c d a => exact wf_execLaunch h c d a
  | launchReply => exact wf_launchReply h ..
  | lwait c d a => exact wf_execLwait h c d a
  | lqry c d a => exact wf_execLqry h c d a
  | prio c d src => exact wf_execPrio h c d src
  | bindRecordRewrite => exact wf_agent (wf_bindRecordRewrite h ..) ..
  | trap c n => exact wf_execTrap h c n
  | eret c => exact wf_execEret h c
  | rdsr c d r => exact wf_execRdsr h c d r
  | wrsr c r a => exact wf_execWrsr h c r a
  | snap c => exact wf_execSnap h c
  | brk c n => exact wf_execBrk h c n
  | issueChoice => exact wf_agent (wf_issueChoice h ..) ..
  | trapEntry => exact wf_trapStep h ..
  | gustRetire => exact wf_gustRetire h ..
  | loadSectorReturn => exact wf_loadReturn h ..
  | registerWindowWrite => exact wf_agent (wf_windowStep h ..) ..
  | commandAccept => exact wf_agent (wf_acceptNext h ..) ..
  | matrixCommandRun => exact wf_agent (wf_matrixCommandRun h ..) ..
  | matrixCommandComplete => exact wf_agent (wf_completeHead h ..) ..
  | fillComplete => exact wf_agent (wf_fillComplete h ..) ..
  | drainApply => exact wf_agent (wf_drainApply h ..) ..
  | engineCommandStart => exact wf_engineStart h ..
  | thawRingPoll => exact wf_agent (wf_thawRingPoll h ..) ..
  | engineCommandComplete => exact wf_engineComplete h ..
  | batchComplete => exact wf_batchComplete h ..
  | homeFill => exact wf_homeFillStep h ..
  | l1Fill => exact wf_agent (wf_l1FillStep h ..) ..
  | l1WriteBack => exact wf_agent (wf_l1WriteBackStep h ..) ..
  | homeApplyWrite => exact wf_homeApplyWrite h ..
  | invalidation => exact wf_agent (wf_invalidationStep h ..) ..
  | dirtyNotice => exact wf_agent (wf_dirtyNoticeStep h ..) ..
  | forcedPublish => exact wf_agent (wf_forcedPublishStep h ..) ..
  | homeRecall => exact wf_homeRecallStep h ..
  | atomicApply => exact wf_atomicApply h ..
  | latchRequest => exact wf_latchRequest h ..
  | latchRelease => exact wf_latchRelease h ..
  | latchGrant => exact wf_latchGrant h ..
  | latchLeaseLapse => exact wf_latchLapse h ..
  | latchtDeadline => exact wf_latchDeadline h ..
  | deadlockProbeSend => exact wf_probeSend h ..
  | deadlockProbe => exact wf_deadlockProbe h ..
  | pageWalk => exact wf_agent (wf_pageWalkStep h ..) ..
  | laneRetranslate => exact wf_laneRetranslate h ..
  | tlbLeaseExpiry => exact wf_agent (wf_leaseExpiry h ..) ..
  | pageIn => exact wf_pageIn h ..
  | pageOut => exact wf_pageOut h ..
  | launchListConsume => exact wf_agent (wf_launchListConsume h ..) ..
  | rangeDistribute => exact wf_agent (wf_rangeDistribute h ..) ..
  | bindRecordWrite => exact wf_agent (wf_bindRecordWrite h ..) ..
  | squallBind => exact wf_agent (wf_squallBind h ..) ..
  | frontRetire => exact wf_frontRetire h ..
  | graphNodeAct => exact wf_graphNodeAct h ..
  | graphComplete => exact wf_graphComplete h ..
  | shutterRequest => exact wf_shutterRequest h ..
  | forcedSave => exact wf_forcedSave h ..
  | shutterSave => exact wf_shutterSave h ..
  | shutterRestore => exact wf_agent (wf_shutterRestore h ..) ..
  | migrationTransfer => exact wf_migrationTransfer h ..
  | migrationComplete => exact wf_migrationComplete h ..
  | machineCheck => exact wf_agent (wf_keptCheck h ..) ..
  | frontEnd => exact wf_frontEndStep h ..
  | ptimeTick => exact wf_ptimeTick h ..
  | packageTimeStopped => exact wf_agent (wf_packageStopped h ..) ..
  | requestTimeout => exact wf_agent (wf_requestTimeout h ..) ..
  | zargenTimeout => exact wf_zargenTimeout h ..
  | ucieFlitLost => exact wf_flitLost h ..
  | zargenWrite => exact wf_zargenWrite h ..
  | zargenRead => exact wf_zargenRead h ..
  | zargenAtomic => exact wf_zargenAtomic h ..
  | zargenAck => exact wf_zargenAck h ..
  | hostRead => exact wf_hostRead h ..
  | hostWrite => exact wf_hostWrite h ..
  | hostCompletion => exact wf_agent (wf_hostCompletion h ..) ..
  | snapinEdge => exact wf_snapTrigger h ..
  | snapshotTriggerWrite => exact wf_snapTrigger h ..
  | snapshotCapture => exact wf_snapCapture h ..
  | debugStop => exact wf_debugStop h ..
  | debugResume => exact wf_debugResume h ..
  | debugHold => exact wf_debugHold h ..
  | debugRelease => exact wf_debugRelease h ..
  | reset => exact wf_resetDevice h ..
  | bootgo => exact wf_bootgo h ..
  | firmwareCheck => exact wf_firmwareCheck h ..
  | attestation => exact wf_attestation h ..
  | d3hotRequest => exact wf_d3hotRequest h ..
  | d3hotEnter => exact wf_d3hotEnter h ..
  | d0Return => exact wf_d0Return h ..
  | moduleLoad => exact wf_moduleLoad h ..
  | moduleUnload => exact wf_moduleUnload h ..
  | softError => exact wf_softError h ..
  | bringUpComplete => exact wf_bringUp h ..
  | d3coldEntry => exact wf_d3cold h ..

theorem wf_take {s : State} (h : Memory.wf s = true) (a) : Memory.wf (s.take a) = true := by
  unfold State.take
  grind [wf_memOk]

theorem wf_happens {s : State} (h : Memory.wf s = true) (a) : Result.Keeps (s.happens a) := by
  unfold State.happens
  grind [wf_exec, wf_take, Result.Keeps]

theorem wf_step {s : State} (h : Memory.wf s = true) : Result.Keeps (step s) := by
  unfold step
  split
  · next r _ =>
    have hp := wf_prepare h r
    split <;> rename_i e <;> rw [e] at hp
    · exact wf_exec hp _
    · exact hp
  · have hp := wf_pick h s.ready.length
    dsimp only
    split
    · exact wf_happens hp _
    · exact hp

/-- Settles O57. Only a few operations write the byte memories, all through `writeAt` or with an empty memory, and these keep the
canonical form (Laws/Memory); every other operation is a chain of operations that keep it. -/
theorem memoryCanonicalInvariant : Obligations.MemoryCanonicalInvariant := by
  unfold Obligations.MemoryCanonicalInvariant
  intro s t h e
  have keeps := wf_step h
  rw [e] at keeps
  exact keeps

end Sys2Proof.Machine
end

section
/-! O53: debugging a gust. -/

namespace Sys2Proof.Machine

set_option Elab.async false

/-- A gust that was just replaced under its name is the one found there. -/
theorem State.gust?_onGust_some {s : State} {r : GustRef} {g : Gust} (hg : s.gust? r = some g) (f : Gust → Gust)
    (hf : ∀ g, g.ref = r → (f g).ref = r) : (s.onGust r f).gust? r = some (f g) := by
  rw [State.gust?_onGust _ _ _ _ hf, if_pos rfl, hg, Option.map_some]

/-- The end of a debug command writes its answer to the gust's record and nothing else. -/
theorem State.gust?_dbgEnd {s : State} {r : GustRef} {g : Gust} (hg : s.gust? r = some g) (ok : Bool) :
    (s.dbgEnd r ok).gust? r = some { g with dbgCmd := if ok then Word.zero else Word.ofInt (-1) } :=
  State.gust?_onGust_some hg _ fun _ h => h

/-- A gust with a debug command is found by that command's code. -/
theorem State.dbgGust_eq {s : State} {r : GustRef} {g : Gust} (hg : s.gust? r = some g) (code : Int) :
    s.dbgGust r code = if g.cmdCode = code then some g else none := by
  by_cases h : g.cmdCode = code <;> simp [State.dbgGust, hg, Option.filter, h]

section
variable {s : State} {g : Gust} {q : Squall}

/-- The gust is the one of its name, and its context's trace is off. -/
structure Untraced (s : State) (g : Gust) (q : Squall) : Prop where
  gust : s.gust? g.ref = some g
  squall : s.squall? g.ref.sq = some q
  off : s.traceOn q.ctx = false

/-- A state with the same squalls and contexts traces as little. -/
theorem Untraced.trace {s t : State} (h : Untraced s g q) (hq : t.squalls = s.squalls) (hc : t.contexts = s.contexts)
    (k w : Int) : t.trace g.ref k w = t := by
  refine State.trace_off (fun b hb => ?_) k w
  have hb : s.squall? g.ref.sq = some b := by rw [← hb, State.squall?, State.squall?, hq]
  obtain rfl : q = b := Option.some.inj (h.squall.symm.trans hb)
  rw [State.traceOn, State.context, hc]
  exact h.off

theorem Untraced.cmd (h : Untraced s g q) (code : Int) (hc : g.cmdCode = code) : s.dbgGust g.ref code = some g := by
  rw [State.dbgGust_eq h.gust, if_pos hc]

/-- A stop leaves the gust's record stopped. -/
theorem Untraced.stopGust {t : State} {k : Gust} (h : Untraced s g q) (hk : t.gust? g.ref = some k)
    (hq : t.squalls = s.squalls) (hc : t.contexts = s.contexts) (why : Int) :
    (t.stopGust g.ref why).gust? g.ref =
      some { k with status := .stopped, trapActive := false, issued := false, packet := none } := by
  rw [State.stopGust, h.trace (by exact hq) (by exact hc)]
  exact State.gust?_onGust_some hk _ fun _ h => h

/-- A gust with a plus lane runs on. -/
theorem Untraced.runOn {t : State} {k : Gust} (h : Untraced s g q) (hk : t.gust? g.ref = some k)
    (hq : t.squalls = s.squalls) (hc : t.contexts = s.contexts) (hm : k.mask.has 1 = true) :
    (t.runOn g.ref).gust? g.ref = some { k with status := .running } := by
  have hr : k.ref = g.ref := State.gust?_ref hk
  rw [State.runOn, hk]
  simp only
  rw [h.trace (by exact hq) (by exact hc), if_pos (by rw [hm]; rfl), ← hr]
  exact State.gust?_setGust_self (h := { k with status := .running }) (hk ▸ congrArg t.gust? hr)

/-- DEBUG_STOP of a running gust. -/
theorem Untraced.debugStop_running (h : Untraced s g q) (hc : g.cmdCode = 1) (hs : g.status = .running) :
    (s.debugStop g.ref).gust? g.ref =
      some { g with dbgCmd := Word.zero, status := .stopped, trapActive := false, issued := false, packet := none } := by
  rw [State.debugStop, h.cmd 1 hc]
  simp only [hs, State.stopOrdered, h.gust]
  rw [if_pos ⟨hc, trivial⟩, h.stopGust (State.gust?_dbgEnd h.gust true) rfl rfl]
  rfl

/-- DEBUG_STOP of a stopped gust is refused. -/
theorem Untraced.debugStop_stopped (h : Untraced s g q) (hc : g.cmdCode = 1) (hs : g.status = .stopped) :
    (s.debugStop g.ref).gust? g.ref = some { g with dbgCmd := Word.ofInt (-1) } := by
  rw [show s.debugStop g.ref = s.dbgEnd g.ref false by simp only [State.debugStop, h.cmd 1 hc, hs]]
  exact State.gust?_dbgEnd h.gust false

/-- DEBUG_RESUME of a stopped gust. -/
theorem Untraced.debugResume_stopped (h : Untraced s g q) (hc : g.cmdCode = 2) (hs : g.status = .stopped)
    (hm : g.mask.has 1 = true) :
    (s.debugResume g.ref).gust? g.ref = some { g with dbgCmd := Word.zero, status := .running } := by
  rw [State.debugResume, h.cmd 2 hc]
  simp only [hs, if_true]
  exact h.runOn (State.gust?_dbgEnd h.gust true) rfl rfl hm

/-- DEBUG_RESUME of a gust that is not stopped is refused. -/
theorem Untraced.debugResume_other (h : Untraced s g q) (hc : g.cmdCode = 2) (hs : g.status ≠ .stopped) :
    (s.debugResume g.ref).gust? g.ref = some { g with dbgCmd := Word.ofInt (-1) } := by
  rw [State.debugResume, h.cmd 2 hc]
  simp only [hs, if_false]
  exact State.gust?_dbgEnd h.gust false

/-- The gust on the path of its top entry, with the path it was on held there. -/
def Gust.holding (g : Gust) (e : StackEntry) (rest : List StackEntry) : Gust :=
  { g with pc := e.pc, packet := none, sent := false,
           stack := { e with hold := true, pc := g.pc, mask := g.mask } :: rest }.withMask e.mask

theorem Gust.swapHeld_minus {g : Gust} {e : StackEntry} {rest : List StackEntry} (hst : g.stack = e :: rest)
    (hk : e.kind = .minus) : g.swapHeld = some (g.holding e rest) := by
  rw [Gust.swapHeld, hst]
  exact if_pos hk

/-- DEBUG_HOLD of a stopped gust with an entry of a path on top. -/
theorem Untraced.debugHold_stopped (h : Untraced s g q) (hl : g.sreg.length = 81) {e : StackEntry} {rest : List StackEntry}
    (hc : g.cmdCode = 3) (hs : g.status = .stopped) (hst : g.stack = e :: rest) (hk : e.kind = .minus)
    (hm : e.mask.has 1 = true) :
    (s.debugHold g.ref).gust? g.ref = some ({ g with
      dbgCmd := Word.zero, status := .running, pc := e.pc, packet := none, sent := false,
      stack := { e with hold := true, pc := g.pc, mask := g.mask } :: rest }.withMask e.mask) := by
  have hr : s.debugHold g.ref = ((s.setGust (g.holding e rest)).dbgEnd g.ref true).runOn g.ref := by
    simp only [State.debugHold, h.cmd 3 hc, hs, if_true, Gust.swapHeld_minus hst hk]
  have hf : (s.setGust (g.holding e rest)).gust? g.ref = some (g.holding e rest) := State.gust?_setGust_self (h := g.holding e rest) h.gust
  rw [hr, h.runOn (State.gust?_dbgEnd hf true) rfl rfl ((congrArg (·.has 1) (Gust.withMask_mask _ _ hl)).trans hm)]
  rfl

/-- DEBUG_HOLD of a gust that is not stopped, or without an entry of a path on top, is refused. -/
theorem Untraced.debugHold_other (h : Untraced s g q) (hc : g.cmdCode = 3)
    (hs : g.status ≠ .stopped ∨ ∀ k ∈ g.stack.head?, k.kind ≠ .minus) :
    (s.debugHold g.ref).gust? g.ref = some { g with dbgCmd := Word.ofInt (-1) } := by
  have hn : (if g.status = .stopped then g.swapHeld else none) = none := by
    rcases hs with hs | hs
    · rw [if_neg hs]
    · rw [Gust.swapHeld]
      cases hst : g.stack with
      | nil => simp
      | cons e rest => simp [hs e (by simp [hst])]
  rw [State.debugHold, h.cmd 3 hc]
  simp only [hn]
  exact State.gust?_dbgEnd h.gust false

/-- DEBUG_RELEASE of a gust with a held path. -/
theorem Untraced.debugRelease_held (h : Untraced s g q) (hc : g.cmdCode = 4) (hs : ∃ k ∈ g.stack, k.hold = true) :
    (s.debugRelease g.ref).gust? g.ref =
      some { g with dbgCmd := Word.zero, stack := g.stack.map fun k => { k with hold := false } } := by
  rw [State.debugRelease, h.cmd 4 hc]
  simp only
  rw [if_pos (List.any_eq_true.2 hs)]
  exact State.gust?_dbgEnd (State.gust?_setGust_self
    (h := { g with stack := g.stack.map fun k => { k with hold := false } }) h.gust) true

/-- DEBUG_RELEASE of a gust with no held path is refused. -/
theorem Untraced.debugRelease_none (h : Untraced s g q) (hc : g.cmdCode = 4) (hs : ∀ k ∈ g.stack, k.hold = false) :
    (s.debugRelease g.ref).gust? g.ref = some { g with dbgCmd := Word.ofInt (-1) } := by
  rw [State.debugRelease, h.cmd 4 hc]
  simp only
  rw [if_neg (by simpa using hs)]
  exact State.gust?_dbgEnd h.gust false

/-- A debug step on a gust with another command, or with none, does nothing. -/
theorem Untraced.debug_idle (h : Untraced s g q) :
    (g.cmdCode ≠ 1 → s.debugStop g.ref = s) ∧ (g.cmdCode ≠ 2 → s.debugResume g.ref = s) ∧
    (g.cmdCode ≠ 3 → s.debugHold g.ref = s) ∧ (g.cmdCode ≠ 4 → s.debugRelease g.ref = s) := by
  refine ⟨?_, ?_, ?_, ?_⟩ <;> intro hc
  · rw [State.debugStop, State.dbgGust_eq h.gust, if_neg hc]
  · rw [State.debugResume, State.dbgGust_eq h.gust, if_neg hc]
  · rw [State.debugHold, State.dbgGust_eq h.gust, if_neg hc]
  · rw [State.debugRelease, State.dbgGust_eq h.gust, if_neg hc]

end

/-- The first part of O53 (R436 to R438). -/
theorem debugSteps : Claims.DebugSteps := by
  intro s g q e rest hg hq ht hl code refused
  have h : Untraced s g q := ⟨hg, hq, ht⟩
  obtain ⟨hstop, hresume, hhold, hrelease⟩ := h.debug_idle
  exact ⟨fun hc hs => ⟨_, rfl, h.debugStop_running hc hs⟩, fun hc hs => ⟨_, rfl, h.debugStop_stopped hc hs⟩,
    fun hc hs hm => ⟨_, rfl, h.debugResume_stopped hc hs hm⟩, fun hc hs => ⟨_, rfl, h.debugResume_other hc hs⟩,
    fun hc hs hst hk hm => ⟨_, rfl, h.debugHold_stopped hl hc hs hst hk hm⟩, fun hc hs => ⟨_, rfl, h.debugHold_other hc hs⟩,
    fun hc hs => ⟨_, rfl, h.debugRelease_held hc hs⟩, fun hc hs => ⟨_, rfl, h.debugRelease_none hc hs⟩,
    fun hc => congrArg _ (hstop hc), fun hc => congrArg _ (hresume hc), fun hc => congrArg _ (hhold hc),
    fun hc => congrArg _ (hrelease hc)⟩

end Sys2Proof.Machine
end

section
/-! O53: bring-up, attestation and power. -/

namespace Sys2Proof.Machine

set_option Elab.async false

/-- BOOTGO, as a condition on the state. -/
theorem State.bootgo_eq (s : State) (v : Nat) :
    s.bootgo v = if v = 1 ∧ s.boot.bootst = 1 ∧ s.boot.checking = false ∧ s.boot.running = false
      then { s with boot := { s.boot with checking := true, rom := s.boot.image } } else s := by
  simp [State.bootgo]

/-- A check that is due runs the firmware if its signature is sound, and fails BOOTST if not. -/
theorem State.firmwareCheck_due {s : State} (h : s.boot.checking = true) :
    s.firmwareCheck = { s with boot := { s.boot with
      checking := false, running := s.boot.running || Config.signatureOk (bytesOf s.boot.rom),
      bootst := if Config.signatureOk (bytesOf s.boot.rom) then s.boot.bootst else 4294967295 } } := by
  cases hs : Config.signatureOk (bytesOf s.boot.rom) <;> simp [State.firmwareCheck, h, hs, bootFailed]

/-- The state that bring-up leaves before it takes the settings: memory and the on-chip words cleared. -/
def State.cleared (s : State) : State :=
  { s with hbm := [], homes := [], poison := [], portPoison := [], secClocks := [],
           cores := s.cores.map (fun (c : Core) => { c with free := [], isp := [] }),
           dies := s.dies.map fun (d : Die) => { d with l1 := [], near := [] } }

/-- The end of bring-up under running firmware takes settings within their limits, and fails on others. -/
theorem State.bringUp_eq {s : State} (hr : s.boot.running = true) (hb : s.boot.bootst = 1) {dev : Nat} {ctrls : List Nat}
    {limit : Option Nat} (hc : Config.configSettings s.boot.config = (dev, ctrls, limit)) :
    s.bringUp = if dev ≤ 2186 ∧ ctrls.length ≤ 27 ∧ (∀ k ∈ ctrls, k ≤ 26) ∧ 600 ≤ limit.getD 2200 ∧ limit.getD 2200 ≤ 2200
      then { s.cleared with boot := { s.boot with
        bootst := 2, device := dev, controllers := ctrls, watts := limit.getD 2200 } }
      else { s.cleared with boot := { s.boot with bootst := 4294967295 } } := by
  simp [State.bringUp, hr, hb, hc, and_assoc, bootFailed, State.cleared]

/-- D3hot comes once nothing is live and nothing is queued. -/
theorem State.d3hotEnter_idle {s : State} (hp : s.boot.power = .d3hotWanted) (hi : s.idle = true) :
    s.d3hotEnter = { s with boot := { s.boot with power := .d3hot } } := if_pos ⟨hp, hi⟩

theorem State.idle_iff (s : State) : s.idle = true ↔
    s.fronts = [] ∧ s.allCmds = [] ∧ s.pagingWait = [] ∧ ∀ c ∈ s.cores, c.acceptQ = [] := by
  simp [State.idle, and_assoc]

/-- The second part of O53 (R457 to R463). -/
theorem bootSteps : Claims.BootSteps := by
  intro s v nonce
  refine ⟨⟨_, rfl, rfl, rfl⟩, congrArg _ (s.bootgo_eq v), fun h => congrArg _ (State.firmwareCheck_due h), fun hr hn => ?_,
    fun hr hb dev ctrls limit hc => congrArg _ (State.bringUp_eq hr hb hc), fun hp => ?_, fun hp => ⟨?_, fun hf => ?_⟩, fun hp => ?_⟩
  · exact congrArg _ (if_pos ⟨hr, hn⟩)
  · exact congrArg _ (if_pos hp)
  · exact fun hf hc hw ha => congrArg _ (State.d3hotEnter_idle hp (s.idle_iff.2 ⟨hf, hc, hw, ha⟩))
  · exact congrArg _ (if_neg fun h => hf (s.idle_iff.1 h.2).1)
  · refine congrArg Host.Outcome.next (?_ : s.d0Return = _)
    simp only [State.d0Return, hp]

end Sys2Proof.Machine
end

section
/-! O53: soft errors. -/

namespace Sys2Proof.Machine

set_option Elab.async false

/-- A home line with a word marked uncorrectable. -/
def HomeLine.spoil (h : HomeLine) (k : Nat) : HomeLine :=
  if k < 45 ∧ !h.bad.contains k then { h with bad := k :: h.bad } else h

theorem HomeLine.mem_bad_spoil (h : HomeLine) {k : Nat} (hk : k < 45) : k ∈ (h.spoil k).bad := by
  by_cases hb : k ∈ h.bad <;> simp [HomeLine.spoil, hk, hb]

theorem HomeLine.spoil_eq (h : HomeLine) (k : Nat) : h.spoil k = { h with bad := (h.spoil k).bad } := by
  unfold HomeLine.spoil
  split <;> rfl

theorem HomeLine.spoil_line (h : HomeLine) (k : Nat) : (h.spoil k).line = h.line := by rw [HomeLine.spoil_eq]

/-- A die that does not exist holds no word. -/
theorem State.l1Hit_none {s : State} {d : Nat} (h : s.dies.length ≤ d) (at_ : WLoc) : s.l1Hit d at_ = none := by
  rw [State.l1Hit, State.l1?, State.die, List.getD_eq_default _ _ h]
  rfl

/-- With no write on its way to a line, there is nothing to apply before an access of it. -/
theorem State.flushLoc_still {s : State} {d p : Nat} (h : ∀ m, Instr.homeApplyWrite m ∈ s.flight → m.loc ≠ .dev p) :
    s.flushLoc d (.dev p) = s := by
  have hb : ∀ i ∈ s.flight, behind d (.dev p) i = false := by
    intro i hi
    cases i with
    | homeApplyWrite m => simp [behind, h m hi]
    | _ => rfl
  have hk : (s.flight.filter fun i => !behind d (.dev p) i) = s.flight := List.filter_eq_self.2 fun i hi => by simp [hb i hi]
  have hn : s.flight.filter (behind d (.dev p)) = [] := List.filter_eq_nil_iff.2 fun i hi => by simp [hb i hi]
  simp only [State.flushLoc, hk, hn]
  rfl

/-- A line that its home slice holds is read there, and its uncorrectable words stay. -/
theorem State.homeFill_held {s : State} {p k : Nat} {x : HomeLine} (hx : s.home? p = some x) (hk : k ∈ x.bad) (ev : Int) :
    ∃ t, s.homeFill p ev = (.ok x.words, t) ∧ t.dies = s.dies ∧ t.homeBad p k = true := by
  simp only [State.homeFill, hx]
  refine ⟨_, rfl, rfl, ?_⟩
  have hx' : s.fresh.2.home? p = some x := hx
  rw [State.homeBad, State.home?_onHome]
  · simp [hx', hk]
  · exact fun _ h => h

/-- What a rim port receives leaves the dies and the home lines. -/
theorem State.receive_rim (s : State) {d : Nat} (h : 9 ≤ d) (clk : List Nat) :
    (s.receive d clk).dies = s.dies ∧ (s.receive d clk).homes = s.homes := by
  rw [State.receive, if_neg (by omega)]
  exact ⟨rfl, rfl⟩

/-- A read by a rim port of an uncorrectable word of a home line is a machine check of cause −1. -/
theorem State.readHome_bad {s : State} {p k : Nat} {x : HomeLine} (hx : s.home? p = some x) (hk : k ∈ x.bad)
    (hp : s.poisoned p (sectorOf k) = false) (hd : s.dies.length = 9)
    (hf : ∀ m, Instr.homeApplyWrite m ∈ s.flight → m.loc ≠ .dev p) : (s.readHome 9 ⟨.dev p, k⟩).1 = .error (-1) := by
  obtain ⟨t, ht, htd, htb⟩ := State.homeFill_held hx hk 0
  obtain ⟨hrd, hrh⟩ := t.receive_rim (le_refl 9) (t.secClock p (sectorOf k))
  have hmiss := State.l1Hit_none (le_of_eq ((congrArg List.length (hrd.trans htd)).trans hd)) ⟨.dev p, k⟩
  have hbad : (t.receive 9 (t.secClock p (sectorOf k))).homeBad p k = true := by
    rwa [State.homeBad, State.home?, hrh]
  simp [State.readHome, State.flushLoc_still hf, hp, ht, hmiss, hbad]

/-- The last part of O53 (R53, R414). -/
theorem softErrorSteps : Claims.SoftErrorSteps := by
  intro s p line k h
  refine ⟨rfl, fun hh hk => ?_⟩
  have hx : (s.onHome line (·.spoil k)).home? line = some (h.spoil k) := by
    rw [State.home?_onHome _ _ _ _ fun x hx => (x.spoil_line k).trans hx, if_pos rfl, hh, Option.map_some]
  exact ⟨s.onHome line (·.spoil k), h.spoil k, rfl, rfl, hx, h.mem_bad_spoil hk, h.spoil_eq k,
    fun hp hd hf => State.readHome_bad hx (h.mem_bad_spoil hk) hp hd hf⟩

end Sys2Proof.Machine
end

section
/-! O53: what MODULE_LOAD refuses. -/

namespace Sys2Proof.Machine

set_option Elab.async false

/-- One missing value leaves no list of values. -/
theorem everyOne_of_none_mem {α : Type} {l : List (Option α)} (h : none ∈ l) : everyOne l = none := by
  induction l with
  | nil => simp at h
  | cons x xs ih =>
    cases x with
    | none => rfl
    | some x => rw [everyOne, ih (by simpa using h), Option.map_none]

/-- A container with a line that is not packed has no words (R446). -/
theorem containerWords_unpacked {ls : List (List (BitVec 8))}
    (h : ∃ l ∈ ls, l.length ≠ 256 ∨ ∀ x, readLine (l.map BitVec.toNat) ≠ .packed x) : containerWords ls = none := by
  obtain ⟨l, hl, hbad⟩ := h
  rw [containerWords, everyOne_of_none_mem, Option.map_none]
  refine List.mem_map.2 ⟨l, hl, ?_⟩
  split
  · next ws hw => exact if_neg (hbad.resolve_right fun h => h ws hw)
  · rfl

/-- Words that are to be zero are zero, each. -/
theorem intAt_of_zerosFrom {ws : List Word} {i n k : Nat} (h : zerosFrom ws i n = true) (hi : i ≤ k) (hk : k < i + n) :
    intAt ws k = 0 := by
  rw [intAt, List.getD_eq_getElem?_getD]
  cases hw : ws[k]? with
  | none => rfl
  | some w =>
    have hm : ((ws.drop i).take n)[k - i]? = some w := by
      rw [List.getElem?_take_of_lt (by omega), List.getElem?_drop, ← hw]
      congr 1
      omega
    simpa using List.all_eq_true.1 h w (List.mem_of_getElem? hm)

/-- Words that break the header of R446 have no header. -/
theorem parseHeader_none {ws : List Word}
    (h : intAt ws 0 ≠ 122640 ∨ intAt ws 2 < 1 ∨ 729 < intAt ws 2 ∨ intAt ws 3 < 1 ∨ 19683 < intAt ws 3 ∨
      intAt ws 4 ≠ Int.ofNat ws.length ∨ ws.length % 45 ≠ 0 ∨ ∃ k, 5 ≤ k ∧ k < 45 ∧ intAt ws k ≠ 0) :
    parseHeader ws = none := by
  refine if_neg fun hc => ?_
  simp only [Bool.and_eq_true, beq_iff_eq, within, decide_eq_true_eq, containerMagic] at hc
  obtain ⟨⟨⟨⟨⟨hmagic, -⟩, hsecs⟩, hfns⟩, hlen⟩, hzero⟩ := hc
  rcases h with h | h | h | h | h | h | h | ⟨k, hk, hk', h⟩
  · exact h hmagic
  · omega
  · omega
  · omega
  · omega
  · exact h hlen.1
  · exact h hlen.2
  · exact h (intAt_of_zerosFrom hzero hk hk')

/-- A container that cannot be read has no plan. -/
theorem loadPlan_none {m : ModuleLoad} (h : (containerWords m.code).bind parseContainer = none) : loadPlan m = none := by
  rw [loadPlan, h]

theorem loadPlan_unpacked {m : ModuleLoad}
    (h : ∃ l ∈ m.code, l.length ≠ 256 ∨ ∀ x, readLine (l.map BitVec.toNat) ≠ .packed x) : loadPlan m = none :=
  loadPlan_none (by rw [containerWords_unpacked h, Option.bind_none])

theorem loadPlan_header {m : ModuleLoad} {ws : List Word} (hw : containerWords m.code = some ws) (h : parseHeader ws = none) :
    loadPlan m = none :=
  loadPlan_none (by rw [hw, Option.bind_some, parseContainer, h])

/-- After bring-up a load without a plan, or one that does not fit, is refused, and another is installed. -/
theorem State.moduleLoad_none {s : State} {m : ModuleLoad} (hb : s.boot.bootst = 2) (hp : loadPlan m = none) :
    s.moduleLoad m = s.emit .loadRefused := by
  rw [State.moduleLoad, if_neg (not_not.2 hb), hp]

theorem State.moduleLoad_some {s : State} {m : ModuleLoad} {p : LoadPlan} (hb : s.boot.bootst = 2) (hp : loadPlan m = some p) :
    s.moduleLoad m = (s.install m p).getD (s.emit .loadRefused) := by
  rw [State.moduleLoad, if_neg (not_not.2 hb), hp]

end Sys2Proof.Machine
end

section
/-! O53: the installation of an image of one segment. -/

namespace Sys2Proof.Machine

set_option Elab.async false

/-- A state differs from another in one core, and in nothing else that a load speaks of. -/
structure CoreOnly (core : Nat) (s t : State) : Prop where
  len : t.cores.length = s.cores.length
  other : ∀ c, c ≠ core → t.core c = s.core c
  out : t.out = s.out
  images : t.images = s.images

theorem CoreOnly.refl (core : Nat) (s : State) : CoreOnly core s s := ⟨rfl, fun _ _ => rfl, rfl, rfl⟩

theorem CoreOnly.trans {core : Nat} {s t u : State} (h : CoreOnly core s t) (h' : CoreOnly core t u) : CoreOnly core s u :=
  ⟨h'.len.trans h.len, fun c hc => (h'.other c hc).trans (h.other c hc), h'.out.trans h.out, h'.images.trans h.images⟩

theorem coreOnly_onCore (s : State) (core : Nat) (f : Core → Core) : CoreOnly core s (s.onCore core f) := by
  refine ⟨List.length_modify .., fun c hc => ?_, rfl, rfl⟩
  simp [State.core, State.onCore, Ne.symm hc]

theorem coreOnly_putCode (s : State) (core w : Nat) (v : Word) : CoreOnly core s (s.putCode core w v) :=
  have h := coreOnly_onCore s core fun c => { c with isp := writeAt (fun _ => Word.zero) c.isp w v }
  ⟨h.len, h.other, rfl, rfl⟩

theorem State.core_putCode {s : State} {core : Nat} (h : core < s.cores.length) (w : Nat) (v : Word) :
    (s.putCode core w v).core core = { s.core core with isp := writeAt Claims.zeroAt (s.core core).isp w v } :=
  (State.core_onCore s core core _ h).trans (if_pos rfl)

/-- Code words written one after the other to a core's instruction scratchpad: what they leave. -/
structure CodeStored (core at_ : Nat) (ws : List Word) (s t : State) : Prop where
  only : CoreOnly core s t
  segs : (t.core core).segs = (s.core core).segs
  below : ∀ a, a < at_ → readAt Claims.zeroAt (t.core core).isp a = readAt Claims.zeroAt (s.core core).isp a
  words : ∀ j x, ws[j]? = some x → readAt Claims.zeroAt (t.core core).isp (at_ + j) = x

theorem codeStored_each {core : Nat} (base : Nat) (ws : List Word) {s : State} (n : Nat) (hl : core < s.cores.length)
    (hc : canonical Claims.zeroAt (s.core core).isp = true) :
    CodeStored core (base + n) ws s
      (s.each (List.zip (List.range' n ws.length) ws) fun s w => s.putCode core (base + w.1) w.2) := by
  induction ws generalizing s n with
  | nil => exact ⟨.refl core s, rfl, fun _ _ => rfl, fun _ _ h => by simp at h⟩
  | cons w ws ih =>
    let s' := s.putCode core (base + n) w
    have hcore : s'.core core = { s.core core with isp := writeAt Claims.zeroAt (s.core core).isp (base + n) w } :=
      State.core_putCode hl _ _
    have hread : ∀ a, readAt Claims.zeroAt (s'.core core).isp a =
        if a = base + n then w else readAt Claims.zeroAt (s.core core).isp a := by
      intro a
      rw [hcore]
      exact readAt_writeAt ((canonical_iff _ _).1 hc).1 _ _ _
    have h := ih (s := s') (n + 1) ((coreOnly_putCode s core (base + n) w).len ▸ hl) (by rw [hcore]; exact canonical_writeAt hc _ _)
    refine ⟨(coreOnly_putCode ..).trans h.only, h.segs.trans (by rw [hcore]), fun a ha => ?_, fun j x hx => ?_⟩
    · exact (h.below a (by omega)).trans ((hread a).trans (if_neg (by omega)))
    · cases j with
      | zero =>
        obtain rfl : w = x := by simpa using hx
        exact (h.below _ (by omega)).trans ((hread _).trans (if_pos rfl))
      | succ j => exact (congrArg _ (by omega)).trans (h.words j x (by simpa using hx))

/-- The three words of a syllable among the code's words. -/
theorem getElem?_codeWords {code : List Syllables} {j : Nat} {x : Syllables} (h : code[j]? = some x) :
    (codeWords code)[3 * j]? = some x.s0 ∧ (codeWords code)[3 * j + 1]? = some x.s1 ∧ (codeWords code)[3 * j + 2]? = some x.s2 := by
  induction code generalizing j with
  | nil => simp at h
  | cons y ys ih =>
    cases j with
    | zero =>
      obtain rfl : y = x := by simpa using h
      exact ⟨rfl, rfl, rfl⟩
    | succ j =>
      have := ih (j := j) (by simpa using h)
      simpa [codeWords, Nat.mul_add, Nat.add_right_comm _ 3] using this

/-- A core has a free entry and a free range for a segment of `n` syllables. -/
def Core.Room (c : Core) (n : Nat) : Prop :=
  canonical Claims.zeroAt c.isp = true ∧ (∃ e : Nat, c.segs[e]? = some none) ∧
    (firstFit (segRuns c) Config.codePerCore n).isSome = true

/-- A free entry of a core holds a segment of an image afterwards, and the instruction scratchpad its code (R452). -/
def Core.SegLoaded (old new : Core) (image first : Nat) (code : List Syllables) : Prop :=
  ∃ (e : Nat) (g : Seg), old.segs[e]? = some none ∧ new.segs[e]? = some (some g) ∧ g.image = image ∧ g.first = Int.ofNat first ∧
    g.count = code.length ∧ g.pending = false ∧ g.reserved = false ∧ ∀ j x, code[j]? = some x →
      readAt Claims.zeroAt new.isp (3 * (g.index + j)) = x.s0 ∧ readAt Claims.zeroAt new.isp (3 * (g.index + j) + 1) = x.s1 ∧
      readAt Claims.zeroAt new.isp (3 * (g.index + j) + 2) = x.s2

/-- A free entry of the segment table is found where there is one. -/
theorem Core.findIdx?_free {c : Core} (h : ∃ e : Nat, c.segs[e]? = some none) :
    ∃ e, c.segs.findIdx? Option.isNone = some e ∧ c.segs[e]? = some none := by
  obtain ⟨e, he⟩ := h
  cases hf : c.segs.findIdx? Option.isNone with
  | none => exact absurd (List.findIdx?_eq_none_iff.1 hf _ (List.mem_of_getElem? he)) (by simp)
  | some k =>
    obtain ⟨hk, hnone, -⟩ := List.findIdx?_eq_some_iff_getElem.1 hf
    exact ⟨k, rfl, (List.getElem?_eq_getElem hk).trans (congrArg some (Option.isNone_iff_eq_none.1 hnone))⟩

/-- A free entry takes a segment, and no access is on its way to what it held. -/
theorem State.setSeg_free {s : State} {core e : Nat} (h : (s.core core).segs[e]? = some none) (x : Option Seg) :
    s.setSeg core e x = s.onCore core fun c => { c with segs := c.segs.set e x } := by
  rw [State.setSeg, List.getD_eq_getElem?_getD, h, Option.getD_some]

/-- The entry of a segment that a load places at an index. -/
def residentSeg (image first count index : Nat) : Seg :=
  { image, first := Int.ofNat first, count, index, pending := false, reserved := false, oldFirst := 0, oldCount := 0, oldIndex := 0 }

/-- A segment for which a core has room is placed there, with its code. -/
theorem State.placeSeg_of_room {s : State} {core : Nat} {code : List Syllables} (hl : core < s.cores.length)
    (hr : (s.core core).Room code.length) (image first : Nat) :
    ∃ t, s.placeSeg core image first code.length none false code = some t ∧ CoreOnly core s t ∧
      (s.core core).SegLoaded (t.core core) image first code := by
  obtain ⟨hc, hfree, hfit⟩ := hr
  obtain ⟨e, hfind, he⟩ := Core.findIdx?_free hfree
  obtain ⟨i, hi⟩ := Option.isSome_iff_exists.1 hfit
  let g := residentSeg image first code.length i
  let s' := s.onCore core fun c => { c with segs := c.segs.set e (some g) }
  have hs' : CoreOnly core s s' := coreOnly_onCore ..
  have hcore : s'.core core = { s.core core with segs := (s.core core).segs.set e (some g) } :=
    (State.core_onCore s core core _ hl).trans (if_pos rfl)
  have h := codeStored_each (core := core) (3 * i) (codeWords code) (s := s') 0 (hs'.len ▸ hl) (by rw [hcore]; exact hc)
  rw [← List.range_eq_range'] at h
  refine ⟨_, ?_, hs'.trans h.only, e, g, he, ?_, rfl, rfl, rfl, rfl, rfl, fun j x hx => ?_⟩
  · simp only [State.placeSeg, hfind, hi, State.setSeg_free he]
    rfl
  · rw [h.segs, hcore]
    exact List.getElem?_set_self (List.getElem?_eq_some_iff.1 he).1
  · obtain ⟨h0, h1, h2⟩ := getElem?_codeWords hx
    have hat : ∀ r, 3 * (i + j) + r = 3 * i + 0 + (3 * j + r) := by omega
    exact ⟨(congrArg _ (hat 0)).trans (h.words _ _ h0), (congrArg _ (hat 1)).trans (h.words _ _ h1),
      (congrArg _ (hat 2)).trans (h.words _ _ h2)⟩

/-- An image of one segment is placed where its segment is. -/
theorem State.placeImage_one {i : LaidImage} {first : Nat} {code : List Syllables} (hs : i.segs = [(first, code)])
    (hz : i.lazies = []) (s : State) (core n : Nat) :
    s.placeImage core n i = s.placeSeg core n first code.length none false code := by
  simp [State.placeImage, hs, hz]

/-- An image of one segment is placed on every core of a list that has room for it, and on no other. -/
theorem State.placeImages_of_room {i : LaidImage} {first : Nat} {code : List Syllables} (hs : i.segs = [(first, code)])
    (hz : i.lazies = []) (n : Nat) (cs : List Nat) {s : State} (hd : cs.Nodup)
    (hr : ∀ c ∈ cs, c < s.cores.length ∧ (s.core c).Room code.length) :
    ∃ t, cs.foldl (fun (t : Option State) c => t.bind fun s => s.placeImage c n i) (some s) = some t ∧
      t.out = s.out ∧ t.images = s.images ∧ (∀ c, c ∉ cs → t.core c = s.core c) ∧
      ∀ c ∈ cs, (s.core c).SegLoaded (t.core c) n first code := by
  induction cs generalizing s with
  | nil => exact ⟨s, rfl, rfl, rfl, fun _ _ => rfl, fun _ h => by simp at h⟩
  | cons c cs ih =>
    obtain ⟨hc, hd⟩ := List.nodup_cons.1 hd
    obtain ⟨s', hs', only, loaded⟩ := State.placeSeg_of_room (hr c (by simp)).1 (hr c (by simp)).2 n first
    have hroom : ∀ k ∈ cs, k < s'.cores.length ∧ (s'.core k).Room code.length := by
      intro k hk
      rw [only.len, only.other k fun h => hc (h ▸ hk)]
      exact hr k (by simp [hk])
    obtain ⟨t, ht, hout, himages, hother, hloaded⟩ := ih hd hroom
    refine ⟨t, ?_, hout.trans only.out, himages.trans only.images, fun k hk => ?_, fun k hk => ?_⟩
    · rw [List.foldl_cons, Option.bind_some, State.placeImage_one hs hz, hs', ht]
    · obtain ⟨hne, hk⟩ := not_or.1 (mt List.mem_cons.2 hk)
      exact (hother k hk).trans (only.other k hne)
    · by_cases hkc : k = c
      · subst hkc
        rw [hother k hc]
        exact loaded
      · have := hloaded k (List.mem_of_ne_of_mem hkc hk)
        rwa [only.other k hkc] at this

/-- Fewer numbers than there are leave one free. -/
theorem exists_find?_not_contains (l : List Nat) {n : Nat} (h : l.length < n) :
    ∃ k, ((List.range n).map (· + 1)).find? (fun x => !l.contains x) = some k := by
  refine Option.isSome_iff_exists.1 (List.find?_isSome.2 ?_)
  by_contra hall
  have hsub : (List.range n).map (· + 1) ⊆ l := by
    intro x hx
    by_contra hn
    exact hall ⟨x, hx, by simpa using hn⟩
  have hnd : ((List.range n).map (· + 1)).Nodup := List.nodup_range.map fun _ _ h => Nat.succ.inj h
  have := (List.subperm_of_subset hnd hsub).length_le
  simp at this
  omega

/-- With fewer images than image numbers there is a free one (R452). -/
theorem State.freeImage_some {s : State} (h : s.images.length < 9841) :
    ∃ k, s.freeImage = some k ∧ 1 ≤ k ∧ k ≤ 9841 ∧ ∀ x ∈ s.images, x.num ≠ k := by
  have heq : s.freeImage = ((List.range 9841).map (· + 1)).find? fun n => !(s.images.map Image.num).contains n := by
    unfold State.freeImage
    congr 1
    funext n
    rw [List.contains_eq_any_beq, List.any_map]
    congr 2
    funext x
    exact BEq.comm
  obtain ⟨k, hk⟩ := exists_find?_not_contains (s.images.map Image.num) (n := 9841) (by rwa [List.length_map])
  obtain ⟨j, hj, rfl⟩ := List.mem_map.1 (List.mem_of_find?_eq_some hk)
  have hj := List.mem_range.1 hj
  refine ⟨j + 1, heq.trans hk, by omega, by omega, fun x hx he => ?_⟩
  have := List.find?_some hk
  simp only [Bool.not_eq_true', List.contains_eq_mem, decide_eq_false_iff_not] at this
  exact this (he ▸ List.mem_map_of_mem hx)

/-- The cores of a kind. -/
theorem mem_coresOf {c : Nat} {d : Bool} :
    c ∈ ((List.range Config.cores).filter fun c => coreIsD c == d) ↔ c < 243 ∧ coreIsD c = d := by
  rw [List.mem_filter, List.mem_range, beq_iff_eq]
  rfl

/-- The numbers of a load of one image. -/
theorem LoadPlan.numbers_one {p : LoadPlan} {i : LaidImage} (hp : p.images = [i]) (k : Nat) :
    p.numbers [k] = [(if i.isD then 0 else k, if i.isD then k else 0)] := by
  cases hd : i.isD <;> simp [LoadPlan.numbers, hp, hd, List.eraseDups_cons]

/-- A load of one image and nothing else is the load of the image. -/
theorem State.install_one {p : LoadPlan} {i : LaidImage} (hp : p.images = [i]) (hw : p.writes = []) (ht : p.tables = [])
    (s : State) (m : ModuleLoad) :
    s.install m p = (s.loadImage m i).map fun x =>
      x.2.emit (.loaded [(if i.isD then 0 else x.1, if i.isD then x.1 else 0)] p.data [] p.xref) := by
  cases hl : s.loadImage m i with
  | none => simp [State.install, hp, State.loadImages, hl]
  | some x =>
    simp [State.install, hp, State.loadImages, hl, hw, ht, State.bindingTables, State.writeBlocks, LoadPlan.numbers_one hp]

/-- An image takes a free number and is placed on every core of its kind. -/
theorem State.loadImage_free {s : State} {n : Nat} (h : s.freeImage = some n) (m : ModuleLoad) (i : LaidImage) :
    s.loadImage m i = (((List.range Config.cores).filter fun c => coreIsD c == i.isD).foldl
      (fun (t : Option State) c => t.bind fun s => s.placeImage c n i) (some s)).map fun s => (n, { s with images := s.images ++
      [{ num := n, ctx := m.ctx, isD := i.isD, priv := m.priv && m.fn == .pf, dir := i.dir }] }) := by
  unfold State.loadImage
  generalize List.range Config.cores = cores
  simp only [h]

/-- The image of a load of one segment is loaded where every core has room. -/
theorem State.loadImage_of_room {s : State} {i : LaidImage} {first : Nat} {code : List Syllables} (m : ModuleLoad)
    (hs : i.segs = [(first, code)]) (hz : i.lazies = []) (hl : s.cores.length = 243) (hi : s.images.length < 9841)
    (hr : ∀ c, c < 243 → (s.core c).Room code.length) :
    ∃ t k, s.loadImage m i = some (k, t) ∧ t.out = s.out ∧ 1 ≤ k ∧ k ≤ 9841 ∧ (∀ x ∈ s.images, x.num ≠ k) ∧
      t.images = s.images ++ [{ num := k, ctx := m.ctx, isD := i.isD, priv := m.priv && m.fn == .pf, dir := i.dir }] ∧
      ∀ c, c < 243 → coreIsD c = i.isD → (s.core c).SegLoaded (t.core c) k first code := by
  obtain ⟨k, hk, h1, h2, hfree⟩ := State.freeImage_some hi
  have hroom : ∀ c ∈ (List.range Config.cores).filter fun c => coreIsD c == i.isD,
      c < s.cores.length ∧ (s.core c).Room code.length :=
    fun c hc => ⟨lt_of_lt_of_eq (mem_coresOf.1 hc).1 hl.symm, hr c (mem_coresOf.1 hc).1⟩
  obtain ⟨t, ht, hout, himages, -, hloaded⟩ := State.placeImages_of_room hs hz k _ (List.nodup_range.filter _) hroom
  refine ⟨{ t with images := t.images ++ [{ num := k, ctx := m.ctx, isD := i.isD, priv := m.priv && m.fn == .pf, dir := i.dir }] },
    k, ?_, hout, h1, h2, hfree, ?_, fun c hc hd => hloaded c (mem_coresOf.2 ⟨hc, hd⟩)⟩
  · rw [State.loadImage_free hk, ht, Option.map_some]
  · rw [himages]

/-- An image that no live front names is unloaded (R454). -/
theorem State.moduleUnload_unnamed {s : State} {n : Nat} (h : ∀ f ∈ s.fronts, f.spec.imgL ≠ n ∧ f.spec.imgD ≠ n) :
    s.moduleUnload n = { s with
      images := s.images.filter (fun (i : Image) => i.num != n),
      cores := s.cores.map fun (c : Core) => { c with segs := c.segs.map fun e => e.filter fun (g : Seg) => g.image != n } } :=
  if_neg (by simpa using h)

/-- An image that a live front names stays. -/
theorem State.moduleUnload_named {s : State} {n : Nat} (h : ∃ f ∈ s.fronts, f.spec.imgL = n ∨ f.spec.imgD = n) :
    s.moduleUnload n = s.emit .unloadRefused :=
  if_pos (by simpa using h)

/-- An entry that keeps what is not of an image is empty where what it holds is of the image. -/
theorem filter_ne_image (x : Option Seg) (n : Nat) :
    x.filter (fun g => g.image != n) = if x.any (fun g => g.image == n) then none else x := by
  cases x with
  | none => rfl
  | some g => by_cases h : g.image = n <;> simp [Option.filter, h]

/-- A change of every core's segment table that leaves an empty table empty, read on one core. -/
theorem segs_map_core {s t : State} {f : Option Seg → Option Seg} (hf : f none = none)
    (ht : t.cores = s.cores.map fun c => { c with segs := c.segs.map f }) (c : Nat) :
    (t.core c).segs = (s.core c).segs.map f := by
  rw [State.core, State.core, List.getD_eq_getElem?_getD, List.getD_eq_getElem?_getD, ht, List.getElem?_map]
  cases s.cores[c]? with
  | some x => rfl
  | none => exact (List.map_replicate.trans (congrArg _ hf)).symm

/-- The third part of O53 (R446, R451 to R454). -/
theorem moduleSteps : Claims.ModuleSteps := by
  intro s m ws p i first code n
  refine ⟨fun hb => congrArg _ (if_pos hb), fun hb => ⟨fun h => ?_, ?_, fun h => ?_, fun hp hi => ?_, fun t hp hi => ?_⟩,
    fun hp hw ht hs hz hl hi hr => ?_, fun h => ?_, fun h => ?_⟩
  · exact congrArg _ (State.moduleLoad_none hb (loadPlan_unpacked h))
  · intro hw w h
    exact congrArg _ (State.moduleLoad_none hb (loadPlan_header hw (parseHeader_none h)))
  · exact congrArg _ (State.moduleLoad_none hb h)
  · exact congrArg _ ((State.moduleLoad_some hb hp).trans (by rw [hi, Option.getD_none]))
  · exact congrArg _ ((State.moduleLoad_some hb hp).trans (by rw [hi, Option.getD_some]))
  · obtain ⟨t, k, hk, hout, h1, h2, hfree, himages, hloaded⟩ := State.loadImage_of_room m hs hz hl hi hr
    refine ⟨t.emit (.loaded [(if i.isD then 0 else k, if i.isD then k else 0)] p.data [] p.xref), k, ?_, ?_, h1, h2,
      hfree, himages, hloaded⟩
    · rw [State.install_one hp hw ht, hk, Option.map_some]
    · rw [State.emit, hout]
  · exact congrArg _ (State.moduleUnload_named h)
  · refine ⟨_, congrArg Host.Outcome.next (State.moduleUnload_unnamed h), rfl, fun x => ?_, fun c e => ?_⟩
    · simp
    · rw [segs_map_core (s := s) rfl rfl, List.getElem?_map]
      exact congrArg (Option.map · _) (funext fun x => filter_ne_image x n)

/-- Settles O53: the debug commands, bring-up and power, module loading, and soft errors, each in its part. -/
theorem deviceSteps : Obligations.DeviceSteps := by
  unfold Obligations.DeviceSteps
  exact ⟨debugSteps, bootSteps, moduleSteps, softErrorSteps⟩

end Sys2Proof.Machine
end

section
/-! O56, O60: the trits of an instruction word and its fields. -/

namespace Sys2Proof

theorem fitsT_iff {x : Int} {n : Nat} : fitsT x n = true ↔ -(maxT n) ≤ x ∧ x ≤ maxT n := by simp [fitsT]

@[simp] theorem fitsT_zero (n : Nat) : fitsT 0 n = true := by simp [fitsT_iff, maxT_nonneg]

/-- A number of `m` trits below one of `n` trits makes one of `m + n`. -/
theorem fitsT_cat {x y : Int} {m n : Nat} (hx : fitsT x m = true) (hy : fitsT y n = true) :
    fitsT (x + pow3 m * y) (m + n) = true := by
  rw [fitsT_iff] at hx hy ⊢
  rw [maxT_add]
  have h1 := mul_le_mul_of_nonneg_left hy.1 (pow3_pos m).le
  have h2 := mul_le_mul_of_nonneg_left hy.2 (pow3_pos m).le
  rw [mul_neg] at h1
  omega

theorem fitsT_mono {x : Int} {m n : Nat} (h : m ≤ n) (hx : fitsT x m = true) : fitsT x n = true := by
  obtain ⟨k, rfl⟩ := Nat.exists_eq_add_of_le h
  simpa using fitsT_cat hx (fitsT_zero k)

theorem wrapT_fits {x : Int} {n : Nat} (h : fitsT x n = true) : wrapT x n = x :=
  wrapT_of_range (fitsT_iff.1 h).1 (fitsT_iff.1 h).2

theorem fitsT_fld (x : Int) (hi lo : Nat) : fitsT (fld x hi lo) (hi + 1 - lo) = true := fitsT_iff.2 (wrapT_range _ _)

/-- Dropping trits leaves what stands above them. -/
theorem dropT_add_mul (x y : Int) {k m : Nat} (h : k ≤ m) : dropT (x + pow3 m * y) k = dropT x k + pow3 (m - k) * y := by
  obtain ⟨j, rfl⟩ := Nat.exists_eq_add_of_le h
  unfold dropT
  rw [pow3_add, Nat.add_sub_cancel_left, ← Int.add_mul_ediv_left _ _ (pow3_pos k).ne']
  ring_nf

theorem dropT_fits {x : Int} {m : Nat} (h : fitsT x m = true) : dropT x m = 0 := by
  have hw := wrapT_add_dropT x m
  rw [wrapT_fits h] at hw
  have := pow3_pos m
  simpa [this.ne'] using hw

theorem wrapT_add_mul (x y : Int) {m n : Nat} (h : n ≤ m) : wrapT (x + pow3 m * y) n = wrapT x n := by
  obtain ⟨j, rfl⟩ := Nat.exists_eq_add_of_le h
  unfold wrapT
  rw [pow3_add, show x + pow3 n * pow3 j * y + maxT n = x + maxT n + pow3 n * (pow3 j * y) by ring, Int.add_mul_emod_self_left]

/-- A field below the cut of two numbers put together. -/
theorem fld_cat_low (x y : Int) {m hi lo : Nat} (h : hi < m) : fld (x + pow3 m * y) hi lo = fld x hi lo := by
  unfold fld
  by_cases hl : lo ≤ m
  · rw [dropT_add_mul x y hl, wrapT_add_mul _ _ (by omega)]
  · rw [show hi + 1 - lo = 0 by omega]
    simp [wrapT, pow3, maxT]

/-- A field above the cut of two numbers put together. -/
theorem fld_cat_high {x : Int} {m : Nat} (hx : fitsT x m = true) (y : Int) {hi lo : Nat} (h : m ≤ lo) (hm : m ≤ hi) :
    fld (x + pow3 m * y) hi lo = fld y (hi - m) (lo - m) := by
  obtain ⟨j, rfl⟩ := Nat.exists_eq_add_of_le h
  unfold fld
  rw [← dropT_dropT, dropT_add_mul x y le_rfl, dropT_fits hx]
  simp only [Nat.sub_self, zero_add, Nat.add_sub_cancel_left]
  rw [show pow3 0 = 1 from rfl, one_mul]
  rw [show hi + 1 - (m + j) = hi - m + 1 - j by omega]

theorem fld_fits {x : Int} {hi : Nat} (h : fitsT x (hi + 1) = true) : fld x hi 0 = x := by
  rw [fld, dropT_zero, Nat.sub_zero, wrapT_fits h]

theorem tritI_eq_fld (x : Int) (i : Nat) : tritI x i = fld x i i := by rw [tritI, fld, Nat.add_sub_cancel_left]

/-- A field and what stands above it. -/
theorem fld_add_dropT (x : Int) {hi lo : Nat} (h : lo ≤ hi + 1) :
    fld x hi lo + pow3 (hi + 1 - lo) * dropT x (hi + 1) = dropT x lo := by
  conv_rhs => rw [← wrapT_add_dropT (dropT x lo) (hi + 1 - lo), dropT_dropT, Nat.add_sub_of_le h]
  rfl

/-! The instruction word and its fields. -/

/-- Every field of an instruction word holds its own number of trits (R55). -/
structure Fields.Fits (f : Fields) : Prop where
  op : fitsT f.op 6 = true
  mod : fitsT f.mod 6 = true
  guard : fitsT f.guard 4 = true
  hint : fitsT f.hint 5 = true
  d : fitsT f.d 7 = true
  a : fitsT f.a 7 = true
  b : fitsT f.b 7 = true
  imm : fitsT f.imm 39 = true

/-- The fields of a word are those it was packed from. -/
theorem Fields.unpack_pack {f : Fields} (h : f.Fits) : Fields.unpack f.pack = f := by
  obtain ⟨hop, hmod, hguard, hhint, hd, ha, hb, himm⟩ := h
  simp [Fields.unpack, Fields.pack, fld_cat_low, fld_cat_high, fld_fits, *]

theorem Fields.fitsT_pack {f : Fields} (h : f.Fits) : fitsT f.pack 81 = true :=
  fitsT_cat h.imm (fitsT_cat h.b (fitsT_cat h.a (fitsT_cat h.d (fitsT_cat h.hint (fitsT_cat h.guard
    (fitsT_cat h.mod h.op))))))

/-- A word is packed from its fields. -/
theorem Fields.pack_unpack {x : Int} (h : fitsT x 81 = true) : (Fields.unpack x).pack = x := by
  have hop : fld x 80 75 = dropT x 75 := by simpa [dropT_fits h] using fld_add_dropT x (hi := 80) (lo := 75) (by omega)
  simp only [Fields.pack, Fields.unpack, hop]
  rw [fld_add_dropT x (hi := 74) (lo := 69) (by omega), fld_add_dropT x (hi := 68) (lo := 65) (by omega),
    fld_add_dropT x (hi := 64) (lo := 60) (by omega), fld_add_dropT x (hi := 59) (lo := 53) (by omega),
    fld_add_dropT x (hi := 52) (lo := 46) (by omega), fld_add_dropT x (hi := 45) (lo := 39) (by omega),
    fld_add_dropT x (hi := 38) (lo := 0) (by omega), dropT_zero]

theorem Word.fitsT_val (w : Word) : fitsT w.val 27 = true := fitsT_iff.2 w.ok

theorem Syllables.fitsT_toInt (x : Syllables) : fitsT x.toInt 81 = true :=
  fitsT_cat x.s0.fitsT_val (fitsT_cat x.s1.fitsT_val x.s2.fitsT_val)

/-- The syllables of the number of three syllables (R54). -/
theorem Syllables.ofInt_toInt (x : Syllables) : Syllables.ofInt x.toInt = x := by
  have drop (y : Int) (w : Word) : dropT (w.val + pow3 27 * y) 27 = y := by
    rw [dropT_add_mul _ _ le_rfl, dropT_fits w.fitsT_val, zero_add, Nat.sub_self, show pow3 0 = 1 from rfl, one_mul]
  have word (y : Int) (w : Word) : Word.ofInt (w.val + pow3 27 * y) = w :=
    Word.ext_val (by rw [Word.val_ofInt, wrapT_add_mul _ _ le_rfl, wrapT_fits w.fitsT_val])
  rw [Syllables.ofInt, Syllables.toInt, ← dropT_dropT _ 27 27, drop, drop, word, word, Word.ofInt_val]

/-- The number of the syllables of 81 trits (R54). -/
theorem Syllables.toInt_ofInt {x : Int} (h : fitsT x 81 = true) : (Syllables.ofInt x).toInt = x := by
  have top : wrapT (dropT x 54) 27 = dropT x 54 := by
    simpa [dropT_dropT, dropT_fits h] using wrapT_add_dropT (dropT x 54) 27
  rw [Syllables.toInt, Syllables.ofInt]
  simp only [Word.val_ofInt, top]
  rw [← dropT_dropT x 27 27, wrapT_add_dropT, wrapT_add_dropT]

/-- The checks of R79 that a word's fields pass where decoding gives an instruction. -/
theorem decodeFields_ok {f : Fields} {i : Instr} : decodeFields f = .ok i ↔
    opAssigned f.op = true ∧ (-27 ≤ f.guard ∧ f.guard ≤ 27) ∧ modOk f = true ∧ candidate f = some i ∧
      step4Ok i f = true ∧ i.uses.all RegUse.ok = true := by
  unfold decodeFields
  constructor
  · intro h
    split at h <;> try contradiction
    split at h <;> try contradiction
    split at h <;> try contradiction
    split at h <;> try contradiction
    split at h <;> try contradiction
    split at h <;> try contradiction
    cases h
    simp_all
  · rintro ⟨ho, hg, hm, hc, h4, hu⟩
    simp [ho, hg, hm, hc, h4, hu]

/-- Settles O56: the last checks of decoding are those of well-formedness, and the check of step 4 compares the word's fields with
the instruction's, from which the word is packed. -/
theorem decodedIsWellFormed : Obligations.DecodedIsWellFormed := by
  unfold Obligations.DecodedIsWellFormed
  intro x i h
  obtain ⟨-, -, -, -, h4, hu⟩ := decodeFields_ok.1 h
  obtain ⟨hok, hf⟩ : i.fieldsOk = true ∧ i.fields = some (Fields.unpack x.toInt) := by simpa [step4Ok] using h4
  refine ⟨by rw [Instr.wf, hok, hu, Bool.and_self], ?_⟩
  rw [encode, hf, Option.map_some, Fields.pack_unpack x.fitsT_toInt, Syllables.ofInt_toInt]

/-- Settles O60, by evaluation of the decoder on the eight words. -/
theorem decodeWords : Obligations.DecodeWords := by
  unfold Obligations.DecodeWords
  decide +kernel

end Sys2Proof
end

section
/-! Encoding (O55): codes, registers, the forms of mod layout T, and memory operands. -/

namespace Sys2Proof

/-! Codes of the sub-fields. -/

@[simp] theorem ETy.ofCode_code (t : ETy) : ETy.ofCode t.code = some t := by cases t <;> rfl
@[simp] theorem Shape.ofCode_code (t : Shape) : Shape.ofCode t.code = some t := by cases t <;> rfl
@[simp] theorem Order.ofCode_code (t : Order) : Order.ofCode t.code = some t := by cases t <;> rfl
@[simp] theorem Scope.ofCode_code (t : Scope) : Scope.ofCode t.code = some t := by cases t <;> rfl
@[simp] theorem Space.ofCode_code (t : Space) : Space.ofCode t.code = some t := by cases t <;> rfl
@[simp] theorem BaseCls.ofCode_code (t : BaseCls) : BaseCls.ofCode t.code = some t := by cases t <;> rfl
@[simp] theorem Rmw.ofCode_code (t : Rmw) : Rmw.ofCode t.code = some t := by cases t <;> rfl
@[simp] theorem CasField.ofCode_code (t : CasField) : CasField.ofCode t.code = some t := by cases t <;> rfl
@[simp] theorem BrpMode.ofCode_code (t : BrpMode) : BrpMode.ofCode t.code = some t := by cases t <;> rfl
@[simp] theorem MFmt.ofCode_code (t : MFmt) : MFmt.ofCode t.code = some t := by cases t <;> rfl

theorem ETy.code_range (t : ETy) : -4 ≤ t.code ∧ t.code ≤ 3 := by cases t <;> decide
theorem Shape.code_range (t : Shape) : -2 ≤ t.code ∧ t.code ≤ 2 := by cases t <;> decide
theorem Order.code_range (t : Order) : -1 ≤ t.code ∧ t.code ≤ 3 := by cases t <;> decide
theorem Scope.code_range (t : Scope) : -3 ≤ t.code ∧ t.code ≤ 1 := by cases t <;> decide
theorem Space.code_range (t : Space) : -1 ≤ t.code ∧ t.code ≤ 1 := by cases t <;> decide
theorem BaseCls.code_range (t : BaseCls) : -1 ≤ t.code ∧ t.code ≤ 1 := by cases t <;> decide
theorem Rmw.code_range (t : Rmw) : 0 ≤ t.code ∧ t.code ≤ 8 := by cases t <;> decide
theorem CasField.code_range (t : CasField) : 0 ≤ t.code ∧ t.code ≤ 3 := by cases t <;> decide
theorem BrpMode.code_range (t : BrpMode) : -1 ≤ t.code ∧ t.code ≤ 2 := by cases t <;> decide
theorem MFmt.code_range (t : MFmt) : -3 ≤ t.code ∧ t.code ≤ 3 := by cases t <;> decide

@[simp] theorem regIndex_regField (n : Nat) : regIndex (regField n) = n := by simp [regIndex, regField]

@[simp] theorem fitsT_regField (n : Nat) : fitsT (regField n) 7 = true ↔ n ≤ 2186 := by
  simp [fitsT_iff, maxT, regField]

/-- The registers of a field that names at least one lie within the field's seven trits (R69, R70). -/
theorem RegUse.fits {u : RegUse} (h : u.ok = true) (hc : 1 ≤ u.count) : u.first ≤ 2186 := by
  have hm : u.cls.max ≤ 2186 := by cases u.cls <;> decide
  have h : u.first + u.count ≤ u.cls.max + 1 := by simpa [RegUse.ok] using h
  omega

/-! What decoding checks. -/

/-- The fields fit their trits, pass the checks of steps 1 to 3 of R79 and are those from which the decoder makes the instruction. -/
structure Codes (i : Instr) (f : Fields) : Prop where
  fits : f.Fits
  assigned : opAssigned f.op = true
  guard : -27 ≤ f.guard ∧ f.guard ≤ 27
  mod : modOk f = true
  candidate : candidate f = some i

/-- A well-formed instruction with such fields is what its word decodes to. -/
theorem Codes.decode {i : Instr} {f : Fields} (hc : Codes i f) (hf : i.fields = some f) (hw : i.wf = true) :
    ∃ x, encode i = some x ∧ decode x = .ok i := by
  obtain ⟨hok, hu⟩ : i.fieldsOk = true ∧ i.uses.all RegUse.ok = true := by simpa only [Instr.wf, Bool.and_eq_true] using hw
  refine ⟨Syllables.ofInt f.pack, by rw [encode, hf, Option.map_some], ?_⟩
  rw [Sys2Proof.decode, Syllables.toInt_ofInt (Fields.fitsT_pack hc.fits), Fields.unpack_pack hc.fits]
  exact decodeFields_ok.2 ⟨hc.assigned, hc.guard, hc.mod, hc.candidate, by simp [step4Ok, hok, hf], hu⟩

theorem Ctl.ok_iff {c : Ctl} : c.ok = true ↔ (-27 ≤ c.guard ∧ c.guard ≤ 27) ∧ fitsT c.hint 5 = true := by simp [Ctl.ok]

theorem Ctl.ok_of_unguarded {c : Ctl} (h : c.unguarded = true) : c.ok = true := by
  simp only [Ctl.unguarded, Bool.and_eq_true] at h
  exact h.1

theorem fitsT_guard {g : Int} (h : -27 ≤ g ∧ g ≤ 27) : fitsT g 4 = true := by
  simp [fitsT_iff, maxT]; omega

/-! The forms of mod layout T. -/

theorem tSpec_op {op : Int} {s : TSpec} (h : tSpec op = some s) : s.op = op := by simpa using List.find?_some h

theorem tSpec_fits {op : Int} {s : TSpec} (h : tSpec op = some s) : fitsT op 6 = true := by
  have hall : ∀ s ∈ tSpecs, fitsT s.op 6 = true := by decide
  exact tSpec_op h ▸ hall s (List.mem_of_find?_eq_some h)

/-- The constructor of an op value is the one that has it. -/
theorem tBuild_tView {i : Instr} {op : Int} {c : Ctl} {o : TOps} (h : i.tView = some (op, c, o)) : tBuild op c o = some i := by
  unfold Instr.tView at h
  split at h <;> cases h <;> rfl

theorem tGroups_pos (op : Int) (ty : ETy) (v : Trit) :
    1 ≤ (tGroups op ty v).1 ∧ 1 ≤ (tGroups op ty v).2.1 ∧ 1 ≤ (tGroups op ty v).2.2 := by
  unfold tGroups
  split_ifs <;> decide

/-- The three codes of the mod of layout T (R57). -/
theorem tMod_fields {ty sh v : Int} (ht : -4 ≤ ty ∧ ty ≤ 3) (hs : -2 ≤ sh ∧ sh ≤ 2) (hv : v = -1 ∨ v = 0 ∨ v = 1) :
    fitsT (27 * ty + 3 * sh + v) 6 = true ∧ fld (27 * ty + 3 * sh + v) 5 3 = ty ∧ fld (27 * ty + 3 * sh + v) 2 1 = sh ∧
      tritI (27 * ty + 3 * sh + v) 0 = v := by
  simp [fitsT_iff, fld, tritI, wrapT, dropT, maxT, pow3]
  omega

/-- The immediate word of a T form lies below the upper trits of its field (R71). -/
theorem TOps.fitsT_imm {s : TSpec} {o : TOps} (h : o.ok s = true) : fitsT o.imm 39 = true := by
  simp only [TOps.ok, Bool.and_eq_true] at h
  obtain ⟨⟨⟨-, h⟩, -⟩, -⟩ := h
  split_ifs at h
  · simp [fitsT_iff, maxT] at h ⊢; omega
  · exact fitsT_mono (by omega) h
  · simp [beq_iff_eq.1 h]

/-- A register field that a form may leave at 0. -/
theorem fitsT_regOpt {p : Prop} [Decidable p] {n : Nat} (h : p → n ≤ 2186) : fitsT (if p then regField n else 0) 7 = true := by
  split
  · next hp => exact (fitsT_regField n).2 (h hp)
  · exact fitsT_zero 7

theorem regIndex_regOpt {p : Prop} [Decidable p] {n : Nat} (h : p ∨ n = 0) :
    (if p then regIndex (if p then regField n else 0) else 0) = n := by
  split <;> simp_all

/-- A T form is made again from its fields. -/
theorem tForm_codes {i : Instr} {op : Int} {c : Ctl} {o : TOps} {s : TSpec} (hv : i.tView = some (op, c, o))
    (hs : tSpec op = some s) (hc : c.ok = true) (ho : o.ok s = true) (hu : (tUses s o).all RegUse.ok = true) :
    Codes i (tFields s c o) := by
  obtain ⟨hmf, hty, hsh, hvar⟩ := tMod_fields o.ty.code_range o.sh.code_range o.var.val_range
  have hvar : tritAt (27 * o.ty.code + 3 * o.sh.code + o.var.val) 0 = o.var := by rw [tritAt, hvar, Trit.sgn_val]
  obtain ⟨hguard, hhint⟩ := Ctl.ok_iff.1 hc
  obtain rfl := tSpec_op hs
  obtain ⟨hd1, ha1, hb1⟩ := tGroups_pos s.op o.ty o.var
  have himm := TOps.fitsT_imm ho
  simp only [TOps.ok, Bool.and_eq_true, Bool.or_eq_true, beq_iff_eq] at ho
  obtain ⟨⟨⟨hmod, -⟩, ha⟩, hb⟩ := ho
  simp only [tUses, List.all_append, Bool.and_eq_true] at hu
  obtain ⟨⟨⟨hud, hua⟩, hub⟩, -⟩ := hu
  have hd : o.d ≤ 2186 := RegUse.fits (by simpa using hud) hd1
  have ha' (h : s.aIn.contains o.sh = true) : o.a ≤ 2186 := RegUse.fits (by simpa [-List.contains_eq_mem, h] using hua) ha1
  have hb' (h : s.bIn.contains o.sh = true) : o.b ≤ 2186 := RegUse.fits (by simpa [-List.contains_eq_mem, h] using hub) hb1
  exact
    { fits := ⟨tSpec_fits hs, hmf, fitsT_guard hguard, hhint, (fitsT_regField _).2 hd, fitsT_regOpt ha', fitsT_regOpt hb', himm⟩
      assigned := by simp [opAssigned, tFields, hs]
      guard := hguard
      mod := by simp [modOk, tFields, hs, tModOk, hty, hsh, hvar, hmod]
      candidate := by
        simp only [candidate, tFields, hs, tCandidate, hty, hsh, ETy.ofCode_code, Shape.ofCode_code, hvar, regIndex_regField,
          Option.bind_eq_bind, Option.bind_some, regIndex_regOpt ha, regIndex_regOpt hb]
        exact tBuild_tView hv }

/-! The forms outside mod layout T. -/

/-- The part of the decoder that makes the forms with an op value outside mod layout T. -/
def otherCandidate (op : Int) : Ctl → Fields → Option Instr :=
  if op < 0 then candidateD else if op < 240 then candidateA else if op < 270 then candidateB
  else if op < 350 then candidateC else candidateD

theorem candidate_other {f : Fields} (h : tSpec f.op = none) :
    candidate f = otherCandidate f.op ⟨f.guard, f.hint⟩ f := by
  simp only [candidate, h, otherCandidate]
  split_ifs <;> rfl

theorem tSpec_otherOps {op : Int} (h : op ∈ otherOps) : tSpec op = none ∧ fitsT op 6 = true := by
  have hall : ∀ op ∈ otherOps, tSpec op = none ∧ fitsT op 6 = true := by decide +kernel
  exact hall op h

/-- What is to be shown of the fields of a form outside mod layout T. -/
theorem Codes.other {i : Instr} {f : Fields} (hop : f.op ∈ otherOps) (hc : Ctl.ok ⟨f.guard, f.hint⟩ = true)
    (hfit : fitsT f.mod 6 = true ∧ fitsT f.d 7 = true ∧ fitsT f.a 7 = true ∧ fitsT f.b 7 = true ∧ fitsT f.imm 39 = true)
    (hmod : otherModOk f = true) (hcand : otherCandidate f.op ⟨f.guard, f.hint⟩ f = some i) : Codes i f := by
  obtain ⟨hm, hd, ha, hb, himm⟩ := hfit
  obtain ⟨hs, hf⟩ := tSpec_otherOps hop
  obtain ⟨hguard, hhint⟩ := Ctl.ok_iff.1 hc
  exact
    { fits := ⟨hf, hm, fitsT_guard hguard, hhint, hd, ha, hb, himm⟩
      assigned := by simp [opAssigned, hop]
      guard := hguard
      mod := by simp [modOk, hs, hmod]
      candidate := by rw [candidate_other hs, hcand] }

/-! The imm of a memory operand (R72). -/

section
variable {bc : BaseCls} {sp : Space} {mid off : Int}

theorem memImm_eq : memImm bc sp mid off = off + pow3 27 * (mid + pow3 10 * (sp.code + pow3 1 * bc.code)) := rfl

theorem fitsT_trit {x : Int} (h : -1 ≤ x ∧ x ≤ 1) : fitsT x 1 = true := fitsT_iff.2 h

theorem memImm_fits (hoff : fitsT off 27 = true) (hmid : fitsT mid 10 = true) : fitsT (memImm bc sp mid off) 39 = true :=
  fitsT_cat hoff (fitsT_cat hmid (fitsT_cat (fitsT_trit sp.code_range) (fitsT_trit bc.code_range)))

theorem memImm_base (hoff : fitsT off 27 = true) (hmid : fitsT mid 10 = true) : tritI (memImm bc sp mid off) 38 = bc.code := by
  simp [memImm_eq, tritI_eq_fld, fld_cat_high, fld_fits, fitsT_trit sp.code_range, fitsT_trit bc.code_range, hoff, hmid]

theorem memImm_space (hoff : fitsT off 27 = true) (hmid : fitsT mid 10 = true) : tritI (memImm bc sp mid off) 37 = sp.code := by
  simp [memImm_eq, tritI_eq_fld, fld_cat_high, fld_cat_low, fld_fits, fitsT_trit sp.code_range, hoff, hmid]

theorem memImm_off (hoff : fitsT off 27 = true) : fld (memImm bc sp mid off) 26 0 = off := by
  simp [memImm_eq, fld_cat_low, fld_fits, hoff]

theorem memImm_mid (hoff : fitsT off 27 = true) {hi lo : Nat} (hl : 27 ≤ lo) (hh : 27 ≤ hi) (hhi : hi ≤ 36) :
    fld (memImm bc sp mid off) hi lo = fld mid (hi - 27) (lo - 27) := by
  rw [memImm_eq, fld_cat_high hoff _ hl hh, fld_cat_low _ _ (by omega)]
end

/-- The three codes of the mod of layout M (R57). -/
theorem mMod_fields (o : Order) (s : Scope) {ev : Int} (he : fitsT ev 2 = true) :
    fitsT (mMod o s ev) 6 = true ∧ mModView (mMod o s ev) = some (o, s, ev) ∧ fld (mMod o s ev) 1 0 = ev := by
  obtain ⟨he1, he2⟩ := fitsT_iff.1 he
  have ho := o.code_range
  have hs := s.code_range
  have h : fitsT (mMod o s ev) 6 = true ∧ fld (mMod o s ev) 5 4 = o.code ∧ fld (mMod o s ev) 3 2 = s.code ∧
      fld (mMod o s ev) 1 0 = ev := by
    simp [mMod, fitsT_iff, fld, wrapT, dropT, maxT, pow3] at he1 he2 ⊢
    omega
  obtain ⟨hf, h1, h2, h3⟩ := h
  exact ⟨hf, by simp [mModView, h1, h2, h3], h3⟩

/-- The memory forms, and their rows for scalar and for vector operands, which differ in the base classes alone. -/
theorem mSpec_some {op : Int} {sc : Bool} {s : MSpec} (h : mSpec op sc = some s) :
    op ∈ otherOps ∧ ∀ sc', ∃ bs, mSpec op sc' = some { s with bases := bs } := by
  have hop : op ∈ [190, 191, 192, 193, 194, 271, 272, 273, 274, 275, 276, 277, 278] := by
    by_contra hn
    simp only [List.mem_cons, List.not_mem_nil, or_false, not_or] at hn
    simp [mSpec, hn] at h
  simp only [List.mem_cons, List.not_mem_nil, or_false] at hop
  rcases hop with rfl | rfl | rfl | rfl | rfl | rfl | rfl | rfl | rfl | rfl | rfl | rfl | rfl
  all_goals
    cases h
    exact ⟨by decide, fun _ => ⟨_, rfl⟩⟩

theorem baseUse_fits {bc : BaseCls} {a : Nat} (h : (baseUse bc a).all RegUse.ok = true) (hb : bc ≠ .none) : a ≤ 2186 := by
  cases bc with
  | scalar => exact RegUse.fits (u := ⟨.s, a, 1⟩) (by simpa [baseUse] using h) le_rfl
  | vector => exact RegUse.fits (u := ⟨.v, a, 1⟩) (by simpa [baseUse] using h) le_rfl
  | none => exact absurd rfl hb

theorem baseIndex_baseField {bc : BaseCls} {a : Nat} (h : bc ≠ .none ∨ a = 0) : baseIndex bc (baseField bc a) = a := by
  unfold baseIndex baseField
  split <;> simp_all

theorem fitsT_baseField {bc : BaseCls} {a : Nat} (h : bc ≠ .none → a ≤ 2186) : fitsT (baseField bc a) 7 = true := by
  unfold baseField
  split
  · exact fitsT_zero 7
  · next hb => exact (fitsT_regField a).2 (h hb)

/-- A memory form is made again from its fields, if the decoder makes it from the operand it reads. -/
theorem mForm_codes {i : Instr} {op : Int} {sc : Bool} {c : Ctl} {m : MOps} {mid : Int} {s : MSpec} (hs : mSpec op sc = some s)
    (hc : c.ok = true) (hok : mOk op sc m = true) (hmid : fitsT mid 10 = true)
    (hd : s.dIn = true → m.d ≤ 2186) (ha : m.bc ≠ .none → m.a ≤ 2186) (hb : s.bIn = true → m.b ≤ 2186)
    (hmod : otherModOk (mFields op s c m mid) = mModOk s (mMod m.ord m.scope m.ev))
    (hcand : ∀ f : Fields, f.op = op → (∀ hi lo, 27 ≤ lo → 27 ≤ hi → hi ≤ 36 → 
        fld f.imm hi lo = fld mid (hi - 27) (lo - 27)) →
      mCandidate f false = some m → otherCandidate op c f = some i) : Codes i (mFields op s c m mid) := by
  simp only [mOk, hs, MOps.ok, Bool.and_eq_true, Bool.or_eq_true, beq_iff_eq, bne_iff_ne] at hok
  obtain ⟨⟨⟨⟨⟨⟨⟨⟨hord, hscope⟩, hev⟩, hspace⟩, hbases⟩, ha0⟩, hd0⟩, hb0⟩, hoff⟩ := hok
  have hev2 : fitsT m.ev 2 = true := by
    split at hev
    · exact hev
    · simp [beq_iff_eq.1 hev]
  obtain ⟨hmf, hview, -⟩ := mMod_fields m.ord m.scope hev2
  obtain ⟨hop, hrow⟩ := mSpec_some hs
  refine Codes.other hop hc ⟨hmf, fitsT_regOpt hd, fitsT_baseField ha, fitsT_regOpt hb, memImm_fits hoff hmid⟩ ?_
    (hcand _ rfl (fun _ _ hl hh hhi => memImm_mid hoff hl hh hhi) ?_)
  · rw [hmod, mModOk, hview]
    simp only [Bool.and_eq_true, Bool.or_eq_true, beq_iff_eq]
    refine ⟨⟨hord, hscope⟩, ?_⟩
    split at hev
    · next he => exact .inl he
    · exact .inr (beq_iff_eq.1 hev)
  · obtain ⟨bs, hs0⟩ := hrow false
    simp only [mCandidate, mFields, hs0, hview, memImm_base hoff hmid, memImm_space hoff hmid, memImm_off hoff,
      BaseCls.ofCode_code, Space.ofCode_code, Option.bind_eq_bind, Option.bind_some, regIndex_regOpt hd0, regIndex_regOpt hb0,
      baseIndex_baseField ha0]
    rfl

end Sys2Proof
end

section
/-! Encoding (O55): locations and commands; the control, predicate, barrier and scratchpad forms. -/

namespace Sys2Proof

/-! The imm of a location (R235) and of a command (R330). -/

section
variable {sp : Space} {mid t off : Int}

theorem locImm_eq : locImm sp mid t off = off + pow3 29 * (t + pow3 1 * (mid + pow3 7 * sp.code)) := rfl

theorem locImm_fits (hoff : fitsT off 27 = true) (ht : fitsT t 1 = true) (hmid : fitsT mid 7 = true) :
    fitsT (locImm sp mid t off) 39 = true :=
  fitsT_mono (by omega) (fitsT_cat (fitsT_mono (n := 29) (by omega) hoff)
    (fitsT_cat ht (fitsT_cat hmid (fitsT_trit sp.code_range))))

theorem locImm_off (hoff : fitsT off 27 = true) : fld (locImm sp mid t off) 26 0 = off := by
  simp [locImm_eq, fld_cat_low, fld_fits, hoff]

theorem locImm_t (hoff : fitsT off 27 = true) (ht : fitsT t 1 = true) : tritI (locImm sp mid t off) 29 = t := by
  have hoff := fitsT_mono (n := 29) (by omega) hoff
  rw [locImm_eq, tritI_eq_fld, fld_cat_high hoff _ le_rfl le_rfl, fld_cat_low _ _ (by omega), fld_fits ht]

theorem locImm_mid (hoff : fitsT off 27 = true) (ht : fitsT t 1 = true) {hi lo : Nat} (hl : 30 ≤ lo) (hh : 30 ≤ hi)
    (hhi : hi ≤ 36) : fld (locImm sp mid t off) hi lo = fld mid (hi - 30) (lo - 30) := by
  have hoff := fitsT_mono (n := 29) (by omega) hoff
  rw [locImm_eq, fld_cat_high hoff _ (by omega) (by omega), fld_cat_high ht _ (by omega) (by omega), fld_cat_low _ _ (by omega)]
  rfl

theorem locImm_space (hoff : fitsT off 27 = true) (ht : fitsT t 1 = true) (hmid : fitsT mid 7 = true) :
    tritI (locImm sp mid t off) 37 = sp.code := by
  have hoff := fitsT_mono (n := 29) (by omega) hoff
  rw [locImm_eq, tritI_eq_fld, fld_cat_high hoff _ (by omega) (by omega), fld_cat_high ht _ (by omega) (by omega),
    fld_cat_high hmid _ (by omega) (by omega), fld_fits (fitsT_trit sp.code_range)]
end

section
variable {h sp low : Int}

theorem cmdImm_eq : cmdImm h sp low = low + pow3 34 * (sp + pow3 1 * h) := rfl

theorem slotGuard_fits (hh : slotGuardOk h = true) : fitsT h 4 = true := fitsT_guard (by simpa [slotGuardOk] using hh)

theorem cmdImm_fits (hh : slotGuardOk h = true) (hs : fitsT sp 1 = true) (hl : fitsT low 27 = true) :
    fitsT (cmdImm h sp low) 39 = true :=
  fitsT_cat (fitsT_mono (n := 34) (by omega) hl) (fitsT_cat hs (slotGuard_fits hh))

theorem cmdImm_guard (hh : slotGuardOk h = true) (hs : fitsT sp 1 = true) (hl : fitsT low 27 = true) :
    fld (cmdImm h sp low) 38 35 = h := by
  rw [cmdImm_eq, fld_cat_high (fitsT_mono (by omega) hl) _ (by omega) (by omega), fld_cat_high hs _ (by omega) (by omega),
    fld_fits (slotGuard_fits hh)]

theorem cmdImm_space (hs : fitsT sp 1 = true) (hl : fitsT low 27 = true) : tritI (cmdImm h sp low) 34 = sp := by
  rw [cmdImm_eq, tritI_eq_fld, fld_cat_high (fitsT_mono (by omega) hl) _ (by omega) (by omega), fld_cat_low _ _ (by omega),
    fld_fits hs]

theorem cmdImm_low (hl : fitsT low 27 = true) : fld (cmdImm h sp low) 26 0 = low := by
  rw [cmdImm_eq, fld_cat_low _ _ (by omega), fld_fits hl]
end

/-- A form outside mod layout T has fields, and the decoder makes it again from them. -/
def Instr.Returns (i : Instr) : Prop := ∃ f, otherFields i = some f ∧ Codes i f

/-- What is to be shown of a form of layout N or X. -/
theorem Instr.returns_x {i : Instr} {op : Int} {c : Ctl} {mod d a b imm : Int}
    (hf : otherFields i = some (xFields op c mod d a b imm)) (hc : c.ok = true)
    (hfit : fitsT mod 6 = true ∧ fitsT d 7 = true ∧ fitsT a 7 = true ∧ fitsT b 7 = true ∧ fitsT imm 39 = true)
    (hmod : otherModOk (xFields op c mod d a b imm) = true)
    (hcand : otherCandidate op c (xFields op c mod d a b imm) = some i) (hop : op ∈ otherOps := by decide) : i.Returns :=
  ⟨_, hf, Codes.other hop hc hfit hmod hcand⟩

/-- What is to be shown of a memory form: that the decoder makes it from the operand it reads. -/
theorem Instr.returns_m {i : Instr} {op : Int} {sc : Bool} {c : Ctl} {m : MOps} {mid : Int} {s : MSpec}
    (hf : otherFields i = some (mFields op s c m mid)) (hs : mSpec op sc = some s) (hc : c.ok = true) (hok : mOk op sc m = true)
    (hmid : fitsT mid 10 = true) (hd : s.dIn = true → m.d ≤ 2186) (ha : m.bc ≠ .none → m.a ≤ 2186)
    (hb : s.bIn = true → m.b ≤ 2186)
    (hcand : ∀ f : Fields, f.op = op → (∀ hi lo, 27 ≤ lo → 27 ≤ hi → hi ≤ 36 → 
        fld f.imm hi lo = fld mid (hi - 27) (lo - 27)) →
      mCandidate f false = some m → otherCandidate op c f = some i)
    (hmod : otherModOk (mFields op s c m mid) = mModOk s (mMod m.ord m.scope m.ev) := by rfl) : i.Returns :=
  ⟨_, hf, mForm_codes hs hc hok hmid hd ha hb hmod hcand⟩

theorem fitsT_39 {x : Int} : fitsT x 39 = true ↔ -2026277576509488133 ≤ x ∧ x ≤ 2026277576509488133 := by
  simp [fitsT_iff, maxT]

theorem BrpMode.fits (m : BrpMode) : fitsT m.code 7 = true := by cases m <;> decide

@[simp] theorem RegUse.ok_mk (cls : Cls) (first count : Nat) :
    RegUse.ok ⟨cls, first, count⟩ = true ↔ first + count ≤ cls.max + 1 := by simp [RegUse.ok]

/-- The operation, type and flag of AMOP and ATOM in the middle of their imm (R202, R253). -/
theorem rmwMid_fields (op : Rmw) (ty : ETy) (b : Bool) :
    fitsT (729 * op.code + 27 * ty.code + 9 * flag b) 10 = true ∧ fld (729 * op.code + 27 * ty.code + 9 * flag b) 9 6 = op.code ∧
      fld (729 * op.code + 27 * ty.code + 9 * flag b) 5 3 = ty.code ∧ fld (729 * op.code + 27 * ty.code + 9 * flag b) 2 2 = flag b := by
  have ho := op.code_range
  have ht := ty.code_range
  have hb : flag b = 0 ∨ flag b = 1 := by cases b <;> simp [flag]
  simp [fitsT_iff, fld, wrapT, dropT, maxT, pow3]
  omega

/-- The form's op value lies in a part of the opcode map. -/
def Instr.opIn (i : Instr) (lo hi : Int) : Bool := i.opOther.any fun op => decide (lo ≤ op ∧ op < hi)

/-- The forms of control flow, of predicates and of the own scratchpad. -/
theorem controlForms_return {i : Instr} (hop : i.opIn 0 240 = true) (h : otherOk i = true)
    (hu : (otherUses i).all RegUse.ok = true) : i.Returns := by
  cases i with
  | nop | join | exit | bra | brp | breakOut | call | calli | ret | yield | pand | por | pnot | rseed | barinit | bararr | barwait
  | barsync | bardrop | barqry =>
    simp only [otherOk, Bool.and_eq_true, decide_eq_true_eq, barCountOk, fitsT_39] at h
    simp [otherUses, Cls.max] at hu
    refine Instr.returns_x rfl (by simp only [h, Ctl.ok_of_unguarded]) ?_ rfl ?_
    · simp [fitsT_39, BrpMode.fits] <;> omega
    · simp [otherCandidate, candidateA, xFields]
  | btri c a plus minus =>
    simp only [otherOk, Bool.and_eq_true] at h
    obtain ⟨⟨hc, hp⟩, hm⟩ := h
    simp [otherUses, Cls.max] at hu
    refine Instr.returns_x rfl hc ?_ rfl ?_
    · simp [fitsT_cat hm hp]; omega
    · simp [otherCandidate, candidateA, xFields, fld_cat_high hm, fld_cat_low, fld_fits, hm, hp]
  | split c p join els =>
    simp only [otherOk, Bool.and_eq_true] at h
    obtain ⟨⟨⟨hc, hj⟩, -⟩, he⟩ := h
    simp [otherUses, Cls.max] at hu
    refine Instr.returns_x rfl (Ctl.ok_of_unguarded hc) ?_ rfl ?_
    · simp [fitsT_cat he hj]; omega
    · simp [otherCandidate, candidateA, xFields, fld_cat_high he, fld_cat_low, fld_fits, he, hj]
  | ldp c m | stp c m | ldps c m | stps c m =>
    simp only [otherOk, otherUses, Bool.and_eq_true, List.all_cons, List.all_append, List.all_nil,
      Bool.and_true, RegUse.ok_mk, Cls.max] at h hu
    refine Instr.returns_m rfl rfl h.1 h.2 (fitsT_zero _) ?_ (baseUse_fits (by simp only [hu])) ?_ ?_
    · simp <;> omega
    · simp <;> omega
    · intro f ho _ hm
      simp [otherCandidate, candidateA, ho, hm]
  | amop c op ty m =>
    simp only [otherOk, otherUses, Bool.and_eq_true, List.all_cons, List.all_append, List.all_nil,
      Bool.and_true, RegUse.ok_mk, Cls.max] at h hu
    obtain ⟨hmid, hr, ht, -⟩ := rmwMid_fields op ty false
    have hz : 729 * op.code + 27 * ty.code + 9 * flag false = 729 * op.code + 27 * ty.code := by simp [flag]
    rw [hz] at hmid hr ht
    refine Instr.returns_m rfl rfl h.1.1 h.2 hmid ?_ (baseUse_fits (by simp only [hu])) ?_ ?_
    · simp; omega
    · simp; omega
    · intro f ho hf hm
      simp [otherCandidate, candidateA, ho, hm, hf, hr, ht]
  | _ => exact nomatch hop

end Sys2Proof
end

section
/-! Encoding (O55): the matrix forms. -/

namespace Sys2Proof

theorem fitsT_loc {sp : Space} {ev : Int} (h : locEvOk sp ev = true) : fitsT ev 2 = true := by
  unfold locEvOk at h
  split at h
  · exact h
  · simp [beq_iff_eq.1 h]

theorem locIsG_or {sp : Space} {ev : Int} (h : locEvOk sp ev = true) : sp.code = 1 ∨ ev = 0 := by
  unfold locEvOk at h
  split at h
  · next hs => exact .inl (by rw [beq_iff_eq.1 hs]; rfl)
  · exact .inr (beq_iff_eq.1 h)

/-- The codes of DRAIN's mod (R234). -/
theorem drainMod_fields (x y : Bool) (s : Scope) {ev : Int} (he : fitsT ev 2 = true) :
    let m := 243 * flag x + 81 * flag y + 9 * s.code + ev
    fitsT m 6 = true ∧ fld m 5 5 = flag x ∧ fld m 4 4 = flag y ∧ fld m 3 2 = s.code ∧ fld m 1 0 = ev := by
  have hs := s.code_range
  have hx : flag x = 0 ∨ flag x = 1 := by cases x <;> simp [flag]
  have hy : flag y = 0 ∨ flag y = 1 := by cases y <;> simp [flag]
  simp [fitsT_iff, fld, wrapT, dropT, maxT, pow3] at he ⊢
  omega

/-- The codes of RWAIT in the middle of its imm (R235). -/
theorem rwaitMid_fields (x : Bool) (s : Scope) :
    let m := 729 * flag x + 81 * s.code
    fitsT m 7 = true ∧ fld m 5 4 = s.code ∧ fld m 6 6 = flag x := by
  have hs := s.code_range
  have hx : flag x = 0 ∨ flag x = 1 := by cases x <;> simp [flag]
  simp [fitsT_iff, fld, wrapT, dropT, maxT, pow3]
  omega

/-- The forms of the matrix unit. -/
theorem matrixForms_return {i : Instr} (hop : i.opIn 240 270 = true) (h : otherOk i = true)
    (hu : (otherUses i).all RegUse.ok = true) : i.Returns := by
  cases i with
  | oclaim | orlse | ofence | aclaim | arlse | azero =>
    simp only [otherOk, Bool.and_eq_true, decide_eq_true_eq] at h
    simp [otherUses, Cls.max] at hu
    refine Instr.returns_x rfl (by simp only [h]) ?_ rfl ?_
    · simp [fitsT_39]; omega
    · simp [otherCandidate, candidateB, xFields]
  | gang c rows map =>
    simp only [otherOk, Bool.and_eq_true] at h
    obtain ⟨⟨hc, hm⟩, hg⟩ := h
    have hr : 1 ≤ (rows : Int) ∧ (rows : Int) ≤ 9 := by simp [gangOk] at hg; omega
    have hr : fitsT (rows : Int) 12 = true ∧ fld (rows : Int) 3 0 = rows := by
      simp [fitsT_iff, fld, wrapT, dropT, maxT, pow3]; omega
    refine Instr.returns_x rfl hc ?_ rfl ?_
    · simp [fitsT_cat hm hr.1]
    · simp [otherCandidate, candidateB, xFields, fld_cat_high hm, fld_cat_low, fld_fits, hm, hr]
  | ofill c o a b src =>
    simp only [otherOk, Bool.and_eq_true] at h
    obtain ⟨hc, hs⟩ := h
    cases src with
    | regs =>
      simp [otherUses, Cls.max] at hu hs
      refine Instr.returns_x rfl hc ?_ rfl ?_
      · simp; omega
      · simp [otherCandidate, candidateB, xFields, hs]
    | loc sp off =>
      simp [otherUses, Cls.max] at hu hs
      obtain ⟨⟨rfl, -⟩, hoff⟩ := hs
      have h0 := fitsT_zero
      refine Instr.returns_x rfl hc ?_ rfl ?_
      · simp [locImm_fits hoff, fitsT_iff (x := 81), maxT]; omega
      · simp [otherCandidate, candidateB, xFields, locImm_off hoff, locImm_space hoff]
    | frame =>
      simp [otherUses, Cls.max] at hu
      refine Instr.returns_x rfl hc ?_ rfl ?_
      · simp [fitsT_iff (x := -81), maxT]; omega
      · simp [otherCandidate, candidateB, xFields]
  | mma c f t a b third =>
    simp only [otherOk, Bool.and_eq_true] at h
    obtain ⟨hc, ht⟩ := h
    have ht : third ≤ 2 := by
      split at ht
      · simpa using ht
      · simp at ht; omega
    have hf := f.code_range
    have hm : fitsT (27 * f.code) 6 = true ∧ fld (27 * f.code) 5 3 = f.code ∧ fld (27 * f.code) 2 0 = 0 := by
      simp [fitsT_iff, fld, wrapT, dropT, maxT, pow3]; omega
    have hb : b + 1 ≤ 81 := by simp [otherUses, Cls.max] at hu; split at hu <;> omega
    simp [otherUses, Cls.max] at hu
    refine Instr.returns_x rfl (Ctl.ok_of_unguarded hc) ?_ ?_ ?_
    · simp [fitsT_39, hm]; omega
    · simp [otherModOk, xFields, hm]
    · simp [otherCandidate, candidateB, xFields, hm]
  | ald c t a b src =>
    simp only [otherOk, Bool.and_eq_true] at h
    obtain ⟨hc, hs⟩ := h
    cases src with
    | regs =>
      simp [otherUses, Cls.max] at hu hs
      refine Instr.returns_x rfl hc ?_ rfl ?_
      · simp; omega
      · simp [otherCandidate, candidateB, xFields, hs, fld, wrapT, dropT, maxT, pow3]
    | loc sp off ev =>
      simp only [Bool.and_eq_true] at hs
      obtain ⟨hev, hoff⟩ := hs
      have he := fitsT_loc hev
      have hm : fitsT (243 + ev) 6 = true ∧ fld (243 + ev) 5 5 = 1 ∧ fld (243 + ev) 4 2 = 0 ∧ fld (243 + ev) 1 0 = ev := by
        simp [fitsT_iff, fld, wrapT, dropT, maxT, pow3] at he ⊢; omega
      simp [otherUses, Cls.max] at hu
      refine Instr.returns_x rfl hc ?_ ?_ ?_
      · simp [hm, locImm_fits hoff]; omega
      · simpa [otherModOk, xFields, hm, locIsG, locImm_space hoff] using locIsG_or hev
      · simp [otherCandidate, candidateB, xFields, hm, locImm_off hoff, locImm_space hoff]
  | ast c d t st =>
    simp only [otherOk] at h
    have hd : d ≤ 2186 := by cases st <;> simp [otherUses, Cls.max] at hu <;> omega
    simp [otherUses, Cls.max] at hu
    refine Instr.returns_x rfl h ?_ ?_ ?_
    · cases st <;> simp [flag, fitsT_iff (x := 243), maxT] <;> omega
    · cases st <;> rfl
    · cases st <;> simp [otherCandidate, candidateB, xFields, flag]
  | drain c t a b sp off scope ev addTy count =>
    simp only [otherOk, Bool.and_eq_true, decide_eq_true_eq] at h
    obtain ⟨⟨⟨⟨hc, hev⟩, hoff⟩, hn⟩, hty⟩ := h
    have he := fitsT_loc hev
    obtain ⟨hmf, h5, h4, hsc, h1⟩ := drainMod_fields addTy.isSome (count != 0) scope he
    have hcount : fitsT (count : Int) 7 = true := by simp [fitsT_iff, maxT]; omega
    have ht : fitsT (if addTy = some .f27 then -1 else 0) 1 = true := by split <;> decide
    simp [otherUses, Cls.max] at hu
    refine Instr.returns_x rfl hc ?_ ?_ ?_
    · simp [hmf, locImm_fits hoff ht hcount]; omega
    · have h5' : flag addTy.isSome ≠ -1 := by cases addTy <;> simp [flag]
      have h4' : flag (count != 0) ≠ -1 := by unfold flag; split <;> simp
      simpa [otherModOk, xFields, h5, h4, hsc, h1, h5', h4', locIsG, locImm_space hoff ht hcount] using locIsG_or hev
    · simp [otherCandidate, candidateB, xFields, hsc, h5, h1, locImm_space hoff ht hcount, locImm_off hoff,
        locImm_t hoff ht, locImm_mid hoff ht, fld_fits hcount]
      simp at hty
      rcases hty with (rfl | rfl) | rfl <;> simp [flag]
  | rwait c a sp off scope clr =>
    simp only [otherOk, Bool.and_eq_true] at h
    obtain ⟨⟨hc, hoff⟩, -⟩ := h
    obtain ⟨hmid, hsc, hclr⟩ := rwaitMid_fields clr scope
    have ht : tritI (locImm sp (729 * flag clr + 81 * scope.code) 0 off) 36 = flag clr := by
      rw [tritI_eq_fld, locImm_mid hoff (fitsT_zero 1) (by omega) (by omega) (by omega), hclr]
    simp [otherUses, Cls.max] at hu
    refine Instr.returns_x rfl hc ?_ rfl ?_
    · simp [locImm_fits hoff _ hmid]; omega
    · simp [otherCandidate, candidateB, xFields, locImm_off hoff, locImm_space hoff _ hmid, locImm_mid hoff, hsc, ht]
      cases clr <;> simp [flag]
  | ppoint c t n o m =>
    simp only [otherOk, Bool.and_eq_true, decide_eq_true_eq] at h
    obtain ⟨⟨⟨hc, hn, hm⟩, ht⟩, ho⟩ := h
    have himm : fitsT ((m : Int) + 19683 * n) 39 = true ∧ fld ((m : Int) + 19683 * n) 17 9 = n ∧
        fld ((m : Int) + 19683 * n) 8 0 = m := by
      simp [fitsT_iff, fld, wrapT, dropT, maxT, pow3]; omega
    simp only [otherUses, List.all_append, Bool.and_eq_true] at hu
    have htn : n ≠ 0 → t ≤ 2186 := fun h => by have := hu.1; simp [h, Cls.max] at this; omega
    have hom : m ≠ 0 → o ≤ 2186 := fun h => by have := hu.2; simp [h, Cls.max] at this; omega
    refine Instr.returns_x rfl (Ctl.ok_of_unguarded hc) ?_ rfl ?_
    · simp only [← ite_not (p := _ = 0)]
      exact ⟨fitsT_zero 6, fitsT_regOpt htn, fitsT_regOpt hom, fitsT_zero 7, himm.1⟩
    · simp [otherCandidate, candidateB, xFields, himm]
      constructor
      · split <;> simp_all
      · split <;> simp_all
  | _ => exact nomatch hop

end Sys2Proof
end

section
/-! Encoding (O55): the memory, latch, fence, translation and migration forms. -/

namespace Sys2Proof

/-- The field and flag of CAS in the middle of its imm (R254). -/
theorem casMid_fields (k : CasField) (b : Bool) :
    fitsT (2187 * k.code + 729 * flag b) 10 = true ∧ fld (2187 * k.code + 729 * flag b) 9 7 = k.code ∧
      fld (2187 * k.code + 729 * flag b) 6 6 = flag b := by
  have hk := k.code_range
  have hb : flag b = 0 ∨ flag b = 1 := by cases b <;> simp [flag]
  simp [fitsT_iff, fld, wrapT, dropT, maxT, pow3]
  omega

/-- A flag in the highest trit of the middle of an imm. -/
theorem flagMid_fields (b : Bool) : fitsT (19683 * flag b) 10 = true ∧ fld (19683 * flag b) 9 9 = flag b := by
  cases b <;> decide

/-- The count of a latch form in the middle of its imm (R268). -/
theorem countMid_fields {n : Nat} (h : n ≤ 9) :
    fitsT (729 * (n : Int)) 10 = true ∧ fld (729 * (n : Int)) 9 6 = n := by
  simp [fitsT_iff, fld, wrapT, dropT, maxT, pow3]
  omega

@[simp] theorem flag_beq_one (b : Bool) : (flag b == 1) = b := by cases b <;> rfl

/-- A form with the base and offset of R72 reads them back from its fields. -/
theorem baseView_mk {op mod g h d b : Int} {bc : BaseCls} {a : Nat} {sp : Space} {mid off : Int} {bases : List BaseCls}
    (hb : baseOk bases bc a off = true) (hmid : fitsT mid 10 = true) :
    baseView ⟨op, mod, g, h, d, baseField bc a, b, memImm bc sp mid off⟩ = some (bc, a, off) := by
  simp only [baseOk, Bool.and_eq_true, Bool.or_eq_true, beq_iff_eq, bne_iff_ne] at hb
  obtain ⟨⟨-, ha⟩, hoff⟩ := hb
  simp [baseView, memImm_base hoff hmid, memImm_off hoff, baseIndex_baseField ha]

theorem baseOk_fits {bases : List BaseCls} {bc : BaseCls} {a : Nat} {off : Int} (h : baseOk bases bc a off = true) :
    fitsT off 27 = true := by
  simp only [baseOk, Bool.and_eq_true] at h
  exact h.2

/-- A retention code stands alone in a latch form's mod (R63, R268). -/
theorem evOk_fits {ev : Int} (h : evOk ev = true) : fitsT ev 6 = true ∧ fld ev 5 2 = 0 := by
  simp [evOk, fitsT_iff, fld, wrapT, dropT, maxT, pow3] at h ⊢
  omega

/-- The forms of memory, of latches and of migration. -/
theorem memoryForms_return {i : Instr} (hop : i.opIn 270 350 = true) (h : otherOk i = true)
    (hu : (otherUses i).all RegUse.ok = true) : i.Returns := by
  cases i with
  | ifence | fref | migr | mpoint =>
    simp only [otherOk, Bool.and_eq_true, decide_eq_true_eq] at h
    simp [otherUses, Cls.max] at hu
    refine Instr.returns_x rfl (by simp only [h, Ctl.ok_of_unguarded]) ?_ rfl ?_
    · simp [fitsT_39, flag] <;> grind
    · simp [otherCandidate, candidateC, xFields]
  | ld c m | st c m | lds c m | sts c m | demote c m =>
    simp only [otherOk, otherUses, Bool.and_eq_true, List.all_cons, List.all_append, List.all_nil,
      Bool.and_true, RegUse.ok_mk, Cls.max] at h hu
    refine Instr.returns_m rfl rfl h.1 h.2 (fitsT_zero _) ?_ (baseUse_fits (by simp only [hu])) ?_ ?_
    · simp <;> omega
    · simp <;> omega
    · intro f ho _ hm
      simp [otherCandidate, candidateC, ho, hm]
  | pref c line m =>
    simp only [otherOk, otherUses, Bool.and_eq_true] at h hu
    obtain ⟨hmid, hl⟩ := flagMid_fields line
    refine Instr.returns_m rfl rfl h.1 h.2 hmid nofun (baseUse_fits hu) nofun ?_
    intro f ho hf hm
    simp [otherCandidate, candidateC, ho, hm, tritI_eq_fld, hf, hl]
  | atom c op ty sc m =>
    simp only [otherOk, otherUses, Bool.and_eq_true, List.all_cons, List.all_append, List.all_nil,
      Bool.and_true, RegUse.ok_mk] at h hu
    obtain ⟨⟨hd, ha⟩, hb⟩ := hu
    obtain ⟨hmid, hr, ht, hs⟩ := rmwMid_fields op ty sc
    have hcls : (if sc = true then Cls.s else .v).max ≤ 2186 := by cases sc <;> decide
    refine Instr.returns_m rfl rfl h.1.1.1 h.2 hmid (fun _ => by omega) (baseUse_fits ha) (fun _ => by omega) ?_
    intro f ho hf hm
    simp [otherCandidate, candidateC, ho, hm, tritI_eq_fld, hf, hr, ht, hs]
  | cas c k sc m =>
    simp only [otherOk, otherUses, Bool.and_eq_true, List.all_cons, List.all_append, List.all_nil,
      Bool.and_true, RegUse.ok_mk] at h hu
    obtain ⟨⟨hd, ha⟩, hb⟩ := hu
    obtain ⟨hmid, hk, hs⟩ := casMid_fields k sc
    have hcls : (if sc = true then Cls.s else .v).max ≤ 2186 := by cases sc <;> decide
    refine Instr.returns_m rfl rfl h.1 h.2 hmid (fun _ => by omega) (baseUse_fits ha) (fun _ => by omega) ?_
    intro f ho hf hm
    simp [otherCandidate, candidateC, ho, hm, tritI_eq_fld, hf, hk, hs]
  | latch c ev bc d a n off =>
    simp only [otherOk, otherUses, Bool.and_eq_true, decide_eq_true_eq, List.all_cons, RegUse.ok_mk, Cls.max] at h hu
    obtain ⟨⟨⟨hc, hev⟩, hn⟩, hbase⟩ := h
    obtain ⟨hmid, hcount⟩ := countMid_fields hn
    have hoff := baseOk_fits hbase
    refine Instr.returns_x rfl hc ?_ ?_ ?_
    · simp [fitsT_baseField (baseUse_fits hu.2), memImm_fits hoff hmid, evOk_fits hev]; omega
    · simp [otherModOk, xFields, evOk_fits hev]
    · simp [otherCandidate, candidateC, xFields, baseView_mk hbase hmid, memImm_mid hoff, hcount]
  | latcht c ev bc d a b n off =>
    simp only [otherOk, otherUses, Bool.and_eq_true, decide_eq_true_eq, List.cons_append, List.all_cons, List.all_append,
      List.all_nil, Bool.and_true, RegUse.ok_mk, Cls.max] at h hu
    obtain ⟨⟨⟨hc, hev⟩, hn⟩, hbase⟩ := h
    obtain ⟨hmid, hcount⟩ := countMid_fields hn
    have hoff := baseOk_fits hbase
    refine Instr.returns_x rfl hc ?_ ?_ ?_
    · simp [fitsT_baseField (baseUse_fits hu.2.1), memImm_fits hoff hmid, evOk_fits hev]; omega
    · simp [otherModOk, xFields, evOk_fits hev]
    · simp [otherCandidate, candidateC, xFields, baseView_mk hbase hmid, memImm_mid hoff, hcount]
  | unlatch c sus bc a n off =>
    simp only [otherOk, otherUses, Bool.and_eq_true, decide_eq_true_eq] at h hu
    obtain ⟨⟨hc, hn⟩, hbase⟩ := h
    obtain ⟨hmid, hcount⟩ := countMid_fields hn
    have hoff := baseOk_fits hbase
    have hmod : fitsT (243 * flag sus) 6 = true := by cases sus <;> decide
    refine Instr.returns_x rfl hc ?_ ?_ ?_
    · simp [fitsT_baseField (baseUse_fits hu), memImm_fits hoff hmid, hmod]
    · cases sus <;> rfl
    · simp [otherCandidate, candidateC, xFields, baseView_mk hbase hmid, memImm_mid hoff, hcount]
      cases sus <;> simp [flag]
  | latq c bc d a off =>
    simp only [otherOk, otherUses, Bool.and_eq_true, List.all_cons, RegUse.ok_mk, Cls.max] at h hu
    obtain ⟨hc, hbase⟩ := h
    have hoff := baseOk_fits hbase
    refine Instr.returns_x rfl hc ?_ rfl ?_
    · simp [fitsT_baseField (baseUse_fits hu.2), memImm_fits hoff]; omega
    · simp [otherCandidate, candidateC, xFields, baseView_mk hbase]
  | probe c bc d a start off =>
    simp only [otherOk, otherUses, Bool.and_eq_true, List.all_cons, RegUse.ok_mk, Cls.max] at h hu
    obtain ⟨hc, hbase⟩ := h
    obtain ⟨hmid, hs⟩ := flagMid_fields start
    have hoff := baseOk_fits hbase
    refine Instr.returns_x rfl hc ?_ rfl ?_
    · simp [fitsT_baseField (baseUse_fits hu.2), memImm_fits hoff hmid]; omega
    · simp [otherCandidate, candidateC, xFields, baseView_mk hbase hmid, tritI_eq_fld, memImm_mid hoff, hs]
  | fence c ord scope =>
    simp only [otherOk, Bool.and_eq_true, bne_iff_ne] at h
    obtain ⟨hf, hv, he⟩ := mMod_fields ord scope (ev := 0) (fitsT_zero 2)
    refine Instr.returns_x rfl h.1 ?_ ?_ ?_
    · simp [hf]
    · simp [otherModOk, xFields, hv, he, h.2]
    · simp [otherCandidate, candidateC, xFields, hv]
  | _ => exact nomatch hop

end Sys2Proof
end

section
/-! O55: the engine, launch and system forms, and the round trip. -/

namespace Sys2Proof

/-- A number of an imm of 27 trits leaves the imm's highest trit, which marks a register operand, zero (R64). -/
theorem imm27_fields {x : Int} (h : fitsT x 27 = true) : fitsT x 39 = true ∧ tritI x 38 = 0 := by
  refine ⟨fitsT_mono (by omega) h, ?_⟩
  have hd : dropT x 38 = 0 := dropT_fits (fitsT_mono (by omega) h)
  rw [tritI, hd]
  rfl

theorem pow38_fields : fitsT (pow3 38) 39 = true ∧ tritI (pow3 38) 38 = 1 := by decide +kernel

/-- The codes of the mod of a copy (R331). -/
theorem cpyMod_fields {conv : Int} (hc : -11 ≤ conv ∧ conv ≤ 11) (s d : Space) :
    let m := 27 * conv + 9 * s.code + 3 * d.code
    fitsT m 6 = true ∧ fld m 5 3 = conv ∧ fld m 2 2 = s.code ∧ fld m 1 1 = d.code ∧ fld m 0 0 = 0 := by
  have hs := s.code_range
  have hd := d.code_range
  simp [fitsT_iff, fld, wrapT, dropT, maxT, pow3]
  omega

/-- The codes of the mod of a thaw or a freeze (R344, R346). -/
theorem blockMod_fields (ty : ETy) {k t : Int} (hk : -1 ≤ k ∧ k ≤ 1) (ht : t = 0 ∨ t = 1) :
    let m := 27 * ty.code + 3 * k + t
    fitsT m 6 = true ∧ fld m 5 3 = ty.code ∧ fld m 2 1 = k ∧ fld m 0 0 = t := by
  have hty := ty.code_range
  simp [fitsT_iff, fld, wrapT, dropT, maxT, pow3]
  omega

theorem fitsT_ofNat {n k : Nat} (h : n ≤ (3 ^ k - 1) / 2) : fitsT (n : Int) k = true := by
  have := maxT_nonneg k
  simp only [fitsT_iff, maxT, Int.ofNat_eq_natCast] at this ⊢
  omega

theorem Space.code_eq_one {sp : Space} : sp.code = 1 ↔ sp = .g := by cases sp <;> simp [Space.code]

/-- The forms of the engine, of launches, of traps and of the system registers. -/
theorem engineForms_return {i : Instr} (hop : (i.opIn 350 400 || i.opIn (-400) 0) = true) (h : otherOk i = true)
    (hu : (otherUses i).all RegUse.ok = true) : i.Returns := by
  cases i with
  | bclose | bqry | gset | gclr | launch | lwait | lqry | trap | eret | snap | brk =>
    simp only [otherOk, Bool.and_eq_true, Bool.or_eq_true, beq_iff_eq, decide_eq_true_eq] at h
    simp [otherUses, Cls.max] at hu
    refine Instr.returns_x rfl (by simp only [h]) ?_ rfl ?_
    · simp [fitsT_39] <;> omega
    · simp [otherCandidate, candidateD, xFields]
  | rdsr | wrsr =>
    simp only [otherOk, Bool.and_eq_true, rdsrOk, wrsrOk, decide_eq_true_eq, Int.ofNat_eq_natCast] at h
    simp [otherUses, Cls.max] at hu
    refine Instr.returns_x rfl (by simp only [h]) ?_ rfl ?_
    · simp [fitsT_39]; omega
    · simp [otherCandidate, candidateD, xFields]
  | bwait c src =>
    cases src with
    | imm n =>
      simp only [otherOk, Bool.and_eq_true] at h
      obtain ⟨hn, ht⟩ := imm27_fields h.2
      refine Instr.returns_x rfl h.1 ?_ rfl ?_
      · simp [hn]
      · simp [otherCandidate, candidateD, xFields, ht]
    | reg a =>
      simp only [otherOk, Bool.and_true] at h
      simp [otherUses, Cls.max] at hu
      refine Instr.returns_x rfl h ?_ rfl ?_
      · simp [pow38_fields]; omega
      · simp [otherCandidate, candidateD, xFields, pow38_fields]
  | prio c d src =>
    cases src with
    | imm n =>
      simp only [otherOk, Bool.and_eq_true, decide_eq_true_eq] at h
      simp [otherUses, Cls.max] at hu
      obtain ⟨hn, ht⟩ := imm27_fields (x := n) (by simp [fitsT_iff, maxT]; omega)
      refine Instr.returns_x rfl h.1 ?_ rfl ?_
      · simp [hn]; omega
      · simp [otherCandidate, candidateD, xFields, ht]
    | reg a =>
      simp only [otherOk, Bool.and_true] at h
      simp [otherUses, Cls.max] at hu
      refine Instr.returns_x rfl h ?_ rfl ?_
      · simp [pow38_fields]; omega
      · simp [otherCandidate, candidateD, xFields, pow38_fields]
  | pgin c a hg | pgout c a hg | cpyFrame c d a b hg =>
    simp only [otherOk, Bool.and_eq_true] at h
    simp [otherUses, Cls.max] at hu
    refine Instr.returns_x rfl h.1 ?_ rfl ?_
    · simp [cmdImm_fits h.2, fitsT_iff (x := 13), maxT]; omega
    · simp [otherCandidate, candidateD, xFields, cmdImm_guard h.2, show fld 13 0 0 = 1 from rfl]
  | mcast c ssp d a b hg =>
    simp only [otherOk, Bool.and_eq_true] at h
    simp [otherUses, Cls.max] at hu
    have hs := fitsT_trit ssp.code_range
    refine Instr.returns_x rfl h.1 ?_ rfl ?_
    · simp [cmdImm_fits h.2 hs]; omega
    · simp [otherCandidate, candidateD, xFields, cmdImm_guard h.2 hs, cmdImm_space hs]
  | ovl c d a b e hg =>
    simp only [otherOk, Bool.and_eq_true, decide_eq_true_eq] at h
    simp [otherUses, Cls.max] at hu
    have he : fitsT (e : Int) 27 = true := fitsT_ofNat (by omega)
    refine Instr.returns_x rfl h.1.1 ?_ rfl ?_
    · simp [cmdImm_fits h.2 _ he]; omega
    · simp [otherCandidate, candidateD, xFields, cmdImm_guard h.2 _ he, cmdImm_low he]
  | cpy c conv ssp dsp d a b hg =>
    simp only [otherOk, cpyOk, Bool.and_eq_true, Bool.or_eq_true, decide_eq_true_eq, beq_iff_eq] at h
    obtain ⟨⟨hc, ⟨hconv, hs⟩, hd⟩, hh⟩ := h
    obtain ⟨hm, h53, h22, h11, h00⟩ := cpyMod_fields hconv ssp dsp
    simp [otherUses, Cls.max] at hu
    refine Instr.returns_x rfl hc ?_ ?_ ?_
    · simp [cmdImm_fits hh, hm]; omega
    · simp [otherModOk, xFields, h53, h22, h11, h00, Space.code_eq_one, hconv, hs, hd]
    · simp [otherCandidate, candidateD, xFields, cmdImm_guard hh, h53, h22, h11, h00]
  | freeze c ty ssp tab d a b m hg =>
    simp only [otherOk, Bool.and_eq_true, decide_eq_true_eq] at h
    obtain ⟨⟨⟨hc, hty⟩, hn⟩, hh⟩ := h
    obtain ⟨hm, h53, h21, h00⟩ := blockMod_fields ty ssp.code_range (t := flag tab) (by cases tab <;> simp [flag])
    have hl : fitsT (m : Int) 27 = true := fitsT_ofNat (by omega)
    simp [otherUses, Cls.max] at hu
    refine Instr.returns_x rfl hc ?_ ?_ ?_
    · simp [cmdImm_fits hh _ hl, hm]; omega
    · have h1 : flag tab ≠ -1 := by cases tab <;> simp [flag]
      have h2 : ssp.code = 0 ∨ ssp.code = 1 ∨ ssp.code = -1 := by have := ssp.code_range; omega
      simpa [otherModOk, xFields, h53, h21, h00, h1, or_assoc] using And.intro (by simpa using hty) h2
    · simp [otherCandidate, candidateD, xFields, cmdImm_guard hh _ hl, cmdImm_low hl, h53, h21, h00]
  | thaw c ty kind d a b n hg =>
    simp only [otherOk, Bool.and_eq_true] at h
    obtain ⟨⟨⟨hc, hty⟩, hh⟩, hk⟩ := h
    cases kind with
    | glob sp =>
      obtain ⟨hm, h53, h21, h00⟩ := blockMod_fields ty (k := 0) (t := 0) (by omega) (by omega)
      simp at hm h53 h21 h00 hk
      have hs := fitsT_trit sp.code_range
      simp [otherUses, Cls.max] at hu
      refine Instr.returns_x rfl hc ?_ ?_ ?_
      · simp [cmdImm_fits hh hs, hm]; omega
      · simpa [otherModOk, xFields, h53, h21, h00] using hty
      · simp [otherCandidate, candidateD, xFields, cmdImm_guard hh hs, cmdImm_space hs, h53, h21, hk]
    | ring =>
      obtain ⟨hm, h53, h21, h00⟩ := blockMod_fields ty (k := 1) (t := 0) (by omega) (by omega)
      simp at hm h53 h21 h00 hk
      simp [otherUses, Cls.max] at hu
      refine Instr.returns_x rfl hc ?_ ?_ ?_
      · simp [cmdImm_fits hh, hm]; omega
      · simpa [otherModOk, xFields, h53, h21, h00] using hty
      · simp [otherCandidate, candidateD, xFields, cmdImm_guard hh, h53, h21, hk]
    | slots =>
      obtain ⟨hm, h53, h21, h00⟩ := blockMod_fields ty (k := -1) (t := 0) (by omega) (by omega)
      simp [← sub_eq_add_neg] at hm h53 h21 h00 hk
      have hl : fitsT (n : Int) 27 = true := fitsT_ofNat (by omega)
      simp [otherUses, Cls.max] at hu
      refine Instr.returns_x rfl hc ?_ ?_ ?_
      · simp [cmdImm_fits hh _ hl, hm]; omega
      · simpa [otherModOk, xFields, h53, h21, h00] using hty
      · simp [otherCandidate, candidateD, xFields, cmdImm_guard hh _ hl, cmdImm_low hl, h53, h21, hk]
  | _ => exact nomatch hop

/-- A form that passes the checks outside mod layout T has an op value outside it. -/
theorem opOther_of_otherOk {i : Instr} (h : otherOk i = true) : ∃ op ∈ otherOps, i.opOther = some op := by
  unfold otherOk at h
  split at h
  pick_goal -1
  · nomatch h
  all_goals exact ⟨_, by decide, rfl⟩

/-- The four parts of the opcode map in which the decoder looks. -/
theorem otherOps_ranges : ∀ op ∈ otherOps, (0 ≤ op ∧ op < 240) ∨ (240 ≤ op ∧ op < 270) ∨ (270 ≤ op ∧ op < 350) ∨
    (350 ≤ op ∧ op < 400) ∨ (-400 ≤ op ∧ op < 0) := by decide

/-- A form that passes the checks outside mod layout T has its op value in one of the four parts of the decoder. -/
theorem opIn_of_otherOk {i : Instr} (h : otherOk i = true) :
    i.opIn 0 240 = true ∨ i.opIn 240 270 = true ∨ i.opIn 270 350 = true ∨
      (i.opIn 350 400 || i.opIn (-400) 0) = true := by
  obtain ⟨op, hm, hop⟩ := opOther_of_otherOk h
  simpa [Instr.opIn, hop, or_assoc] using otherOps_ranges op hm

/-- Every well-formed instruction has fields from which the decoder makes it again. -/
theorem Instr.wf_codes {i : Instr} (h : i.wf = true) : ∃ f, i.fields = some f ∧ Codes i f := by
  obtain ⟨hok, hu⟩ : i.fieldsOk = true ∧ i.uses.all RegUse.ok = true := by simpa only [Instr.wf, Bool.and_eq_true] using h
  rw [Instr.uses, List.all_append, Bool.and_eq_true] at hu
  cases hv : i.tView with
  | none =>
    simp only [Instr.fieldsOk, Instr.fields, hv] at hok hu ⊢
    rcases opIn_of_otherOk hok with hop | hop | hop | hop
    · exact controlForms_return hop hok hu.2
    · exact matrixForms_return hop hok hu.2
    · exact memoryForms_return hop hok hu.2
    · exact engineForms_return hop hok hu.2
  | some v =>
    obtain ⟨op, c, o⟩ := v
    cases hs : tSpec op with
    | none => simp [Instr.fieldsOk, hv, hs] at hok
    | some s =>
      simp only [Instr.fieldsOk, Instr.fields, hv, hs, Bool.and_eq_true, Option.map_some] at hok hu ⊢
      exact ⟨_, rfl, tForm_codes hv hs hok.1 hok.2 hu.2⟩

/-- Settles O55: the fields of a well-formed instruction fit the word, and the decoder, form by form, makes the instruction again
from them. -/
theorem decodeEncodeRoundTrip : Obligations.DecodeEncodeRoundTrip := by
  unfold Obligations.DecodeEncodeRoundTrip
  intro i hw
  obtain ⟨f, hf, hc⟩ := Instr.wf_codes hw
  exact hc.decode hf hw

end Sys2Proof
end

section
/-! O59: no step is refused. -/

namespace Sys2Proof.Machine

theorem agent_ne_refused (b : Bool) (s : State) (r : Refusal) : agent b s ≠ .refused r := by
  cases b <;> nofun

/-- An instruction form is an instruction of the issuing gust, and a step of another agent is never refused. -/
theorem exec_cases (i : Instr) (s : State) :
    (i.fields.isSome = true ∧ ∃ body, exec i s = s.perform body) ∨ ∀ r, exec i s ≠ .refused r := by
  cases i with
  | yieldExpiry | claimReleaseEffect | launchReply | trapEntry | gustRetire | loadSectorReturn | engineCommandStart
  | engineCommandComplete | batchComplete | homeFill | homeApplyWrite | homeRecall | atomicApply | latchRequest | latchRelease
  | latchGrant | latchLeaseLapse | latchtDeadline | deadlockProbeSend | deadlockProbe | laneRetranslate | pageIn | pageOut
  | frontRetire | graphNodeAct | graphComplete | shutterRequest | forcedSave | shutterSave | migrationTransfer
  | migrationComplete | frontEnd | ptimeTick | zargenTimeout | ucieFlitLost | zargenWrite | zargenRead | zargenAtomic
  | zargenAck | hostRead | hostWrite | snapinEdge | snapshotTriggerWrite | snapshotCapture | debugStop | debugResume | debugHold
  | debugRelease | reset | bootgo | firmwareCheck | attestation | d3hotRequest | d3hotEnter | d0Return | moduleLoad
  | moduleUnload | softError | bringUpComplete | d3coldEntry =>
    exact .inr nofun
  | bindRecordRewrite | issueChoice | registerWindowWrite | commandAccept | matrixCommandRun | matrixCommandComplete
  | fillComplete | drainApply | thawRingPoll | l1Fill | l1WriteBack | invalidation | dirtyNotice | forcedPublish | pageWalk
  | tlbLeaseExpiry | launchListConsume | rangeDistribute | bindRecordWrite | squallBind | shutterRestore | machineCheck
  | packageTimeStopped | requestTimeout | hostCompletion =>
    exact .inr (agent_ne_refused _ _)
  | ofill _ _ _ _ src | ald _ _ _ _ src | bwait _ src | prio _ _ src => cases src <;> exact .inl ⟨rfl, _, rfl⟩
  | atom _ _ _ scalar | cas _ _ scalar => cases scalar <;> exact .inl ⟨rfl, _, rfl⟩
  | thaw _ _ kind => cases kind <;> exact .inl ⟨rfl, _, rfl⟩
  | _ => exact .inl ⟨rfl, _, rfl⟩

/-- The same gust issues in both states, and the same gusts are there. -/
def SameIssue (s t : State) : Prop := t.cur = s.cur ∧ ∀ r, (t.gust? r).isSome = (s.gust? r).isSome

theorem SameIssue.refl (s : State) : SameIssue s s := ⟨rfl, fun _ => rfl⟩

theorem SameIssue.trans {s t u : State} (h : SameIssue s t) (k : SameIssue t u) : SameIssue s u :=
  ⟨k.1.trans h.1, fun r => (k.2 r).trans (h.2 r)⟩

theorem sameIssue_onGust (s : State) (r : GustRef) (f : Gust → Gust) (hf : ∀ g, g.ref = r → (f g).ref = r) :
    SameIssue s (s.onGust r f) :=
  ⟨rfl, fun j => by rw [State.gust?_onGust _ _ _ _ hf]; split <;> simp⟩

theorem sameIssue_pick (s : State) (n : Nat) : SameIssue s (s.pick n).2 := by
  unfold State.pick
  split
  · exact .refl s
  · exact ⟨rfl, fun _ => rfl⟩

theorem sameIssue_countIssue (s : State) (g : Gust) (core : Nat) : SameIssue s (s.countIssue g core) := by
  unfold State.countIssue
  split
  · exact .refl s
  · exact .trans ⟨rfl, fun _ => rfl⟩ (sameIssue_onGust _ _ _ fun _ h => h)

theorem sameIssue_syllable (s : State) (g : Gust) (core w : Nat) : SameIssue s (s.syllable g core w).2 := by
  have hp := sameIssue_pick s 2
  unfold State.syllable
  dsimp only
  split
  · split <;> rename_i e <;> rwa [e] at hp
  · exact .refl s

theorem sameIssue_fetchAt (s : State) (g : Gust) (core i : Nat) : SameIssue s (s.fetchAt g core i).2 :=
  ((sameIssue_syllable s g core (3 * i)).trans (sameIssue_syllable _ g core (3 * i + 1))).trans
    (sameIssue_syllable _ g core (3 * i + 2))

theorem sameIssue_fetch (s : State) (g : Gust) (q : Squall) : SameIssue s (s.fetch g q).2 := by
  unfold State.fetch
  dsimp only
  split
  · split
    · exact .refl s
    · exact sameIssue_fetchAt s g q.core _
  · split
    · exact .refl s
    · split
      · exact .refl s
      · next i _ =>
        exact (((sameIssue_fetchAt s g q.core i).trans (sameIssue_fetchAt _ g q.core (i + 1))).trans
          (sameIssue_fetchAt _ g q.core (i + 2))).trans (sameIssue_onGust _ _ _ fun _ h => h)

/-- Where the front of issue comes to an instruction, its gust still issues. -/
theorem State.prepare_run {s t : State} {r : GustRef} {i : Instr} (h : s.prepare r = .run i t) :
    t.cur = s.cur ∧ (t.gust? r).isSome = true := by
  unfold State.prepare at h
  split at h
  · next g q hg hq =>
    have hf := (sameIssue_countIssue s g q.core).trans (sameIssue_fetch _ g q)
    dsimp only at h
    split at h
    · nomatch h
    · next e =>
      rw [e] at hf
      split at h
      · nomatch h
      · split at h
        · nomatch h
        · split at h
          · nomatch h
          · split at h
            · nomatch h
            · cases h
              exact ⟨hf.1, (hf.2 r).trans (hg ▸ rfl)⟩
  · nomatch h

/-- An instruction of a gust that is there is not refused. -/
theorem State.perform_ne_refused {s : State} {r : GustRef} (hc : s.cur = some r) (hg : (s.gust? r).isSome = true)
    (body : Gust → Eff) (x : Refusal) : s.perform body ≠ .refused x := by
  obtain ⟨g, hg⟩ := Option.isSome_iff_exists.1 hg
  simp [State.perform, hc, hg]

theorem State.happens_ne_refused (s : State) (a : Act) (x : Refusal) : s.happens a ≠ .refused x := by
  unfold State.happens
  split
  · next h =>
    have hf : a.act.fields = none := by
      simp only [State.hears, Bool.and_eq_true, Option.isNone_iff_eq_none] at h
      exact h.1
    rcases exec_cases a.act (s.take a) with ⟨hs, -⟩ | hne
    · simp [hf] at hs
    · exact hne x
  · nofun

/-- Settles O59: a form is executed only where its gust issues, and no other act can be refused. -/
theorem stepNeverRefuses : Obligations.StepNeverRefuses := by
  unfold Obligations.StepNeverRefuses
  intro s x
  unfold step
  split
  · next r hc =>
    split
    · next i t hp =>
      obtain ⟨ht, hg⟩ := State.prepare_run hp
      rcases exec_cases i t with ⟨-, body, he⟩ | hne
      · rw [he]
        exact State.perform_ne_refused (ht.trans hc) hg body x
      · exact hne x
    · nofun
  · dsimp only
    split
    · exact State.happens_ne_refused _ _ x
    · nofun

end Sys2Proof.Machine
end

section
/-! O54: a step runs the instruction at the program counter. -/

namespace Sys2Proof.Machine

/-- The op field of an instruction word stands at the top of its highest syllable (R54, R55). -/
theorem Syllables.unpack_op (x : Syllables) : (Fields.unpack x.toInt).op = fld x.s2.val 26 21 := by
  simp only [Fields.unpack, Syllables.toInt]
  rw [fld_cat_high x.s0.fitsT_val _ (by omega) (by omega), fld_cat_high x.s1.fitsT_val _ (by omega) (by omega)]

/-- A change of a core that leaves a part of it alone leaves that part of every core alone. -/
theorem State.core_onCore_part {α : Type} (part : Core → α) (s : State) (c k : Nat) (f : Core → Core)
    (hf : ∀ x, part (f x) = part x) : part ((s.onCore c f).core k) = part (s.core k) := by
  simp only [State.core, State.onCore, List.getD_eq_getElem?_getD, List.getElem?_modify]
  cases s.cores[k]? with
  | none => rfl
  | some x =>
    by_cases h : c = k
    · simp [h, hf]
    · simp [h]

section
variable {s : State} {g : Gust} {q : Squall}

theorem countIssue_eq_counted (s : State) (g : Gust) (q : Squall) : s.countIssue g q.core = Claims.counted s g q := rfl

theorem counted_core {α : Type} (part : Core → α) (hp : ∀ c l, part { c with counters := l } = part c) (k : Nat) :
    part ((Claims.counted s g q).core k) = part (s.core k) := by
  unfold Claims.counted
  split
  · rfl
  · exact State.core_onCore_part part s q.core k _ fun x => hp x _

theorem counted_squall (r : SqRef) : (Claims.counted s g q).squall? r = s.squall? r := by
  unfold Claims.counted
  split <;> rfl

theorem counted_gust (h : s.Issuing g q) : (Claims.counted s g q).gust? g.ref = some (Claims.countedGust g) := by
  unfold Claims.counted Claims.countedGust
  split
  · exact h.gust
  · exact State.gust?_onGust_some (s := s.onCore _ _) h.gust _ fun _ h => h

theorem counted_codeIndex (image : Nat) (pc : Int) (core : Nat) :
    (Claims.counted s g q).codeIndex core image pc = s.codeIndex core image pc := by
  rw [State.codeIndex, State.codeIndex, counted_core Core.segs fun _ _ => rfl]

/-- With nothing written since the last IFENCE a fetch takes the word that stands in the instruction scratchpad (R292). -/
theorem State.syllable_current (hg : g.oldCode = []) (s : State) (core w : Nat) :
    s.syllable g core w = (readAt Claims.zeroAt (s.core core).isp w, s) := by
  simp only [State.syllable, hg, lookupAt]
  rfl

theorem State.fetchAt_current (hg : g.oldCode = []) (s : State) (core k : Nat) :
    s.fetchAt g core k = (Claims.syllables s core k, s) := by
  simp only [State.fetchAt, State.syllable_current hg, Claims.syllables]

theorem counted_syllables (core k : Nat) : Claims.syllables (Claims.counted s g q) core k = Claims.syllables s core k := by
  rw [Claims.syllables, Claims.syllables, counted_core Core.isp fun _ _ => rfl]

/-- What the step makes of the front of issue. -/
def Prep.outcome : Prep → Result
  | .run i t => exec i t
  | .halt t => .next t

theorem step_issuing (h : s.Issuing g q) : step s = (s.prepare g.ref).outcome := by
  simp only [step, h.cur]
  rfl

/-- The checks of a fetched word (R79, R80), in the state in which its op field is noted. -/
def State.checkWord (t : State) (g : Gust) (q : Squall) (x : Syllables) : Prep :=
  match decode x with
  | .bad n => .halt { t.gustFault g.ref 1 (Int.ofNat n) 0 with cur := none }
  | .ok i =>
    if i.slotOk q.isD g.pc = false then .halt { t.gustFault g.ref 1 6 0 with cur := none }
    else match q.alloc.firstOut i.uses with
      | some n => .halt { t.gustFault g.ref 2 7 (Int.ofNat n) with cur := none }
      | none => if g.blocksOn i.uses then .halt { t with cur := none } else .run i t

theorem State.prepare_fetched (h : s.Issuing g q) {x : Syllables}
    (hf : (Claims.counted s g q).fetch g q = (.ok x, Claims.counted s g q)) :
    s.prepare g.ref = ({ Claims.counted s g q with op := fld x.s2.val 26 21 } : State).checkWord g q x := by
  simp only [State.prepare, h.gust, h.squall, countIssue_eq_counted, hf, Syllables.unpack_op, Bool.not_eq_true']
  rfl

/-- The front of issue where the fetch fails (R337). -/
theorem State.prepare_error (h : s.Issuing g q) {c : Int}
    (hf : (Claims.counted s g q).fetch g q = (.error c, Claims.counted s g q)) :
    s.prepare g.ref = .halt { ({ Claims.counted s g q with op := 0 } : State).gustFault g.ref c 0 0 with cur := none } := by
  simp only [State.prepare, h.gust, h.squall, countIssue_eq_counted, hf]

/-- A gust fault of the counted gust, where it can take the trap (R396, R400). -/
theorem gustFault_refusedAt (h : s.Issuing g q) (ht : Claims.Handles g q) (op cause n detail : Int) :
    { ({ Claims.counted s g q with op } : State).gustFault g.ref cause n detail with cur := none } =
      Claims.refusedAt s g q op cause n detail := by
  obtain ⟨hact, hlo, hmod⟩ := ht
  have hg : ({ Claims.counted s g q with op } : State).gust? g.ref = some (Claims.countedGust g) := counted_gust h
  have hq : ({ Claims.counted s g q with op } : State).squall? g.ref.sq = some q := (counted_squall _).trans h.squall
  have hk : (Claims.countedGust g).trapActive = g.trapActive ∧ (Claims.countedGust g).tvec = g.tvec := by
    unfold Claims.countedGust; split <;> exact ⟨rfl, rfl⟩
  simp only [State.gustFault, hg]
  rw [State.trapEntry_enters hg hq (hk.1.trans hact) (hk.2 ▸ hlo) (hk.2 ▸ hmod)]
  rfl

/-- The first part of O54. -/
theorem fetchAndRun : Claims.FetchAndRun := by
  intro s g q h hD hold
  have hok {k : Nat} (hk : s.codeIndex q.core q.image g.pc = .ok k) :
      (Claims.counted s g q).fetch g q = (.ok (Claims.syllables s q.core k), Claims.counted s g q) := by
    simp only [State.fetch, hD, counted_codeIndex, hk, State.fetchAt_current hold, counted_syllables, Bool.not_false, if_true]
  have hslot (i : Instr) : i.slotOk q.isD g.pc = true := by rw [Instr.slotOk, hD]; rfl
  refine ⟨fun k i hk hd hu => ⟨fun hb => ?_, fun hb => ?_⟩, fun k n hk hd ht => ?_, fun k i n hk hd hu ht => ?_, fun c hk ht => ?_⟩
  · rw [step_issuing h, State.prepare_fetched h (hok hk)]
    simp [State.checkWord, Prep.outcome, hd, hslot, hu, hb]
  · rw [step_issuing h, State.prepare_fetched h (hok hk)]
    simp [State.checkWord, Prep.outcome, hd, hslot, hu, hb]
  · rw [step_issuing h, State.prepare_fetched h (hok hk)]
    simp only [State.checkWord, hd]
    exact congrArg _ (gustFault_refusedAt h ht _ _ _ _)
  · rw [step_issuing h, State.prepare_fetched h (hok hk)]
    simp only [State.checkWord, hd, hslot, hu]
    exact congrArg _ (gustFault_refusedAt h ht _ _ _ _)
  · have hf : (Claims.counted s g q).fetch g q = (.error c, Claims.counted s g q) := by
      simp only [State.fetch, hD, counted_codeIndex, hk, Bool.not_false, if_true]
    rw [step_issuing h, State.prepare_error h hf]
    exact congrArg _ (gustFault_refusedAt h ht _ _ _ _)

/-- The second part of O54. -/
theorem packetSlots : Claims.PacketSlots := by
  intro s g q ws x i h hD hp hx hd
  have hf : (Claims.counted s g q).fetch g q = (.ok x, Claims.counted s g q) := by
    simp [State.fetch, hD, hp, Option.filter, List.getD_eq_getElem?_getD, hx]
  have hprep := State.prepare_fetched h hf
  simp only [State.checkWord, hd, hD] at hprep
  refine ⟨fun hs hu hb => ?_, fun hs ht => ?_⟩
  · rw [step_issuing h, hprep]
    simp [Prep.outcome, hs, hu, hb]
  · rw [step_issuing h, hprep]
    simp only [hs, if_true]
    exact congrArg _ (gustFault_refusedAt h ht _ _ _ _)

end

/-- The third part of O54. -/
theorem actRuns : Claims.ActRuns := by
  intro s a hc ha hp hf
  have hb : (s.pick s.ready.length).2.boot = s.boot := by
    unfold State.pick
    split <;> rfl
  have hh : (s.pick s.ready.length).2.hears a.act = true := by
    simp [State.hears, hf, hb, hp]
  simp only [step, hc, ha, State.happens, hh, if_true]

/-- Settles O54: the front of issue of an L-layout and of a D-layout gust, and the act of the free choice, each in its part. -/
theorem stepRunsDecoded : Obligations.StepRunsDecoded := by
  unfold Obligations.StepRunsDecoded
  exact ⟨fetchAndRun, packetSlots, actRuns⟩

end Sys2Proof.Machine
end

section
/-! O21: the loads and stores of one word. -/

namespace Sys2Proof.Machine

/-- Two changes of a gust that agree on it are one. -/
theorem State.onGust_congr (s : State) {r : GustRef} {f k : Gust → Gust} (h : ∀ g, g.ref = r → f g = k g) :
    s.onGust r f = s.onGust r k := by
  unfold State.onGust
  simp only [State.mk.injEq, true_and, and_true]
  apply List.map_congr_left
  intro g _
  by_cases hg : g.ref = r
  · simp [hg, h g hg]
  · simp [hg]

section
variable {s : State} {g : Gust} {q : Squall}

/-- A gust fault of the issuing gust, where it can take the trap (R396, R400). -/
theorem State.settle_fault (h : s.Issuing g q) (ht : Claims.Handles g q) (cause detail op : Int) :
    ((Eff.fault s cause detail).settle g op).keepIssuing g = Claims.faulted s g cause 0 detail := by
  obtain ⟨hact, hlo, hmod⟩ := ht
  simp only [Eff.settle, State.gustFault, h.gust]
  rw [State.trapEntry_enters h.gust h.squall hact hlo hmod]
  rfl

/-- A gust form whose place is at fault (R73). -/
theorem State.gustPlace_bad (h : s.Issuing g q) (hf : g.fillFaults = []) {sp : Space} {x f a : Int} {write : Bool}
    (hp : s.placeOf q g.priv sp x write = (.bad f a, s)) (hpos : 0 < f) (k : State → Squall → Place → Eff) :
    s.gustPlace g sp x write k = .fault s f x := by
  simp [State.gustPlace, h.squall, hf, hp, failAs, hpos]

/-- A gust form whose place is a word that no access of the gust is on its way to (R274). -/
theorem State.gustPlace_word (h : s.Issuing g q) (hf : g.fillFaults = []) {sp : Space} {x : Int} {write : Bool} {p : Place}
    {t : State} (hp : s.placeOf q g.priv sp x write = (p, t)) (hk : p.key.isSome = true) (hc : t.clashes g [p] = false)
    (k : State → Squall → Place → Eff) : s.gustPlace g sp x write k = k t q p := by
  cases p with
  | mem at_ lease => simp [State.gustPlace, h.squall, hf, hp, hc]
  | port core u w => simp [State.gustPlace, h.squall, hf, hp, hc]
  | bad c a => nomatch hk
  | page e => nomatch hk

/-- What a scalar load's place answers it (R183): at once where its result is a mask word (R102), else as a load of a lane. -/
def State.scalarAnswer (t : State) (g : Gust) (q : Squall) (m : MOps) (p : Place) : LaneOut × State :=
  if 78 ≤ m.d then laneOutOf (t.readPlace g q m.ord m.scope m.ev p) else t.loadOf g q m p

/-- A load with an acquire part, and one into a mask word, is answered at once. -/
theorem State.scalarAnswer_read {t t2 : State} {m : MOps} {p : Place} {v : Word} (hd : m.ord.acquires = true ∨ 78 ≤ m.d)
    (hr : t.readPlace g q m.ord m.scope m.ev p = (.ok v, t2)) : t.scalarAnswer g q m p = (.ok (some v), t2) := by
  unfold State.scalarAnswer
  split
  · rw [hr]; rfl
  · next hm =>
    unfold State.loadOf
    rw [if_pos (hd.resolve_right hm), hr]
    rfl

theorem State.scalarAnswer_load {t : State} {m : MOps} {p : Place} (hd : m.d < 78) :
    t.scalarAnswer g q m p = t.loadOf g q m p := if_neg (by omega)

section
variable {m : MOps} {p : Place} {t t1 t2 : State} (h : s.Issuing g q) (hf : g.fillFaults = []) (hk : p.key.isSome = true)
  (hc : t.clashes g [p] = false) (hb : t.before g (dieOf q.core) m.ord m.scope = some t1)
include h hf hk hc hb

/-- A load whose place answers it at once writes its register after its acquire part. -/
theorem State.scalarLoad_value (hp : s.placeOf q g.priv m.space (baseAddr g m.bc m.a m.off) false = (p, t)) {v : Word}
    (ha : (t1.ticketFor (dieOf q.core) m.ord m.scope).scalarAnswer g q m p = (.ok (some v), t2)) :
    s.scalarLoad g m =
      .done ((if m.ord.acquires then t2.acquirePart (dieOf q.core) m.scope else t2).writeS g.ref m.d v) := by
  unfold State.scalarAnswer at ha
  simp only [State.scalarLoad, State.gustPlace_word h hf hp hk hc, hb, ha, Option.getD_some]

/-- Any other load goes on its way. -/
theorem State.scalarLoad_pend (hp : s.placeOf q g.priv m.space (baseAddr g m.bc m.a m.off) false = (p, t)) {a : WLoc} {v : Word}
    {lease : Nat} (ha : (t1.ticketFor (dieOf q.core) m.ord m.scope).scalarAnswer g q m p = (.pend a v lease, t2)) :
    s.scalarLoad g m = .done (t2.onGust g.ref fun k => { k with loads := k.loads ++
      [{ d := m.d, scalar := true, ev := m.ev, items := [(0, a, v)], lease := lease,
         words := t2.accessRec g.ref, sentAt := t2.ptime }] }) := by
  unfold State.scalarAnswer at ha
  simp only [State.scalarLoad, State.gustPlace_word h hf hp hk hc, hb, ha]
  exact congrArg Eff.done (State.onGust_congr _ fun k hk => by rw [hk])

/-- A store writes its word after its release part, and then takes its ticket. -/
theorem State.scalarStore_done (hp : s.placeOf q g.priv m.space (baseAddr g m.bc m.a m.off) true = (p, t))
    (hw : t1.writePlace g q m.ord m.scope m.ev (g.s m.b) p = (.ok (), t2)) :
    s.scalarStore g m = .done (if m.ord.acquires then (t2.ticketFor (dieOf q.core) m.ord m.scope).acquirePart (dieOf q.core) m.scope
      else t2.ticketFor (dieOf q.core) m.ord m.scope) := by
  simp only [State.scalarStore, State.gustPlace_word h hf hp hk hc, hb, hw, endAccess]
end

/-- The four forms are the scalar load and the scalar store. -/
theorem exec_scalarAccess {i : Instr} {c : Ctl} {m : MOps} {store : Bool} (hi : Claims.scalarAccess i = some (c, m, store)) (s : State) :
    exec i s = s.performGust c fun g => if store then s.scalarStore g m else s.scalarLoad g m := by
  unfold Claims.scalarAccess at hi
  split at hi <;> cases hi <;> rfl

end

/-- Settles O21: a place at fault ends the form with the failing address, and a word is loaded or stored as its place answers. -/
theorem scalarAccessForms : Obligations.ScalarAccessForms := by
  unfold Obligations.ScalarAccessForms
  intro i c m store s g q hi h hact hf x d acquired
  have hexec : exec i s = .next (((if store then s.scalarStore g m else s.scalarLoad g m).settle g s.op).keepIssuing g) := by
    rw [exec_scalarAccess hi, State.performGust_acts h c hact]
  refine ⟨fun f a hp hpos ht => ?_, fun p t hp hk hc t1 hb => ⟨?_, ?_⟩⟩
  · have heff : (if store then s.scalarStore g m else s.scalarLoad g m) = .fault s f x := by
      cases store
      · exact State.gustPlace_bad h hf hp hpos _
      · exact State.gustPlace_bad h hf hp hpos _
    rw [hexec, heff, State.settle_fault h ht]
  · rintro rfl
    refine ⟨fun hd v t2 hr => ?_, fun hd v t2 hl => ?_, fun hd a v lease t2 hl => ?_⟩
    · rw [hexec, if_neg (by simp), State.scalarLoad_value h hf hk hc hb hp (State.scalarAnswer_read hd hr)]
      rfl
    · rw [hexec, if_neg (by simp), State.scalarLoad_value h hf hk hc hb hp ((State.scalarAnswer_load hd).trans hl)]
      rfl
    · rw [hexec, if_neg (by simp), State.scalarLoad_pend h hf hk hc hb hp ((State.scalarAnswer_load hd).trans hl)]
      rfl
  · rintro rfl t2 hw
    rw [hexec, if_pos rfl, State.scalarStore_done h hf hk hc hb hp hw]
    rfl

end Sys2Proof.Machine
end

section
/-! How an instruction ends (R108, R109, R401, R409, R436): the state that `State.complete` leaves, for a gust with no fault of a lane,
no write of a mask word, no shutter request and no stop command; first for any instruction, then for one whose gust was undisturbed
and whose effect keeps it so (O17). -/

namespace Sys2Proof.Machine

/-! Updates of one gust in a row. -/

/-- An update of a gust is lost in its replacement. -/
theorem State.setGust_of_onGust (s : State) {r : GustRef} {f : Gust → Gust} {h : Gust} (hr : h.ref = r)
    (hf : ∀ g, g.ref = r → (f g).ref = r) : (s.onGust r f).setGust h = s.setGust h := by
  unfold State.setGust State.onGust
  simp only [List.map_map, State.mk.injEq, true_and, and_true]
  apply List.map_congr_left
  intro x _
  by_cases hx : x.ref = r
  · simp [hx, hr, hf x hx]
  · simp [hx, hr]

/-- An update of a gust just replaced replaces it by the update. -/
theorem State.onGust_of_setGust (s : State) {r : GustRef} {f : Gust → Gust} {h : Gust} (hr : h.ref = r) (hf : (f h).ref = r) :
    (s.setGust h).onGust r f = s.setGust (f h) := by
  unfold State.setGust State.onGust
  simp only [List.map_map, State.mk.injEq, true_and, and_true]
  apply List.map_congr_left
  intro x _
  by_cases hx : x.ref = r <;> simp [hx, hr, hf]

/-- The issuing gust, replaced by another record of its name, is that record. -/
theorem State.gust?_setGust_of {s : State} {g h : Gust} (hg : s.gust? g.ref = some g) (hr : h.ref = g.ref) :
    (s.setGust h).gust? g.ref = some h := by
  rw [← hr]
  exact State.gust?_setGust_self (hr ▸ hg)

/-! The end of an instruction. -/

/-- Nothing that an instruction left in its gust `g` of squall `q` acts at its end: no lane has faulted, no mask word was written, and
no shutter request (R409) and no stop command (R437) stand. -/
structure Gust.Unmarked (g : Gust) (q : Squall) : Prop where
  faults : g.laneFaulted = []
  writes : g.maskWrote = false
  shutter : q.shutter = none
  cmd : g.cmdCode ≠ 1

/-- The state after an instruction of gust `old` that left the gust as `new` and the PC at `pc`, with the instruction's trace packet, none
for kind 0. -/
def State.noted (s : State) (old new : Gust) (q : Squall) (pc kind word7 : Int) : State :=
  if kind ≠ 0 then (s.setGust (Gust.completed old new q.isD pc)).trace old.ref kind word7
  else s.setGust (Gust.completed old new q.isD pc)

section
variable {s : State} {old g h : Gust} {q b : Squall} {pc kind word7 : Int} {point : Bool}

/-- An instruction in a handler that leaves some lane plus ends with its packet (R401). -/
theorem State.complete_handler (hg : s.gust? old.ref = some g) (hq : s.squall? old.ref.sq = some q) (hu : g.Unmarked q)
    (ht : g.trapActive = true) (hm : g.mask.has 1 = true) :
    s.complete old pc kind word7 point = s.noted old g q pc kind word7 := by
  obtain ⟨hf, hw, hs, hc⟩ := hu
  simp [State.complete, State.noted, Gust.completed, hg, State.gustIsD, hq, hf, hw, hs, hc, ht, hm]

/-- An instruction outside a handler, with no step bit set, ends with its packet; with the trap for parked lanes at an instruction
boundary where they are due (R109); or with the path end of R108 where no lane is left. -/
theorem State.complete_outside (hg : s.gust? old.ref = some g) (hq : s.squall? old.ref.sq = some q) (hu : g.Unmarked q)
    (ht : g.trapActive = false) (hb : g.stepBit = false) :
    s.complete old pc kind word7 point =
      if (point || g.stack.isEmpty) && !g.laneRec.isEmpty then (s.noted old g q pc kind word7).trapParked old.ref
      else if g.mask.has 1 || g.onTheWay (pc == old.pc + 1 && pc % 3 != 0 && q.isD) then s.noted old g q pc kind word7
      else (s.noted old g q pc kind word7).pathEnd old.ref old.pc pathFuel := by
  obtain ⟨-, hw, hs, hc⟩ := hu
  simp [State.complete, State.noted, Gust.completed, hg, State.gustIsD, hq, hw, hs, hc, ht, hb]

/-- Where the gust was undisturbed and the effect keeps its mask, its handler, its parked lanes and its stack, nothing follows the
packet. -/
theorem State.complete_undisturbed (hu : old.Undisturbed q) (hg : s.gust? old.ref = some g) (hq : s.squall? old.ref.sq = some b)
    (hs : b.shutter = q.shutter) (hD : b.isD = q.isD) (hm : g.mask = old.mask) (ht : g.trapActive = old.trapActive)
    (hb : g.stepBit = old.stepBit) (hf : g.laneFaulted = []) (hr : g.laneRec = old.laneRec) (hst : g.stack = old.stack)
    (hw : g.maskWrote = false) (hc : g.dbgCmd = old.dbgCmd) :
    s.complete old pc kind word7 false = s.noted old g q pc kind word7 := by
  obtain ⟨hlive, -, ⟨hnone, hcmd⟩, hcalm⟩ := hu
  have hu' : g.Unmarked b := ⟨hf, hw, hs.trans hnone, by rwa [Gust.cmdCode, hc]⟩
  have hlive' : g.mask.has 1 = true := hm ▸ hlive
  have hn : s.noted old g b pc kind word7 = s.noted old g q pc kind word7 := by rw [State.noted, State.noted, hD]
  rcases Bool.eq_false_or_eq_true g.trapActive with hact | hact
  · rw [State.complete_handler hg hq hu' hact hlive', hn]
  · obtain ⟨hstep, hparked⟩ := hcalm.resolve_left (by simp [← ht, hact])
    have hnone_due : g.stack = [] → g.laneRec = [] := fun h => hr.trans (hparked.resolve_right (not_not.2 (hst ▸ h)))
    rw [State.complete_outside hg hq hu' hact (hb.trans hstep), if_neg (by simpa using hnone_due), if_pos (by simp [hlive']), hn]

end

/-- Settles O17: the end of an instruction, at kind 0 and the next PC. -/
theorem completionChangesNothingElse : Obligations.CompletionChangesNothingElse := by
  unfold Obligations.CompletionChangesNothingElse
  intro s s' g h q hi hu hg _ hsq hsome hm ht hb hf hr hst _ hw hc
  obtain ⟨b, hq⟩ := Option.isSome_iff_exists.1 hsome
  obtain ⟨hs, hD⟩ := hsq b hq
  rw [Claims.out, State.complete_undisturbed hu hg hq hs hD hm ht hb hf hr hst hw hc]
  rfl

end Sys2Proof.Machine
end

section
/-! O12: NOP, branches, calls and returns (R114 to R117, R121). -/

namespace Sys2Proof.Machine

section
variable {s : State} {g : Gust} {q : Squall}

/-- A gust instruction of the issuing gust: its effect, or nothing where its guard lets no lane pass (R67). -/
theorem State.performGust_issuing (hi : s.Issuing g q) (c : Ctl) (body : Gust → Eff) :
    s.performGust c body = .next (((if g.acts c.guard then body g else .done s).settle g s.op).keepIssuing g) :=
  State.perform_issuing hi _

/-- base_pc() of R114. -/
theorem State.basePc_base (hi : s.Issuing g q) : s.basePc g = Claims.base g q := State.basePc_issuing hi

/-! check_target of R114. -/

theorem State.targetFault_ok (hi : s.Issuing g q) {x : Int} (hx : Claims.TargetOk q x) : s.targetFault g x = none := by
  obtain ⟨hlo, hmod⟩ := hx
  rw [State.targetFault, State.gustIsD_issuing hi, if_neg (by omega), if_neg fun ⟨hD, h⟩ => h (hmod hD)]

theorem State.targetFault_range (s : State) (g : Gust) {x : Int} (hx : x < 0) : s.targetFault g x = some 3 := if_pos hx

theorem State.targetFault_misaligned (hi : s.Issuing g q) {x : Int} (hlo : 0 ≤ x) (hD : q.isD = true) (hx : x % 3 ≠ 0) :
    s.targetFault g x = some 4 := by
  rw [State.targetFault, State.gustIsD_issuing hi, if_neg (by omega), if_pos ⟨hD, hx⟩]

/-! An undisturbed instruction that leaves its gust with the mask, the handler, the parked lanes and the stack it had. -/

/-- A change of a gust's registers other than the mask words, and of nothing else of it. -/
structure Gust.SameCourse (g h : Gust) : Prop where
  ref : h.ref = g.ref
  mask : h.mask = g.mask
  active : h.trapActive = g.trapActive
  step : h.stepBit = g.stepBit
  faults : h.laneFaulted = g.laneFaulted
  records : h.laneRec = g.laneRec
  stack : h.stack = g.stack
  wrote : h.maskWrote = g.maskWrote
  cmd : h.dbgCmd = g.dbgCmd

/-- A scalar below the mask words. -/
theorem Gust.SameCourse.withS (g : Gust) {d : Nat} (hd : d < 78) (w : Word) : g.SameCourse (g.withS d w) :=
  ⟨rfl, g.withS_mask w hd, rfl, rfl, rfl, rfl, rfl, rfl, rfl⟩

/-- The end of an instruction whose effect is an update of the issuing gust by name. -/
theorem State.complete_onGust (hi : s.Issuing g q) (hu : g.Undisturbed q) {f : Gust → Gust} (hf : ∀ k, k.ref = g.ref → (f k).ref = g.ref)
    (hk : g.SameCourse (f g)) (pc kind word7 : Int) :
    (s.onGust g.ref f).complete g pc kind word7 false = s.noted g (f g) q pc kind word7 := by
  obtain ⟨hr, hm, ht, hb, hl, hrec, hst, hw, hc⟩ := hk
  rw [State.complete_undisturbed hu (State.gust?_onGust_some hi.gust f hf) hi.squall rfl rfl hm ht hb (hl.trans hu.clean.1) hrec hst
    (hw.trans hu.clean.2) hc, State.noted, State.setGust_of_onGust _ (by exact hr) hf]
  rfl

/-- The same where the effect leaves the state as it is. -/
theorem State.complete_self (hi : s.Issuing g q) (hu : g.Undisturbed q) (pc kind word7 : Int) :
    s.complete g pc kind word7 false = s.noted g g q pc kind word7 :=
  State.complete_undisturbed hu hi.gust hi.squall rfl rfl rfl rfl rfl hu.clean.1 rfl rfl hu.clean.2 rfl

/-- An instruction without an effect goes on to the next one. -/
theorem State.settle_done_self (hi : s.Issuing g q) (hu : g.Undisturbed q) :
    ((Eff.done s).settle g s.op).keepIssuing g = s.after g g q (g.pc + 1) := by
  rw [Eff.settle, State.complete_self hi hu]
  rfl

end

/-! The forms. -/

section
variable {s : State} {g : Gust} {q : Squall} {i : Instr} {c : Ctl}

/-- NOP, BRA, BRP, BTRI and RET are transfers to the target of `Claims.transferRule`, where they have one. -/
theorem exec_transferRule {t : Option Int} (hr : Claims.transferRule g q i = some (c, t)) (hi : s.Issuing g q) :
    exec i s = .next (((if g.acts c.guard then t.elim (.done s) (s.transfer g) else .done s).settle g s.op).keepIssuing g) := by
  unfold Claims.transferRule at hr
  split at hr <;> cases hr
  case h_1 => exact State.performGust_issuing hi _ _
  case h_2 off => simp only [exec, execBra, State.performGust_issuing hi, State.basePc_base hi, Option.elim]
  case h_3 mode p off =>
    simp only [exec, execBrp, State.performGust_issuing hi, State.basePc_base hi]
    cases mode <;> simp only [brpTaken, List.any_eq_true, List.all_eq_true, beq_iff_eq, decide_eq_true_eq, Bool.not_eq_true',
      List.any_eq_false, apply_ite (Option.elim · (Eff.done s) (s.transfer g))] <;> rfl
  case h_4 a plus minus =>
    simp only [exec, execBtri, State.performGust_issuing hi, State.basePc_base hi]
    split_ifs <;> rfl
  case h_5 a => exact State.performGust_issuing hi _ _

/-- The first part of O12. -/
theorem transferForms_transfers : Claims.TransferForms := by
  intro i c t s g q hr hi hu
  have hexec := exec_transferRule hr hi
  refine ⟨fun hno => ?_, fun hact x hx => ⟨fun hok => ?_, fun hlo ht => ?_, fun hlo hD hmod ht => ?_⟩⟩
  · rw [hexec, ← State.settle_done_self hi hu]
    rcases hno with hno | rfl
    · simp [hno]
    · simp
  all_goals subst hx; rw [hexec, if_pos hact, Option.elim, State.transfer]
  · rw [State.targetFault_ok hi hok]
    exact congrArg (fun t => Host.Outcome.next (State.keepIssuing t g)) (State.complete_self hi hu x 1 g.pc)
  · rw [State.targetFault_range s g hlo]
    exact congrArg _ (State.settle_fault hi ht _ _ _)
  · rw [State.targetFault_misaligned hi hlo hD hmod]
    exact congrArg _ (State.settle_fault hi ht _ _ _)

/-- CALL and CALLI are calls of the target of `Claims.callRule`. -/
theorem exec_callRule {d : Nat} {t : Int} (hr : Claims.callRule g q i = some (c, d, t)) (hi : s.Issuing g q) :
    exec i s = .next (((if g.acts c.guard then s.callTo g d t else .done s).settle g s.op).keepIssuing g) := by
  unfold Claims.callRule at hr
  split at hr <;> cases hr
  · simp only [exec, execCall, State.performGust_issuing hi, State.basePc_base hi]
  · exact State.performGust_issuing hi _ _

/-- The second part of O12. -/
theorem transferForms_calls : Claims.CallForms := by
  intro i c d t s g q hr hd hi hu
  have hexec := exec_callRule hr hi
  refine ⟨fun hno => ?_, fun hact hok => ?_, fun hact hlo ht => ?_, fun hact hlo hD hmod ht => ?_⟩
  · rw [hexec, if_neg (by simp [hno]), State.settle_done_self hi hu]
  all_goals rw [hexec, if_pos hact, State.callTo]
  · have hw : s.writeS g.ref d (Word.ofInt (g.pc + 1)) = s.onGust g.ref fun k => k.withS d (Word.ofInt (g.pc + 1)) := if_neg (by omega)
    rw [State.targetFault_ok hi hok, hw]
    exact congrArg (fun t => Host.Outcome.next (State.keepIssuing t g))
      (State.complete_onGust (f := fun k => k.withS d (Word.ofInt (g.pc + 1))) hi hu (fun _ h => h) (Gust.SameCourse.withS g hd _) t 1 g.pc)
  · rw [State.targetFault_range s g hlo]
    exact congrArg _ (State.settle_fault hi ht _ _ _)
  · rw [State.targetFault_misaligned hi hlo hD hmod]
    exact congrArg _ (State.settle_fault hi ht _ _ _)

end

/-- Settles O12: the transfers, and the calls. -/
theorem transferForms : Obligations.TransferForms := ⟨transferForms_transfers, transferForms_calls⟩

end Sys2Proof.Machine
end

section
/-! O9: YIELD and YIELD_EXPIRY (R96, R123). -/

namespace Sys2Proof.Machine

section
variable {s : State} {g : Gust} {q : Squall}

/-- Whether a gust goes on issuing does not depend on the identities given out. -/
theorem State.keepIssuing_serial (s : State) (g : Gust) (n : Nat) :
    ({ s with serial := n } : State).keepIssuing g = { s.keepIssuing g with serial := n } := by
  have hg : ({ s with serial := n } : State).gust? g.ref = s.gust? g.ref := rfl
  simp only [State.keepIssuing, hg]
  split_ifs <;> rfl

/-- A gust that is not running does not go on issuing. -/
theorem State.keepIssuing_idle {k : Gust} (hk : s.gust? g.ref = some k) (hs : k.status ≠ .running) :
    s.keepIssuing g = { s with cur := none } := by
  simp [State.keepIssuing, hk, hs]

/-- The gust as YIELD completes it: the youngest of its core. -/
def Gust.youngest (g : Gust) (s : State) (q : Squall) : Gust := Gust.completed g { g with age := s.serial } q.isD (g.pc + 1)

/-- The gust as YIELD n leaves it: yielded until cycle `t` for n above 0 (R123). -/
def Gust.yieldedTo (g : Gust) (s : State) (q : Squall) (n t : Nat) : Gust :=
  if n = 0 then g.youngest s q else { g.youngest s q with status := .yielded t }

theorem Gust.yieldedTo_ref (n t : Nat) : (g.yieldedTo s q n t).ref = g.ref := by
  unfold Gust.yieldedTo
  split <;> rfl

/-- A gust that the completion left running, and in its handler if it was there, is yielded for n above 0. -/
theorem Gust.youngest_yields (n t : Nat) :
    (if n > 0 ∧ (g.youngest s q).status = .running ∧ (g.youngest s q).trapActive = g.trapActive then
      { g.youngest s q with status := .yielded t } else g.youngest s q) = g.yieldedTo s q n t := by
  by_cases hn : n = 0
  · rw [if_neg (by omega), Gust.yieldedTo, if_pos hn]
  · rw [if_pos ⟨by omega, rfl, rfl⟩, Gust.yieldedTo, if_neg hn]

/-- YIELD of an undisturbed gust completes it as the youngest and, for n above 0, yielded. -/
theorem exec_yield (hi : s.Issuing g q) (hu : g.Undisturbed q) (c : Ctl) (ha : g.acts c.guard = true) (n : Nat) :
    exec (.yield c n) s =
      .next ((s.fresh.2.setGust (g.yieldedTo s q n ((s.core q.core).cycle + n))).keepIssuing g) := by
  have hi' : s.fresh.2.Issuing g q := ⟨hi.cur, hi.gust, hi.squall⟩
  have hcomplete : (s.fresh.2.onGust g.ref fun k => { k with age := s.serial }).complete g (g.pc + 1) 0 0 false =
      s.fresh.2.setGust (g.youngest s q) :=
    State.complete_onGust (f := fun k => { k with age := s.serial }) hi' hu (fun _ h => h)
      ⟨rfl, rfl, rfl, rfl, rfl, rfl, rfl, rfl, rfl⟩ _ 0 0
  show execYield c n s = _
  rw [execYield, State.performGust_acts hi c ha]
  change Host.Outcome.next ((((s.fresh.2.onGust g.ref fun k => { k with age := s.serial }).complete g (g.pc + 1) 0 0 false).onGust
    g.ref fun h => if n > 0 ∧ h.status = .running ∧ h.trapActive = g.trapActive then
      { h with status := .yielded ((s.fresh.2.squall? g.ref.sq).elim 0 fun q => (s.core q.core).cycle + n) } else h).keepIssuing g) = _
  rw [hcomplete, hi'.squall, State.onGust_of_setGust _ (by rfl) (by rw [Gust.youngest_yields]; exact Gust.yieldedTo_ref _ _),
    Gust.youngest_yields]
  rfl

/-- YIELD_EXPIRY of a gust whose cycles have passed. -/
theorem exec_yieldExpiry {t : Nat} (hg : s.gust? g.ref = some g) (hq : s.squall? g.ref.sq = some q) (hs : g.status = .yielded t)
    (ht : t ≤ (s.core q.core).cycle) : exec (.yieldExpiry g.ref) s = .next (s.setGust { g with status := .running }) := by
  show Host.Outcome.next (s.yieldExpiry g.ref) = _
  simp only [State.yieldExpiry, hg, hq, hs]
  rw [if_pos ht]

end

/-- Settles O9: YIELD, whose gust goes on issuing only for n = 0, and YIELD_EXPIRY. -/
theorem yieldForms : Obligations.YieldForms := by
  unfold Obligations.YieldForms
  refine fun c n t s g q => ⟨fun hi hu ha => ?_, fun hg hq hs ht => exec_yieldExpiry hg hq hs ht⟩
  rw [exec_yield hi hu c ha n]
  by_cases hn : n = 0
  · rw [Gust.yieldedTo, if_pos hn, if_pos hn]
    exact congrArg _ (State.keepIssuing_serial (s.setGust (g.youngest s q)) g (s.serial + 1))
  · rw [Gust.yieldedTo, if_neg hn, if_neg hn,
      State.keepIssuing_idle (State.gust?_setGust_of (g := g) (s := s.fresh.2) hi.gust (by rfl)) (by simp)]
    rfl

end Sys2Proof.Machine
end

section
/-! Masks and stacks (R101, R104, R107): which trits a mask holds, and the stack whose masks were changed lane by lane. -/

namespace Sys2Proof

/-- A mask holds a trit where one of its lanes has it. -/
theorem Mask.has_iff (m : Mask) (t : Trit) : m.has t.val = true ↔ ∃ l < 81, m.get l = t := by
  have hlen : m.trits.length = 81 := by simp [Mask.trits, Word.trits, tritsOf_eq]
  simp only [Mask.has, List.any_eq_true, beq_iff_eq]
  constructor
  · rintro ⟨x, hx, hv⟩
    obtain ⟨l, hl, rfl⟩ := List.getElem_of_mem hx
    have hget := Mask.trits_getElem? m l (by omega)
    rw [List.getElem?_eq_getElem hl, Option.some.injEq, hv] at hget
    exact ⟨l, by omega, by rw [← Trit.sgn_val (m.get l), ← hget, Trit.sgn_val]⟩
  · rintro ⟨l, hl, rfl⟩
    exact ⟨_, List.mem_of_getElem? (Mask.trits_getElem? m l hl), rfl⟩

theorem Mask.has_plus (m : Mask) : m.has 1 = true ↔ ∃ l < 81, m.get l = .plus := m.has_iff .plus

theorem Mask.has_minus (m : Mask) : m.has (-1) = true ↔ ∃ l < 81, m.get l = .minus := m.has_iff .minus

end Sys2Proof

namespace Sys2Proof.Machine

/-- The entries that stay are those with a lane that is not zero (R107). -/
theorem discardEmpty_eq (st : List StackEntry) :
    discardEmpty st = st.filter fun e => (List.range 81).any fun l => e.mask.get l != .zero := by
  refine List.filter_congr fun e _ => Bool.eq_iff_iff.2 ?_
  rw [Bool.or_eq_true, Mask.has_plus, Mask.has_minus]
  simp only [List.any_eq_true, List.mem_range, bne_iff_ne]
  constructor
  · rintro (⟨l, hl, h⟩ | ⟨l, hl, h⟩) <;> exact ⟨l, hl, by rw [h]; decide⟩
  · rintro ⟨l, hl, h⟩
    cases ht : e.mask.get l with
    | plus => exact .inl ⟨l, hl, ht⟩
    | minus => exact .inr ⟨l, hl, ht⟩
    | zero => exact absurd ht h

/-- An entry of the stack whose first `k` entries are changed. -/
theorem getElem?_map_take_append_drop {α : Type} (cut : α → α) (k : Nat) (st : List α) {j : Nat} (hj : j < st.length) :
    ((st.take k).map cut ++ st.drop k)[j]? = some (if j < k then cut st[j] else st[j]) := by
  rw [List.getElem?_append]
  by_cases h : j < k
  · simp [h, hj]
  · have hle : min k st.length = k := by omega
    simp [h, hle, show k + (j - k) = j by omega, hj]

/-- The masks of the first `k` entries changed lane by lane, and the entries without a lane discarded, as `Claims.CutStack` says it. -/
theorem cutStack_take {f : Nat → Trit → Trit} {cut : StackEntry → StackEntry} (hcut : ∀ e, cut e = { e with mask := (cut e).mask })
    (hmask : ∀ e, Claims.Mapped f e.mask (cut e).mask) (k : Nat) (st : List StackEntry) :
    Claims.CutStack f k st (discardEmpty ((st.take k).map cut ++ st.drop k)) := by
  refine ⟨(st.take k).map cut ++ st.drop k, ?_, fun j hj => ?_, discardEmpty_eq _⟩
  · rw [List.length_append, List.length_map, ← List.length_append, List.take_append_drop]
  · refine ⟨st[j], _, List.getElem?_eq_getElem hj, getElem?_map_take_append_drop cut k st hj, ?_⟩
    by_cases h : j < k
    · simp only [h, if_true]
      exact ⟨hcut _, hmask _⟩
    · simp [h]

/-- The same for the whole stack. -/
theorem cutStack_all {f : Nat → Trit → Trit} {cut : StackEntry → StackEntry} (hcut : ∀ e, cut e = { e with mask := (cut e).mask })
    (hmask : ∀ e, Claims.Mapped f e.mask (cut e).mask) (st : List StackEntry) :
    Claims.CutStack f st.length st (discardEmpty (st.map cut)) := by
  simpa using cutStack_take hcut hmask st.length st

end Sys2Proof.Machine
end

section
/-! O22: a lane fault (R103, R107). -/

namespace Sys2Proof.Machine

/-- Settles O22: the parked lane's trit, its record and its stack entries. -/
theorem laneFaultParks : Obligations.LaneFaultParks := by
  unfold Obligations.LaneFaultParks
  intro s g l cause detail hg hl hlen
  have hmask : (g.parkTrit l).mask = Mask.tab fun k => if k = l then .minus else g.mask.get k :=
    Gust.withMask_mask g _ hlen
  refine ⟨{ g.parkTrit l with laneRec := insertAt g.laneRec l (s.mkRec g clsLane cause 0 (Int.ofNat l) detail),
                              laneFaulted := g.laneFaulted ++ [l] },
    by simp only [State.laneFault, hg], rfl, fun k hk => ?_, fun j hj => Gust.withMask_s g _ hj, fun k => ?_, ?_⟩
  · show (g.parkTrit l).mask.get k = _
    rw [hmask, Mask.get_tab _ _ hk]
  · exact lookupAt_insertAt _ _ _ _
  · refine cutStack_all (fun e => ?_) (fun e k hk => ?_) g.stack
    · split <;> rfl
    · split
      · next h =>
        simp only [Mask.get_tab _ _ hk]
        by_cases hkl : k = l
        · simp [hkl, h]
        · simp [hkl]
      · next h =>
        rw [if_neg]
        rintro ⟨rfl, hp⟩
        exact h hp

end Sys2Proof.Machine
end

section
/-! O18: writes of a mask word (R102, R107). -/

namespace Sys2Proof

/-- The trits of a word, one by one. -/
theorem Word.trits_getD (w : Word) {i : Nat} (hi : i < 27) : w.trits.getD i 0 = (w.tritAt i).val := by
  have hs : (Trit.sgn (tritI w.val i)).val = tritI w.val i := by
    rcases tritI_range w.val i with h | h | h <;> rw [h] <;> rfl
  simp [Word.trits, Word.tritAt, Sys2Proof.tritAt, tritsOf_eq, List.getD_eq_getElem?_getD, hi, hs]

/-- Word `k` of a mask holds the lanes of beat `k`. -/
theorem Mask.tritAt_word (m : Mask) {k i : Nat} (hk : k < 3) (hi : i < 27) : (m.word k).tritAt i = m.get (27 * k + i) := by
  unfold Mask.get
  interval_cases k
  · rw [if_pos (by omega)]; simp [Mask.word]
  · rw [if_neg (by omega), if_pos (by omega)]; simp [Mask.word]
  · rw [if_neg (by omega), if_neg (by omega)]; simp [Mask.word, show 27 * 2 + i - 54 = i by omega]

/-- A mask with a word replaced. -/
theorem Mask.get_setWord (m : Mask) {k l : Nat} (hk : k < 3) (hl : l < 81) (w : Word) :
    (m.setWord k w).get l = if l / 27 = k then w.tritAt (l % 27) else m.get l := by
  have hwl : m.get l = (m.word (l / 27)).tritAt (l % 27) := by
    rw [Mask.tritAt_word m (by omega) (by omega), Nat.div_add_mod]
  rw [hwl, ← Nat.div_add_mod l 27, ← Mask.tritAt_word (m.setWord k w) (by omega) (by omega), Nat.div_add_mod]
  have hb : l / 27 < 3 := by omega
  generalize l / 27 = b at hb
  interval_cases k <;> interval_cases b <;> rfl

end Sys2Proof

namespace Sys2Proof.Machine

/-- A lookup after insertions under some keys, each of the value that its key gives. -/
theorem lookupAt_foldl_insertAt {α β : Type} (key : β → Nat) (v : Nat → α) (xs : List β) (m : List (Nat × α)) (l : Nat) :
    lookupAt (xs.foldl (fun m x => insertAt m (key x) (v (key x))) m) l =
      if ∃ x ∈ xs, key x = l then some (v l) else lookupAt m l := by
  induction xs generalizing m with
  | nil => simp
  | cons x xs ih =>
    rw [List.foldl_cons, ih, lookupAt_insertAt]
    by_cases hx : key x = l
    · simp [hx]
    · simp [hx, Ne.symm hx]

/-- A lookup after erasures of some keys. -/
theorem lookupAt_foldl_eraseAt {α β : Type} (key : β → Nat) (xs : List β) {m : List (Nat × α)} (hm : rising m = true) (l : Nat) :
    lookupAt (xs.foldl (fun m x => eraseAt m (key x)) m) l = if ∃ x ∈ xs, key x = l then none else lookupAt m l := by
  induction xs generalizing m with
  | nil => simp
  | cons x xs ih =>
    rw [List.foldl_cons, ih (rising_eraseAt hm _), lookupAt_eraseAt hm]
    by_cases hx : key x = l
    · simp [hx]
    · simp [hx, Ne.symm hx]

/-- The lanes of beat `k`, each with its trit in the mask and in the word written over it. -/
def Gust.rewritten (g : Gust) (k : Nat) (w : Word) : List (Nat × Int × Int) :=
  (List.range 27).map fun i => (27 * k + i, (g.mask.word k).trits.getD i 0, w.trits.getD i 0)

/-- The lanes that the write parks (R102). -/
def Gust.parkedBy (g : Gust) (k : Nat) (w : Word) : List (Nat × Int × Int) :=
  (g.rewritten k w).filter fun x => x.2.2 == -1 && x.2.1 != -1

/-- The lanes that the write revives (R102). -/
def Gust.revivedBy (g : Gust) (k : Nat) (w : Word) : List (Nat × Int × Int) :=
  (g.rewritten k w).filter fun x => x.2.2 == 1 && x.2.1 == -1

/-- The gust after the write. -/
def State.maskWritten (s : State) (g : Gust) (k : Nat) (w : Word) : Gust :=
  { g.withMask (g.mask.setWord k w) with
    laneRec := (g.parkedBy k w).foldl (fun m x => insertAt m x.1 (s.mkRec g clsLane 23 0 (Int.ofNat x.1) 0))
      ((g.revivedBy k w).foldl (fun m x => eraseAt m x.1) g.laneRec),
    maskWrote := true,
    stack := if (g.parkedBy k w).isEmpty then g.stack
      else discardEmpty (g.stack.map fun e => { e with
        mask := Mask.tab fun l => if e.mask.get l = .plus ∧ ((g.parkedBy k w).any fun x => x.1 == l) then .minus else e.mask.get l }) }

theorem State.writeMaskWord_eq {s : State} {g : Gust} (hg : s.gust? g.ref = some g) (k : Nat) (w : Word) :
    s.writeMaskWord g.ref k w = s.setGust (s.maskWritten g k w) := by
  simp only [State.writeMaskWord, hg]
  rfl

section
variable {g : Gust} {k : Nat} {w : Word} (hk : k < 3)
include hk

/-- Some lane `l` of the beat is among those that a test of both trits picks. -/
theorem Gust.exists_rewritten (P : Trit → Trit → Prop) (p : Int → Int → Bool) (hp : ∀ a b : Trit, p a.val b.val = true ↔ P a b)
    (l : Nat) :
    (∃ x ∈ (g.rewritten k w).filter (fun x => p x.2.1 x.2.2), x.1 = l) ↔ l / 27 = k ∧ P (g.mask.get l) (w.tritAt (l % 27)) := by
  simp only [Gust.rewritten, List.mem_filter, List.mem_map, List.mem_range]
  constructor
  · rintro ⟨-, ⟨⟨i, hi, rfl⟩, h⟩, rfl⟩
    rw [Word.trits_getD _ hi, Word.trits_getD _ hi, Mask.tritAt_word _ hk hi, hp] at h
    exact ⟨by omega, by rwa [show (27 * k + i) % 27 = i by omega]⟩
  · rintro ⟨rfl, h⟩
    refine ⟨_, ⟨⟨l % 27, by omega, rfl⟩, ?_⟩, by omega⟩
    rw [Word.trits_getD _ (by omega), Word.trits_getD _ (by omega), Mask.tritAt_word _ hk (by omega), Nat.div_add_mod, hp]
    exact h

/-- A lane is parked where a minus is written over a plus or a zero. -/
theorem Gust.exists_parkedBy (l : Nat) :
    (∃ x ∈ g.parkedBy k w, x.1 = l) ↔ l / 27 = k ∧ w.tritAt (l % 27) = .minus ∧ g.mask.get l ≠ .minus :=
  Gust.exists_rewritten hk (fun a b => b = .minus ∧ a ≠ .minus) (fun a b => b == -1 && a != -1)
    (fun a b => by cases a <;> cases b <;> decide) l

/-- A lane is revived where a plus is written over a minus. -/
theorem Gust.exists_revivedBy (l : Nat) :
    (∃ x ∈ g.revivedBy k w, x.1 = l) ↔ l / 27 = k ∧ w.tritAt (l % 27) = .plus ∧ g.mask.get l = .minus :=
  Gust.exists_rewritten hk (fun a b => b = .plus ∧ a = .minus) (fun a b => b == 1 && a == -1)
    (fun a b => by cases a <;> cases b <;> decide) l

/-- Every scalar but the mask word written keeps its word. -/
theorem Gust.withMask_setWord_s {j : Nat} (hj : j ≠ 78 + k) : (g.withMask (g.mask.setWord k w)).s j = g.s j := by
  have hwrites : g.withMask (g.mask.setWord k w) =
      ((g.withS 78 (g.mask.setWord k w).b0).withS 79 (g.mask.setWord k w).b1).withS 80 (g.mask.setWord k w).b2 := rfl
  rw [hwrites, Gust.withS_s, Gust.withS_s, Gust.withS_s]
  interval_cases k <;> split_ifs with h80 h79 h78 <;> simp_all [Mask.setWord, Gust.mask]

end

/-- Settles O18: the mask, the other scalars, the records and the stack after the write. -/
theorem maskWordWrites : Obligations.MaskWordWrites := by
  unfold Obligations.MaskWordWrites
  intro s g k w hk hg hrise
  refine ⟨s.maskWritten g k w, State.writeMaskWord_eq hg k w, rfl, fun hlen l hl => ?_, fun j hj => Gust.withMask_setWord_s hk hj,
    fun l _ => ?_, fun hnone => if_pos ?_, fun hsome => ?_⟩
  · show (g.withMask (g.mask.setWord k w)).mask.get l = _
    rw [Gust.withMask_mask g _ hlen, Mask.get_setWord _ hk hl]
  · show lookupAt (s.maskWritten g k w).laneRec l = _
    rw [State.maskWritten, lookupAt_foldl_insertAt Prod.fst fun l => s.mkRec g clsLane 23 0 (Int.ofNat l) 0,
      lookupAt_foldl_eraseAt Prod.fst _ hrise]
    simp only [Gust.exists_parkedBy hk, Gust.exists_revivedBy hk]
    rfl
  · rw [List.isEmpty_iff, List.eq_nil_iff_forall_not_mem]
    intro x hx
    obtain ⟨hbeat, hminus, hlive⟩ := (Gust.exists_parkedBy hk x.1).1 ⟨x, hx, rfl⟩
    exact hlive (hnone x.1 (by omega) hbeat hminus)
  · obtain ⟨l, -, hl⟩ := hsome
    obtain ⟨x, hx, -⟩ := (Gust.exists_parkedBy hk l).2 hl
    have hstack : (s.maskWritten g k w).stack = discardEmpty (g.stack.map fun e => { e with
        mask := Mask.tab fun l => if e.mask.get l = .plus ∧ ((g.parkedBy k w).any fun x => x.1 == l) then .minus else e.mask.get l }) :=
      if_neg (by simpa using List.ne_nil_of_mem hx)
    rw [hstack]
    refine cutStack_all (fun _ => rfl) (fun e l hl => ?_) g.stack
    simp only [Mask.get_tab _ _ hl, List.any_eq_true, beq_iff_eq, Gust.exists_parkedBy hk]
    exact if_congr (by tauto) rfl rfl

end Sys2Proof.Machine
end

section
/-! How a SPLIT, JOIN, BREAK or EXIT ends (R108, R109), for a gust outside its handler. -/

namespace Sys2Proof.Machine

section
variable {s : State} {g : Gust} {q : Squall} {st : List StackEntry} {m : Mask} {pc : Int} {point : Bool}

/-- The gust with another stack and another mask. -/
def Gust.onPath (g : Gust) (st : List StackEntry) (m : Mask) : Gust := { g with stack := st }.withMask m

/-- The end of a region form whose effect is another stack and mask: the trap for parked lanes, where it is due at an instruction boundary
(R109), or what `Claims.region` says. -/
theorem State.settle_region (hi : s.Issuing g q) (hp : Claims.Plain g q) :
    ((Eff.region (s.setGust (g.onPath st m)) pc point).settle g s.op).keepIssuing g =
      if (point || st.isEmpty) && !g.laneRec.isEmpty then
        (((s.setGust (Gust.completed g (g.onPath st m) q.isD pc)).trace g.ref 2 g.pc).trapParked g.ref).keepIssuing g
      else Claims.region s g (g.onPath st m) q pc := by
  obtain ⟨hact, hstep, hshut, hfault, hwrote, hcmd⟩ := hp
  have hnoted : (s.setGust (g.onPath st m)).noted g (g.onPath st m) q pc 2 g.pc =
      (s.setGust (Gust.completed g (g.onPath st m) q.isD pc)).trace g.ref 2 g.pc := by
    rw [State.noted, if_pos (by decide), State.setGust_setGust _ _ _ (by rfl)]
  rw [Eff.settle, State.complete_outside (g := g.onPath st m) (State.gust?_setGust_of hi.gust (by rfl)) hi.squall
    ⟨hfault, hwrote, hshut, hcmd⟩ hact hstep, hnoted]
  unfold Claims.region
  rw [apply_ite (State.keepIssuing · g), apply_ite (State.keepIssuing · g)]
  rfl

/-- No trap is due where the form closes no region and leaves one open, or no lane is parked. -/
theorem State.settle_region_quiet (hi : s.Issuing g q) (hp : Claims.Plain g q) (h : g.laneRec = [] ∨ point = false ∧ st ≠ []) :
    ((Eff.region (s.setGust (g.onPath st m)) pc point).settle g s.op).keepIssuing g = Claims.region s g (g.onPath st m) q pc := by
  rw [State.settle_region hi hp, if_neg]
  rcases h with h | ⟨rfl, h⟩ <;> simp [h]

end

end Sys2Proof.Machine
end

section
/-! O13: SPLIT and JOIN (R105, R109, R118, R119, R438). -/

namespace Sys2Proof.Machine

section
variable {s : State} {g : Gust} {q : Squall}

/-! SPLIT. -/

/-- The lane is plus, and its predicate is `t`. -/
def Gust.splitLane (g : Gust) (p l : Nat) (t : Trit) : Bool := g.mask.get l == .plus && (g.p p).get l == t

/-- A SPLIT with the else target `epc` pushes a path entry (R118). -/
def Gust.splitsTwo (g : Gust) (p : Nat) (rpc epc : Int) : Bool := epc != rpc && (List.range 81).any fun l => g.splitLane p l .minus

/-- The lanes of the path entry. -/
def Gust.elseMask (g : Gust) (p : Nat) : Mask := Mask.tab fun l => if g.splitLane p l .minus then .plus else .zero

/-- The mask that goes on. -/
def Gust.thenMask (g : Gust) (p : Nat) : Mask :=
  Mask.tab fun l => if g.mask.get l = .plus then (if (g.p p).get l = .plus then .plus else .zero) else g.mask.get l

/-- The stack with the new region. -/
def Gust.splitStack (g : Gust) (p : Nat) (rpc epc : Int) : List StackEntry :=
  (if g.splitsTwo p rpc epc then [StackEntry.mk .minus false epc (g.elseMask p) rpc] else []) ++
    StackEntry.mk .plus false rpc g.mask rpc :: g.stack

/-- SPLIT outside a handler with good targets. -/
theorem exec_split (hi : s.Issuing g q) (ht : g.trapActive = false) {c : Ctl} {p : Nat} {join els : Int}
    (hr : Claims.TargetOk q (Claims.base g q + join))
    (he : Claims.TargetOk q (Claims.base g q + els) ∨ Claims.base g q + els = Claims.base g q + join) :
    exec (.split c p join els) s = .next ((Eff.settle g s.op
      (if g.stack.length + (if g.splitsTwo p (Claims.base g q + join) (Claims.base g q + els) then 2 else 1) > 27 then .fault s 5 0
        else .region (s.setGust (g.onPath (g.splitStack p (Claims.base g q + join) (Claims.base g q + els)) (g.thenMask p)))
          (g.pc + 1) false)).keepIssuing g) := by
  have hels : (if Claims.base g q + els = Claims.base g q + join then none else s.targetFault g (Claims.base g q + els)) = none := by
    split
    · rfl
    · next h => exact State.targetFault_ok hi (he.resolve_right h)
  show execSplit c p join els s = _
  rw [execSplit, State.perform_issuing hi]
  simp only [if_neg (show ¬ g.trapActive = true by simp [ht]), State.basePc_base hi, State.targetFault_ok hi hr, hels]
  rfl

/-- The first part of O13. -/
theorem regionForms_split : Claims.SplitForm := by
  intro c p join els s g q hi hp rpc epc two hr he
  have hact : g.trapActive = false := hp.1
  have htwo : g.splitsTwo p rpc epc = two := rfl
  rw [exec_split hi hact hr he, htwo]
  refine ⟨fun hroom => ⟨g.thenMask p, g.elseMask p, ?_, fun l hl => ⟨Mask.get_tab _ _ hl, ?_⟩⟩, fun hfull hh => ?_⟩
  · rw [if_neg (not_lt.2 hroom)]
    exact congrArg _ (State.settle_region_quiet hi hp (.inr ⟨rfl, by simp [Gust.splitStack]⟩))
  · rw [Gust.elseMask, Mask.get_tab _ _ hl]
    simp only [Gust.splitLane, Bool.and_eq_true, beq_iff_eq]
  · rw [if_pos hfull]
    exact congrArg _ (State.settle_fault hi hh _ _ _)

/-! JOIN. -/

/-- JOIN outside a handler. -/
theorem exec_join (hi : s.Issuing g q) (ht : g.trapActive = false) (c : Ctl) {e : StackEntry} {rest : List StackEntry}
    (hst : g.stack = e :: rest) (he : e.rpc = Claims.base g q) :
    exec (.join c) s = .next ((Eff.settle g s.op (
      if e.kind = .minus then
        (if e.hold then
          .over ((((s.setGust (g.onPath rest e.mask)).onGust g.ref fun h => { h with pc := e.pc, sent := false }).trace g.ref 2 g.pc).stopGust
            g.ref 4)
          else .region (s.setGust (g.onPath rest e.mask)) e.pc false)
      else .region (s.setGust (g.onPath rest e.mask)) (g.pc + 1) true)).keepIssuing g) := by
  show execJoin c s = _
  rw [execJoin, State.perform_issuing hi]
  simp only [if_neg (show ¬ g.trapActive = true by simp [ht]), hst, State.basePc_base hi, he, ne_eq, not_true_eq_false]
  rfl

/-- JOIN with no entry that waits for it. -/
theorem exec_join_unmatched (hi : s.Issuing g q) (ht : g.trapActive = false) (c : Ctl)
    (hst : ∀ e ∈ g.stack.head?, e.rpc ≠ Claims.base g q) :
    exec (.join c) s = .next (((Eff.fault s 6 0).settle g s.op).keepIssuing g) := by
  show execJoin c s = _
  rw [execJoin, State.perform_issuing hi]
  simp only [if_neg (show ¬ g.trapActive = true by simp [ht]), State.basePc_base hi]
  cases hstack : g.stack with
  | nil => rfl
  | cons e rest => simp only [if_pos (hst e (by simp [hstack]))]

/-- The second part of O13. -/
theorem regionForms_join : Claims.JoinForm := by
  intro c s g q hi hp
  have hact : g.trapActive = false := hp.1
  constructor
  · intro e rest hst he h
    rw [exec_join hi hact c hst he]
    refine ⟨fun hk hold hcalm => ?_, fun hk hold => ?_, fun hk hcalm => ?_, fun hk hparked => ?_⟩
    · rw [if_pos hk, if_neg (by simp [hold])]
      exact congrArg _ (State.settle_region_quiet hi hp (hcalm.imp id fun h => ⟨rfl, h⟩))
    · rw [if_pos hk, if_pos hold, Eff.settle, State.onGust_of_setGust _ (by rfl) (by rfl)]
      rfl
    · rw [if_neg (by simp [hk])]
      exact congrArg _ (State.settle_region_quiet hi hp (.inl hcalm))
    · rw [if_neg (by simp [hk]), State.settle_region hi hp, if_pos (by simp [hparked])]
      rfl
  · intro hst hh
    rw [exec_join_unmatched hi hact c hst]
    exact congrArg _ (State.settle_fault hi hh _ _ _)

end

/-- Settles O13: SPLIT, and JOIN. -/
theorem regionForms : Obligations.RegionForms := ⟨regionForms_split, regionForms_join⟩

end Sys2Proof.Machine
end

section
/-! O14: BREAK and EXIT (R107, R120, R122), and path ends (R108). -/

namespace Sys2Proof.Machine

/-! The n-th region of a stack. -/

theorem regions_cons (e : StackEntry) (st : List StackEntry) :
    Claims.regions (e :: st) = Claims.regions st + if e.kind = .plus then 1 else 0 := by
  simp only [Claims.regions, List.filter_cons, beq_iff_eq]
  split <;> simp

/-- With fewer open regions there is none (R120). -/
theorem nthRegion_none {st : List StackEntry} {n : Nat} (hn : 1 ≤ n) (h : Claims.regions st < n) : nthRegion st n = none := by
  induction st generalizing n with
  | nil => rfl
  | cons e st ih =>
    rw [regions_cons] at h
    by_cases hk : e.kind = .plus
    · rw [if_pos hk] at h
      rw [nthRegion, if_pos hk, if_neg (by omega), ih (by omega) (by omega)]
      rfl
    · rw [if_neg hk] at h
      rw [nthRegion, if_neg hk, ih hn (by omega)]
      rfl

/-- The n-th open region is the reconvergence entry with n - 1 of them above it. -/
theorem nthRegion_some {st : List StackEntry} {k n : Nat} {e : StackEntry} (hk : st[k]? = some e) (he : e.kind = .plus)
    (h : Claims.regions (st.take k) + 1 = n) : nthRegion st n = some k := by
  induction st generalizing k n with
  | nil => simp at hk
  | cons a st ih =>
    cases k with
    | zero =>
      obtain rfl : a = e := by simpa using hk
      rw [nthRegion, if_pos he, if_pos (by simp [Claims.regions] at h; omega)]
    | succ k =>
      rw [List.take_succ_cons, regions_cons] at h
      rw [List.getElem?_cons_succ] at hk
      by_cases ha : a.kind = .plus
      · rw [if_pos ha] at h
        rw [nthRegion, if_pos ha, if_neg (by omega), ih hk (by omega)]
        rfl
      · rw [if_neg ha] at h
        rw [nthRegion, if_neg ha, ih hk h]
        rfl

/-! BREAK and EXIT. -/

section
variable {s : State} {g : Gust} {q : Squall}

theorem mapped_clearLanes (ls : List Nat) (m : Mask) : Claims.Mapped (Claims.clear ls) m (Gust.clearLanes ls m) := fun l hl => by
  rw [Gust.clearLanes, Mask.get_tab _ _ hl, Claims.clear]
  simp only [List.contains_iff_mem]

/-- An entry with some lanes cleared. -/
def StackEntry.without (ls : List Nat) (e : StackEntry) : StackEntry := { e with mask := Gust.clearLanes ls e.mask }

/-- BREAK outside a handler. -/
theorem exec_break (hi : s.Issuing g q) (ht : g.trapActive = false) {c : Ctl} (hl : g.activeLanes c.guard ≠ []) (n : Nat) :
    exec (.breakOut c n) s = .next ((Eff.settle g s.op ((nthRegion g.stack n).elim (.fault s 7 0) fun k =>
      .region (s.setGust (g.onPath (discardEmpty ((g.stack.take k).map (StackEntry.without (g.activeLanes c.guard)) ++ g.stack.drop k))
        (Gust.clearLanes (g.activeLanes c.guard) g.mask))) (g.pc + 1) false)).keepIssuing g) := by
  show execBreak c n s = _
  rw [execBreak, State.performGust_acts hi c ((g.acts_iff _).2 (.inr hl))]
  simp only [if_neg (show ¬ g.trapActive = true by simp [ht]), List.isEmpty_iff, hl]
  cases nthRegion g.stack n <;> rfl

/-- EXIT outside a handler. -/
theorem exec_exit (hi : s.Issuing g q) (ht : g.trapActive = false) {c : Ctl} (ha : g.acts c.guard = true) :
    exec (.exit c) s = .next ((Eff.settle g s.op (.region
      (s.setGust (g.onPath (discardEmpty (g.stack.map (StackEntry.without (g.activeLanes c.guard))))
        (Gust.clearLanes (g.activeLanes c.guard) g.mask))) (g.pc + 1) false)).keepIssuing g) := by
  show execExit c s = _
  rw [execExit, State.performGust_acts hi c ha]
  simp only [if_neg (show ¬ g.trapActive = true by simp [ht])]
  rfl

/-- The first part of O14. -/
theorem laneLeavingForms_forms : Claims.LaneLeavingForms := by
  intro c n s g q hi hp
  have hact : g.trapActive = false := hp.1
  refine ⟨fun hn hl hfew hh => ?_, fun _ hl k e hk he hcount => ?_, fun ha => ?_⟩
  · rw [exec_break hi hact hl, nthRegion_none hn hfew]
    exact congrArg _ (State.settle_fault hi hh _ _ _)
  · refine ⟨_, _, mapped_clearLanes _ _, cutStack_take (cut := StackEntry.without _) (fun _ => rfl) (fun e => mapped_clearLanes _ _) k _,
      fun hcalm => ?_⟩
    rw [exec_break hi hact hl, nthRegion_some hk he hcount]
    exact congrArg _ (State.settle_region_quiet hi hp (hcalm.imp id fun h => ⟨rfl, h⟩))
  · refine ⟨_, _, mapped_clearLanes _ _, cutStack_all (cut := StackEntry.without _) (fun _ => rfl) (fun e => mapped_clearLanes _ _) _,
      fun hcalm => ?_⟩
    rw [exec_exit hi hact ha]
    exact congrArg _ (State.settle_region_quiet hi hp (hcalm.imp id fun h => ⟨rfl, h⟩))

/-! Path ends. -/

/-- The second part of O14. -/
theorem laneLeavingForms_pathEnds : Claims.PathEnds := by
  intro s g at_ n hg
  refine ⟨fun hst hlive => ?_, fun hst hparked => ?_, fun e rest hst => ⟨fun hk => ?_, fun hk hold => ⟨fun hp => ?_, fun hp => ?_⟩⟩⟩
  · have hm : ¬ g.mask.has (-1) = true := by
      rw [Mask.has_minus]
      rintro ⟨l, hl, h⟩
      exact hlive l hl h
    simp only [State.pathEnd, hg, hst, if_neg hm]
  · simp only [State.pathEnd, hg, hst, (Mask.has_minus _).2 hparked, if_true]
  · simp only [State.pathEnd, hg, hst, hk]
    rfl
  · simp only [State.pathEnd, hg, hst, hk, hold, (Mask.has_plus _).2 hp, if_true, Bool.false_eq_true, if_false]
  · have hm : ¬ e.mask.has 1 = true := by
      rw [Mask.has_plus]
      rintro ⟨l, hl, h⟩
      exact hp l hl h
    simp only [State.pathEnd, hg, hst, hk, hold, if_neg hm, if_true, Bool.false_eq_true, if_false]

end

/-- Settles O14: BREAK and EXIT, and the path ends. -/
theorem laneLeavingForms : Obligations.LaneLeavingForms := ⟨laneLeavingForms_forms, laneLeavingForms_pathEnds⟩

end Sys2Proof.Machine
end

section
/-! O16: traps with no handler to enter, and the instructions a handler may not execute (R400, R401). -/

namespace Sys2Proof.Machine

section
variable {s : State} {g : Gust} {q : Squall}

/-- The end of the front of a gust whose trap finds no handler to enter: cause 111 inside the handler and 110 without one, after the
records of the trap's own fault, and 113 alone with a bad TVEC (R400, R401). -/
def State.trapEnd (s : State) (g : Gust) (own : List Rec) : State :=
  if g.trapActive then s.endFrontOf g 111 own
  else if g.tvec.val = -1 then s.endFrontOf g 110 own else s.endFrontOf g 113 []

/-- A trap that can take no handler ends the front, and its records name the PC of the gust. -/
theorem State.trapEntry_ends (hg : s.gust? g.ref = some g) (hq : s.squall? g.ref.sq = some q)
    (hno : g.trapActive = true ∨ ¬ Claims.TargetOk q g.tvec.val) (cause : Int) (own : List Rec) (gfr : Bool) (tpc : Int) :
    s.trapEntry g.ref cause own gfr tpc g.pc = s.trapEnd g own := by
  rw [State.trapEnd]
  rcases Bool.eq_false_or_eq_true g.trapActive with hact | hact
  · rw [if_pos hact, State.trapEntry_active hg hact]
  · rw [if_neg (by simp [hact])]
    by_cases hunset : g.tvec.val = -1
    · rw [if_pos hunset, State.trapEntry_unset hg hact hunset]
    · have hbad : g.tvec.val < 0 ∨ (s.gustIsD g.ref = true ∧ g.tvec.val % 3 ≠ 0) := by
        have h := hno.resolve_left (by simp [hact])
        simp only [Claims.TargetOk, not_and_or, not_le, not_forall] at h
        simpa [State.gustIsD, hq] using h
      rw [if_neg hunset, State.trapEntry]
      simp only [hg]
      rw [if_neg (by simp [hact]), if_neg hunset, if_pos hbad]

/-- TRAP_ENTRY with no handler to enter: for parked lanes the records are the gust's own (R109). -/
theorem State.trapStep_ends (hg : s.gust? g.ref = some g) (hq : s.squall? g.ref.sq = some q)
    (hno : g.trapActive = true ∨ ¬ Claims.TargetOk q g.tvec.val) (cause detail : Int) :
    s.trapStep g.ref cause detail =
      s.trapEnd g (if cause = 0 then g.laneRec.map (·.2) else [s.mkRec g clsGust cause 0 (-1) detail]) := by
  simp only [State.trapStep, State.trapParked, State.trapNext, State.gustFault, hg, State.trapEntry_ends hg hq hno]
  split
  · rfl
  · split <;> rfl

/-- BRK traps where the context does not route breakpoints to the debugger (R430). -/
theorem State.not_routed (hq : s.squall? g.ref.sq = some q) (hx : tritI (s.context q.ctx).xdbg.val 25 ≠ 1) : s.routed g.ref = false := by
  simpa [State.routed, State.ctxOf, hq] using hx

/-- The first part of O16. -/
theorem handlerLimits_traps : Claims.TrapsWithoutHandler := by
  intro c n cause detail s g q own ended hno
  have hended : ∀ cause detail, s.trapEnd g (own cause detail) = ended cause detail := fun _ _ => rfl
  refine ⟨fun hi ha => ⟨?_, fun hx => ?_⟩, fun hg hq => ?_⟩
  · show execTrap c n s = _
    rw [execTrap, State.performGust_acts hi c ha, Eff.settle, State.trapNext, State.trapEntry_ends hi.gust hi.squall hno, ← hended]
    rfl
  · show execBrk c n s = _
    rw [execBrk, State.performGust_acts hi c ha, if_neg (by simp [State.not_routed hi.squall hx]), Eff.settle, State.trapNext,
      State.trapEntry_ends hi.gust hi.squall hno, ← hended]
    rfl
  · show Host.Outcome.next (s.trapStep g.ref cause detail) = _
    rw [State.trapStep_ends hg hq hno, ← hended]
    rfl

/-- The second part of O16. -/
theorem handlerLimits_control : Claims.HandlerControl := by
  intro c p n join els s g q hi hact
  refine ⟨?_, ?_, fun ha => ⟨?_, ?_⟩⟩
  · show execSplit c p join els s = _
    rw [execSplit, State.perform_issuing hi, if_pos hact]
    rfl
  · show execJoin c s = _
    rw [execJoin, State.perform_issuing hi, if_pos hact]
    rfl
  · show execBreak c n s = _
    rw [execBreak, State.performGust_acts hi c ha, if_pos hact]
    rfl
  · show execExit c s = _
    rw [execExit, State.performGust_acts hi c ha, if_pos hact]
    rfl

end

/-- Settles O16: the traps, and the control forms. -/
theorem handlerLimits : Obligations.HandlerLimits := ⟨handlerLimits_traps, handlerLimits_control⟩

end Sys2Proof.Machine
end

section
/-! O48: the choice of the gust that issues (R366). -/

namespace Sys2Proof.Machine

/-- The oldest of some gusts is one of them, and none of them is older. -/
theorem oldest_some {gs : List Gust} {g : Gust} (h : oldest gs = some g) : g ∈ gs ∧ ∀ k ∈ gs, g.age ≤ k.age := by
  induction gs generalizing g with
  | nil => cases h
  | cons a gs ih =>
    rw [oldest] at h
    cases ho : oldest gs with
    | none =>
      rw [ho] at h
      obtain rfl : a = g := Option.some.inj h
      cases gs with
      | nil => simp
      | cons b gs =>
        rw [oldest] at ho
        split at ho <;> [cases ho; (split at ho <;> cases ho)]
    | some b =>
      rw [ho] at h
      obtain ⟨hmem, hle⟩ := ih ho
      simp only at h
      split at h
      · next hab =>
        obtain rfl : a = g := Option.some.inj h
        exact ⟨List.mem_cons_self, fun k hk => (List.mem_cons.1 hk).elim (fun e => e ▸ le_rfl) fun hk => hab.trans (hle k hk)⟩
      · next hab =>
        obtain rfl : b = g := Option.some.inj h
        exact ⟨List.mem_cons_of_mem _ hmem, fun k hk => (List.mem_cons.1 hk).elim (fun e => e ▸ (not_le.1 hab).le) fun hk => hle k hk⟩

theorem oldest_eq_none {gs : List Gust} : oldest gs = none ↔ gs = [] := by
  cases gs with
  | nil => simp [oldest]
  | cons a gs =>
    simp only [oldest, reduceCtorEq, iff_false]
    split <;> [simp; (split <;> simp)]

/-- The gusts of a core that can issue, of class `k` (R96, R362). -/
def State.issuers (s : State) (core : Nat) (k : Trit) : List Gust :=
  (s.residents core).filter fun g => match s.squall? g.ref.sq with
    | some q => s.klass q == k && s.eligible g q
    | none => false

/-- What a cycle of the core counts (R434, R435). -/
def State.issueTick (s : State) (core : Nat) (c : Core) : Core :=
  let e := (s.issuers core .plus).length + (s.issuers core .zero).length + (s.issuers core .minus).length
  let cs := (c.counters.modify 1 countUp).modify (3 + min e 27) countUp
  { c with cycle := c.cycle + 1, quiet := c.quiet + 1, counters := if e = 0 then cs.modify (s.stallReason core) countUp else cs }

/-- The gust that a cycle of the core picks, with its class (R366). -/
def State.issuePick (s : State) (core : Nat) : Option (Gust × Trit) :=
  let u := s.issuers core .plus
  let n := s.issuers core .zero
  let b := s.issuers core .minus
  if !n.isEmpty ∧ (s.core core).waitN ≥ 8 then (oldest n).map (·, Trit.zero)
  else if !b.isEmpty ∧ (s.core core).waitB ≥ 25 then (oldest b).map (·, Trit.minus)
  else match oldest u, oldest n, oldest b with
    | some g, _, _ => some (g, Trit.plus)
    | none, some g, _ => some (g, Trit.zero)
    | none, none, some g => some (g, Trit.minus)
    | none, none, none => none

/-- The cycles that the classes have waited, after a cycle that picked a gust of class `k`. -/
def State.issueWaits (s : State) (core : Nat) (k : Trit) (c : Core) : Core :=
  { c with waitN := if k = .zero ∨ (s.issuers core .zero).isEmpty then 0 else c.waitN + 1,
           waitB := if k = .minus ∨ (s.issuers core .minus).isEmpty then 0 else c.waitB + 1 }

/-- A cycle of a core after its pick. -/
def State.issueOf (s : State) (core : Nat) : Option (Gust × Trit) → State
  | none => (s.onCore core (s.issueTick core)).onCore core fun c => { c with waitN := 0, waitB := 0 }
  | some (g, k) =>
    let s := (s.onCore core (s.issueTick core)).onCore core (s.issueWaits core k)
    let (age, s) := s.fresh
    let (left, s) := if coreIsD core then (0, s) else s.pick 2
    { s.onGust g.ref (fun g => { g with age, status := match g.status with
          | .yielded _ => .running
          | w => w }) with cur := some g.ref, issueLeft := left }

theorem State.issueChoice_eq (s : State) (core : Nat) : s.issueChoice core = s.issueOf core (s.issuePick core) := rfl

section
variable {s : State} {core : Nat}

theorem State.mem_issuers {k : Trit} {g : Gust} : g ∈ s.issuers core k ↔ Claims.Ready s core k g := by
  simp only [State.issuers, State.residents, Claims.Ready, List.mem_filter, Option.any_eq_true, beq_iff_eq]
  cases s.squall? g.ref.sq with
  | none => simp
  | some q => simp [and_assoc]

theorem State.issuers_ne_nil {k : Trit} : s.issuers core k ≠ [] ↔ ∃ g, Claims.Ready s core k g := by
  simp only [← State.mem_issuers]
  exact ⟨List.exists_mem_of_ne_nil _, fun ⟨_, h⟩ => List.ne_nil_of_mem h⟩

/-- Nothing is picked where no gust of the core can issue. -/
theorem State.issuePick_none (h : s.issuePick core = none) (k : Trit) : s.issuers core k = [] := by
  unfold State.issuePick at h
  dsimp only at h
  split at h
  · next hn => simp [oldest_eq_none.1 (Option.map_eq_none_iff.1 h)] at hn
  · split at h
    · next hb => simp [oldest_eq_none.1 (Option.map_eq_none_iff.1 h)] at hb
    · split at h
      case h_4 hu hn hb => cases k <;> exact oldest_eq_none.1 ‹_›
      all_goals cases h

/-- The pick is the oldest gust of its class, and of the class that R366 takes first. -/
theorem State.issuePick_some {g : Gust} {k : Trit} (h : s.issuePick core = some (g, k)) :
    oldest (s.issuers core k) = some g ∧
    ((s.issuers core .zero ≠ [] ∧ 8 ≤ (s.core core).waitN) ∧ k = .zero ∨
      ¬(s.issuers core .zero ≠ [] ∧ 8 ≤ (s.core core).waitN) ∧
        ((s.issuers core .minus ≠ [] ∧ 25 ≤ (s.core core).waitB) ∧ k = .minus ∨
          ¬(s.issuers core .minus ≠ [] ∧ 25 ≤ (s.core core).waitB) ∧ ∀ j, s.issuers core j ≠ [] → j.val ≤ k.val)) := by
  have hempty (l : List Gust) : (!l.isEmpty) = true ↔ l ≠ [] := by simp
  unfold State.issuePick at h
  dsimp only at h
  simp only [hempty] at h
  split at h
  · next hn =>
    obtain ⟨a, ha, hak⟩ := Option.map_eq_some_iff.1 h
    cases hak
    exact ⟨ha, .inl ⟨hn, rfl⟩⟩
  · next hn =>
    split at h
    · next hb =>
      obtain ⟨a, ha, hak⟩ := Option.map_eq_some_iff.1 h
      cases hak
      exact ⟨ha, .inr ⟨hn, .inl ⟨hb, rfl⟩⟩⟩
    · next hb =>
      split at h <;> cases h
      · next hu => exact ⟨hu, .inr ⟨hn, .inr ⟨hb, fun j _ => by cases j <;> decide⟩⟩⟩
      · next hu hz =>
        refine ⟨hz, .inr ⟨hn, .inr ⟨hb, fun j hj => ?_⟩⟩⟩
        cases j with
        | plus => exact absurd (oldest_eq_none.1 hu) hj
        | zero => decide
        | minus => decide
      · next hu hz hm =>
        refine ⟨hm, .inr ⟨hn, .inr ⟨hb, fun j hj => ?_⟩⟩⟩
        cases j with
        | plus => exact absurd (oldest_eq_none.1 hu) hj
        | zero => exact absurd (oldest_eq_none.1 hz) hj
        | minus => decide

/-! What the cycle leaves. -/

theorem State.issueOf_some (s : State) (core : Nat) (g : Gust) (k : Trit) :
    (s.issueOf core (some (g, k))).cur = some g.ref ∧
    (s.issueOf core (some (g, k))).cores = ((s.onCore core (s.issueTick core)).onCore core (s.issueWaits core k)).cores := by
  refine ⟨rfl, ?_⟩
  simp only [State.issueOf, State.fresh]
  by_cases hD : coreIsD core = true
  · simp only [hD, if_true]
    rfl
  · simp only [hD, State.pick]
    rfl

/-- The core after two changes of it. -/
theorem State.core_onCore_onCore {t : State} (hc : core < s.cores.length) {f h : Core → Core}
    (ht : t.cores = ((s.onCore core f).onCore core h).cores) : t.core core = h (f (s.core core)) := by
  have hlen : core < (s.onCore core f).cores.length := by simpa [State.onCore] using hc
  rw [State.core, ht]
  exact (State.core_onCore (s.onCore core f) core core h hlen).trans (by rw [if_pos rfl, State.core_onCore s core core f hc, if_pos rfl])

end

/-- The first part of O48. -/
theorem schedulingSteps_issueChoice : Claims.IssueChoice := by
  intro s core hlt hlen n b N B
  have hN : s.issuers core .zero ≠ [] ↔ N := State.issuers_ne_nil
  have hB : s.issuers core .minus ≠ [] ↔ B := State.issuers_ne_nil
  refine ⟨s.issueChoice core, if_pos (decide_eq_true hlt), ?_⟩
  rw [State.issueChoice_eq]
  cases hpick : s.issuePick core with
  | none =>
    have hnone : ∀ g k, ¬ Claims.Ready s core k g := fun g k h => by
      have := State.mem_issuers.2 h
      simp [State.issuePick_none hpick k] at this
    have hcore := State.core_onCore_onCore (t := s.issueOf core none) hlen rfl
    rw [hcore]
    exact ⟨rfl, fun _ => ⟨rfl, rfl, rfl, rfl⟩, fun ⟨g, k, h⟩ => absurd h (hnone g k)⟩
  | some x =>
    obtain ⟨g, k⟩ := x
    obtain ⟨hcur, hcores⟩ := State.issueOf_some s core g k
    obtain ⟨hold, hfirst⟩ := State.issuePick_some hpick
    obtain ⟨hmem, hage⟩ := oldest_some hold
    have hready : Claims.Ready s core k g := State.mem_issuers.1 hmem
    have hcore := State.core_onCore_onCore hlen hcores
    rw [hN, hB] at hfirst
    have hnotN : n < 8 ∨ ¬N → ¬(N ∧ 8 ≤ n) := fun h ⟨hNs, h8⟩ => h.elim (fun h => by omega) fun h => h hNs
    have hnotB : b < 25 ∨ ¬B → ¬(B ∧ 25 ≤ b) := fun h ⟨hBs, h25⟩ => h.elim (fun h => by omega) fun h => h hBs
    rw [hcore]
    refine ⟨rfl, fun h => absurd hready (h g k), fun _ => ⟨g, k, hready, hcur, fun h hh => hage h (State.mem_issuers.2 hh),
      fun h8 hNs => ?_, fun h8 h25 hBs => ?_, fun h8 h25 h j hj => ?_, fun hNs => ?_, fun hNs => ?_, fun hBs => ?_, fun hBs => ?_⟩⟩
    · rcases hfirst with ⟨-, hk⟩ | ⟨hno, -⟩
      · exact hk
      · exact absurd ⟨hNs, h8⟩ hno
    · rcases (hfirst.resolve_left fun hf => hnotN h8 hf.1).2 with ⟨-, hk⟩ | ⟨hno, -⟩
      · exact hk
      · exact absurd ⟨hBs, h25⟩ hno
    · rcases (hfirst.resolve_left fun hf => hnotN h8 hf.1).2 with ⟨hb, -⟩ | ⟨-, hall⟩
      · exact absurd hb (hnotB h25)
      · exact hall j (State.issuers_ne_nil.2 ⟨h, hj⟩)
    · exact if_congr (or_iff_left (by simpa using hN.2 hNs)) rfl rfl
    · exact if_pos (.inr (by simpa using mt hN.1 hNs))
    · exact if_congr (or_iff_left (by simpa using hB.2 hBs)) rfl rfl
    · exact if_pos (.inr (by simpa using mt hB.1 hBs))

end Sys2Proof.Machine
end

section
/-! O48: the split of a die's range, bind records, and the retirement of a front (R357, R360, R362). -/

namespace Sys2Proof.Machine

/-! RANGE_DISTRIBUTE. -/

/-- Run `j` of the die's entry, of `per` indices, for each of some cores. -/
def runsOf (first per : Nat) (cores : List Nat) : List (Nat × Nat × Nat) :=
  (List.zip (List.range cores.length) cores).map fun e => (e.2, first + e.1 * per, per)

theorem runsOf_getElem? (first per : Nat) {cores : List Nat} {j : Nat} (hj : j < cores.length) :
    (runsOf first per cores)[j]? = some (cores.getD j 0, first + j * per, per) := by
  simp [runsOf, List.zip, hj, List.getD_eq_getElem?_getD]

/-- The third part of O48. -/
theorem schedulingSteps_rangeDistribute : Claims.RangeDistribute := by
  intro s front die f b hdie hf hb hsent cores e per
  refine ⟨{ front, subs := runsOf e.1 per cores, pool := (e.1 + per * cores.length, e.2 - per * cores.length) }, ?_, rfl, ?_, fun j hj =>
    runsOf_getElem? _ _ hj, rfl⟩
  · show agent (decide (die < 9)) (s.rangeDistribute front die) = _
    rw [agent, if_pos (decide_eq_true hdie), State.rangeDistribute]
    simp only [hf, hb]
    rw [if_neg (by simpa using hsent)]
    rfl
  · simp [runsOf]

/-! BIND_RECORD_WRITE. -/

/-- The place of the slot table that a front of a priority gets (R362, log entry 28). -/
def bindPlace (prio : Trit) (used : List Nat) : Option Nat :=
  if prio = .plus then ((List.range 9).map (· + 72) ++ List.range 72).find? fun p => !used.contains p
  else (List.range 72).find? fun p => !used.contains p

/-- With a place below 72 free there is one for every front. -/
theorem bindPlace_some (prio : Trit) {used : List Nat} (h : ∃ p, p < 72 ∧ p ∉ used) :
    ∃ p, bindPlace prio used = some p ∧ p ∉ used ∧ p < if prio = .plus then 81 else 72 := by
  obtain ⟨p, hp, hfree⟩ := h
  have hfind : ∀ ps : List Nat, p ∈ ps → ∃ x, ps.find? (fun p => !used.contains p) = some x ∧ x ∉ used ∧ x ∈ ps := fun ps hmem => by
    have hsome : (ps.find? fun p => !used.contains p).isSome = true := List.find?_isSome.2 ⟨p, hmem, by simpa using hfree⟩
    obtain ⟨x, hx⟩ := Option.isSome_iff_exists.1 hsome
    exact ⟨x, hx, by simpa using List.find?_some hx, List.mem_of_find?_eq_some hx⟩
  unfold bindPlace
  by_cases hu : prio = .plus
  · simp only [hu, if_true]
    obtain ⟨x, hx, hxu, hxm⟩ := hfind ((List.range 9).map (· + 72) ++ List.range 72) (by simp [hp])
    refine ⟨x, hx, hxu, ?_⟩
    rcases List.mem_append.1 hxm with h | h
    · obtain ⟨y, hy, rfl⟩ := List.mem_map.1 h
      have := List.mem_range.1 hy
      omega
    · have := List.mem_range.1 h
      omega
  · simp only [hu, if_false]
    obtain ⟨x, hx, hxu, hxm⟩ := hfind (List.range 72) (by simp [hp])
    exact ⟨x, hx, hxu, List.mem_range.1 hxm⟩

/-- A word with no minus trit. -/
theorem Word.all_trits_ne_minus {w : Word} (h : ∀ k, k < 27 → w.tritAt k ≠ .minus) : (w.trits.all fun t => t != -1) = true := by
  refine List.all_eq_true.2 fun t ht => ?_
  obtain ⟨i, hi, rfl⟩ := List.getElem_of_mem ht
  have hi27 : i < 27 := by simpa [Word.trits, tritsOf_eq] using hi
  have hget := w.trits_getD hi27
  rw [List.getD_eq_getElem _ _ hi] at hget
  have hm := h i hi27
  rw [hget]
  cases hw : w.tritAt i with
  | minus => exact absurd hw hm
  | zero => rfl
  | plus => rfl

/-- The fourth part of O48. -/
theorem schedulingSteps_bindRecordWrite : Claims.BindRecordWrite := by
  intro s x f hdie _ hf hend hrange hrec hquantum hcores hplace
  obtain ⟨p, hp, hfree, hlt⟩ := bindPlace_some f.prio (used := (s.die x.die).bindRecs.map (·.place))
    (hplace.imp fun p hp => ⟨hp.1, by simpa using hp.2⟩)
  refine ⟨p, by simpa using hfree, hlt, ?_⟩
  have hw : (f.ending.isNone && (f.spec.ranges.getD x.die (0, 0)).2 != 0 && (s.bindRec? x.die x.front).isNone &&
      decide (x.quantum ≤ 1594323) && x.coreSet.trits.all fun t => t != -1) = true := by
    simp [hend, hrange, hrec, hquantum, Word.all_trits_ne_minus hcores, -List.all_eq_true, -List.getD_eq_getElem?_getD]
  rw [bindPlace] at hp
  show agent (decide (x.die < 9)) (s.bindRecordWrite x) = _
  rw [agent, if_pos (decide_eq_true hdie)]
  simp only [State.bindRecordWrite, hf, hp, hw, if_true]

/-! FRONT_RETIRE. -/

/-- The fronts and dies of a front that ends with the completion value `v` (R357): it stands as ending, and its distributors and bind
records are gone. -/
def State.ended (s : State) (n : Nat) (v : Int) : State :=
  { s with
    fronts := s.fronts.map fun x => if x.num = n then { x with ending := some v } else x,
    dies := s.dies.map fun (d : Die) =>
      { d with dists := d.dists.filter (fun x => x.front != n), bindRecs := d.bindRecs.filter fun x => x.front != n } }

/-- The front is no live front any more, and its vector is signalled (R357, R408). -/
def State.gone (v : State) (f : Front) : State :=
  ({ v with fronts := v.fronts.filter fun x => x.num != f.num } : State).signal f.ctx f.spec.msix

section
variable {s : State} {f : Front}

theorem State.retireFront_eq (hu : ∀ k ∈ s.fronts, k.num = f.num → k = f) (hend : f.ending = none) (v : Int) :
    s.retireFront f.num v = (s.ended f.num v).finishFront f.num := by
  have hfronts : (s.onFront f.num fun f => { f with ending := f.ending.or (some v) }).fronts = (s.ended f.num v).fronts := by
    refine List.map_congr_left fun k hk => ?_
    by_cases hn : k.num = f.num
    · obtain rfl := hu k hk hn
      simp [hend]
    · rw [if_neg (by simpa using hn), if_neg hn]
  unfold State.retireFront State.ended
  simp only
  rw [hfronts]
  rfl

theorem State.front?_ended (hf : s.front? f.num = some f) (v : Int) :
    (s.ended f.num v).front? f.num = some { f with ending := some v } := by
  have h := State.front?_onFront s f.num f.num (fun x => { x with ending := some v }) fun _ h => h
  rw [if_pos rfl, hf, Option.map_some] at h
  rw [← h]
  simp only [State.front?, State.ended, State.onFront, beq_iff_eq]

/-- A front of a launch list is gone with its signal alone. -/
theorem State.dropFront_list (hby : f.by_ = .list) (v : State) (e : Option Int) : v.dropFront { f with ending := e } = v.gone f := by
  simp only [State.dropFront, hby]
  rfl

end

/-- The sixth part of O48. -/
theorem schedulingSteps_frontRetire : Claims.FrontRetire := by
  intro s f hf hu hend hleft hchildren hby u gone
  have hfinish : exec (.frontRetire f.num) s = .next (u.finishFront f.num) := by
    show Host.Outcome.next (s.frontRetire f.num) = _
    simp only [State.frontRetire, hf]
    rw [if_pos ⟨hleft, by simp [hend], by simp [hchildren]⟩, State.retireFront_eq hu hend]
    rfl
  have hfront : u.front? f.num = some { f with ending := some (Int.ofNat f.num) } := State.front?_ended hf _
  rw [hfinish]
  unfold State.finishFront
  simp only [hfront]
  refine ⟨fun hdone => ?_, fun hdone a v hv => ⟨fun ha => ?_, fun ha => ?_⟩⟩
  · rw [if_pos hdone]
    exact congrArg _ (State.dropFront_list hby u _)
  · subst ha
    rw [if_neg hdone]
    have hw : (u.releaseDies.under [2, f.num] fun s => s.sysWrite f.ctx f.spec.done (Word.ofInt (Int.ofNat f.num))) = (.wait, v) := hv
    rw [hw]
  · rw [if_neg hdone]
    have hw : (u.releaseDies.under [2, f.num] fun s => s.sysWrite f.ctx f.spec.done (Word.ofInt (Int.ofNat f.num))) = (a, v) := hv
    rw [hw]
    cases a with
    | wait => exact absurd rfl ha
    | ok _ => exact congrArg _ (State.dropFront_list hby v _)
    | fail _ _ => exact congrArg _ (State.dropFront_list hby v _)

end Sys2Proof.Machine
end

section
/-! O48: the tiles and slots that a gust releases (R208, R210). -/

namespace Sys2Proof.Machine

theorem getElem?_zip_range_map {α β : Type} (l : List α) (f : Nat × α → β) (k : Nat) :
    ((List.zip (List.range l.length) l).map f)[k]? = l[k]?.map fun x => f (k, x) := by
  by_cases hk : k < l.length
  · simp [List.zip, hk]
  · simp [hk]

/-- A squall that differs in the states of its tiles and slots alone. -/
def Squall.SameButRuns (q b : Squall) : Prop := b = { q with tiles := b.tiles, slots := b.slots }

theorem Squall.SameButRuns.trans {q b c : Squall} (h : q.SameButRuns b) (h' : b.SameButRuns c) : q.SameButRuns c := by
  unfold Squall.SameButRuns at *
  rw [h', h]

theorem Squall.sameButRuns_release (q : Squall) (tiles : Bool) (j n : Nat) : q.SameButRuns (q.release tiles j n) := by
  unfold Squall.SameButRuns Squall.release Squall.onRun
  cases tiles <;> rfl

/-- Some tiles, or some slots, released one after the other. -/
def Squall.releaseEach (q : Squall) (tiles : Bool) (ks : List Nat) : Squall := ks.foldl (fun b k => b.release tiles k 1) q

theorem Squall.sameButRuns_releaseEach (q : Squall) (tiles : Bool) (ks : List Nat) : q.SameButRuns (q.releaseEach tiles ks) := by
  induction ks generalizing q with
  | nil => rfl
  | cons k ks ih => exact (q.sameButRuns_release tiles k 1).trans (ih _)

theorem Squall.tile_release (q : Squall) (tiles : Bool) (j : Nat) {k : Nat} (hk : k < q.tiles.length) :
    k < (q.release tiles j 1).tiles.length ∧
    (q.release tiles j 1).tile k = if tiles = true ∧ k = j then { q.tile k with releasing := true } else q.tile k := by
  cases tiles with
  | false => exact ⟨hk, rfl⟩
  | true =>
    refine ⟨by simpa [Squall.release, Squall.onRun] using hk, ?_⟩
    simp only [Squall.release, Squall.onRun, if_true, Squall.tile, List.getD_eq_getElem?_getD, getElem?_zip_range_map,
      List.getElem?_eq_getElem hk, Option.map_some, Option.getD_some, decide_eq_true_eq, true_and]
    exact if_congr (by omega) rfl rfl

theorem Squall.slot_release (q : Squall) (tiles : Bool) (j : Nat) {k : Nat} (hk : k < q.slots.length) :
    k < (q.release tiles j 1).slots.length ∧
    (q.release tiles j 1).slot k = if tiles = false ∧ k = j then { q.slot k with releasing := true } else q.slot k := by
  cases tiles with
  | true => exact ⟨hk, rfl⟩
  | false =>
    refine ⟨by simpa [Squall.release, Squall.onRun] using hk, ?_⟩
    simp only [Squall.release, Squall.onRun, Bool.false_eq_true, if_false, Squall.slot, List.getD_eq_getElem?_getD,
      getElem?_zip_range_map, List.getElem?_eq_getElem hk, Option.map_some, Option.getD_some, decide_eq_true_eq, true_and]
    exact if_congr (by omega) rfl rfl

/-- A tile after the release of some tiles or some slots. -/
theorem Squall.tile_releaseEach (q : Squall) (tiles : Bool) (ks : List Nat) {k : Nat} (hk : k < q.tiles.length) :
    k < (q.releaseEach tiles ks).tiles.length ∧
    (q.releaseEach tiles ks).tile k = if tiles = true ∧ k ∈ ks then { q.tile k with releasing := true } else q.tile k := by
  induction ks generalizing q with
  | nil => simp [Squall.releaseEach, hk]
  | cons j ks ih =>
    obtain ⟨hlen, htile⟩ := q.tile_release tiles j hk
    obtain ⟨hlen', htile'⟩ := ih (q.release tiles j 1) hlen
    refine ⟨hlen', htile'.trans ?_⟩
    rw [htile]
    grind

/-- A slot after the release of some tiles or some slots. -/
theorem Squall.slot_releaseEach (q : Squall) (tiles : Bool) (ks : List Nat) {k : Nat} (hk : k < q.slots.length) :
    k < (q.releaseEach tiles ks).slots.length ∧
    (q.releaseEach tiles ks).slot k = if tiles = false ∧ k ∈ ks then { q.slot k with releasing := true } else q.slot k := by
  induction ks generalizing q with
  | nil => simp [Squall.releaseEach, hk]
  | cons j ks ih =>
    obtain ⟨hlen, hslot⟩ := q.slot_release tiles j hk
    obtain ⟨hlen', hslot'⟩ := ih (q.release tiles j 1) hlen
    refine ⟨hlen', hslot'.trans ?_⟩
    rw [hslot]
    grind

/-! A release takes effect (R210). -/

theorem State.sameButRuns_freeRun (s : State) (q : Squall) : q.SameButRuns (s.freeRun q) := rfl

theorem State.tile_freeRun (s : State) (q : Squall) (k : Nat) :
    (s.freeRun q).tile k =
      if (q.tile k).releasing && !s.needed q true k then { q.tile k with owner := none, releasing := false } else q.tile k := by
  simp only [State.freeRun, Squall.tile, List.getD_eq_getElem?_getD, getElem?_zip_range_map]
  cases q.tiles[k]? <;> simp

theorem State.slot_freeRun (s : State) (q : Squall) (k : Nat) :
    (s.freeRun q).slot k =
      if (q.slot k).releasing && !s.needed q false k then { q.slot k with owner := none, releasing := false } else q.slot k := by
  simp only [State.freeRun, Squall.slot, List.getD_eq_getElem?_getD, getElem?_zip_range_map]
  cases q.slots[k]? <;> simp

/-- No command reaches a squall that no command's window snapshot names. -/
theorem State.not_needed {s : State} {q : Squall} (hm : (s.core q.core).matrixQ = []) (hc : ∀ c ∈ s.allCmds, ∀ p ∈ c.snap, p.q ≠ q.q)
    (tiles : Bool) {k : Nat} (hfill : tiles = false → (q.slot k).fill ≠ .pending) : s.needed q tiles k = false := by
  have hnone : ∀ at_ n, (s.allCmds.any fun c => reaches c q.q at_ n) = false := fun at_ n => by
    simp only [List.any_eq_false, reaches, List.any_eq_true, Bool.and_eq_true, beq_iff_eq, not_exists, not_and]
    exact fun c hcmd p hp hpq => absurd hpq (hc c hcmd p hp)
  cases tiles with
  | true => simp [State.needed, hm, hnone]
  | false => simp [State.needed, hm, hnone, hfill rfl]

/-! What a retiring gust releases (R97). -/

/-- The tiles or slots of the squall that a gust owns. -/
def Squall.ownedBy (q : Squall) (tiles : Bool) (n gust : Nat) : List Nat := (List.range n).filter fun k => q.owner tiles k == some gust

/-- The squall with everything that gust `gust` of `q` owns released. -/
def Squall.releaseOwned (q b : Squall) (gust : Nat) : Squall :=
  (b.releaseEach true (q.ownedBy true q.alloc.tiles gust)).releaseEach false (q.ownedBy false q.alloc.slots gust)

theorem Squall.mem_ownedBy {q : Squall} {tiles : Bool} {n gust k : Nat} :
    k ∈ q.ownedBy tiles n gust ↔ k < n ∧ q.owner tiles k = some gust := by
  simp [Squall.ownedBy]

end Sys2Proof.Machine
end

section
/-! O48: what the end of a squall leaves of the fronts (R97, R132, R357): everything that a squall gives up on its core leaves them. -/

namespace Sys2Proof.Machine

theorem fronts_each {α : Type} {f : State → α → State} (hf : ∀ t x, (f t x).fronts = t.fronts) (s : State) (xs : List α) :
    (s.each xs f).fronts = s.fronts := by
  induction xs generalizing s with
  | nil => rfl
  | cons x xs ih => exact (ih (f s x)).trans (hf s x)

theorem fronts_putUnheld (s : State) (core ctx w v) : (s.putUnheld core ctx w v).fronts = s.fronts := by
  unfold State.putUnheld
  split <;> rfl

theorem fronts_winPut (s : State) (core ctx v w) : (s.winPut core ctx v w).fronts = s.fronts := by
  have hlost := fronts_putUnheld s core ctx w v
  unfold State.winPut
  cases w with
  | code w => rfl
  | tiles k =>
    refine (fronts_each (fun t i => ?_) _ _).trans hlost
    split <;> rfl
  | _ =>
    dsimp only
    split
    · rfl
    · exact hlost

theorem fronts_acked (s : State) (r) : (s.acked r).fronts = s.fronts := by
  unfold State.acked
  split <;> rfl

theorem fronts_takeItems (s : State) (core ctx mine k its) : (s.takeItems core ctx mine k its).2.fronts = s.fronts := by
  induction its generalizing s with
  | nil => rfl
  | cons it rest ih =>
    unfold State.takeItems
    refine (ih _).trans ?_
    split
    · rfl
    · dsimp only
      split
      · exact fronts_winPut _ _ _ _ _
      · rfl

theorem fronts_takeAtoms (s : State) (core ctx mine as_) : (s.takeAtoms core ctx mine as_).2.fronts = s.fronts := by
  induction as_ generalizing s with
  | nil => rfl
  | cons a rest ih =>
    unfold State.takeAtoms
    exact (ih _).trans (fronts_takeItems _ _ _ _ _ _)

theorem fronts_landPorts (s : State) (core mine) : (s.landPorts core mine).fronts = s.fronts := by
  unfold State.landPorts
  refine (fronts_each (fun t g => ?_) _ _).trans ((fronts_each (fun t i => ?_) _ _).trans rfl)
  · refine (fronts_takeAtoms _ _ _ _ _).trans (fronts_each (fun t l => fronts_each (fun t x => ?_) t l.items) t g.loads)
    split <;> rfl
  · split
    · split
      · exact (fronts_acked _ _).trans (fronts_winPut _ _ _ _ _)
      · rfl
    · rfl

theorem fronts_vacate (s : State) (q gs) : (s.vacate q gs).fronts = s.fronts := by
  have hfree : ∀ (t : State) w v, (t.setFreeWord q.core w v).fronts = t.fronts := fun _ _ _ => rfl
  unfold State.vacate
  dsimp only
  split
  · exact (hfree _ _ _).trans ((fronts_each (fun t _ => hfree t _ _) _ _).trans (fronts_each (fun t _ => hfree t _ _) _ _))
  · exact (fronts_each (fun t _ => hfree t _ _) _ _).trans (fronts_each (fun t _ => hfree t _ _) _ _)

theorem fronts_leaveCore (s : State) (q) : (s.leaveCore q).fronts = s.fronts := by
  unfold State.leaveCore
  split
  · rfl
  · next b _ =>
    have hland : (s.landInto b).fronts = s.fronts := fronts_landPorts _ _ _
    dsimp only
    split
    · exact (fronts_vacate _ _ _).trans hland
    · exact hland

theorem fronts_setSeg (s : State) (core e x) : (s.setSeg core e x).fronts = s.fronts := by
  unfold State.setSeg
  dsimp only [State.onCore_fronts]
  split
  · exact fronts_landPorts _ _ _
  · rfl

theorem fronts_overlayEnd (s : State) (c ran) : (s.overlayEnd c ran).fronts = s.fronts := by
  unfold State.overlayEnd
  split
  · dsimp only
    split
    · rfl
    · split
      · exact fronts_setSeg _ _ _ _
      · exact fronts_setSeg _ _ _ _
  · rfl

theorem fronts_dropSquall (s : State) (q) : (s.dropSquall q).fronts = s.fronts :=
  (fronts_each (fun t _ => fronts_overlayEnd t _ false) (s.leaveCore q) _).trans (fronts_leaveCore s q)

/-- A squall that is gone is bound nowhere, and neither is a gust of it. -/
theorem State.squall?_dropSquall (s : State) (q : SqRef) : (s.dropSquall q).squall? q = none := by
  simp [State.dropSquall, State.refillPaging, State.squall?]

theorem State.gust?_dropSquall (s : State) (r : GustRef) : (s.dropSquall r.sq).gust? r = none := by
  simp only [State.dropSquall, State.refillPaging, State.gust?, List.find?_eq_none, List.mem_filter, bne_iff_ne, beq_iff_eq]
  rintro g ⟨-, hg⟩ rfl
  exact hg rfl

end Sys2Proof.Machine
end

section
/-! O48: GUST_RETIRE (R97, R211). -/

namespace Sys2Proof.Machine

/-- No gust of a squall waits. -/
def State.NoneWaits (s : State) (q : SqRef) : Prop := ∀ k ∈ s.gustsOf q, ∀ op w, k.status ≠ .waiting op w

section
variable {s : State}

/-! With no gust waiting, no claim is granted, no group is broken and no rendezvous is judged. -/

theorem State.releaseEffect_idle {q : SqRef} (h : s.NoneWaits q) : s.releaseEffect q = s.onSquall q fun b => s.freeRun b := by
  have hclaims : (s.onSquall q fun b => s.freeRun b).claims q = [] := by
    have hnone : ((s.gustsOf q).filterMap fun g => match g.status with
        | .waiting _ (.claim t f n since) => if g.halted then none else some (since, g.ref, t, f, n)
        | _ => none) = [] := by
      refine List.filterMap_eq_nil_iff.2 fun k hk => ?_
      split
      · next hw => exact absurd hw (h k hk _ _)
      · rfl
    exact congrArg (List.insertionSort _) hnone
  unfold State.releaseEffect
  dsimp only
  rw [hclaims]
  rfl

theorem State.breakGangs_idle {r : GustRef} (h : s.NoneWaits r.sq) : s.breakGangs r = s := by
  have hnone : ((s.gustsOf r.sq).filter fun g => g.ref != r && !g.halted && g.atLatch.isSome && (gangOf g.gangMap).contains r.gust) = [] := by
    refine List.filter_eq_nil_iff.2 fun k hk => ?_
    have hlatch : k.atLatch = none := by
      unfold Gust.atLatch
      split
      · next hw => exact absurd hw (h k hk _ _)
      · rfl
    simp [hlatch]
  unfold State.breakGangs
  rw [hnone]
  rfl

theorem State.migrJudge_idle {q : SqRef} (h : s.NoneWaits q) : s.migrJudge q = s := by
  have hnone : (s.gustsOf q).filter (fun g => g.arrivedAt.isSome) = [] := by
    refine List.filter_eq_nil_iff.2 fun k hk => ?_
    have harrived : k.arrivedAt = none := by
      unfold Gust.arrivedAt
      split
      · rfl
      · split
        · next hw => exact absurd hw (h k hk _ _)
        · rfl
    simp [harrived]
  unfold State.migrJudge
  split
  · rfl
  · dsimp only
    rw [hnone]

/-! The gust that retires. -/

/-- A gust retired. -/
def Gust.retire (g : Gust) : Gust := { g with status := .retired }

/-- The state with the gust retired, and what it owns released. -/
def State.gustRetired (s : State) (g : Gust) (q : Squall) : State :=
  (({ s with op := 0 } : State).onGust g.ref Gust.retire).onSquall g.ref.sq fun b => q.releaseOwned b g.ref.gust

/-- The state with those releases in effect, too. -/
def State.gustFreed (s : State) (g : Gust) (q : Squall) : State :=
  (s.gustRetired g q).onSquall g.ref.sq fun b => (s.gustRetired g q).freeRun b

/-- With nothing of the squall in a queue no held command is dropped. -/
theorem State.dropHeld_idle {q : Squall} (h : ∀ c ∈ s.allCmds, c.who.sq ≠ q.q) : s.dropHeld q = s := by
  have hnone : (s.allCmds.filter fun c => c.who.sq == q.q && c.record.isNone) = [] :=
    List.filter_eq_nil_iff.2 fun c hc => by simp [h c hc]
  unfold State.dropHeld
  dsimp only
  rw [hnone]
  split <;> rfl

/-- With no fault of its commands a gust has nothing to report. -/
theorem State.reportBatches_none {g : Gust} (hf : g.faults = []) (hl : g.lost = 0) (n : Nat) : s.reportBatches g n = none := by
  simp [State.reportBatches, hf, hl, earliest]

section
variable {g : Gust} {q : Squall}

/-- GUST_RETIRE of a retiring gust that has nothing left to wait for. -/
theorem State.gustRetire_due (hg : s.gust? g.ref = some g) (hq : s.squall? g.ref.sq = some q) (hstat : g.status = .retiring)
    (hhalt : g.halted = false) (hquiet : g.quiet = true) (hreply : g.reply = []) (hfaults : g.faults = []) (hlost : g.lost = 0)
    (hpend : s.cmdPending g.ref (g.bnum + 1) = false) (hcmds : ∀ c ∈ s.allCmds, c.who.sq ≠ g.ref.sq) :
    s.gustRetire g.ref = if !(s.latchesOf g.ref).isEmpty then ({ s with op := 0 } : State).gustFault g.ref 8 0 0
      else ((((s.gustRetired g q).releaseEffect g.ref.sq).breakGangs g.ref).migrJudge g.ref.sq).squallRetire g.ref.sq := by
  have hdrop : (if (s.gust? g.ref).any (fun g => g.status == .retiring && !g.halted) then
      (s.squall? g.ref.sq).elim s fun q => s.dropHeld q else s) = s := by
    rw [hq, Option.elim, State.dropHeld_idle fun c hc => (State.squall?_q hq).symm ▸ hcmds c hc, ite_self]
  unfold State.gustRetire
  dsimp only
  rw [hdrop]
  simp only [hg, hq]
  rw [if_neg (by simp [hstat, hhalt, hquiet, hreply, hpend]), State.reportBatches_none hfaults hlost]
  rfl

/-- A gust of the squall after the retirement: retired, or as it was. -/
theorem State.mem_gustsOf_gustRetired {k : Gust} (hk : k ∈ (s.gustRetired g q).gustsOf g.ref.sq) :
    ∃ h ∈ s.gustsOf g.ref.sq, k = if h.ref = g.ref then h.retire else h := by
  obtain ⟨hmem, hsq⟩ := List.mem_filter.1 hk
  obtain ⟨h, hh, rfl⟩ := List.mem_map.1 hmem
  refine ⟨h, List.mem_filter.2 ⟨hh, ?_⟩, by simp⟩
  by_cases hr : h.ref = g.ref
  · simp [hr]
  · simpa [hr] using hsq

/-- Where the squall's other gusts run, its last steps are the retirement and the releases. -/
theorem State.gustRetired_end (hrun : ∀ h ∈ s.gustsOf g.ref.sq, h.ref ≠ g.ref → h.status = .running) :
    (((s.gustRetired g q).releaseEffect g.ref.sq).breakGangs g.ref).migrJudge g.ref.sq = s.gustFreed g q := by
  have hnone : (s.gustRetired g q).NoneWaits g.ref.sq := fun k hk op w => by
    obtain ⟨h, hh, rfl⟩ := State.mem_gustsOf_gustRetired (q := q) hk
    by_cases hr : h.ref = g.ref
    · simp [hr, Gust.retire]
    · simp [hr, hrun h hh hr]
  have hfreed : (s.gustRetired g q).releaseEffect g.ref.sq = s.gustFreed g q := State.releaseEffect_idle hnone
  have hnone' : (s.gustFreed g q).NoneWaits g.ref.sq := hnone
  rw [hfreed, State.breakGangs_idle hnone', State.migrJudge_idle hnone']

theorem State.gust?_gustFreed (hg : s.gust? g.ref = some g) : (s.gustFreed g q).gust? g.ref = some g.retire :=
  State.gust?_onGust_some (s := { s with op := 0 }) hg Gust.retire fun _ h => h

theorem Squall.sameButRuns_releaseOwned (q b : Squall) (gust : Nat) : b.SameButRuns (q.releaseOwned b gust) :=
  (b.sameButRuns_releaseEach true _).trans (Squall.sameButRuns_releaseEach _ false _)

/-- The squall after the retirement. -/
theorem State.squall?_gustFreed (hq : s.squall? g.ref.sq = some q) :
    (s.gustFreed g q).squall? g.ref.sq = some ((s.gustRetired g q).freeRun (q.releaseOwned q g.ref.gust)) := by
  have hq' : q.q = g.ref.sq := State.squall?_q hq
  have hown : ∀ b : Squall, (q.releaseOwned b g.ref.gust).q = b.q := fun b => by
    rw [Squall.sameButRuns_releaseOwned q b g.ref.gust]
  have h1 : (s.gustRetired g q).squall? g.ref.sq = some (q.releaseOwned q g.ref.gust) := by
    rw [State.gustRetired, State.squall?_onSquall _ _ _ _ fun b hb => (hown b).trans hb, if_pos rfl]
    exact congrArg _ hq
  rw [State.gustFreed, State.squall?_onSquall _ _ _ (fun b => (s.gustRetired g q).freeRun b) fun _ hb => hb, if_pos rfl, h1]
  rfl

/-- The release of what a gust owns marks its tiles, and leaves the others as they are. -/
theorem Squall.tile_releaseOwned (q : Squall) (gust : Nat) {k : Nat} (hk : k < q.tiles.length) (ha : k < q.alloc.tiles) :
    (q.releaseOwned q gust).tile k = if (q.tile k).owner = some gust then { q.tile k with releasing := true } else q.tile k := by
  obtain ⟨hlen, htile⟩ := q.tile_releaseEach true (q.ownedBy true q.alloc.tiles gust) hk
  rw [Squall.releaseOwned, (Squall.tile_releaseEach _ false _ hlen).2, if_neg (by simp), htile]
  exact if_congr (by simp [Squall.mem_ownedBy, ha, Squall.owner]) rfl rfl

theorem Squall.slot_releaseOwned (q : Squall) (gust : Nat) {k : Nat} (hk : k < q.slots.length) (ha : k < q.alloc.slots) :
    (q.releaseOwned q gust).slot k = if (q.slot k).owner = some gust then { q.slot k with releasing := true } else q.slot k := by
  obtain ⟨hlen, hslot⟩ := q.slot_releaseEach true (q.ownedBy true q.alloc.tiles gust) hk
  rw [Squall.releaseOwned, (Squall.slot_releaseEach _ false _ hlen).2, hslot]
  simp [Squall.mem_ownedBy, ha, Squall.owner]

/-- The matrix queue of the squall's core, and every command in a queue, are as they were. -/
theorem State.not_needed_gustRetired (hq : q.q = g.ref.sq) (hm : (s.core q.core).matrixQ = [])
    (hcmds : ∀ c ∈ s.allCmds, ∀ p ∈ c.snap, p.q ≠ g.ref.sq) (tiles : Bool) {k : Nat}
    (hfill : tiles = false → ((q.releaseOwned q g.ref.gust).slot k).fill ≠ .pending) :
    (s.gustRetired g q).needed (q.releaseOwned q g.ref.gust) tiles k = false := by
  have hsame := Squall.sameButRuns_releaseOwned q q g.ref.gust
  have hcore : (q.releaseOwned q g.ref.gust).core = q.core := by rw [hsame]
  have hname : (q.releaseOwned q g.ref.gust).q = q.q := by rw [hsame]
  exact State.not_needed (by rw [hcore]; exact hm) (by rw [hname, hq]; exact hcmds) tiles hfill

/-- The tiles after the retirement: the gust's own are free where no matrix command stands in a queue, and every other tile with no
release under way is as it was. -/
theorem State.tile_gustRetired (hq : q.q = g.ref.sq) (hcmds : ∀ c ∈ s.allCmds, ∀ p ∈ c.snap, p.q ≠ g.ref.sq) {k : Nat}
    (hk : k < q.tiles.length) (ha : k < q.alloc.tiles) :
    let b := (s.gustRetired g q).freeRun (q.releaseOwned q g.ref.gust)
    ((s.core q.core).matrixQ = [] → (q.tile k).owner = some g.ref.gust → (b.tile k).owner = none) ∧
    ((q.tile k).owner ≠ some g.ref.gust → (q.tile k).releasing = false → b.tile k = q.tile k) := by
  intro b
  have hb := State.tile_freeRun (s.gustRetired g q) (q.releaseOwned q g.ref.gust) k
  rw [Squall.tile_releaseOwned q g.ref.gust hk ha] at hb
  refine ⟨fun hm hown => ?_, fun hown hrel => ?_⟩
  · rw [State.not_needed_gustRetired hq hm hcmds true fun h => nomatch h] at hb
    simp [b, hb, hown]
  · simp [b, hb, hown, hrel]

/-- The same of the slots; one whose fill is pending is not free yet (R210). -/
theorem State.slot_gustRetired (hq : q.q = g.ref.sq) (hcmds : ∀ c ∈ s.allCmds, ∀ p ∈ c.snap, p.q ≠ g.ref.sq) {k : Nat}
    (hk : k < q.slots.length) (ha : k < q.alloc.slots) :
    let b := (s.gustRetired g q).freeRun (q.releaseOwned q g.ref.gust)
    ((s.core q.core).matrixQ = [] → (q.slot k).fill ≠ .pending → (q.slot k).owner = some g.ref.gust → (b.slot k).owner = none) ∧
    ((q.slot k).owner ≠ some g.ref.gust → (q.slot k).releasing = false → b.slot k = q.slot k) := by
  intro b
  have hb := State.slot_freeRun (s.gustRetired g q) (q.releaseOwned q g.ref.gust) k
  have hslot := Squall.slot_releaseOwned q g.ref.gust hk ha
  refine ⟨fun hm hfill hown => ?_, fun hown hrel => ?_⟩
  · rw [State.not_needed_gustRetired hq hm hcmds false fun _ => by rw [hslot, if_pos hown]; exact hfill] at hb
    simp [b, hb, hslot, hown]
  · simp [b, hb, hslot, hown, hrel]

/-- The squall's retirement waits for its other gusts. -/
theorem State.squallRetire_waits {t : State} {r : SqRef} (h : ∃ k ∈ t.gustsOf r, k.status ≠ .retired) : t.squallRetire r = t := by
  obtain ⟨k, hk, hs⟩ := h
  rw [State.squallRetire, if_neg]
  simp only [Bool.and_eq_true, List.all_eq_true, beq_iff_eq, not_and]
  exact fun hall => absurd (hall k hk) hs

/-- With its last gust retired the squall is gone, and its front has one squall less left (R357). -/
theorem State.squallRetire_last {t : State} {r : GustRef} (hall : ∀ k ∈ t.gustsOf r.sq, k.status = .retired)
    (hsome : (t.squall? r.sq).isSome = true) :
    (t.squallRetire r.sq).squall? r.sq = none ∧ (t.squallRetire r.sq).gust? r = none ∧
    ∀ f, t.front? r.front = some f → (t.squallRetire r.sq).front? r.front = some { f with left := f.left - 1 } := by
  have hretire : t.squallRetire r.sq = (t.dropSquall r.sq).onFront r.front fun (f : Front) => { f with left := f.left - 1 } :=
    if_pos (by simpa [hsome] using hall)
  rw [hretire]
  refine ⟨State.squall?_dropSquall t r.sq, State.gust?_dropSquall t r, fun f hf => ?_⟩
  rw [State.front?_onFront _ _ _ (fun f => { f with left := f.left - 1 }) fun _ h => h, if_pos rfl, State.front?, fronts_dropSquall]
  exact congrArg _ hf

end

end

/-- The second part of O48. -/
theorem schedulingSteps_gustRetire : Claims.GustRetire := by
  intro s g q hg hq hstat hhalt hquiet hreply hfaults hlost hpend hcmds u
  have hname : q.q = g.ref.sq := State.squall?_q hq
  have hdue := State.gustRetire_due hg hq hstat hhalt hquiet hreply hfaults hlost hpend fun c hc => (hcmds c hc).1
  refine ⟨fun hlatch hh => ?_, fun hlatch => ⟨s.gustRetire g.ref, rfl, fun hrun hother => ?_, fun hone => ?_⟩⟩
  · show Host.Outcome.next (s.gustRetire g.ref) = _
    obtain ⟨hact, hlo, hmod⟩ := hh
    rw [hdue, if_pos (by simpa using hlatch), State.gustFault]
    simp only [show ({ s with op := 0 } : State).gust? g.ref = some g from hg]
    rw [State.trapEntry_enters (s := u) hg hq hact hlo hmod]
    rfl
  · rw [hdue, if_neg (by simpa using hlatch), State.gustRetired_end hrun]
    obtain ⟨h, hh, hne⟩ := hother
    have hwaits : ∃ k ∈ (s.gustFreed g q).gustsOf g.ref.sq, k.status ≠ .retired := by
      obtain ⟨hmem, hsq⟩ := List.mem_filter.1 hh
      refine ⟨h, List.mem_filter.2 ⟨List.mem_map.2 ⟨h, hmem, if_neg (by simpa using hne)⟩, hsq⟩, by simp [hrun h hh hne]⟩
    rw [State.squallRetire_waits hwaits]
    have hcmds' : ∀ c ∈ s.allCmds, ∀ p ∈ c.snap, p.q ≠ g.ref.sq := fun c hc => (hcmds c hc).2
    exact ⟨State.gust?_gustFreed hg, _, State.squall?_gustFreed hq,
      (Squall.sameButRuns_releaseOwned q q g.ref.gust).trans (State.sameButRuns_freeRun _ _),
      fun k hk ha => State.tile_gustRetired hname hcmds' hk ha, fun k hk ha => State.slot_gustRetired hname hcmds' hk ha⟩
  · have honly : ∀ h ∈ s.gustsOf g.ref.sq, h = g := fun h hh => by simpa [hone] using hh
    rw [hdue, if_neg (by simpa using hlatch), State.gustRetired_end fun h hh hne => absurd (honly h hh ▸ rfl) hne]
    have hall : ∀ k ∈ (s.gustFreed g q).gustsOf g.ref.sq, k.status = .retired := fun k hk => by
      obtain ⟨h, hh, rfl⟩ := State.mem_gustsOf_gustRetired (q := q) hk
      rw [honly h hh, if_pos rfl]
      rfl
    exact State.squallRetire_last hall (by rw [State.squall?_gustFreed hq]; rfl)

end Sys2Proof.Machine
end

section
/-! O48: the bind of a squall (R17, R95, R125, R128, R171, R177, R361, R363, R394). -/

namespace Sys2Proof

/-- A constant mask has its trit in every lane. -/
theorem Mask.get_ones {l : Nat} (hl : l < 81) : Mask.ones.get l = .plus := by
  have h : Mask.ones = Mask.tab fun _ => .plus := by decide +kernel
  rw [h, Mask.get_tab _ _ hl]

theorem Mask.get_zero {l : Nat} (hl : l < 81) : Mask.zero.get l = .zero := by
  have h : Mask.zero = Mask.tab fun _ => .zero := by decide +kernel
  rw [h, Mask.get_tab _ _ hl]

end Sys2Proof

namespace Sys2Proof.Machine

/-! A gust at bind. -/

section
variable {r : GustRef} {age slot vbase : Nat} {a : Alloc} {priv : Bool} {sreg : List Word} {preg : List Mask}

/-- Scalar `j` of the file at bind (R128). -/
theorem scalarsAtBind_getD {args : Int} {idx : Nat × Nat × Nat} {gust core j : Nat} {old : List Word} (hj : j < a.s) (hs : j < 78) :
    (scalarsAtBind a args idx gust core old).getD j Word.zero =
      [Word.ofInt args, Word.ofNat idx.1, Word.ofNat idx.2.1, Word.ofNat idx.2.2, Word.ofNat gust, Word.ofNat core].getD j Word.zero := by
  have hrange : j < 81 := by omega
  simp [scalarsAtBind, List.getD_eq_getElem?_getD, hrange, hj, show ¬ 78 ≤ j by omega]

/-- All lanes participate (R95). -/
theorem scalarsAtBind_mask {args : Int} {idx : Nat × Nat × Nat} {gust core : Nat} {old : List Word} :
    (gustAtBind r age slot vbase a priv (scalarsAtBind a args idx gust core old) preg).mask = Mask.ones := by
  simp [Gust.mask, Gust.s, gustAtBind, scalarsAtBind, Mask.ones]

/-- Predicate `j` of the allotment (R128). -/
theorem predsAtBind_p {old : List Mask} {j : Nat} (hj : j < 27) (ha : j < a.p) :
    (gustAtBind r age slot vbase a priv sreg (predsAtBind a old)).p j = Mask.zero := by
  simp [Gust.p, gustAtBind, predsAtBind, List.getD_eq_getElem?_getD, hj, ha]

/-- Vector register `j` of the allotment (R128). -/
theorem gustAtBind_v {j l : Nat} (hj : j < a.v) (hl : l < 81) :
    ((gustAtBind r age slot vbase a priv sreg preg).v j).get l = if j = 0 then Word.ofNat l else Word.zero := by
  have hv : (gustAtBind r age slot vbase a priv sreg preg).v j = vectorAtBind j := by
    simp [Gust.v, gustAtBind, List.getD_eq_getElem?_getD, hj]
  rw [hv, vectorAtBind]
  split
  · exact Lanes.get_tab _ _ hl
  · exact Lanes.get_splat _ _ hl

end

/-! What the bind leaves of the gusts, the squalls and the contexts. -/

/-- Two states with the same gusts, squalls and contexts. -/
structure SameBound (s t : State) : Prop where
  gusts : t.gusts = s.gusts
  squalls : t.squalls = s.squalls
  contexts : t.contexts = s.contexts

theorem SameBound.refl (s : State) : SameBound s s := ⟨rfl, rfl, rfl⟩

theorem SameBound.trans {s t u : State} (h : SameBound s t) (k : SameBound t u) : SameBound s u :=
  ⟨k.gusts.trans h.gusts, k.squalls.trans h.squalls, k.contexts.trans h.contexts⟩

theorem State.each_fixed {α : Type} {f : State → α → State} {s : State} {xs : List α} (h : ∀ x ∈ xs, f s x = s) : s.each xs f = s := by
  induction xs with
  | nil => rfl
  | cons x xs ih =>
    have hx : s.each (x :: xs) f = (f s x).each xs f := rfl
    rw [hx, h x List.mem_cons_self, ih fun y hy => h y (List.mem_cons_of_mem _ hy)]

theorem sameBound_each {α : Type} {f : State → α → State} (hf : ∀ t x, SameBound t (f t x)) (s : State) (xs : List α) :
    SameBound s (s.each xs f) := by
  induction xs generalizing s with
  | nil => exact .refl s
  | cons x xs ih => exact (hf s x).trans (ih (f s x))

theorem sameBound_applyInvalidation (s : State) (d p q : Nat) : SameBound s (s.applyInvalidation d p q) := by
  unfold State.applyInvalidation
  dsimp only
  split <;> exact ⟨rfl, rfl, rfl⟩

theorem sameBound_deliver (s : State) (d : Nat) (clk : List Nat) : SameBound s (s.deliver d clk) := by
  unfold State.deliver
  refine SameBound.trans (t := s.each _ _) (sameBound_each (fun t i => ?_) _ _) ⟨rfl, rfl, rfl⟩
  split
  · exact sameBound_applyInvalidation t d _ _
  · exact .refl t

theorem sameBound_orderPoint (s : State) (d : Nat) (sys : Bool) : SameBound s (s.orderPoint d sys) := by
  have hreceive : SameBound s (s.receive d s.allClocks) := by
    unfold State.receive
    split
    · exact (sameBound_deliver s d _).trans ⟨rfl, rfl, rfl⟩
    · exact ⟨rfl, rfl, rfl⟩
  exact hreceive.trans ⟨rfl, rfl, rfl⟩

/-! The gusts that a bind adds. -/

/-- One gust of the squall takes its issue slot and its vector registers: `x` are its number, the slot and the vector base. -/
def State.bindGust (f : Front) (lin core : Nat) (q : Squall) (priv : Bool) (s : State) (x : Nat × Nat × Nat) : State :=
  let (age, s) := s.fresh
  let sreg := scalarsAtBind q.alloc f.spec.args q.idx x.1 core (s.slotScalars core x.2.1)
  let preg := predsAtBind q.alloc (s.slotPreds core x.2.1)
  { s with gusts := s.gusts ++ [gustAtBind ⟨f.num, lin, x.1⟩ age x.2.1 x.2.2 q.alloc priv sreg preg] }

/-- A gust as the bind makes it, number `k` of the squall. -/
def BoundAs (f : Front) (lin core : Nat) (q : Squall) (priv : Bool) (k : Nat) (g : Gust) : Prop :=
  ∃ age slot vbase old oldP, g = gustAtBind ⟨f.num, lin, k⟩ age slot vbase q.alloc priv
    (scalarsAtBind q.alloc f.spec.args q.idx k core old) (predsAtBind q.alloc oldP)

section
variable {f : Front} {lin core : Nat} {q : Squall} {priv : Bool}

/-- The bind adds one gust for each number, and changes no squall and no context. -/
theorem bindGust_each (s : State) (xs : List (Nat × Nat × Nat)) : ∃ news : List Gust,
    (s.each xs (State.bindGust f lin core q priv)).gusts = s.gusts ++ news ∧
    (s.each xs (State.bindGust f lin core q priv)).squalls = s.squalls ∧
    (s.each xs (State.bindGust f lin core q priv)).contexts = s.contexts ∧
    (∀ g ∈ news, ∃ x ∈ xs, BoundAs f lin core q priv x.1 g) ∧ ∀ x ∈ xs, ∃ g ∈ news, BoundAs f lin core q priv x.1 g := by
  induction xs generalizing s with
  | nil => exact ⟨[], by simp [State.each]⟩
  | cons x xs ih =>
    obtain ⟨news, hg, hq, hc, hall, hsome⟩ := ih (State.bindGust f lin core q priv s x)
    let g0 := gustAtBind ⟨f.num, lin, x.1⟩ s.serial x.2.1 x.2.2 q.alloc priv
      (scalarsAtBind q.alloc f.spec.args q.idx x.1 core (s.slotScalars core x.2.1)) (predsAtBind q.alloc (s.slotPreds core x.2.1))
    have h0 : BoundAs f lin core q priv x.1 g0 := ⟨_, _, _, _, _, rfl⟩
    refine ⟨g0 :: news, hg.trans ?_, hq, hc, fun g hmem => ?_, fun y hy => ?_⟩
    · exact List.append_assoc s.gusts [g0] news
    · rcases List.mem_cons.1 hmem with rfl | hmem
      · exact ⟨x, List.mem_cons_self, h0⟩
      · obtain ⟨y, hy, hb⟩ := hall g hmem
        exact ⟨y, List.mem_cons_of_mem _ hy, hb⟩
    · rcases List.mem_cons.1 hy with rfl | hy
      · exact ⟨g0, List.mem_cons_self, h0⟩
      · obtain ⟨g, hmem, hb⟩ := hsome y hy
        exact ⟨g, List.mem_cons_of_mem _ hmem, hb⟩

end

/-! Where the squall is bound. -/

theorem vectorRuns_length {used : List (Nat × Nat)} {total v k : Nat} {bs : List Nat} (h : vectorRuns used total v k = some bs) :
    bs.length = k := by
  induction k generalizing used bs with
  | zero =>
    obtain rfl : [] = bs := Option.some.inj h
    rfl
  | succ k ih =>
    unfold vectorRuns at h
    split at h
    · cases h
    · obtain ⟨l, hl, rfl⟩ := Option.map_eq_some_iff.1 h
      rw [List.length_cons, ih hl]

/-- A berth has an issue slot and a vector base for each gust (R21). -/
theorem State.berth_lengths {s : State} {core k : Nat} {a : Alloc} {h : Held} (hb : s.berth core a k = some h) :
    h.slots.length = k ∧ h.vbases.length = k := by
  unfold State.berth at hb
  dsimp only at hb
  split at hb
  · cases hb
  · next hfree =>
    split at hb
    · next hv =>
      obtain rfl := Option.some.inj hb
      exact ⟨List.length_take_of_le (not_lt.1 hfree), vectorRuns_length hv⟩
    · cases hb

theorem State.bindPlan_some {s : State} {front core lin : Nat} {f : Front} {d : Dist} {h : Held}
    (hp : s.bindPlan front core = some (f, lin, d, h)) : s.berth core f.spec.alloc f.spec.gusts = some h := by
  unfold State.bindPlan at hp
  dsimp only at hp
  split at hp
  · split at hp
    · split at hp
      · obtain ⟨k, hk, he⟩ := Option.map_eq_some_iff.1 hp
        cases he
        exact hk
      · cases hp
    · cases hp
  · cases hp

/-! The bind. -/

section
variable {s : State} {f : Front} {lin core : Nat} {h : Held}

/-- The state in which the squall's gusts have started, before their trace. -/
def State.bindGusts (s : State) (f : Front) (lin core : Nat) (h : Held) : State :=
  let q := squallAtBind s f lin core h
  let t := (({ s with squalls := s.squalls ++ [q] } : State).orderPoint (dieOf core) false).each
    (List.zip (List.range q.count) (List.zip h.slots h.vbases))
    (State.bindGust f lin core q ((s.image? q.image).any (·.priv)))
  t.occupy q (t.gustsOf q.q)

theorem State.bindAt_eq (s : State) (f : Front) (lin core : Nat) (h : Held) :
    s.bindAt f lin core h = (s.bindGusts f lin core h).each ((s.bindGusts f lin core h).gustsOf ⟨f.num, lin⟩) fun s g => s.traceBind g.ref :=
  rfl

/-- The gusts, squalls and contexts after the bind. -/
theorem State.bindGusts_bound (hs : h.slots.length = f.spec.gusts) (hv : h.vbases.length = f.spec.gusts) : ∃ news : List Gust,
    (s.bindGusts f lin core h).gusts = s.gusts ++ news ∧
    (s.bindGusts f lin core h).squalls = s.squalls ++ [squallAtBind s f lin core h] ∧
    (s.bindGusts f lin core h).contexts = s.contexts ∧
    (∀ g ∈ news, ∃ k, BoundAs f lin core (squallAtBind s f lin core h)
      ((s.image? (if coreIsD core then f.spec.imgD else f.spec.imgL)).any (·.priv)) k g) ∧
    ∀ k, k < f.spec.gusts → ∃ g ∈ news, g.ref = ⟨f.num, lin, k⟩ := by
  have hpoint := sameBound_orderPoint ({ s with squalls := s.squalls ++ [squallAtBind s f lin core h] } : State) (dieOf core) false
  obtain ⟨news, hg, hq, hc, hall, hsome⟩ := bindGust_each (f := f) (lin := lin) (core := core) (q := squallAtBind s f lin core h)
    (priv := (s.image? (if coreIsD core then f.spec.imgD else f.spec.imgL)).any (·.priv))
    (({ s with squalls := s.squalls ++ [squallAtBind s f lin core h] } : State).orderPoint (dieOf core) false)
    (List.zip (List.range f.spec.gusts) (List.zip h.slots h.vbases))
  refine ⟨news, hg.trans (by rw [hpoint.gusts]), hq.trans hpoint.squalls, hc.trans hpoint.contexts, fun g hmem => ?_, fun k hk => ?_⟩
  · obtain ⟨x, -, hb⟩ := hall g hmem
    exact ⟨x.1, hb⟩
  · have hlen : k < (List.zip (List.range f.spec.gusts) (List.zip h.slots h.vbases)).length := by simp [hs, hv, hk]
    obtain ⟨g, hmem, age, slot, vbase, old, oldP, rfl⟩ := hsome _ (List.getElem_mem hlen)
    exact ⟨_, hmem, by simp [gustAtBind]⟩

end

/-- The fifth part of O48. -/
theorem schedulingSteps_squallBind : Claims.SquallBind := by
  intro s front core lin f d h hcore hstop hplan hfirst hq hgs htrace halloc
  obtain ⟨hslots, hvbases⟩ := State.berth_lengths (State.bindPlan_some hplan)
  let s0 : State := s.onDie (dieOf core) fun x => { x with dists := x.dists.map fun e => if e.front == front then d else e }
  let t := s0.bindGusts f lin core h
  obtain ⟨news, htg, htq, htc, hall, hsome⟩ := State.bindGusts_bound (s := s0) (f := f) (lin := lin) (core := core) hslots hvbases
  have hsq : t.squall? ⟨f.num, lin⟩ = some (squallAtBind s0 f lin core h) := by
    have hnone : s.squalls.find? (fun x => x.q == ⟨f.num, lin⟩) = none := hq
    rw [State.squall?, htq]
    show (s.squalls ++ [_]).find? _ = _
    rw [List.find?_append, hnone]
    simp [squallAtBind]
  have hbind : exec (.squallBind front core) s = .next t := by
    have hoff : (t.each (t.gustsOf ⟨f.num, lin⟩) fun s g => s.traceBind g.ref) = t := State.each_fixed fun g hg => by
      have href : g.ref.sq = ⟨f.num, lin⟩ := by simpa using (List.mem_filter.1 hg).2
      have hctx : t.traceOn f.ctx = s.traceOn f.ctx := by rw [State.traceOn, State.context, htc]; rfl
      rw [State.traceBind, href, hsq]
      simp [squallAtBind, hctx, htrace]
    show agent (decide (core < 243)) (s.squallBind front core) = _
    rw [agent, if_pos (decide_eq_true hcore), State.squallBind]
    simp only [hstop, Bool.false_eq_true, if_false, hplan, hfirst]
    exact congrArg _ ((State.bindAt_eq s0 f lin core h).trans hoff)
  refine ⟨t, squallAtBind s0 f lin core h, hbind, hsq, rfl, rfl, rfl, rfl, rfl, rfl, rfl, rfl, rfl, rfl, rfl, ?_, rfl, fun k hk => ?_⟩
  · rfl
  · have hnone : s.gusts.find? (fun x => x.ref == ⟨f.num, lin, k⟩) = none := List.find?_eq_none.2 fun x hx hr => by
      have hmem : x ∈ s.gustsOf ⟨f.num, lin⟩ := List.mem_filter.2 ⟨hx, by rw [eq_of_beq hr]; simp [GustRef.sq]⟩
      simp [hgs] at hmem
    obtain ⟨g0, hmem0, href0⟩ := hsome k hk
    have hfound : (news.find? fun x => x.ref == ⟨f.num, lin, k⟩).isSome = true := List.find?_isSome.2 ⟨g0, hmem0, by simpa using href0⟩
    obtain ⟨g, hg⟩ := Option.isSome_iff_exists.1 hfound
    have htgk : t.gust? ⟨f.num, lin, k⟩ = some g := by
      rw [State.gust?, htg]
      show (s.gusts ++ news).find? _ = _
      rw [List.find?_append, hnone]
      exact hg
    obtain ⟨j, age, slot, vbase, old, oldP, rfl⟩ := hall g (List.mem_of_find?_eq_some hg)
    obtain rfl : j = k := by simpa [gustAtBind] using State.gust?_ref htgk
    refine ⟨_, htgk, rfl, rfl, rfl, rfl, rfl, rfl, rfl, rfl, fun l hl => ?_, fun i l hi ha hl => ?_, fun i l hi hl => ?_, fun i hi => ?_⟩
    · rw [scalarsAtBind_mask, Mask.get_ones hl]
    · exact (congrArg (·.get l) (predsAtBind_p hi ha)).trans (Mask.get_zero hl)
    · exact gustAtBind_v hi hl
    · refine (scalarsAtBind_getD hi (by omega)).trans ?_
      match i with
      | 0 | 1 | 2 | 3 | 4 | 5 => rfl
      | n + 6 => rfl

end Sys2Proof.Machine
end

section
/-! O48: the parts together. -/

namespace Sys2Proof.Machine

/-- Settles O48: the issue choice, the gust's retirement, the split of a range, bind records, the bind and the front's retirement, each
in its part. -/
theorem schedulingSteps : Obligations.SchedulingSteps :=
  ⟨schedulingSteps_issueChoice, schedulingSteps_gustRetire, schedulingSteps_rangeDistribute, schedulingSteps_bindRecordWrite,
    schedulingSteps_squallBind, schedulingSteps_frontRetire⟩

end Sys2Proof.Machine
end

section
/-! The register forms of mod layout T (R140, R153): an undisturbed gust whose registers alone a form changes, the vector registers and
scalars that one writes in turn, and what `State.performT` leaves in either kind of shape. -/

namespace Sys2Proof.Machine

/-! Changes of registers other than the mask words. -/

theorem Gust.SameCourse.refl (g : Gust) : g.SameCourse g := ⟨rfl, rfl, rfl, rfl, rfl, rfl, rfl, rfl, rfl⟩

theorem Gust.SameCourse.trans {g h k : Gust} (hgh : g.SameCourse h) (hhk : h.SameCourse k) : g.SameCourse k :=
  ⟨hhk.ref.trans hgh.ref, hhk.mask.trans hgh.mask, hhk.active.trans hgh.active, hhk.step.trans hgh.step, hhk.faults.trans hgh.faults,
    hhk.records.trans hgh.records, hhk.stack.trans hgh.stack, hhk.wrote.trans hgh.wrote, hhk.cmd.trans hgh.cmd⟩

theorem Gust.SameCourse.withV (g : Gust) (d : Nat) (w : Lanes) : g.SameCourse (g.withV d w) :=
  ⟨rfl, rfl, rfl, rfl, rfl, rfl, rfl, rfl, rfl⟩

theorem Gust.SameCourse.withP (g : Gust) (p : Nat) (m : Mask) : g.SameCourse (g.withP p m) :=
  ⟨rfl, rfl, rfl, rfl, rfl, rfl, rfl, rfl, rfl⟩

theorem Gust.SameCourse.withVs (g : Gust) (d : Nat) (ws : List Lanes) : g.SameCourse (Claims.withVs g d ws) := by
  induction ws generalizing g d with
  | nil => exact .refl g
  | cons w ws ih => exact (Gust.SameCourse.withV g d w).trans (ih _ _)

theorem Gust.SameCourse.withSs (g : Gust) {d : Nat} {ws : List Word} (hd : d + ws.length ≤ 78) :
    g.SameCourse (Claims.withSs g d ws) := by
  induction ws generalizing g d with
  | nil => exact .refl g
  | cons w ws ih =>
    rw [List.length_cons] at hd
    exact (Gust.SameCourse.withS g (by omega) w).trans (ih _ (by omega))

theorem Gust.withSs_ref (g : Gust) (d : Nat) (ws : List Word) : (Claims.withSs g d ws).ref = g.ref := by
  induction ws generalizing g d with
  | nil => rfl
  | cons w ws ih => exact ih _ _

theorem Gust.withVs_concat (g : Gust) (d : Nat) (ws : List Lanes) (w : Lanes) :
    Claims.withVs g d (ws ++ [w]) = (Claims.withVs g d ws).withV (d + ws.length) w := by
  induction ws generalizing g d with
  | nil => rfl
  | cons v ws ih =>
    rw [List.cons_append, Claims.withVs, ih, Claims.withVs, List.length_cons, Nat.add_assoc, Nat.add_comm 1]

/-- Two updates of one gust by name. -/
theorem State.onGust_onGust (s : State) (r : GustRef) {f : Gust → Gust} (hf : ∀ k, k.ref = r → (f k).ref = r) (f' : Gust → Gust) :
    (s.onGust r f).onGust r f' = s.onGust r fun k => f' (f k) := by
  unfold State.onGust
  simp only [List.map_map, State.mk.injEq, true_and, and_true]
  apply List.map_congr_left
  intro x _
  by_cases hx : x.ref = r
  · simp [hx, hf x hx]
  · simp [hx]

/-- Scalars below the mask words, written in turn, are one update of the gust. -/
theorem State.writeSs_onGust (s : State) (r : GustRef) {d : Nat} {ws : List Word} (hd : d + ws.length ≤ 78) :
    s.writeSs r d ws = s.onGust r fun k => Claims.withSs k d ws := by
  induction ws generalizing s d with
  | nil => simp [State.writeSs, Claims.withSs, State.onGust]
  | cons w ws ih =>
    rw [List.length_cons] at hd
    have hw : s.writeS r d w = s.onGust r fun k => k.withS d w := if_neg (by omega)
    rw [State.writeSs, ih _ (by omega), hw, State.onGust_onGust _ _ (f := fun k => k.withS d w) fun _ h => h]
    rfl

section
variable {s : State} {g : Gust} {q : Squall}

/-- An instruction whose effect is an update of the issuing gust's registers by name. -/
theorem State.out_onGust (hi : s.Issuing g q) (hu : g.Undisturbed q) {f : Gust → Gust} (hf : ∀ k, k.ref = g.ref → (f k).ref = g.ref)
    (hk : g.SameCourse (f g)) : Claims.out (s.onGust g.ref f) g = s.after g (f g) q (g.pc + 1) := by
  rw [Claims.out, State.complete_onGust hi hu hf hk]
  rfl

/-- The same where the effect replaces the gust's record. -/
theorem State.out_setGust (hi : s.Issuing g q) (hu : g.Undisturbed q) {h : Gust} (hk : g.SameCourse h) :
    Claims.out (s.setGust h) g = s.after g h q (g.pc + 1) := by
  have hset : s.setGust h = s.onGust g.ref fun _ => h := by rw [← hk.ref]; rfl
  rw [hset, State.out_onGust (f := fun _ => h) hi hu (fun _ _ => hk.ref) hk]

/-! The lanes and words of a form. -/

theorem Gust.field_a (g : Gust) (o : TOps) (l : Nat) : g.field o o.a 1 l = [Claims.aWord g o l] := rfl

theorem Gust.field_d (g : Gust) (o : TOps) (l : Nat) : g.field o o.d 1 l = [Claims.dWord g o l] := rfl

theorem Gust.bField_one (g : Gust) (o : TOps) (l : Nat) : g.bField o 1 l = [Claims.bWord g o l] := by
  unfold Gust.bField Claims.bWord
  cases o.sh <;> rfl

/-- What a form's function gives in lane `l`, or of the scalars, with `nd`, `na` and `nb` registers in the fields d, a and b. -/
def Gust.laneResult (g : Gust) (o : TOps) (nd na nb : Nat) (f : LaneFn) (l : Nat) : List Word × Trit :=
  f (g.field o o.a na l) (g.bField o nb l) (g.field o o.d nd l)

/-- `n` vector registers from `d` on, as a form rewrites them in the lanes `act`. -/
def Gust.rewrittenRegs (g : Gust) (d : Nat) (act : List Bool) (f : Nat → List Word) (n : Nat) : List Lanes :=
  (List.range n).map fun k => (g.v (d + k)).update act fun l => (f l).getD k Word.zero

theorem Gust.rewrittenRegs_length (g : Gust) (d : Nat) (act : List Bool) (f : Nat → List Word) (n : Nat) :
    (g.rewrittenRegs d act f n).length = n := by simp [Gust.rewrittenRegs]

theorem Gust.putLanes_eq_withVs (g : Gust) (d : Nat) (act : List Bool) (f : Nat → List Word) (n : Nat) :
    g.putLanes d act f n = Claims.withVs g d (g.rewrittenRegs d act f n) := by
  induction n with
  | zero => rfl
  | succ n ih =>
    have hsnoc : g.rewrittenRegs d act f (n + 1) =
        g.rewrittenRegs d act f n ++ [(g.v (d + n)).update act fun l => (f l).getD n Word.zero] := by
      simp [Gust.rewrittenRegs, List.range_succ]
    rw [Gust.putLanes, ih, hsnoc, Gust.withVs_concat, Gust.rewrittenRegs_length]

theorem Gust.get_rewrittenRegs (g : Gust) (d : Nat) {act : List Bool} (ha : act.length = 81) (f : Nat → List Word) {n k l : Nat}
    (hk : k < n) (hl : l < 81) :
    ((g.rewrittenRegs d act f n).getD k (Lanes.splat Word.zero)).get l =
      if act.getD l false then (f l).getD k Word.zero else (g.v (d + k)).get l := by
  have hreg : (g.rewrittenRegs d act f n).getD k (Lanes.splat Word.zero) = (g.v (d + k)).update act fun l => (f l).getD k Word.zero := by
    simp [Gust.rewrittenRegs, List.getD_eq_getElem?_getD, hk]
  rw [hreg, Lanes.get_update _ _ _ _ hl ha]

/-- A form in a vector shape writes the participating lanes of its `nd` destinations, and of p26 under .cy, and nothing else (R140). -/
theorem State.performT_vector (hi : s.Issuing g q) (hu : g.Undisturbed q) (c : Ctl) {o : TOps} (ho : o.sh.isVec = true) (cy : Bool)
    (nd na nb : Nat) (f : LaneFn) :
    ∃ (ws : List Lanes) (m : Mask), ws.length = nd ∧
      s.performT c o cy nd na nb f = .next (s.after g
        (if cy then (Claims.withVs g o.d ws).withP 26 m else Claims.withVs g o.d ws) q (g.pc + 1)) ∧
      ∀ l, l < 81 →
        (l ∈ g.activeLanes c.guard →
          (∀ k, k < nd → (ws.getD k (Lanes.splat Word.zero)).get l = (g.laneResult o nd na nb f l).1.getD k Word.zero) ∧
          m.get l = (g.laneResult o nd na nb f l).2) ∧
        (l ∉ g.activeLanes c.guard → (∀ k, k < nd → (ws.getD k (Lanes.splat Word.zero)).get l = (g.v (o.d + k)).get l) ∧
          m.get l = (g.p 26).get l) := by
  have ha := g.active_length c.guard
  refine ⟨g.rewrittenRegs o.d (g.active c.guard) (fun l => (g.laneResult o nd na nb f l).1) nd,
    (g.p 26).update (g.active c.guard) fun l => (g.laneResult o nd na nb f l).2, g.rewrittenRegs_length .., ?_,
    fun l hl => ⟨fun hin => ?_, fun hout => ?_⟩⟩
  · rw [State.performT_vec hi c o ho, Gust.putLanes_eq_withVs]
    refine congrArg _ (State.out_setGust hi hu ?_)
    cases cy
    · exact .withVs ..
    · exact (Gust.SameCourse.withVs ..).trans (.withP ..)
  · have hact := ((g.mem_activeLanes _ _).1 hin).2
    exact ⟨fun k hk => by rw [Gust.get_rewrittenRegs _ _ ha _ hk hl, if_pos hact], by rw [Mask.get_update _ _ _ _ hl, if_pos hact]⟩
  · have hidle : ¬ (g.active c.guard).getD l false = true := fun h => hout ((g.mem_activeLanes _ _).2 ⟨hl, h⟩)
    exact ⟨fun k hk => by rw [Gust.get_rewrittenRegs _ _ ha _ hk hl, if_neg hidle], by rw [Mask.get_update _ _ _ _ hl, if_neg hidle]⟩

/-- The same for a form with one destination. -/
theorem State.performT_vector_one (hi : s.Issuing g q) (hu : g.Undisturbed q) (c : Ctl) {o : TOps} (ho : o.sh.isVec = true) (cy : Bool)
    (na nb : Nat) (f : LaneFn) :
    ∃ (w : Lanes) (m : Mask),
      s.performT c o cy 1 na nb f = .next (s.after g (if cy then (g.withV o.d w).withP 26 m else g.withV o.d w) q (g.pc + 1)) ∧
      ∀ l, l < 81 →
        (l ∈ g.activeLanes c.guard →
          w.get l = (g.laneResult o 1 na nb f l).1.getD 0 Word.zero ∧ m.get l = (g.laneResult o 1 na nb f l).2) ∧
        (l ∉ g.activeLanes c.guard → w.get l = (g.v o.d).get l ∧ m.get l = (g.p 26).get l) := by
  obtain ⟨ws, m, hlen, hexec, hlanes⟩ := State.performT_vector hi hu c ho cy 1 na nb f
  obtain ⟨w, rfl⟩ := List.length_eq_one_iff.1 hlen
  exact ⟨w, m, hexec, fun l hl => ⟨fun hin => ((hlanes l hl).1 hin).imp_left (· 0 one_pos),
    fun hout => ((hlanes l hl).2 hout).imp_left (· 0 one_pos)⟩⟩

/-- A form in a scalar shape whose guard lets no participating lane pass has no effect (R67). -/
theorem State.performT_idle (hi : s.Issuing g q) (hu : g.Undisturbed q) {c : Ctl} {o : TOps} (ho : o.sh.isVec = false)
    (hno : g.acts c.guard = false) (cy : Bool) (nd na nb : Nat) (f : LaneFn) :
    s.performT c o cy nd na nb f = .next (s.after g g q (g.pc + 1)) := by
  rw [State.performT, State.performAs, State.perform_issuing hi, if_neg (by simp [ho, hno]), State.settle_done_self hi hu]

/-- A form in a scalar shape that acts writes its scalars in turn, and all of p26 under .cy (R140). -/
theorem State.performT_acts (hi : s.Issuing g q) {c : Ctl} {o : TOps} (ho : o.sh.isVec = false) (hact : g.acts c.guard = true) (cy : Bool)
    (nd na nb : Nat) (f : LaneFn) :
    s.performT c o cy nd na nb f = .next (Claims.out (if cy
      then (s.writeSs g.ref o.d (g.laneResult o nd na nb f 0).1).writeP g.ref 26 (Mask.tab fun _ => (g.laneResult o nd na nb f 0).2)
      else s.writeSs g.ref o.d (g.laneResult o nd na nb f 0).1) g) :=
  State.performT_scal hi c o ho hact cy nd na nb f

/-- A form in a scalar shape that acts, where its `n` destinations are no mask words, writes those scalars, and p26 under .cy, and
nothing else (R140). -/
theorem State.performT_scalars (hi : s.Issuing g q) (hu : g.Undisturbed q) {c : Ctl} {o : TOps} (ho : o.sh.isVec = false)
    (hact : g.acts c.guard = true) (cy : Bool) {nd na nb n : Nat} {f : LaneFn} (hn : (g.laneResult o nd na nb f 0).1.length = n)
    (hd : o.d + n ≤ 78) :
    s.performT c o cy nd na nb f = .next (s.after g
      (if cy then (Claims.withSs g o.d (g.laneResult o nd na nb f 0).1).withP 26 (Mask.tab fun _ => (g.laneResult o nd na nb f 0).2)
       else Claims.withSs g o.d (g.laneResult o nd na nb f 0).1) q (g.pc + 1)) := by
  subst hn
  rw [State.performT_acts hi ho hact]
  have href : ∀ k : Gust, k.ref = g.ref → (Claims.withSs k o.d (g.laneResult o nd na nb f 0).1).ref = g.ref :=
    fun k hk => (Gust.withSs_ref ..).trans hk
  rw [State.writeSs_onGust _ _ hd]
  cases cy
  · exact congrArg _ (State.out_onGust hi hu href (.withSs g hd))
  · rw [if_pos rfl, State.writeP, State.onGust_onGust _ _ href]
    exact congrArg _ (State.out_onGust (f := fun k => (Claims.withSs k o.d (g.laneResult o nd na nb f 0).1).withP 26
      (Mask.tab fun _ => (g.laneResult o nd na nb f 0).2)) hi hu href ((Gust.SameCourse.withSs g hd).trans (.withP ..)))

end

end Sys2Proof.Machine
end

section
/-! O2: PACK3, UNPK3, CVT, MOV and MOVI (R146, R147, R160). -/

namespace Sys2Proof.Machine

/-- The five forms are forms of mod layout T whose lanes give the words of `Claims.wordRule`. -/
theorem exec_wordRule {g : Gust} {i : Instr} {c : Ctl} {o : TOps} {cy : Bool} {nd : Nat} {f : Nat → List Word × Trit}
    (hr : Claims.wordRule g i = some (c, o, cy, nd, f)) (s : State) :
    ∃ (na nb : Nat) (F : LaneFn), exec i s = s.performT c o cy nd na nb F ∧ g.laneResult o nd na nb F = f := by
  unfold Claims.wordRule at hr
  split at hr <;> cases hr
  case h_1 => exact ⟨3, 1, pack3W o.ty o.var, rfl, rfl⟩
  case h_2 => exact ⟨1, 1, unpk3W o.ty, rfl, rfl⟩
  case h_3 => exact ⟨_, 1, cvtW o.ty (cvtSource o.ty o.var) (tGroups 117 o.ty o.var).1, rfl, rfl⟩
  case h_4 =>
    refine ⟨1, 1, _, rfl, funext fun l => ?_⟩
    rw [Gust.laneResult, Gust.bField_one, Gust.field_a]
    cases o.sh <;> rfl
  case h_5 =>
    refine ⟨0, 1, _, rfl, funext fun l => ?_⟩
    rw [Gust.laneResult, Gust.bField_one]
    rfl

/-- Settles O2: a vector shape, a scalar shape whose guard lets no lane pass, one that acts, and one that writes no mask word. -/
theorem wordForms : Obligations.WordForms := by
  unfold Obligations.WordForms
  intro i c o cy nd f s g q hr hi hu
  obtain ⟨na, nb, F, hexec, rfl⟩ := exec_wordRule hr s
  rw [hexec]
  exact ⟨fun ho => State.performT_vector hi hu c ho cy nd na nb F, fun ho hno => State.performT_idle hi hu ho hno cy nd na nb F,
    fun ho hact => State.performT_acts hi ho hact cy nd na nb F,
    fun ho hlen hd hact => State.performT_scalars hi hu ho hact cy hlen hd⟩

end Sys2Proof.Machine
end

section
/-! O1: TAND, TOR, TSUM, TMUL and TCON (R144). -/

namespace Sys2Proof.Machine

/-- A trit-wise form gives one word and no status. -/
theorem Gust.laneResult_tritwise (g : Gust) (o : TOps) (F : Int → Int → Int) (l : Nat) :
    g.laneResult o 1 1 1 (tritwise F) l =
      ([Word.ofInt (ofTrits (List.zipWith F (Claims.aWord g o l).trits (Claims.bWord g o l).trits))], .zero) := by
  rw [Gust.laneResult, Gust.bField_one]
  rfl

/-- The values of a trit (R3). -/
def tritValues : List Int := [-1, 0, 1]

theorem mem_tritValues (x : Int) : x ∈ tritValues ↔ x = -1 ∨ x = 0 ∨ x = 1 := by simp [tritValues]

/-- The word of the trits that a function on trits gives has those trits. -/
theorem tritI_zipWith {F : Int → Int → Int} (hF : ∀ x ∈ tritValues, ∀ y ∈ tritValues, F x y ∈ tritValues) (a b : Word) {k : Nat}
    (hk : k < 27) :
    tritI (Word.ofInt (ofTrits (List.zipWith F a.trits b.trits))).val k = F (tritI a.val k) (tritI b.val k) := by
  have hzip : List.zipWith F a.trits b.trits = (List.range 27).map fun i => F (tritI a.val i) (tritI b.val i) := by
    simp only [Word.trits, tritsOf_eq, List.zipWith_map, List.zipWith_self]
  have htrits : ∀ t ∈ (List.range 27).map fun i => F (tritI a.val i) (tritI b.val i), t = -1 ∨ t = 0 ∨ t = 1 := by
    intro t ht
    obtain ⟨i, -, rfl⟩ := List.mem_map.1 ht
    exact (mem_tritValues _).1 (hF _ ((mem_tritValues _).2 (tritI_range ..)) _ ((mem_tritValues _).2 (tritI_range ..)))
  obtain ⟨hlo, hhi⟩ := ofTrits_range htrits
  rw [List.length_map, List.length_range] at hlo hhi
  rw [hzip, Word.val_ofInt, wrapT_of_range hlo hhi, tritI_ofTrits htrits k (by simpa using hk), List.getElem_map, List.getElem_range]

/-- The five forms are trit-wise forms of functions that agree with the tables of `Claims.tritRule` and give trits for trits. -/
theorem exec_tritRule {i : Instr} {c : Ctl} {o : TOps} {f : Int → Int → Int} (hr : Claims.tritRule i = some (c, o, f)) (s : State) :
    ∃ F, exec i s = s.performT c o false 1 1 1 (tritwise F) ∧
      ∀ x ∈ tritValues, ∀ y ∈ tritValues, F x y ∈ tritValues ∧ F x y = f x y := by
  unfold Claims.tritRule at hr
  split at hr <;> cases hr
  case h_1 => exact ⟨min, rfl, by decide⟩
  case h_2 => exact ⟨max, rfl, by decide⟩
  case h_3 => exact ⟨fun a b => wrapT (a + b) 1, rfl, by decide⟩
  case h_4 => exact ⟨fun a b => a * b, rfl, by decide⟩
  case h_5 => exact ⟨conTrit, rfl, by decide⟩

/-- The word of a lane follows the table, trit by trit. -/
theorem Gust.tritI_laneResult_tritwise (g : Gust) (o : TOps) {F f : Int → Int → Int}
    (hF : ∀ x ∈ tritValues, ∀ y ∈ tritValues, F x y ∈ tritValues ∧ F x y = f x y) (l : Nat) {k : Nat} (hk : k < 27) :
    tritI ((g.laneResult o 1 1 1 (tritwise F) l).1.getD 0 Word.zero).val k =
      f (tritI (Claims.aWord g o l).val k) (tritI (Claims.bWord g o l).val k) := by
  rw [Gust.laneResult_tritwise]
  calc tritI (Word.ofInt (ofTrits (List.zipWith F (Claims.aWord g o l).trits (Claims.bWord g o l).trits))).val k
      = F (tritI (Claims.aWord g o l).val k) (tritI (Claims.bWord g o l).val k) :=
        tritI_zipWith (fun x hx y hy => (hF x hx y hy).1) _ _ hk
    _ = f (tritI (Claims.aWord g o l).val k) (tritI (Claims.bWord g o l).val k) :=
        (hF _ ((mem_tritValues _).2 (tritI_range ..)) _ ((mem_tritValues _).2 (tritI_range ..))).2

/-- Settles O1: a vector shape, a scalar shape whose guard lets no lane pass, and one that acts. -/
theorem tritwiseForms : Obligations.TritwiseForms := by
  unfold Obligations.TritwiseForms
  intro i c o f s g q hr hi hu
  obtain ⟨F, hexec, hF⟩ := exec_tritRule hr s
  rw [hexec]
  refine ⟨fun ho => ?_, fun ho hno => State.performT_idle hi hu ho hno false 1 1 1 _, fun ho hact => ?_⟩
  · obtain ⟨w, m, hnext, hlanes⟩ := State.performT_vector_one hi hu c ho false 1 1 (tritwise F)
    refine ⟨w, hnext, fun l hl => ⟨fun hin k hk => ?_, fun hout => ((hlanes l hl).2 hout).1⟩⟩
    rw [((hlanes l hl).1 hin).1, Gust.tritI_laneResult_tritwise g o hF l hk]
  · refine ⟨(g.laneResult o 1 1 1 (tritwise F) 0).1.getD 0 Word.zero, State.performT_acts hi ho hact false 1 1 1 (tritwise F),
      fun hd => ?_, fun k hk => Gust.tritI_laneResult_tritwise g o hF 0 hk⟩
    have hone : (g.laneResult o 1 1 1 (tritwise F) 0).1.length = 1 := by rw [Gust.laneResult_tritwise]; rfl
    exact State.performT_scalars hi hu ho hact false hone (by omega)

end Sys2Proof.Machine
end

section
/-! The elements of words (R30): a relation over them (R134) and `words_op` (R140), place by place. -/

namespace Sys2Proof.Machine

theorem elems_length (x : Int) (w n : Nat) : (elems x w n).length = n := by
  induction n generalizing x with
  | zero => rfl
  | succ n ih => rw [elems, List.length_cons, ih]

/-- The elements of a word, by their places. -/
theorem elems_eq_map_elem (ty : ETy) (w : Word) :
    elems w.val ty.width ty.count = (List.range ty.count).map (Claims.elem ty w) := by
  refine List.ext_getElem (by simp [elems_length]) fun j hj _ => ?_
  rw [List.getElem_map, List.getElem_range, Claims.elem, List.getD_eq_getElem _ _ hj]

/-- A relation over the elements of two words, by their places. -/
theorem zipWith_elems (ty : ETy) (rel : Int → Int → Int) (a b : Word) :
    List.zipWith rel (elems a.val ty.width ty.count) (elems b.val ty.width ty.count) =
      (List.range ty.count).map fun j => rel (Claims.elem ty a j) (Claims.elem ty b j) := by
  rw [elems_eq_map_elem, elems_eq_map_elem, List.zipWith_map, List.zipWith_self]

/-- `words_op` of R140, element by element. -/
theorem wordsOp_eq (ty : ETy) (f : ElemFn) (a b d : Word) :
    wordsOp ty f a b d =
      (Word.ofInt (packElems ty.width ((List.range ty.count).map fun j =>
        (f (Claims.elem ty a j) (Claims.elem ty b j) (Claims.elem ty d j)).1)),
       Trit.sgn (firstStatus ((List.range ty.count).map fun j =>
        (f (Claims.elem ty a j) (Claims.elem ty b j) (Claims.elem ty d j)).2))) := by
  simp only [wordsOp, elems_eq_map_elem, List.zip, List.zipWith_map, List.zipWith_self, List.map_map, Function.comp_def]

end Sys2Proof.Machine
end

section
/-! O7: the elementwise forms (R67, R102, R140). -/

namespace Sys2Proof.Machine

/-- An elementwise form gives one word and its status. -/
theorem Gust.laneResult_elemwise (g : Gust) (o : TOps) (f : ElemFn) (l : Nat) :
    g.laneResult o 1 1 1 (elemwise o.ty f) l = ([Claims.elementWord g o f l], Claims.elementStatus g o f l) := by
  rw [Gust.laneResult, Gust.bField_one, Gust.field_a, Gust.field_d]
  simp only [elemwise, List.getD_cons_zero, wordsOp_eq]
  rfl

/-- The 35 forms are elementwise forms of the functions of `Claims.elementRule`; NEG alone is written there in other words. -/
theorem exec_elementRule {i : Instr} {c : Ctl} {o : TOps} {cy : Bool} {f : ElemFn} (hr : Claims.elementRule i = some (c, o, cy, f))
    (s : State) : exec i s = s.performT c o cy 1 1 1 (elemwise o.ty f) := by
  unfold Claims.elementRule at hr
  split at hr <;> cases hr
  case h_3 =>
    refine congrArg (s.performElem c o false) (funext₃ fun x _ _ => ?_)
    cases o.ty <;> simp [negE, fld]
  all_goals rfl

/-- The first part of O7. -/
theorem elementwiseForms_vector : Claims.ElementwiseVectorForms := by
  intro i c o cy f s g q hr ho hi hu
  obtain ⟨w, m, hnext, hlanes⟩ := State.performT_vector_one hi hu c ho cy 1 1 (elemwise o.ty f)
  rw [exec_elementRule hr]
  simp only [Gust.laneResult_elemwise] at hlanes
  exact ⟨w, m, hnext, hlanes⟩

/-- The second part of O7. -/
theorem elementwiseForms_scalar : Claims.ElementwiseScalarForms := by
  intro i c o cy f s g q hr ho hi hu
  rw [exec_elementRule hr]
  refine ⟨fun hno => State.performT_idle hi hu ho hno cy 1 1 1 _, fun hact => ⟨fun hd => ?_, fun hlo hhi => ?_⟩⟩
  · have hone : (g.laneResult o 1 1 1 (elemwise o.ty f) 0).1.length = 1 := by rw [Gust.laneResult_elemwise]; rfl
    rw [State.performT_scalars hi hu ho hact cy hone (by omega), Gust.laneResult_elemwise]
    rfl
  · have hmask : s.writeSs g.ref o.d [Claims.elementWord g o f 0] = s.writeMaskWord g.ref (o.d - 78) (Claims.elementWord g o f 0) :=
      if_pos ⟨hlo, hhi⟩
    rw [State.performT_acts hi ho hact, Gust.laneResult_elemwise, hmask]
    rfl

/-- Settles O7: the vector shapes, and the scalar shapes. -/
theorem elementwiseForms : Obligations.ElementwiseForms := ⟨elementwiseForms_vector, elementwiseForms_scalar⟩

end Sys2Proof.Machine
end

section
/-! O3: PSET, FCMP, PAND, POR and PNOT (R134, R148, R149, R157). -/

namespace Sys2Proof.Machine

section
variable {s : State} {g : Gust} {q : Squall}

/-- A Kleene operation on predicates of the issuing gust, as an effect of it (R134, R149). -/
theorem State.performPred_issuing (hi : s.Issuing g q) (hu : g.Undisturbed q) (c : Ctl) (d : Nat) (f : Gust → Nat → Trit) :
    s.performPred c d f = .next (s.after g (g.withP d ((g.p d).update (g.active c.guard) (f g))) q (g.pc + 1)) := by
  rw [State.performPred, State.performAs_lane hi]
  exact congrArg _ (State.out_setGust hi hu (.withP ..))

/-- A comparison is such an operation, of the least trit that the relation gives the elements of a lane (R134). -/
theorem State.performCmp_eq (s : State) (c : Ctl) (o : TOps) (rel : Int → Int → Int) :
    s.performCmp c o rel = s.performPred c o.d fun g l => kleeneMin ((List.range o.ty.count).map fun j =>
      rel (Claims.elem o.ty ((g.v o.a).get l) j) (Claims.elem o.ty (Claims.bWord g o l) j)) := by
  simp only [State.performCmp, State.performPred, Gust.bField_one, List.getD_cons_zero, zipWith_elems]

/-- The five forms are such operations, of the trits of `Claims.predicateRule`. -/
theorem exec_predicateRule {i : Instr} {c : Ctl} {d : Nat} {f : Nat → Trit} (hr : Claims.predicateRule g i = some (c, d, f)) (s : State) :
    ∃ F : Gust → Nat → Trit, exec i s = s.performPred c d F ∧ F g = f := by
  unfold Claims.predicateRule at hr
  split at hr <;> cases hr
  case h_1 => exact ⟨_, State.performCmp_eq .., rfl⟩
  case h_2 => exact ⟨_, State.performCmp_eq .., rfl⟩
  all_goals exact ⟨_, rfl, rfl⟩

end

/-- Settles O3: the lanes of the predicate that an operation writes, and those that it leaves. -/
theorem predicateForms : Obligations.PredicateForms := by
  unfold Obligations.PredicateForms
  intro i c d f s g q hr hi hu
  obtain ⟨F, hexec, rfl⟩ := exec_predicateRule hr s
  refine ⟨_, hexec.trans (State.performPred_issuing hi hu c d F), fun l hl => ?_⟩
  rw [Mask.get_update _ _ _ _ hl, Gust.mem_activeLanes]
  exact ⟨fun hin => if_pos hin.2, fun hout => if_neg fun h => hout ⟨hl, h⟩⟩

end Sys2Proof.Machine
end

section
/-! The cross-lane forms (R163 to R174): what a lane instruction leaves that changes registers of its gust alone, and the lanes that it
writes. -/

namespace Sys2Proof.Machine

/-- A lane instruction that rewrites its gust and keeps what decides how an instruction ends. -/
theorem State.performAs_setGust {s : State} {g : Gust} {q : Squall} (hi : s.Issuing g q) (hu : g.Undisturbed q) (c : Ctl) {F : Gust → Gust}
    (hk : g.SameCourse (F g)) :
    (s.performAs c true fun k => .done (s.setGust (F k))) = .next (s.after g (F g) q (g.pc + 1)) := by
  rw [State.performAs_lane hi]
  exact congrArg _ (State.out_setGust hi hu hk)

/-- A vector register rewritten in the participating lanes. -/
theorem Gust.get_update_active (g : Gust) (c : Ctl) (v : Lanes) (f : Nat → Word) {l : Nat} (hl : l < 81) :
    (v.update (g.active c.guard) f).get l = if l ∈ g.activeLanes c.guard then f l else v.get l := by
  simp only [Lanes.get_update _ _ _ _ hl (g.active_length _), Gust.mem_activeLanes, hl, true_and]

/-- A predicate rewritten in the participating lanes. -/
theorem Gust.get_updateP_active (g : Gust) (c : Ctl) (m : Mask) (f : Nat → Trit) {l : Nat} (hl : l < 81) :
    (m.update (g.active c.guard) f).get l = if l ∈ g.activeLanes c.guard then f l else m.get l := by
  simp only [Mask.get_update _ _ _ _ hl, Gust.mem_activeLanes, hl, true_and]

end Sys2Proof.Machine
end

section
/-! O4: SHFL, BCAST and DQNT (R163, R164, R170). -/

namespace Sys2Proof.Machine

/-- The digits of SHFL's source lane in variant − may be summed before or after they are cut from the lane numbers (R163). -/
theorem shflLane_minus (l : Nat) (k : Int) :
    shflLane .minus l k = ((List.range 4).map fun i => (l / 3 ^ i + (k % 81).toNat / 3 ^ i) % 3 * 3 ^ i).sum := by
  simp only [shflLane, laneDigit, ← Nat.add_mod]

/-- The three forms rewrite lanes of one register with the words of `Claims.crossRule`. -/
theorem exec_crossRule {g : Gust} {i : Instr} {c : Ctl} {d : Nat} {f : Nat → Word} (hr : Claims.crossRule g i = some (c, d, f))
    (s : State) :
    ∃ F : Gust → Nat → Word, exec i s = (s.performAs c true fun k => .done (s.setGust (k.lanesTo c d (F k)))) ∧ F g = f := by
  unfold Claims.crossRule at hr
  split at hr <;> cases hr
  case h_1 o =>
    refine ⟨_, rfl, funext fun l => ?_⟩
    rw [Gust.bField_one, List.getD_cons_zero]
    cases o.var
    case minus => exact congrArg _ (shflLane_minus ..)
    all_goals rfl
  case h_2 o =>
    refine ⟨_, rfl, funext fun l => ?_⟩
    rw [Gust.bField_one, List.getD_cons_zero]
  case h_3 o =>
    refine ⟨_, rfl, funext fun l => ?_⟩
    simp only [beq_iff_eq]
    rfl

/-- Settles O4: each of the forms rewrites the participating lanes of one register. -/
theorem laneSourceForms : Obligations.LaneSourceForms := by
  unfold Obligations.LaneSourceForms
  intro i c d f s g q hr hi hu
  obtain ⟨F, hexec, rfl⟩ := exec_crossRule hr s
  refine ⟨_, hexec.trans (State.performAs_setGust hi hu c (.withV ..)), fun l hl => ?_⟩
  rw [Gust.get_update_active _ _ _ _ hl]
  exact ⟨fun hin => if_pos hin, fun hout => if_neg hout⟩

end Sys2Proof.Machine
end

section
/-! O6: RSEED and RAND (R172, R173, R174). -/

namespace Sys2Proof.Machine

theorem tritsOf_length (x : Int) (n : Nat) : (tritsOf x n).length = n := by simp [tritsOf_eq]

/-- The halves that the rounds of R172 mix keep their 27 trits. -/
theorem mixRound_length (key : List Int) {ab : List Int × List Int} (h : ab.1.length = 27 ∧ ab.2.length = 27) (r : Nat) :
    (mixRound key ab r).1.length = 27 ∧ (mixRound key ab r).2.length = 27 :=
  ⟨h.2, by simp [mixRound, tsum, h.1]⟩

/-- A trit-wise sum is a number of trits (R144). -/
theorem ofTrits_tsum_range {a b : List Int} {n : Nat} (ha : a.length = n) (hb : b.length = n) :
    -(maxT n) ≤ ofTrits (tsum a b) ∧ ofTrits (tsum a b) ≤ maxT n := by
  have htrits : ∀ t ∈ tsum a b, t = -1 ∨ t = 0 ∨ t = 1 := by
    intro t ht
    obtain ⟨i, hi, rfl⟩ := List.getElem_of_mem ht
    have hone : maxT 1 = 1 := rfl
    have hrange := wrapT_range (a[i]'(by simp [tsum] at hi; omega) + b[i]'(by simp [tsum] at hi; omega)) 1
    simp only [tsum, List.getElem_zipWith]
    omega
  have hlen : (tsum a b).length = n := by simp [tsum, ha, hb]
  exact hlen ▸ ofTrits_range htrits

/-- `mix` gives a word's value (R172). -/
theorem mix_range (key : Word) (x : Int) : -(maxT 27) ≤ mix key x ∧ mix key x ≤ maxT 27 := by
  obtain ⟨hfst, hsnd⟩ := List.foldlRecOn (List.range 6) (mixRound key.trits) (b := (tritsOf x 27, tritsOf (dropT x 27) 27))
    (motive := fun ab => ab.1.length = 27 ∧ ab.2.length = 27) ⟨tritsOf_length .., tritsOf_length ..⟩
    fun ab hab r _ => mixRound_length _ hab r
  exact ofTrits_tsum_range hfst hsnd

/-- Settles O6: RSEED, and RAND with the words drawn as I27. -/
theorem randomForms : Obligations.RandomForms := by
  unfold Obligations.RandomForms
  intro c o a b s g q hi hu
  refine ⟨fun hact => ?_, _, State.performAs_setGust hi hu c ⟨rfl, rfl, rfl, rfl, rfl, rfl, rfl, rfl, rfl⟩, fun l hl => ?_⟩
  · refine (State.performGust_acts hi c hact _).trans (congrArg _ ?_)
    exact State.out_setGust (h := { g with key := g.s a, ctr := (g.s b).val }) hi hu ⟨rfl, rfl, rfl, rfl, rfl, rfl, rfl, rfl, rfl⟩
  · rw [Gust.get_update_active _ _ _ _ hl]
    refine ⟨fun hin hty => ?_, fun hout => if_neg hout⟩
    obtain ⟨hlo, hhi⟩ := mix_range g.key (wrapT (81 * g.ctr + Int.ofNat l) 54)
    simp only [if_pos hin, hty, Word.val_ofInt, wrapT_of_range hlo hhi]

end Sys2Proof.Machine
end

section
/-! O8: RED and SCAN (R165, R166). -/

namespace Sys2Proof

theorem Word.val_range (w : Word) : -(maxT 27) ≤ w.val ∧ w.val ≤ maxT 27 := w.ok

/-- The one element of a word of I27 is its value (R30). -/
theorem Word.elems_one (w : Word) : elems w.val 27 1 = [w.val] := by
  rw [elems, elems, wrapT_of_range w.val_range.1 w.val_range.2]

end Sys2Proof

namespace Sys2Proof.Machine

/-- A form that rewrites its gust and writes scalars below the mask words leaves the gust with both. -/
theorem State.out_setGust_writeSs {s : State} {g h : Gust} {q : Squall} (hi : s.Issuing g q) (hu : g.Undisturbed q) (hk : g.SameCourse h)
    {d : Nat} {ws : List Word} (hd : d + ws.length ≤ 78) :
    Claims.out ((s.setGust h).writeSs g.ref d ws) g = s.after g (Claims.withSs h d ws) q (g.pc + 1) := by
  have href : (Claims.withSs h d ws).ref = g.ref := (Gust.withSs_ref ..).trans hk.ref
  rw [State.writeSs_onGust _ _ hd, State.onGust_of_setGust _ hk.ref href]
  exact State.out_setGust hi hu (hk.trans (.withSs h hd))

/-- The two forms are `State.reduce`. -/
theorem exec_reduceOf {i : Instr} {c : Ctl} {o : TOps} {scan : Bool} (hr : Claims.reduceOf i = some (c, o, scan)) (s : State) :
    exec i s = s.reduce c o scan := by
  unfold Claims.reduceOf at hr
  split at hr <;> cases hr <;> rfl

/-- The first part of O8: RED combines all participating lanes in each of them, SCAN those up to it. -/
theorem reduceForms : Claims.ReduceForms := by
  intro i c o scan s g q hr hi hu total some_
  have hsome : some_ = Word.ofInt (if (g.activeLanes c.guard).isEmpty then 0 else 1) := by
    simp only [some_, List.isEmpty_iff]
  have hnext : exec i s = .next (Claims.out ((s.setGust (g.lanesTo c o.d fun l => if scan then combineWords o.ty o.var (g.v o.a)
      ((g.activeLanes c.guard).filter fun k => decide (k ≤ l)) else total)).writeSs g.ref o.b [total, some_]) g) := by
    rw [exec_reduceOf hr, hsome]
    exact State.performAs_lane hi c _
  refine ⟨_, hnext, fun hb => hnext.trans (congrArg _ (State.out_setGust_writeSs hi hu (.withV ..) hb)), fun l hl => ?_⟩
  rw [Gust.get_update_active _ _ _ _ hl]
  refine ⟨fun hin => ?_, fun hout => if_neg hout⟩
  rw [if_pos hin]
  cases scan <;> simp [total]

/-- For I27 the combination takes the words as numbers (R165). -/
theorem combineWords_i27 (v : Trit) (a : Lanes) (ls : List Nat) :
    combineWords .i27 v a ls = Word.ofInt (match v with
      | .zero => satT (ls.map fun l => (a.get l).val).sum 27
      | .plus => (ls.map fun l => (a.get l).val).foldl max (-(maxT 27))
      | .minus => (ls.map fun l => (a.get l).val).foldl min (maxT 27)) := by
  cases v <;> simp [combineWords, combine, ETy.width, ETy.count, packElems, Word.elems_one, Function.comp_def]

theorem satT_range (x : Int) (n : Nat) : -(maxT n) ≤ satT x n ∧ satT x n ≤ maxT n := by
  have h := maxT_nonneg n
  unfold satT
  omega

/-- The greatest of values that are not below the start of the search is one of them. -/
theorem foldl_max_greatest {α : Type} [LinearOrder α] {xs : List α} {b : α} (hne : xs ≠ []) (hb : ∀ x ∈ xs, b ≤ x) :
    xs.foldl max b ∈ xs ∧ ∀ x ∈ xs, x ≤ xs.foldl max b := by
  obtain ⟨m, hm⟩ := Option.isSome_iff_exists.1 (List.isSome_max?_iff.2 hne)
  obtain ⟨hmem, hle⟩ := List.max?_eq_some_iff.1 hm
  rw [List.foldl_max, hm, Option.getD_some, max_eq_right (hb m hmem)]
  exact ⟨hmem, hle⟩

/-- The least, in the same way. -/
theorem foldl_min_least {xs : List Int} {b : Int} (hne : xs ≠ []) (hb : ∀ x ∈ xs, x ≤ b) :
    xs.foldl min b ∈ xs ∧ ∀ x ∈ xs, xs.foldl min b ≤ x :=
  foldl_max_greatest (α := ℤᵒᵈ) hne hb

/-- The second part of O8. -/
theorem reduceIntegerTotals : Claims.ReduceIntegerTotals := by
  intro a ls
  simp only [combineWords_i27, Word.val_ofInt]
  refine ⟨wrapT_of_range (satT_range ..).1 (satT_range ..).2, fun hne => ?_⟩
  have hrange : ∀ x ∈ ls.map fun l => (a.get l).val, -(maxT 27) ≤ x ∧ x ≤ maxT 27 := by
    intro x hx
    obtain ⟨l, -, rfl⟩ := List.mem_map.1 hx
    exact Word.val_range _
  have hne' : (ls.map fun l => (a.get l).val) ≠ [] := by simpa using hne
  obtain ⟨hmax, hle⟩ := foldl_max_greatest hne' fun x hx => (hrange x hx).1
  obtain ⟨hmin, hge⟩ := foldl_min_least hne' fun x hx => (hrange x hx).2
  rw [wrapT_of_range (hrange _ hmax).1 (hrange _ hmax).2, wrapT_of_range (hrange _ hmin).1 (hrange _ hmin).2]
  obtain ⟨l, hl, hlmax⟩ := List.mem_map.1 hmax
  obtain ⟨k, hk, hkmin⟩ := List.mem_map.1 hmin
  exact ⟨fun l hl => hle _ (List.mem_map_of_mem hl), ⟨l, hl, hlmax.symm⟩,
    fun l hl => hge _ (List.mem_map_of_mem hl), k, hk, hkmin.symm⟩

end Sys2Proof.Machine
end

section
/-! O8: SORT (R167). The insertion sort of a beat, the placing of its results, and the form. -/

namespace Sys2Proof.Machine

/-! The sort of (key, lane) pairs. -/

theorem sortInsert_eq_orderedInsert (before : Int → Int → Bool) (x : Int × Nat) (ys : List (Int × Nat)) :
    sortInsert before x ys = ys.orderedInsert (fun x y => before x.1 y.1 = true) x := by
  induction ys with
  | nil => rfl
  | cons y ys ih => rw [sortInsert, List.orderedInsert_cons, ih]

theorem sortInsert_perm (before : Int → Int → Bool) (x : Int × Nat) (ys : List (Int × Nat)) :
    (sortInsert before x ys).Perm (x :: ys) :=
  sortInsert_eq_orderedInsert before x ys ▸ List.perm_orderedInsert _ x ys

theorem sortPairs_perm (before : Int → Int → Bool) (xs : List (Int × Nat)) : (sortPairs before xs).Perm xs := by
  induction xs using List.reverseRecOn with
  | nil => rfl
  | append_singleton xs x ih =>
    rw [sortPairs, List.foldl_concat]
    exact ((sortInsert_perm ..).trans (ih.cons x)).trans (List.perm_append_singleton ..).symm

section
variable {before : Int → Int → Bool} {le : Int → Int → Prop} [Std.Total le] [IsTrans Int le]
  (hle : ∀ x y, before x y = true ↔ ¬ le y x)
include hle

/-- An insertion keeps the order of the keys, `before` being its strict part. -/
theorem pairwise_sortInsert {ys : List (Int × Nat)} (h : ys.Pairwise fun x y => le x.1 y.1) (x : Int × Nat) :
    (sortInsert before x ys).Pairwise fun x y => le x.1 y.1 := by
  induction ys with
  | nil => simp [sortInsert]
  | cons y ys ih =>
    obtain ⟨hy, hys⟩ := List.pairwise_cons.1 h
    rw [sortInsert]
    split
    · next hb =>
      have hxy : le x.1 y.1 := (Std.Total.total _ _).resolve_right ((hle ..).1 hb)
      exact List.pairwise_cons.2 ⟨List.forall_mem_cons.2 ⟨hxy, fun z hz => IsTrans.trans _ _ _ hxy (hy z hz)⟩, h⟩
    · next hb =>
      have hyx : le y.1 x.1 := not_not.1 fun hn => hb ((hle ..).2 hn)
      refine List.pairwise_cons.2 ⟨fun z hz => ?_, ih hys⟩
      rcases List.mem_cons.1 ((sortInsert_perm ..).mem_iff.1 hz) with rfl | hz
      · exact hyx
      · exact hy z hz

theorem pairwise_sortPairs (xs : List (Int × Nat)) : (sortPairs before xs).Pairwise fun x y => le x.1 y.1 :=
  List.foldlRecOn xs _ .nil fun _ h x _ => pairwise_sortInsert hle h x

end

/-- The order of SORT's variant on I27 keys (R167). -/
def keyLe (v : Trit) (x y : Int) : Prop := if v = .plus then x ≤ y else y ≤ x

theorem keyBefore_iff (v : Trit) (x y : Int) : keyBefore .i27 (v == .plus) x y = true ↔ ¬ keyLe v y x := by
  cases v <;> simp [keyBefore, keyLe]

theorem sortPairs_keyLe (v : Trit) (xs : List (Int × Nat)) :
    (sortPairs (keyBefore .i27 (v == .plus)) xs).Pairwise fun x y => keyLe v x.1 y.1 := by
  have htotal : Std.Total (keyLe v) := ⟨fun x y => by cases v <;> simp [keyLe, le_total]⟩
  have htrans : IsTrans Int (keyLe v) := ⟨fun x y z => by cases v <;> simp [keyLe] <;> omega⟩
  exact pairwise_sortPairs (keyBefore_iff v) xs

/-! The results of the three beats, each beside the lane that takes it. -/

/-- Two lanes of a list in ascending order stand in it as their numbers do. -/
theorem rel_of_lt {R : Nat → Nat → Prop} {ls : List Nat} (hlt : ls.Pairwise (· < ·)) (hR : ls.Pairwise R) {l k : Nat} (hl : l ∈ ls)
    (hk : k ∈ ls) (h : l < k) : R l k := by
  obtain ⟨i, hi, rfl⟩ := List.getElem_of_mem hl
  obtain ⟨j, hj, rfl⟩ := List.getElem_of_mem hk
  refine List.pairwise_iff_getElem.1 hR i j hi hj (not_le.1 fun hji => ?_)
  rcases hji.eq_or_lt with rfl | hji
  · omega
  · have := List.pairwise_iff_getElem.1 hlt j i hj hi hji
    omega

theorem find?_eq_of_unique {α : Type} {p : α → Bool} {xs : List α} {x : α} (hx : x ∈ xs) (hp : p x = true)
    (h : ∀ y ∈ xs, p y = true → y = x) : xs.find? p = some x := by
  cases hf : xs.find? p with
  | none => exact absurd hp (List.find?_eq_none.1 hf x hx)
  | some y => rw [h y (List.mem_of_find?_eq_some hf) (List.find?_some hf)]

/-- What SORT places in the lanes: the sorted pairs of each beat, in its participating lanes in turn (R167). -/
def Gust.sortPlaced (g : Gust) (c : Ctl) (sorted : Nat → List (Int × Nat)) : List (Nat × Int × Nat) :=
  (List.range 3).flatMap fun b => List.zip (Claims.beatLanes g c b) (sorted b)

/-- The pair that SORT gives lane `l`. -/
def Gust.sortAt (g : Gust) (c : Ctl) (sorted : Nat → List (Int × Nat)) (l : Nat) : Int × Nat :=
  ((g.sortPlaced c sorted).find? fun p => p.1 == l).elim (0, 0) (·.2)

section
variable {g : Gust} {c : Ctl} {b l : Nat}

theorem mem_beatLanes : l ∈ Claims.beatLanes g c b ↔ l ∈ g.activeLanes c.guard ∧ l / 27 = b := by
  rw [Claims.beatLanes, List.mem_filter, beq_iff_eq]

theorem beatLanes_lt (g : Gust) (c : Ctl) (b : Nat) : (Claims.beatLanes g c b).Pairwise (· < ·) :=
  (List.pairwise_lt_range.filter _).filter _

theorem lt_of_mem_beatLanes (h : l ∈ Claims.beatLanes g c b) : l < 81 :=
  ((g.mem_activeLanes ..).1 (mem_beatLanes.1 h).1).1

/-- The lanes of a beat take its pairs in turn. -/
theorem map_sortAt {sorted : Nat → List (Int × Nat)} (hb : b < 3) (hlen : (sorted b).length = (Claims.beatLanes g c b).length) :
    (Claims.beatLanes g c b).map (g.sortAt c sorted) = sorted b := by
  refine List.ext_getElem (by simp [hlen]) fun i hi hi' => ?_
  rw [List.length_map] at hi
  have hfind : (g.sortPlaced c sorted).find? (fun p => p.1 == (Claims.beatLanes g c b)[i]) =
      some ((Claims.beatLanes g c b)[i], (sorted b)[i]) := by
    refine find?_eq_of_unique ?_ (by simp) fun y hy hyl => ?_
    · refine List.mem_flatMap.2 ⟨b, List.mem_range.2 hb, List.mem_iff_getElem.2 ⟨i, by simp [hi, hi'], by simp⟩⟩
    · obtain ⟨b', -, hy⟩ := List.mem_flatMap.1 hy
      obtain ⟨j, hj, rfl⟩ := List.getElem_of_mem hy
      rw [List.length_zip] at hj
      simp only [List.getElem_zip, beq_iff_eq] at hyl ⊢
      have hbeat' := (mem_beatLanes.1 (List.getElem_mem (l := Claims.beatLanes g c b') (n := j) (by omega))).2
      have hbeat := (mem_beatLanes.1 (List.getElem_mem hi)).2
      obtain rfl : b' = b := by rw [← hbeat', hyl, hbeat]
      obtain rfl : j = i := ((beatLanes_lt g c b').nodup.getElem_inj_iff).1 hyl
      rfl
  rw [List.getElem_map, Gust.sortAt, hfind]
  rfl

/-- The (key, lane) pairs of a beat (R167). -/
def Gust.sortKeys (g : Gust) (c : Ctl) (o : TOps) (b : Nat) : List (Int × Nat) :=
  (Claims.beatLanes g c b).map fun l => (((g.v o.a).get l).val, l)

/-- The sorted pairs of a beat. -/
def Gust.sortedKeys (g : Gust) (c : Ctl) (o : TOps) (b : Nat) : List (Int × Nat) :=
  sortPairs (keyBefore o.ty (o.var == .plus)) (g.sortKeys c o b)

theorem Gust.sortedKeys_perm (g : Gust) (c : Ctl) (o : TOps) (b : Nat) : (g.sortedKeys c o b).Perm (g.sortKeys c o b) :=
  sortPairs_perm ..

theorem Gust.map_sortAt_sortedKeys (g : Gust) (c : Ctl) (o : TOps) (hb : b < 3) :
    (Claims.beatLanes g c b).map (g.sortAt c (g.sortedKeys c o)) = g.sortedKeys c o b :=
  map_sortAt hb ((g.sortedKeys_perm ..).length_eq.trans (List.length_map ..))

/-- A participating lane takes the word and the number of a lane of its beat. -/
theorem Gust.exists_sortAt_eq (o : TOps) (hb : b < 3) (hl : l ∈ Claims.beatLanes g c b) :
    ∃ k < 81, g.sortAt c (g.sortedKeys c o) l = (((g.v o.a).get k).val, k) := by
  have hmem : g.sortAt c (g.sortedKeys c o) l ∈ g.sortKeys c o b := by
    rw [← (g.sortedKeys_perm c o b).mem_iff, ← g.map_sortAt_sortedKeys c o hb]
    exact List.mem_map_of_mem hl
  obtain ⟨k, hk, heq⟩ := List.mem_map.1 hmem
  exact ⟨k, lt_of_mem_beatLanes hk, heq.symm⟩

end

/-! The form. -/

/-- What SORT leaves in d. -/
def Gust.sortWords (g : Gust) (c : Ctl) (o : TOps) : Lanes :=
  (g.v o.d).update (g.active c.guard) fun l => Word.ofInt (g.sortAt c (g.sortedKeys c o) l).1

/-- What SORT leaves in d+1. -/
def Gust.sortSources (g : Gust) (c : Ctl) (o : TOps) : Lanes :=
  (g.v (o.d + 1)).update (g.active c.guard) fun l => Word.ofNat (g.sortAt c (g.sortedKeys c o) l).2

theorem exec_sort {s : State} {g : Gust} {q : Squall} (hi : s.Issuing g q) (hu : g.Undisturbed q) (c : Ctl) (o : TOps) :
    exec (.sort c o) s =
      .next (s.after g ((g.withV o.d (g.sortWords c o)).withV (o.d + 1) (g.sortSources c o)) q (g.pc + 1)) := by
  have hnext := State.performAs_setGust hi hu c (F := fun k =>
    (k.lanesTo c o.d fun l => Word.ofInt (k.sortAt c (k.sortedKeys c o) l).1).lanesTo c (o.d + 1)
      fun l => Word.ofNat (k.sortAt c (k.sortedKeys c o) l).2) ((Gust.SameCourse.withV ..).trans (.withV ..))
  have hkept : (g.withV o.d (g.sortWords c o)).v (o.d + 1) = g.v (o.d + 1) := by simp
  rw [Gust.sortSources, ← hkept]
  exact hnext

section
variable {g : Gust} {c : Ctl} {b l : Nat}

theorem Gust.sortWords_get (o : TOps) (hb : b < 3) (hl : l ∈ Claims.beatLanes g c b) :
    ((g.sortWords c o).get l).val = (g.sortAt c (g.sortedKeys c o) l).1 := by
  obtain ⟨k, -, hat⟩ := g.exists_sortAt_eq o hb hl
  rw [Gust.sortWords, Gust.get_update_active _ _ _ _ (lt_of_mem_beatLanes hl), if_pos (mem_beatLanes.1 hl).1, hat, Word.ofInt_val]

theorem Gust.sortSources_get (o : TOps) (hb : b < 3) (hl : l ∈ Claims.beatLanes g c b) :
    ((g.sortSources c o).get l).val = Int.ofNat (g.sortAt c (g.sortedKeys c o) l).2 := by
  obtain ⟨k, hk, hat⟩ := g.exists_sortAt_eq o hb hl
  rw [Gust.sortSources, Gust.get_update_active _ _ _ _ (lt_of_mem_beatLanes hl), if_pos (mem_beatLanes.1 hl).1, hat, Word.ofNat,
    Word.val_ofInt]
  apply wrapT_of_range <;> simp only [maxT, Int.ofNat_eq_natCast] <;> omega

/-- The sources of a beat's lanes are its lanes, each once. -/
theorem Gust.sortSources_perm (o : TOps) (hb : b < 3) :
    ((Claims.beatLanes g c b).map fun l => ((g.sortSources c o).get l).val).Perm ((Claims.beatLanes g c b).map fun l => Int.ofNat l) := by
  have hsorted : ((Claims.beatLanes g c b).map fun l => ((g.sortSources c o).get l).val) =
      (g.sortedKeys c o b).map fun p => Int.ofNat p.2 := by
    rw [← g.map_sortAt_sortedKeys c o hb, List.map_map]
    exact List.map_congr_left fun l hl => g.sortSources_get o hb hl
  have hkeys : ((Claims.beatLanes g c b).map fun l => Int.ofNat l) = (g.sortKeys c o b).map fun p => Int.ofNat p.2 := by
    rw [Gust.sortKeys, List.map_map]
    rfl
  rw [hsorted, hkeys]
  exact (g.sortedKeys_perm c o b).map _

/-- The words of a beat's lanes are in order. -/
theorem Gust.sortWords_keyLe {o : TOps} (hty : o.ty = .i27) (hb : b < 3) :
    (Claims.beatLanes g c b).Pairwise fun l k => keyLe o.var ((g.sortWords c o).get l).val ((g.sortWords c o).get k).val := by
  have hsorted := sortPairs_keyLe o.var (g.sortKeys c o b)
  rw [← hty, ← Gust.sortedKeys, ← g.map_sortAt_sortedKeys c o hb, List.pairwise_map] at hsorted
  refine hsorted.imp_of_mem fun hl hk h => ?_
  rwa [Gust.sortWords_get o hb hl, Gust.sortWords_get o hb hk]

end

/-- The third part of O8. -/
theorem sortForm : Claims.SortForm := by
  intro c o s g q hty hi hu
  refine ⟨_, _, exec_sort hi hu c o, fun l hl hout => ?_,
    fun b hb => ⟨Gust.sortSources_perm o hb, fun l hl => ?_, fun l hl k hk hlk => ?_⟩⟩
  · exact ⟨(Gust.get_update_active _ _ _ _ hl).trans (if_neg hout), (Gust.get_update_active _ _ _ _ hl).trans (if_neg hout)⟩
  · obtain ⟨k, -, hat⟩ := g.exists_sortAt_eq o hb hl
    apply Word.ext_val
    rw [Gust.sortWords_get o hb hl, Gust.sortSources_get o hb hl, hat]
    rfl
  · exact rel_of_lt (beatLanes_lt g c b) (Gust.sortWords_keyLe hty hb) hl hk hlk

end Sys2Proof.Machine
end

section
/-! O8: VTRIAD (R168), and the four parts together. -/

namespace Sys2Proof.Machine

/-- The elements of lane `l` after the three stages, each with its status trits (R168). -/
def Gust.triadCells (g : Gust) (o : TOps) (l : Nat) : List (Int × List Int) :=
  (((List.range 3).map fun b => (List.range o.ty.count).map fun j => triad o.ty.width (Claims.beatElems g o b j)).getD (l / 27) []).map
    fun r => r.getD (l % 27) (0, [])

theorem Gust.triadCells_eq (g : Gust) (o : TOps) {l : Nat} (hl : l < 81) :
    g.triadCells o l = (List.range o.ty.count).map fun j =>
      (triad o.ty.width (Claims.beatElems g o (l / 27) j)).getD (l % 27) (0, []) := by
  have hb : l / 27 < 3 := by omega
  simp [Gust.triadCells, List.getD_eq_getElem?_getD, hb, Function.comp_def]

/-- What VTRIAD leaves in d. -/
def Gust.triadWords (g : Gust) (c : Ctl) (o : TOps) : Lanes :=
  (g.v o.d).update (g.active c.guard) fun l => Word.ofInt (packElems o.ty.width ((g.triadCells o l).map (·.1)))

/-- What VTRIAD leaves in p26 under .cy. -/
def Gust.triadStatuses (g : Gust) (c : Ctl) (o : TOps) : Mask :=
  (g.p 26).update (g.active c.guard) fun l =>
    Trit.sgn (firstStatus ((List.range 3).flatMap fun k => (g.triadCells o l).map fun x => x.2.getD k 0))

/-- VTRIAD as a change of its gust. -/
def Gust.triaded (g : Gust) (c : Ctl) (o : TOps) : Gust :=
  if o.var = .minus then (g.withV o.d (g.triadWords c o)).withP 26 (g.triadStatuses c o) else g.withV o.d (g.triadWords c o)

theorem Gust.SameCourse.triaded (g : Gust) (c : Ctl) (o : TOps) : g.SameCourse (g.triaded c o) := by
  unfold Gust.triaded
  split
  · exact (Gust.SameCourse.withV ..).trans (.withP ..)
  · exact .withV ..

theorem exec_vtriad (c : Ctl) (o : TOps) (s : State) :
    exec (.vtriad c o) s = s.performAs c true fun g => .done (s.setGust (g.triaded c o)) := by
  simp only [Gust.triaded, ← beq_iff_eq (b := Trit.minus)]
  rfl

/-- The fourth part of O8. -/
theorem vtriadForm : Claims.VtriadForm := by
  intro c o s g q hi hu
  refine ⟨g.triadWords c o, g.triadStatuses c o,
    (exec_vtriad c o s).trans (State.performAs_setGust hi hu c (.triaded g c o)), fun l hl => ?_⟩
  rw [Gust.triadWords, Gust.triadStatuses, Gust.get_update_active _ _ _ _ hl, Gust.get_updateP_active _ _ _ _ hl,
    Gust.triadCells_eq g o hl]
  simp only [List.map_map]
  exact ⟨fun hin => ⟨if_pos hin, if_pos hin⟩, fun hout => ⟨if_neg hout, if_neg hout⟩⟩

/-- Settles O8: RED and SCAN, what their combination is for I27, SORT, and VTRIAD. -/
theorem beatForms : Obligations.BeatForms := ⟨reduceForms, reduceIntegerTotals, sortForm, vtriadForm⟩

end Sys2Proof.Machine
end

section
/-! O5: QNT (R169). Words written in turn into single lanes of a register, the words of the blocks, and the form. -/

namespace Sys2Proof.Machine

/-! Writes of single lanes. -/

/-- A vector with a word written in its lane, where that lane is active. -/
def putActive (act : List Bool) (v : Lanes) (e : Nat × Word) : Lanes :=
  if act.getD e.1 false then Lanes.tab fun k => if k = e.1 then e.2 else v.get k else v

theorem putActive_get (act : List Bool) (v : Lanes) (e : Nat × Word) {l : Nat} (hl : l < 81) :
    (putActive act v e).get l = if e.1 = l ∧ act.getD l false = true then e.2 else v.get l := by
  unfold putActive
  by_cases hel : e.1 = l
  · subst hel
    split <;> simp_all [Lanes.get_tab]
  · split <;> simp [Lanes.get_tab, hl, hel, Ne.symm hel]

/-- A vector with words written in their lanes in turn. -/
def putAllActive (act : List Bool) (v : Lanes) (es : List (Nat × Word)) : Lanes := es.foldl (putActive act) v

theorem putAllActive_get_of_idle {act : List Bool} (v : Lanes) (es : List (Nat × Word)) {l : Nat} (hl : l < 81)
    (hidle : ¬ act.getD l false = true) : (putAllActive act v es).get l = v.get l :=
  List.foldlRecOn es (putActive act) (motive := fun w => w.get l = v.get l) rfl fun w hw e _ => by
    rw [putActive_get _ _ _ hl, if_neg fun h => hidle h.2, hw]

/-- An active lane holds the word written to it, where no other is. -/
theorem putAllActive_get_of_mem {act : List Bool} (v : Lanes) {es : List (Nat × Word)} {l : Nat} {w : Word} (hl : l < 81)
    (hact : act.getD l false = true) (hmem : (l, w) ∈ es) (hone : ∀ e ∈ es, e.1 = l → e.2 = w) :
    (putAllActive act v es).get l = w := by
  induction es using List.reverseRecOn with
  | nil => simp at hmem
  | append_singleton es e ih =>
    rw [putAllActive, List.foldl_concat, putActive_get _ _ _ hl]
    by_cases hel : e.1 = l
    · rw [if_pos ⟨hel, hact⟩, hone e (by simp) hel]
    · rw [if_neg fun h => hel h.1]
      refine ih ?_ fun e' he' => hone e' (by simp [he'])
      rcases List.mem_append.1 hmem with h | h
      · exact h
      · exact absurd (by rw [← List.mem_singleton.1 h]) hel

/-- The gust with words written in turn in the active lanes of a register. -/
def Gust.putWords (act : List Bool) (d : Nat) (g : Gust) (es : List (Nat × Word)) : Gust :=
  es.foldl (fun k e => if act.getD e.1 false then k.putLane d e else k) g

theorem Gust.withV_withV (g : Gust) (d : Nat) (v w : Lanes) : (g.withV d v).withV d w = g.withV d w := by
  simp [Gust.withV]

theorem Gust.withV_self {g : Gust} {d : Nat} (hd : d < g.vreg.length) : g.withV d (g.v d) = g := by
  simp [Gust.withV, Gust.v, hd]

theorem Gust.putWords_eq (act : List Bool) {d : Nat} {g : Gust} (hd : d < g.vreg.length) (es : List (Nat × Word)) :
    g.putWords act d es = g.withV d (putAllActive act (g.v d) es) := by
  have hstep : ∀ (v : Lanes) (e : Nat × Word),
      (if act.getD e.1 false then (g.withV d v).putLane d e else g.withV d v) = g.withV d (putActive act v e) := by
    intro v e
    have hv : (g.withV d v).v d = v := by simp [hd]
    unfold putActive
    split
    · rw [Gust.putLane, hv, Gust.withV_withV]
    · rfl
  conv_lhs => rw [← Gust.withV_self hd]
  exact List.foldl_hom (g.withV d) hstep

/-! The words of the blocks. -/

/-- The blocks of a QNT, and of them block `k` (R169). -/
def Gust.qntBlock (g : Gust) (c : Ctl) (o : TOps) (k : Nat) : Int × List Int :=
  ((List.range 9).map fun k => quantise (o.ty == .bw) ((List.range 27).map fun i =>
    if (g.active c.guard).getD (27 * (k / 3) + i) false then some (Claims.elem .i9 ((g.v o.a).get (27 * (k / 3) + i)) (k % 3))
    else none)).getD k (0, [])

theorem Gust.qntBlock_eq (g : Gust) (c : Ctl) (o : TOps) {k : Nat} (hk : k < 9) : g.qntBlock c o k = Claims.block g c o k := by
  have hlanes : ∀ i ∈ List.range 27, ((g.active c.guard).getD (27 * (k / 3) + i) false = true ↔
      27 * (k / 3) + i ∈ g.activeLanes c.guard) := by
    intro i hi
    rw [List.mem_range] at hi
    rw [Gust.mem_activeLanes, and_iff_right (by omega)]
  rw [Gust.qntBlock, List.getD_eq_getElem _ _ (by simpa using hk), List.getElem_map, List.getElem_range, Claims.block]
  exact congrArg _ (List.map_congr_left fun i hi => if_congr (hlanes i hi) rfl rfl)

/-- The lanes of the elements for BW, each with the 27 trits of its block. -/
def Gust.qntTrits (g : Gust) (c : Ctl) (o : TOps) : List (Nat × Word) :=
  (List.range 9).map fun k => (9 * o.imm.toNat + k, Word.ofInt (packElems 1 (g.qntBlock c o k).2))

/-- The lanes of the elements for B3, each with nine elements of its block. -/
def Gust.qntTriples (g : Gust) (c : Ctl) (o : TOps) : List (Nat × Word) :=
  (List.range 9).flatMap fun k => (List.range 3).map fun i =>
    (27 * o.imm.toNat + 3 * k + i, Word.ofInt (packElems 3 (((g.qntBlock c o k).2.drop (9 * i)).take 9)))

/-- The lanes of the scales, each with the three of its beat. -/
def Gust.qntScales (g : Gust) (c : Ctl) (o : TOps) (first : Nat) : List (Nat × Word) :=
  (List.range 3).map fun b =>
    (first + b, Word.ofInt (packElems 9 ((List.range 3).map fun j => (g.qntBlock c o (3 * b + j)).1)))

theorem execQnt_bw (c : Ctl) {o : TOps} (h : o.ty = .bw) (s : State) :
    execQnt c o s = s.performAs c true fun g => .done (s.setGust
      (g.putWords (g.active c.guard) o.d (g.qntTrits c o ++ g.qntScales c o (27 + 3 * o.imm.toNat)))) := by
  simp only [execQnt, Gust.putWords, Gust.qntTrits, Gust.qntScales, Gust.qntBlock, List.foldl_append, List.foldl_map, h]
  rfl

theorem execQnt_b3 (c : Ctl) {o : TOps} (h : o.ty = .b3) (s : State) :
    execQnt c o s = s.performAs c true fun g => .done (s.setGust
      ((g.putWords (g.active c.guard) o.d (g.qntTriples c o)).putWords (g.active c.guard) (o.d + 1)
        (g.qntScales c o (3 * o.imm.toNat)))) := by
  simp only [execQnt, Gust.putWords, Gust.qntTriples, Gust.qntScales, Gust.qntBlock, List.foldl_flatMap, List.foldl_map, h]
  rfl

/-! What the words leave in the registers. -/

section
variable {g : Gust} {c : Ctl} {o : TOps} {l : Nat}

/-- A participating lane holds the one word that is written to it, and any other lane what it held. -/
theorem Gust.putAllActive_get_active (v : Lanes) {es : List (Nat × Word)} {w : Word} (hl : l ∈ g.activeLanes c.guard)
    (hmem : (l, w) ∈ es) (hone : ∀ e ∈ es, e.1 = l → e.2 = w) : (putAllActive (g.active c.guard) v es).get l = w :=
  have h := (g.mem_activeLanes _ _).1 hl
  putAllActive_get_of_mem v h.1 h.2 hmem hone

theorem Gust.putAllActive_get_other (v : Lanes) (es : List (Nat × Word)) (hl : l < 81) (hout : l ∉ g.activeLanes c.guard) :
    (putAllActive (g.active c.guard) v es).get l = v.get l :=
  putAllActive_get_of_idle v es hl fun h => hout ((g.mem_activeLanes _ _).2 ⟨hl, h⟩)

/-- The word of the scales of beat `b` (R169). -/
def Gust.scaleWord (g : Gust) (c : Ctl) (o : TOps) (b : Nat) : Word :=
  Word.ofInt (packElems 9 ((List.range 3).map fun j => (Claims.block g c o (3 * b + j)).1))

theorem Gust.mem_qntScales {first : Nat} {e : Nat × Word} :
    e ∈ g.qntScales c o first ↔ ∃ b < 3, e = (first + b, g.scaleWord c o b) := by
  have hword : ∀ b < 3, Word.ofInt (packElems 9 ((List.range 3).map fun j => (g.qntBlock c o (3 * b + j)).1)) = g.scaleWord c o b := by
    intro b hb
    rw [Gust.scaleWord]
    congr 2
    refine List.map_congr_left fun j hj => ?_
    rw [List.mem_range] at hj
    rw [g.qntBlock_eq c o (by omega)]
  simp only [Gust.qntScales, List.mem_map, List.mem_range]
  exact ⟨fun ⟨b, hb, he⟩ => ⟨b, hb, by rw [← he, hword b hb]⟩, fun ⟨b, hb, he⟩ => ⟨b, hb, by rw [he, hword b hb]⟩⟩

theorem Gust.mem_qntTrits {e : Nat × Word} :
    e ∈ g.qntTrits c o ↔ ∃ k < 9, e = (9 * o.imm.toNat + k, Word.ofInt (packElems 1 (Claims.block g c o k).2)) := by
  simp only [Gust.qntTrits, List.mem_map, List.mem_range]
  exact ⟨fun ⟨k, hk, he⟩ => ⟨k, hk, by rw [← he, g.qntBlock_eq c o hk]⟩,
    fun ⟨k, hk, he⟩ => ⟨k, hk, by rw [he, g.qntBlock_eq c o hk]⟩⟩

theorem Gust.mem_qntTriples {e : Nat × Word} :
    e ∈ g.qntTriples c o ↔ ∃ k < 9, ∃ i < 3, e = (27 * o.imm.toNat + 3 * k + i,
      Word.ofInt (packElems 3 (((Claims.block g c o k).2.drop (9 * i)).take 9))) := by
  simp only [Gust.qntTriples, List.mem_flatMap, List.mem_map, List.mem_range]
  exact ⟨fun ⟨k, hk, i, hi, he⟩ => ⟨k, hk, i, hi, by rw [← he, g.qntBlock_eq c o hk]⟩,
    fun ⟨k, hk, i, hi, he⟩ => ⟨k, hk, i, hi, by rw [he, g.qntBlock_eq c o hk]⟩⟩

/-- The scales' lanes, where no other word of the register is written to them. -/
theorem Gust.get_scales (v : Lanes) {es : List (Nat × Word)} {first b : Nat} (hb : b < 3) (hin : first + b ∈ g.activeLanes c.guard)
    (hes : ∀ e ∈ es, e.1 < first) :
    (putAllActive (g.active c.guard) v (es ++ g.qntScales c o first)).get (first + b) = g.scaleWord c o b := by
  refine g.putAllActive_get_active v hin (List.mem_append_right _ (mem_qntScales.2 ⟨b, hb, rfl⟩)) fun e he hlane => ?_
  rcases List.mem_append.1 he with he | he
  · exact absurd (hes e he) (by omega)
  · obtain ⟨b', -, rfl⟩ := mem_qntScales.1 he
    rw [show b' = b by simpa using hlane]

/-- The lanes of the elements for BW: the elements of segment n lie in the first beat, below all scales. -/
theorem Gust.get_trits (v : Lanes) {k : Nat} (hn : o.imm.toNat ≤ 2) (hk : k < 9) (hin : 9 * o.imm.toNat + k ∈ g.activeLanes c.guard) :
    (putAllActive (g.active c.guard) v (g.qntTrits c o ++ g.qntScales c o (27 + 3 * o.imm.toNat))).get (9 * o.imm.toNat + k) =
      Word.ofInt (packElems 1 (Claims.block g c o k).2) := by
  refine g.putAllActive_get_active v hin (List.mem_append_left _ (mem_qntTrits.2 ⟨k, hk, rfl⟩)) fun e he hlane => ?_
  rcases List.mem_append.1 he with he | he
  · obtain ⟨k', -, rfl⟩ := mem_qntTrits.1 he
    rw [show k' = k by simpa using hlane]
  · obtain ⟨b, -, rfl⟩ := mem_qntScales.1 he
    dsimp only at hlane
    omega

/-- The lanes of the elements for B3. -/
theorem Gust.get_triples (v : Lanes) {k i : Nat} (hk : k < 9) (hi : i < 3)
    (hin : 27 * o.imm.toNat + 3 * k + i ∈ g.activeLanes c.guard) :
    (putAllActive (g.active c.guard) v (g.qntTriples c o)).get (27 * o.imm.toNat + 3 * k + i) =
      Word.ofInt (packElems 3 (((Claims.block g c o k).2.drop (9 * i)).take 9)) := by
  refine g.putAllActive_get_active v hin (mem_qntTriples.2 ⟨k, hk, i, hi, rfl⟩) fun e he hlane => ?_
  obtain ⟨k', -, i', hi', rfl⟩ := mem_qntTriples.1 he
  dsimp only at hlane
  obtain ⟨rfl, rfl⟩ : k' = k ∧ i' = i := by omega
  rfl

end

/-! The form. -/

section
variable {s : State} {g : Gust} {q : Squall}

/-- QNT for BW writes d alone. -/
theorem exec_qnt_bw (hi : s.Issuing g q) (hu : g.Undisturbed q) (c : Ctl) {o : TOps} (h : o.ty = .bw) (hd : o.d + 1 < g.vreg.length) :
    exec (.qnt c o) s = .next (s.after g ((g.withV o.d (putAllActive (g.active c.guard) (g.v o.d)
      (g.qntTrits c o ++ g.qntScales c o (27 + 3 * o.imm.toNat)))).withV (o.d + 1) (g.v (o.d + 1))) q (g.pc + 1)) := by
  have hput := Gust.putWords_eq (g.active c.guard) (Nat.lt_of_succ_lt hd) (g.qntTrits c o ++ g.qntScales c o (27 + 3 * o.imm.toNat))
  have hself : ∀ w : Lanes, (g.withV o.d w).withV (o.d + 1) (g.v (o.d + 1)) = g.withV o.d w := by
    intro w
    have hkept : (g.withV o.d w).v (o.d + 1) = g.v (o.d + 1) := by simp
    rw [← hkept, Gust.withV_self (by simpa [Gust.withV] using hd)]
  rw [hself, ← hput]
  exact (execQnt_bw c h s).trans (State.performAs_setGust hi hu c (hput ▸ .withV ..))

/-- QNT for B3 writes d and d+1. -/
theorem exec_qnt_b3 (hi : s.Issuing g q) (hu : g.Undisturbed q) (c : Ctl) {o : TOps} (h : o.ty = .b3) (hd : o.d + 1 < g.vreg.length) :
    exec (.qnt c o) s = .next (s.after g ((g.withV o.d (putAllActive (g.active c.guard) (g.v o.d) (g.qntTriples c o))).withV (o.d + 1)
      (putAllActive (g.active c.guard) (g.v (o.d + 1)) (g.qntScales c o (3 * o.imm.toNat)))) q (g.pc + 1)) := by
  have hkept : ∀ w : Lanes, (g.withV o.d w).v (o.d + 1) = g.v (o.d + 1) := by simp
  have hput : (g.putWords (g.active c.guard) o.d (g.qntTriples c o)).putWords (g.active c.guard) (o.d + 1)
      (g.qntScales c o (3 * o.imm.toNat)) = (g.withV o.d (putAllActive (g.active c.guard) (g.v o.d) (g.qntTriples c o))).withV (o.d + 1)
        (putAllActive (g.active c.guard) (g.v (o.d + 1)) (g.qntScales c o (3 * o.imm.toNat))) := by
    rw [Gust.putWords_eq _ (Nat.lt_of_succ_lt hd), Gust.putWords_eq _ (by simpa [Gust.withV] using hd), hkept]
  rw [← hput]
  exact (execQnt_b3 c h s).trans (State.performAs_setGust hi hu c (hput ▸ (Gust.SameCourse.withV ..).trans (.withV ..)))

end

/-- Settles O5: QNT for BW, and for B3. -/
theorem quantiseForm : Obligations.QuantiseForm := by
  unfold Obligations.QuantiseForm
  intro c o s g q hty h0 h2 hd hi hu
  have hn : o.imm.toNat ≤ 2 := by omega
  rcases hty with h | h
  · refine ⟨_, _, exec_qnt_bw hi hu c h hd, fun l hl hout => ⟨Gust.putAllActive_get_other _ _ hl hout, rfl⟩,
      fun _ => ⟨rfl, fun k hk => Gust.get_trits _ hn hk, fun b hb hin => Gust.get_scales _ hb hin fun e he => ?_⟩,
      fun hb3 => absurd (h.symm.trans hb3) (by decide)⟩
    obtain ⟨k, hk, rfl⟩ := Gust.mem_qntTrits.1 he
    dsimp only
    omega
  · exact ⟨_, _, exec_qnt_b3 hi hu c h hd,
      fun l hl hout => ⟨Gust.putAllActive_get_other _ _ hl hout, Gust.putAllActive_get_other _ _ hl hout⟩,
      fun hbw => absurd (h.symm.trans hbw) (by decide),
      fun _ => ⟨fun k i hk hi' => Gust.get_triples _ hk hi', fun b hb hin => Gust.get_scales (es := []) _ hb hin (by simp)⟩⟩

end Sys2Proof.Machine
end

section
/-! The fields of a number with a field set (R27, R189). -/

namespace Sys2Proof

/-- A field below the trits that a word holds. -/
theorem fld_wrapT (x : Int) {n hi lo : Nat} (h : hi < n) : fld (wrapT x n) hi lo = fld x hi lo := by
  conv_rhs => rw [← wrapT_add_dropT x n]
  exact (fld_cat_low _ _ h).symm

@[simp] theorem tritI_zero (i : Nat) : tritI 0 i = 0 := by
  rw [tritI, dropT_fits (fitsT_zero i), wrapT_fits (fitsT_zero 1)]

section
variable {hi lo n i j : Nat} {v : Int}

theorem setFld_eq (x : Int) (hi lo : Nat) (v : Int) : setFld x hi lo v = x + pow3 lo * (v - fld x hi lo) := by
  rw [setFld, mul_comm]

theorem fld_setFld_below (x : Int) (h : i < lo) : fld (setFld x hi lo v) i j = fld x i j := by
  rw [setFld_eq, fld_cat_low _ _ h]

/-- What stands from the lower end of a field on, with the field set. -/
theorem dropT_setFld (x : Int) (h : hi + 1 = lo + n) (v : Int) :
    dropT (setFld x hi lo v) lo = v + pow3 n * dropT x (lo + n) := by
  have hx := fld_add_dropT x (hi := hi) (lo := lo) (by omega)
  rw [h, Nat.add_sub_cancel_left] at hx
  rw [setFld_eq, dropT_add_mul x _ le_rfl, Nat.sub_self, show pow3 0 = 1 from rfl, one_mul]
  omega

theorem fld_setFld_same (x : Int) (hv : fitsT v n = true) (h : hi + 1 = lo + n) : fld (setFld x hi lo v) hi lo = v := by
  rw [fld, dropT_setFld x h, h, Nat.add_sub_cancel_left, wrapT_add_mul _ _ le_rfl, wrapT_fits hv]

theorem fld_setFld_above (x : Int) (hv : fitsT v n = true) (h : hi + 1 = lo + n) (hj : hi < j) :
    fld (setFld x hi lo v) i j = fld x i j := by
  have hcut : dropT (setFld x hi lo v) (lo + n) = dropT x (lo + n) := by
    rw [← dropT_dropT (setFld x hi lo v), dropT_setFld x h, dropT_add_mul _ _ le_rfl, dropT_fits hv]
    simp [show pow3 0 = 1 from rfl]
  obtain ⟨k, rfl⟩ := Nat.exists_eq_add_of_le (show lo + n ≤ j by omega)
  rw [fld, fld, ← dropT_dropT, hcut, dropT_dropT]

end

end Sys2Proof
end

section
/-! O29: the fields of a barrier's record (R189), and what an arrival makes of them (R191, R195, R198). -/

namespace Sys2Proof.Machine

section
variable {r : BarRec} {st ph e m : Int}

/-- Numbers that the fields of word 0 of a record hold: two trits and two counts of 7 trits. -/
structure BarFits (st ph e m : Int) : Prop where
  state : fitsT st 1 = true
  phase : fitsT ph 1 = true
  expected : fitsT e 7 = true
  missing : fitsT m 7 = true

/-- The record with the fields of word 0 set, and word 1 replaced by one in which the gusts of `arrived` have arrived. -/
theorem isBar_barSet (h : BarFits st ph e m) {w : Word} {arrived : Nat → Bool} (ha : ∀ g, g < 27 → (tritI w.val g == 1) = arrived g) :
    Claims.IsBar ((barSet r st ph e m).1, w) st ph e m arrived := by
  obtain ⟨hst, hph, he, hm⟩ := h
  simp only [Claims.IsBar, barState, barPhase, barE, barR, barSet, Word.val_ofInt, tritI_eq_fld]
  refine ⟨?_, ?_, ?_, ?_, ha⟩
  · rw [fld_wrapT _ (by omega), fld_setFld_above _ hm rfl (by omega), fld_setFld_above _ he rfl (by omega),
      fld_setFld_above _ hph rfl (by omega), fld_setFld_same _ hst rfl]
  · rw [fld_wrapT _ (by omega), fld_setFld_above _ hm rfl (by omega), fld_setFld_above _ he rfl (by omega),
      fld_setFld_same _ hph rfl]
  · rw [fld_wrapT _ (by omega), fld_setFld_above _ hm rfl (by omega), fld_setFld_same _ he rfl]
  · rw [fld_wrapT _ (by omega), fld_setFld_same _ hm rfl]

/-- A gust's trit of word 1 set. -/
theorem tritI_arrive (w : Word) {g k : Nat} (hg : g < 27) (hk : k < 27) :
    (tritI (Word.ofInt (setFld w.val g g 1)).val k == 1) = (k == g || tritI w.val k == 1) := by
  have h1 : fitsT 1 1 = true := by decide
  simp only [Word.val_ofInt, tritI_eq_fld, fld_wrapT _ hk]
  rcases Nat.lt_trichotomy k g with h | rfl | h
  · rw [fld_setFld_below _ h, beq_eq_false_iff_ne.2 h.ne, Bool.false_or]
  · rw [fld_setFld_same _ h1 rfl]; simp
  · rw [fld_setFld_above _ h1 rfl h, beq_eq_false_iff_ne.2 h.ne', Bool.false_or]

/-- The state and the phase of a record are trits, and a count is of 7 trits. -/
theorem barState_range (r : BarRec) : barState r = -1 ∨ barState r = 0 ∨ barState r = 1 := tritI_range _ _

theorem barPhase_range (r : BarRec) : barPhase r = -1 ∨ barPhase r = 0 ∨ barPhase r = 1 := tritI_range _ _

/-- What a well-formed record holds (R189). -/
theorem barBad_false (h : barBad r = false) :
    (barState r = 0 ∨ barState r = 1) ∧ 0 ≤ barR r ∧ barR r ≤ barE r ∧ barE r ≤ 729 := by
  have hs := barState_range r
  obtain ⟨hne, hE, hE', hR, hRE⟩ : barState r ≠ -1 ∧ 0 ≤ barE r ∧ barE r ≤ 729 ∧ 0 ≤ barR r ∧ barR r ≤ barE r := by
    simpa [barBad] using h
  omega

theorem nextPhase_ne (t : Int) : nextPhase t ≠ t := by
  unfold nextPhase
  split <;> omega

theorem nextPhase_range {t : Int} (h : t = -1 ∨ t = 0 ∨ t = 1) : nextPhase t = -1 ∨ nextPhase t = 0 ∨ nextPhase t = 1 := by
  unfold nextPhase
  split <;> omega

theorem fitsT_trit {t : Int} : fitsT t 1 = true ↔ t = -1 ∨ t = 0 ∨ t = 1 := by
  rw [fitsT_iff, show maxT 1 = 1 from rfl]
  omega

theorem fitsT_count {x : Int} : fitsT x 7 = true ↔ -1093 ≤ x ∧ x ≤ 1093 := by
  rw [fitsT_iff, show maxT 7 = 1093 from rfl]

/-- E after an arrival of `n`: with `drop` the arriving leave the barrier too (R198). -/
def dropE (r : BarRec) (n : Int) (drop : Bool) : Int := if drop then barE r - n else barE r

@[simp] theorem dropE_false (r : BarRec) (n : Int) : dropE r n false = barE r := rfl

@[simp] theorem dropE_true (r : BarRec) (n : Int) : dropE r n true = barE r - n := rfl

theorem fitsT_dropE {n : Int} (h : barBad r = false) (hn0 : 0 ≤ n) (hn : n ≤ barR r) (drop : Bool) : fitsT (dropE r n drop) 7 = true := by
  obtain ⟨-, hR, hRE, hE⟩ := barBad_false h
  rw [fitsT_count]
  cases drop
  · rw [dropE_false]; omega
  · rw [dropE_true]; omega

/-- The record after an arrival that does not complete the phase (R195, R198). -/
def barCounted (r : BarRec) (g : Nat) (n : Int) (drop : Bool) : BarRec :=
  ((barSet r (barState r) (barPhase r) (dropE r n drop) (barR r - n)).1, Word.ofInt (setFld r.2.val g g 1))

/-! How an arrival ends (R195). -/

theorem barArrive_inactive (hs : barState r = 0) (g : Nat) (n : Int) (drop : Bool) : barArrive r g n drop = .fault 42 := by
  rw [barArrive, if_pos hs]

theorem barArrive_again {g : Nat} (hs : barState r = 1) (ha : barArrived r g = true) (n : Int) (drop : Bool) :
    barArrive r g n drop = .refused := by
  rw [barArrive, if_neg (by omega), if_pos ha]

theorem barArrive_over {g : Nat} {n : Int} (hs : barState r = 1) (ha : barArrived r g = false) (hn : barR r < n) (drop : Bool) :
    barArrive r g n drop = .fault 43 := by
  rw [barArrive, if_neg (by omega), if_neg (by simp [ha]), if_pos hn]

theorem barArrive_short {g : Nat} {n : Int} (hs : barState r = 1) (ha : barArrived r g = false) (hn : n < barR r) (drop : Bool) :
    barArrive r g n drop = .taken (barCounted r g n drop) false := by
  simp only [barArrive, hs, ha]
  rw [if_neg (by omega), if_neg (by simp), if_neg (by omega), if_neg (by omega), barCounted, hs]
  rfl

theorem barArrive_last {g : Nat} {n : Int} (hs : barState r = 1) (ha : barArrived r g = false) (hn : n = barR r) (drop : Bool) :
    barArrive r g n drop = .taken (barComplete (barCounted r g n drop)) true := by
  simp only [barArrive, hs, ha]
  rw [if_neg (by omega), if_neg (by simp), if_neg (by omega), if_pos hn.symm, barCounted, hs]
  rfl

/-- The record after an arrival that leaves others to come. -/
theorem isBar_barCounted (h : barBad r = false) (hs : barState r = 1) {g : Nat} (hg : g < 27) {n : Int} (hn0 : 0 ≤ n) (hn : n ≤ barR r)
    (drop : Bool) :
    Claims.IsBar (barCounted r g n drop) 1 (barPhase r) (dropE r n drop) (barR r - n) fun k => k == g || barArrived r k := by
  obtain ⟨-, hR, hRE, hE⟩ := barBad_false h
  rw [barCounted, hs]
  exact isBar_barSet ⟨by decide, fitsT_trit.2 (barPhase_range r), fitsT_dropE h hn0 hn drop, fitsT_count.2 (by omega)⟩
    fun k hk => tritI_arrive r.2 hg hk

/-- The record after the arrival that completes the phase (R191, R198). -/
theorem isBar_barComplete (h : barBad r = false) (hs : barState r = 1) {g : Nat} (hg : g < 27) {n : Int} (hn0 : 0 ≤ n) (hn : n = barR r)
    (drop : Bool) :
    Claims.IsBar (barComplete (barCounted r g n drop)) (if dropE r n drop = 0 then 0 else 1)
      (if barPhase r = -1 then 1 else barPhase r - 1) (dropE r n drop) (dropE r n drop) fun _ => false := by
  obtain ⟨hst, hph, he, -, -⟩ := isBar_barCounted h hs hg hn0 hn.le drop
  have hfit := fitsT_dropE h hn0 hn.le drop
  rw [barComplete, hst, hph, he]
  refine isBar_barSet ⟨?_, fitsT_trit.2 ?_, hfit, hfit⟩ fun k _ => ?_
  · split <;> decide
  · exact nextPhase_range (barPhase_range r)
  · simp [Word.zero]

end
end Sys2Proof.Machine
end

section
/-! O29: BARINIT, BARARR, BARWAIT, BARSYNC, BARDROP and BARQRY (R192 to R199). -/

namespace Sys2Proof.Machine

section
variable {s : State} {g : Gust} {q : Squall} {b : Nat} {r : BarRec}

/-- A barrier form on a well-formed record. -/
theorem State.barForm_ok (hi : s.Issuing g q) {c : Ctl} (ha : g.acts c.guard = true) (hr : q.bar b = r) (hb : barBad r = false)
    (body : Gust → Squall → BarRec → Eff) : s.barForm c b body = .next (((body g q r).settle g s.op).keepIssuing g) := by
  simp only [State.barForm, State.performGust_acts hi c ha, hi.squall, hr, hb, Bool.false_eq_true, if_false]

/-- A barrier form on a malformed record raises "barrier record" (R189). -/
theorem State.barForm_bad (hi : s.Issuing g q) {c : Ctl} (ha : g.acts c.guard = true) (hb : barBad (q.bar b) = true)
    (ht : Claims.Handles g q) (body : Gust → Squall → BarRec → Eff) :
    s.barForm c b body = .next (Claims.faulted s g 40 0 0) := by
  simp only [State.barForm, State.performGust_acts hi c ha, hi.squall, hb, if_true, State.settle_fault hi ht]

/-- BARARR, by how the arrival ends. -/
theorem exec_bararr (hi : s.Issuing g q) {c : Ctl} (ha : g.acts c.guard = true) (hr : q.bar b = r) (hb : barBad r = false)
    (d p n : Nat) {a : Arrival} (harr : barArrive r g.ref.gust n false = a) :
    exec (.bararr c d b p n) s = .next (((match (generalizing := false) a with
      | .fault f => .fault s f 0
      | .refused => .done (s.writeP g.ref p (Claims.allTrits .minus))
      | .taken r' done => if !g.quiet then .wait s .quiet
        else .done (((s.writeS g.ref d (Word.ofInt (barPhase r))).writeP g.ref p (Claims.allTrits .plus)).barTaken g q b r' done)
      : Eff).settle g s.op).keepIssuing g) := by
  rw [exec, execBararr, State.barForm_ok hi ha hr hb]
  simp only [Int.ofNat_eq_natCast, harr]
  cases a <;> rfl

/-- The first part of O29. -/
theorem barrierForms_arrivals : Claims.BarrierArrivals := by
  intro c d b p n s g q hi ha hgust hn hbad r
  have hr : q.bar b = r := rfl
  clear_value r
  rw [hr] at hbad
  have fault (ht : Claims.Handles g q) (cause : Int) := State.settle_fault hi ht cause 0 s.op
  have arrives {a : Arrival} (harr : barArrive r g.ref.gust n false = a) := exec_bararr hi ha hr hbad d p n harr
  refine ⟨fun hs => ?_, fun hs he => ?_, fun hs he ht => ?_, fun hs ht => ?_, fun hs harr => ?_, fun hs harr hlt ht => ?_,
    fun hquiet hs harr => ⟨fun hlt => ?_, fun heq hE => ?_⟩⟩
  · have hcount : fitsT (n : Int) 7 = true := fitsT_count.2 (by omega)
    refine ⟨((barSet r 1 (barPhase r) n n).1, Word.zero),
      isBar_barSet ⟨by decide, fitsT_trit.2 (barPhase_range r), hcount, hcount⟩ fun k _ => by simp [Word.zero], ?_⟩
    rw [exec, execBarinit, State.barForm_ok hi ha hr hbad, if_pos hs]
    rfl
  · rw [exec, execBarinit, State.barForm_ok hi ha hr hbad, if_neg (by omega), if_neg (by simpa using he)]
    rfl
  · rw [exec, execBarinit, State.barForm_ok hi ha hr hbad, if_neg (by omega), if_pos (by simpa using he), fault ht]
  · rw [arrives (barArrive_inactive hs ..), fault ht]
  · rw [arrives (barArrive_again hs harr ..)]
    rfl
  · rw [arrives (barArrive_over hs harr hlt _), fault ht]
  · refine ⟨_, isBar_barCounted hbad hs hgust (Int.natCast_nonneg n) hlt.le false, ?_⟩
    rw [arrives (barArrive_short hs harr hlt _)]
    simp only [hquiet]
    rfl
  · have hbar := isBar_barComplete hbad hs hgust (Int.natCast_nonneg n) heq false
    rw [dropE_false, if_neg hE.ne'] at hbar
    refine ⟨_, hbar, ?_⟩
    rw [arrives (barArrive_last hs harr heq _)]
    simp only [hquiet]
    rfl

/-! Waits. -/

/-- A squall's record, read after it was replaced. -/
theorem State.bar_setBar (hq : s.squall? q.q = some q) (hb : b < q.bars.length) (r : BarRec) :
    (((s.setBar q.q b r).squall? q.q).getD q).bar b = r := by
  rw [State.setBar, State.squall?_onSquall _ _ _ (fun x => { x with bars := x.bars.set b r }) fun _ h => h, if_pos rfl, hq]
  simp [Squall.bar, List.getD_eq_getElem?_getD, hb]

/-- A gust waits at a barrier whose phase is its token (R196). -/
theorem State.barWaits_wait {t : Int} (hr : ((s.squall? q.q).getD q).bar b = r) (hs : barState r = 1) (hp : barPhase r = t) :
    s.barWaits q b t = .wait s (.barrier b t) := by
  rw [State.barWaits, hr]
  exact if_pos ⟨hs, hp⟩

/-- It goes on with an acquire at any other (R192, R196). -/
theorem State.barWaits_return {t : Int} (hr : ((s.squall? q.q).getD q).bar b = r) (h : ¬(barState r = 1 ∧ barPhase r = t)) :
    s.barWaits q b t = .done (s.acquirePart (dieOf q.core) .sq) := by
  rw [State.barWaits, hr]
  exact if_neg h

theorem State.each_filter_none {α : Type} {p : α → Bool} {xs : List α} (h : ∀ x ∈ xs, p x = false) (s : State) (f : State → α → State) :
    s.each (xs.filter p) f = s := by
  rw [List.filter_eq_nil_iff.2 fun x hx => by simp [h x hx]]
  rfl

/-- A barrier at which no gust waits wakes none. -/
theorem State.wakeBarrier_none {r : SqRef} (h : ∀ k ∈ s.gustsOf r, ∀ o t, k.status ≠ .waiting o (.barrier b t)) :
    s.wakeBarrier r b = s := by
  unfold State.wakeBarrier
  cases s.squall? r with
  | none => rfl
  | some sq =>
    refine State.each_filter_none (fun k hk => ?_) s _
    beta_reduce
    split
    · next o j t hst =>
      have hj : j ≠ b := fun e => h k hk o t (e ▸ hst)
      simp [hj]
    · simp

/-- BARSYNC of a gust that has not arrived: it arrives with count 1 and then waits on the phase it found (R197). -/
theorem exec_barsync_taken (hi : s.Issuing g q) {c : Ctl} (ha : g.acts c.guard = true) (hr : q.bar b = r) (hb : barBad r = false)
    (hs : barState r = 1) (harr : barArrived r g.ref.gust = false) (hquiet : g.quiet = true) {r' : BarRec} {done : Bool}
    (ht : barArrive r g.ref.gust 1 false = .taken r' done) :
    exec (.barsync c b) s =
      .next ((((s.barTaken g q b r' done).barWaits q b (barPhase r)).settle g s.op).keepIssuing g) := by
  rw [exec, execBarsync, State.barForm_ok hi ha hr hb]
  simp only [hs, harr, hquiet, ht]
  rfl

/-- BARDROP, by how the arrival ends. -/
theorem exec_bardrop_taken (hi : s.Issuing g q) {c : Ctl} (ha : g.acts c.guard = true) (hr : q.bar b = r) (hb : barBad r = false)
    (hquiet : g.quiet = true) (p : Nat) {n : Nat} {r' : BarRec} {done : Bool} (ht : barArrive r g.ref.gust n true = .taken r' done) :
    exec (.bardrop c b p n) s =
      .next (Claims.out ((s.writeP g.ref p (Claims.allTrits .plus)).barTaken g q b r' done) g) := by
  rw [exec, execBardrop, State.barForm_ok hi ha hr hb]
  simp only [Int.ofNat_eq_natCast, ht, hquiet]
  rfl

/-- The second part of O29. -/
theorem barrierForms_waits : Claims.BarrierWaits := by
  intro c d b p t n s g q hi ha hgust hlen r x
  have hr : q.bar b = r := rfl
  clear_value r
  have hq : q.q = g.ref.sq := State.squall?_q hi.squall
  have hfound : s.squall? q.q = some q := hq ▸ hi.squall
  have hkept : ((s.squall? q.q).getD q).bar b = r := by rw [hfound]; exact hr
  refine ⟨?_, fun hbad ht i hmem => ?_, fun hbad => ⟨fun hx ht => ?_, fun hlo hhi hs hp => ?_, fun hlo hhi hne => ?_, fun hs harr => ?_,
    fun hs harr hquiet hmore => ?_, fun hs harr hquiet hlast hnone => ?_, fun hs harr hquiet => ⟨fun hlt => ?_, fun heq => ?_⟩⟩⟩
  · rw [exec, execBarqry, State.performGust_acts hi c ha]
    simp only [hi.squall, hr]
    rfl
  · rw [← hr] at hbad
    simp only [List.mem_cons, List.not_mem_nil, or_false] at hmem
    rcases hmem with rfl | rfl | rfl | rfl | rfl
    · rw [exec, execBarinit, State.barForm_bad hi ha hbad ht]
    · rw [exec, execBararr, State.barForm_bad hi ha hbad ht]
    · rw [exec, execBarwait, State.barForm_bad hi ha hbad ht]
    · rw [exec, execBarsync, State.barForm_bad hi ha hbad ht]
    · rw [exec, execBardrop, State.barForm_bad hi ha hbad ht]
  · rw [exec, execBarwait, State.barForm_ok hi ha hr hbad, if_pos hx, State.settle_fault hi ht]
  · rw [exec, execBarwait, State.barForm_ok hi ha hr hbad, if_neg (by omega), State.barWaits_wait hkept hs hp]
    rfl
  · rw [exec, execBarwait, State.barForm_ok hi ha hr hbad, if_neg (by omega), State.barWaits_return hkept (by omega)]
    rfl
  · rw [exec, execBarsync, State.barForm_ok hi ha hr hbad, if_neg (by omega), if_pos harr, State.barWaits_wait hkept hs rfl]
    rfl
  · have hbar := isBar_barCounted hbad hs hgust zero_le_one hmore.le false
    refine ⟨_, hbar, ?_⟩
    obtain ⟨hst, hph, -⟩ := hbar
    have hafter := State.bar_setBar (s := s.releasePart (dieOf q.core) .sq) hfound hlen (barCounted r g.ref.gust 1 false)
    rw [exec_barsync_taken hi ha hr hbad hs harr hquiet (barArrive_short hs harr hmore _), State.barTaken, ← hq]
    simp only [Bool.false_eq_true, if_false]
    rw [State.barWaits_wait hafter hst hph]
    rfl
  · have hbar := isBar_barComplete hbad hs hgust zero_le_one hlast.symm false
    have hwake : ((s.releasePart (dieOf q.core) .sq).setBar g.ref.sq b (barComplete (barCounted r g.ref.gust 1 false))).wakeBarrier g.ref.sq b =
        (s.releasePart (dieOf q.core) .sq).setBar g.ref.sq b (barComplete (barCounted r g.ref.gust 1 false)) :=
      State.wakeBarrier_none hnone
    have hafter := State.bar_setBar (s := s.releasePart (dieOf q.core) .sq) hfound hlen (barComplete (barCounted r g.ref.gust 1 false))
    obtain ⟨-, hR, hRE, hE⟩ := barBad_false hbad
    rw [dropE_false, if_neg (by omega)] at hbar
    refine ⟨_, hbar, ?_⟩
    obtain ⟨-, hph, -⟩ := hbar
    have hnext : ¬ (barState (barComplete (barCounted r g.ref.gust 1 false)) = 1 ∧
        barPhase (barComplete (barCounted r g.ref.gust 1 false)) = barPhase r) := fun h => nextPhase_ne (barPhase r) (hph.symm.trans h.2)
    rw [exec_barsync_taken hi ha hr hbad hs harr hquiet (barArrive_last hs harr hlast.symm _), State.barTaken, if_pos rfl, hwake, ← hq,
      State.barWaits_return hafter hnext]
    rfl
  · refine ⟨_, isBar_barCounted hbad hs hgust (Int.natCast_nonneg n) hlt.le true, ?_⟩
    rw [exec_bardrop_taken hi ha hr hbad hquiet p (barArrive_short hs harr hlt _)]
    rfl
  · have hbar := isBar_barComplete hbad hs hgust (Int.natCast_nonneg n) heq true
    simp only [dropE_true, sub_eq_zero] at hbar
    refine ⟨_, hbar, ?_⟩
    rw [exec_bardrop_taken hi ha hr hbad hquiet p (barArrive_last hs harr heq _)]
    rfl

end

/-- Settles O29: BARINIT and BARARR, and the other forms. -/
theorem barrierForms : Obligations.BarrierForms := ⟨barrierForms_arrivals, barrierForms_waits⟩

end Sys2Proof.Machine
end

section
/-! O19: RDSR (R180, R394, R395). -/

namespace Sys2Proof.Machine

section
variable {s : State} {g : Gust} {q : Squall}

/-- A form that reads its gust's squall (R67). -/
theorem State.squallForm_acts (hi : s.Issuing g q) {c : Ctl} (ha : g.acts c.guard = true) (body : Gust → Squall → Eff) :
    s.squallForm c body = .next (((body g q).settle g s.op).keepIssuing g) := by
  rw [State.squallForm, State.performGust_acts hi c ha]
  simp only [hi.squall]

theorem privilegedReg_iff {r : Nat} : privilegedReg r = true ↔ 810 ≤ r ∧ r ≤ 814 ∨ 19683 ≤ r := decide_eq_true_iff

/-- A word whose value is in range holds it. -/
theorem Word.val_ofInt_of_range {x : Int} (h : -3812798742493 ≤ x) (h' : x ≤ 3812798742493) : (Word.ofInt x).val = x :=
  wrapT_of_range h h'

/-! What each system register holds (R395). -/

theorem sysReg_spca (s : State) (g : Gust) (hb : q.bases.scratch < 531441) :
    (s.sysReg g q 2).val = -14348907 + 531441 * Int.ofNat (q.core % 27) + Int.ofNat q.bases.scratch := by
  have hp : pow3 15 = 14348907 ∧ pow3 12 = 531441 := by decide
  have hval : q.spca = -14348907 + 531441 * Int.ofNat (q.core % 27) + Int.ofNat q.bases.scratch := by
    rw [Squall.spca, hp.1, hp.2, mul_comm]
  rw [← hval]
  refine Word.val_ofInt_of_range ?_ ?_ <;> rw [hval] <;> simp only [Int.ofNat_eq_natCast] <;> omega

theorem sysReg_core (s : State) (g : Gust) (hc : q.core < 243) :
    (s.sysReg g q 3).val = 387420489 * Int.ofNat q.core + (if q.isD then 129140163 else -129140163) := by
  have hp : pow3 18 = 387420489 ∧ pow3 17 = 129140163 := by decide
  have hval : s.sysReg g q 3 = Word.ofInt (387420489 * Int.ofNat q.core + (if q.isD then 129140163 else -129140163)) := by
    rw [← hp.1, ← hp.2, mul_comm]; rfl
  rw [hval]
  refine Word.val_ofInt_of_range ?_ ?_ <;> simp only [Int.ofNat_eq_natCast] <;> split <;> omega

theorem sysReg_flags (s : State) (g : Gust) (q : Squall) :
    (s.sysReg g q 4).val = (if g.priv then 2541865828329 else 0) + (if g.trapActive then 847288609443 else 0) := by
  have hp : pow3 26 = 2541865828329 ∧ pow3 25 = 847288609443 := by decide
  have hval : s.sysReg g q 4 = Word.ofInt ((if g.priv then 2541865828329 else 0) + (if g.trapActive then 847288609443 else 0)) := by
    rw [← hp.1, ← hp.2]; rfl
  rw [hval]
  refine Word.val_ofInt_of_range ?_ ?_ <;> split <;> split <;> omega

theorem sysReg_gfr (s : State) (g : Gust) (q : Squall) {k : Nat} (hk : k < 9) : s.sysReg g q (27 + k) = g.gfr.getD k Word.zero := by
  have h (n : Nat) (hn : n < 10) : ¬ 27 + k = n := by omega
  simp [State.sysReg, h, show 27 + k < 36 by omega]

theorem sysReg_laneRec (s : State) (g : Gust) (q : Squall) {l k : Nat} (hl : l < 81) (hk : k < 9) :
    s.sysReg g q (81 + 9 * l + k) = ((lookupAt g.laneRec l).getD []).getD k Word.zero := by
  have h (n : Nat) (hn : n < 10) : ¬ 81 + 9 * l + k = n := by omega
  have hlt : ¬ 81 + 9 * l + k < 36 := by omega
  have hlt' : 81 + 9 * l + k < 810 := by omega
  simp [State.sysReg, h, hlt, hlt', show (81 + 9 * l + k - 81) / 9 = l by omega, show (81 + 9 * l + k - 81) % 9 = k by omega]

theorem sysReg_snap (s : State) (g : Gust) (q : Squall) {r : Nat} (hr : 19683 ≤ r) : s.sysReg g q r = s.snapReg r := by
  have h (n : Nat) (hn : n < 815) : ¬ r = n := by omega
  have hlt : ¬ r < 36 := by omega
  have hlt' : ¬ r < 810 := by omega
  simp [State.sysReg, h, hlt, hlt']

theorem snapReg_core (s : State) {k f : Nat} (hk : k < 243) (hf : f < 81) :
    s.snapReg (19683 + 81 * k + f) = Word.ofNat ((s.core k).snap.getD f 0) := by
  rw [State.snapReg, if_pos (by omega), show (19683 + 81 * k + f - 19683) / 81 = k by omega,
    show (19683 + 81 * k + f - 19683) % 81 = f by omega]

theorem snapReg_die (s : State) {k f : Nat} (hk : k < 9) (hf : f < 729) :
    s.snapReg (39366 + 729 * k + f) = Word.ofNat ((s.die k).snap.getD f 0) := by
  have hd : (39366 + 729 * k + f - 39366) / 729 = k := by omega
  have hm : (39366 + 729 * k + f - 39366) % 729 = f := by omega
  simp only [State.snapReg, hd, hm]
  rw [if_neg (by omega), if_pos hk]

/-- The first part of O19. -/
theorem systemRegisterForms_reads : Claims.SystemRegisterReads := by
  intro c d r s g q hi ha
  have hexec : exec (.rdsr c d r) s = .next (((if privilegedReg r ∧ !g.priv then .fault s 12 0
      else .done ((if r = 0 then s.onGust g.ref fun h => { h with ptimeh := Word.ofInt (dropT (Int.ofNat s.ptime) 27) } else s).writeS
        g.ref d (s.sysReg g q r)) : Eff).settle g s.op).keepIssuing g) := State.squallForm_acts hi ha _
  refine ⟨fun hr hp ht => ?_, fun hok => ⟨s.sysReg g q r, ?_, ?_⟩⟩
  · rw [hexec, if_pos ⟨privilegedReg_iff.2 hr, by simp [hp]⟩, State.settle_fault hi ht]
  · rw [hexec, if_neg]
    · rfl
    · rintro ⟨hr, hp⟩
      rcases hok with h | h
      · exact h (privilegedReg_iff.1 hr)
      · simp [h] at hp
  · refine ⟨?_, ?_, ?_, ?_, ?_, ?_, ?_, ?_, ?_, ?_, ?_, ?_, ?_, ?_, ?_, ?_, ?_, ?_, ?_⟩
    · rintro rfl; rfl
    · rintro rfl; rfl
    · rintro rfl - hb; exact sysReg_spca s g hb
    · rintro rfl hc; exact sysReg_core s g hc
    · rintro rfl; exact sysReg_flags s g q
    · rintro rfl; rfl
    · rintro rfl; rfl
    · rintro rfl; rfl
    · rintro rfl; rfl
    · rintro rfl; rfl
    · rintro k hk rfl; exact sysReg_gfr s g q hk
    · rintro l k hl hk rfl; exact sysReg_laneRec s g q hl hk
    · rintro rfl; rfl
    · rintro rfl; rfl
    · rintro rfl; rfl
    · rintro rfl; rfl
    · rintro rfl; rfl
    · rintro k f hk hf rfl; exact (sysReg_snap s g q (by omega)).trans (snapReg_core s hk hf)
    · rintro k f hk hf rfl; exact (sysReg_snap s g q (by omega)).trans (snapReg_die s hk hf)

end

end Sys2Proof.Machine
end

section
/-! O19: XDBG as a write leaves it (R430). -/

namespace Sys2Proof

/-- A number is its trit `i` and what stands above it, from trit `i` on. -/
theorem dropT_eq_tritI_add (x : Int) (i : Nat) : dropT x i = tritI x i + 3 * dropT x (i + 1) := by
  have h := wrapT_add_dropT (dropT x i) 1
  rw [dropT_dropT, show pow3 1 = 3 from rfl] at h
  exact h.symm

/-- A reserved trit value of XDBG, −1, reads as zero. -/
theorem max_zero_tritI (x : Int) (i : Nat) : max 0 (tritI x i) = -1 ∨ max 0 (tritI x i) = 0 ∨ max 0 (tritI x i) = 1 := by
  have := tritI_range x i
  omega

end Sys2Proof

namespace Sys2Proof.Machine

/-- The number that XDBG takes: the trits below 24, and above them those that are not reserved. -/
theorem xdbgOf_eq (w : Word) : xdbgOf w = Word.ofInt (wrapT w.val 24 +
    pow3 24 * (max 0 (tritI w.val 24) + 3 * (max 0 (tritI w.val 25) + 3 * (max 0 (tritI w.val 26) + 3 * 0)))) := by
  have hp : pow3 25 = 3 * pow3 24 ∧ pow3 26 = 9 * pow3 24 := by decide
  have hfix (i : Nat) : (if tritI w.val i = -1 then pow3 i else 0) = pow3 i * (max 0 (tritI w.val i) - tritI w.val i) := by
    rcases tritI_range w.val i with h | h | h <;> simp [h]
  have hval : w.val = wrapT w.val 24 + pow3 24 * (tritI w.val 24 + 3 * (tritI w.val 25 + 3 * tritI w.val 26)) := by
    have htop : dropT w.val 24 = tritI w.val 24 + 3 * (tritI w.val 25 + 3 * tritI w.val 26) := by
      rw [dropT_eq_tritI_add, dropT_eq_tritI_add _ 25, dropT_eq_tritI_add _ 26, dropT_fits w.fitsT_val, mul_zero, add_zero]
    rw [← htop, wrapT_add_dropT]
  simp only [xdbgOf, hfix]
  rw [hp.1, hp.2]
  congr 1
  linear_combination hval

theorem tritI_xdbgOf_low (w : Word) {i : Nat} (hi : i < 24) : tritI (xdbgOf w).val i = tritI w.val i := by
  rw [xdbgOf_eq, Word.val_ofInt, tritI_eq_fld, fld_wrapT _ (by omega), fld_cat_low _ _ hi, fld_wrapT _ hi, ← tritI_eq_fld]

theorem tritI_xdbgOf_high (w : Word) {i : Nat} (hlo : 24 ≤ i) (hi : i < 27) : tritI (xdbgOf w).val i = max 0 (tritI w.val i) := by
  have hlow : fitsT (wrapT w.val 24) 24 = true := fitsT_iff.2 (wrapT_range _ _)
  rw [xdbgOf_eq, Word.val_ofInt, tritI_eq_fld, fld_wrapT _ hi, fld_cat_high hlow _ hlo hlo, ← tritI_eq_fld]
  obtain rfl | rfl | rfl : i = 24 ∨ i = 25 ∨ i = 26 := by omega
  · exact tritI_cons_zero _ (max_zero_tritI _ _)
  · exact (tritI_cons_succ _ _ (max_zero_tritI _ _)).trans (tritI_cons_zero _ (max_zero_tritI _ _))
  · exact (tritI_cons_succ _ _ (max_zero_tritI _ _)).trans
      ((tritI_cons_succ _ _ (max_zero_tritI _ _)).trans (tritI_cons_zero _ (max_zero_tritI _ _)))

end Sys2Proof.Machine
end

section
/-! O19: WRSR (R395, R430, R442). -/

namespace Sys2Proof.Machine

section
variable {s : State} {g : Gust} {q : Squall}

/-- A gust with a system register of its own written: TVEC, TPC or a word of TM (R395). -/
def Gust.putSys (h : Gust) (r : Nat) (w : Word) : Gust :=
  if r = 5 then { h with tvec := w }
  else if r = 6 then { h with tpc := w }
  else if r = 7 then { h with tm := { h.tm with b0 := w } }
  else if r = 8 then { h with tm := { h.tm with b1 := w } }
  else { h with tm := { h.tm with b2 := w } }

theorem Gust.sameCourse_putSys (h : Gust) (r : Nat) (w : Word) : h.SameCourse (h.putSys r w) := by
  unfold Gust.putSys
  split_ifs <;> exact ⟨rfl, rfl, rfl, rfl, rfl, rfl, rfl, rfl, rfl⟩

/-- WRSR, by the check of its register and the register's owner. -/
theorem exec_wrsr (hi : s.Issuing g q) {c : Ctl} (ha : g.acts c.guard = true) (r a : Nat) :
    exec (.wrsr c r a) s = .next (((if privilegedReg r ∧ !g.priv then .fault s 12 0
      else if r ≥ 810 then s.released g q fun s => .done (s.putContext q.ctx r (g.s a))
      else .done (s.onGust g.ref fun h => h.putSys r (g.s a)) : Eff).settle g s.op).keepIssuing g) :=
  State.squallForm_acts hi ha _

/-- WRSR of a register of the gust. -/
theorem exec_wrsr_gust (hi : s.Issuing g q) (hu : g.Undisturbed q) {c : Ctl} (ha : g.acts c.guard = true) {r : Nat} (hr : r < 810) (a : Nat) :
    exec (.wrsr c r a) s = .next (s.after g (g.putSys r (g.s a)) q (g.pc + 1)) := by
  have hpriv : ¬ privilegedReg r = true := fun h => by have := privilegedReg_iff.1 h; omega
  rw [exec_wrsr hi ha, if_neg fun h => hpriv h.1, if_neg (by omega)]
  exact congrArg _ (State.out_onGust (f := fun h => h.putSys r (g.s a)) hi hu (fun h hr => (h.sameCourse_putSys _ _).ref.trans hr)
    (g.sameCourse_putSys _ _))

/-- WRSR of a register of the context: a release at device scope, then the write (R395). -/
theorem exec_wrsr_context (hi : s.Issuing g q) {c : Ctl} (ha : g.acts c.guard = true) (hp : g.priv = true) (hquiet : g.quiet = true)
    {r : Nat} (hr : 810 ≤ r) (a : Nat) :
    exec (.wrsr c r a) s = .next (Claims.out ((s.releasePart (dieOf q.core) .dv).putContext q.ctx r (g.s a)) g) := by
  rw [exec_wrsr hi ha, if_neg (by simp [hp]), if_pos hr, State.released, if_pos hquiet]
  rfl

/-- A context changed among the contexts. -/
theorem State.context_modify (s : State) (ctx : Nat) (f : Context → Context) :
    ({ s with contexts := s.contexts.modify ctx f } : State).context ctx = s.context ctx ∨
      ({ s with contexts := s.contexts.modify ctx f } : State).context ctx = f (s.context ctx) := by
  simp only [State.context, List.getD_eq_getElem?_getD, List.getElem?_modify_eq]
  cases s.contexts[ctx]? with
  | none => exact .inl rfl
  | some x => exact .inr rfl

/-- A write that does not turn the trace on leaves no packet (R442). -/
theorem State.putContext_quiet {ctx r : Nat} {w : Word}
    (h : ∀ x : Context, tritI (x.put r w).xdbg.val 24 = tritI x.xdbg.val 24 ∨ tritI (x.put r w).xdbg.val 24 ≠ 1) (s : State) :
    s.putContext ctx r w = { s with contexts := s.contexts.modify ctx fun x => x.put r w } := by
  have hoff : ¬ ((!s.traceOn ctx) = true ∧
      ({ s with contexts := s.contexts.modify ctx fun x => x.put r w } : State).traceOn ctx = true) := by
    simp only [State.traceOn, Bool.not_eq_true', beq_iff_eq, beq_eq_false_iff_ne]
    rintro ⟨hwas, hnow⟩
    rcases s.context_modify ctx fun x => x.put r w with hx | hx <;> rw [hx] at hnow
    · exact hwas hnow
    · rcases h (s.context ctx) with heq | hne
      · exact hwas (heq.symm.trans hnow)
      · exact hne hnow
  exact if_neg hoff

/-- The registers below XDBG. -/
theorem Context.put_of_lt {r : Nat} (hlo : 810 ≤ r) (hhi : r ≤ 813) (x : Context) (w : Word) :
    x.put r w = { x with xroot := if r = 810 then w else x.xroot, xregen := if r = 811 then w else x.xregen,
                         xlist := if r = 812 then w else x.xlist, xflog := if r = 813 then w else x.xflog } := by
  obtain rfl | rfl | rfl | rfl : r = 810 ∨ r = 811 ∨ r = 812 ∨ r = 813 := by omega
  all_goals rfl

/-- The second part of O19. -/
theorem systemRegisterForms_writes : Claims.SystemRegisterWrites := by
  intro c r a s g q hi ha
  refine ⟨fun hlo hhi hp ht => ?_, fun hu => ⟨?_, ?_, ?_, ?_, ?_⟩, fun hp hquiet hlo hhi => ?_, fun hp hquiet hoff => ?_⟩
  · rw [exec_wrsr hi ha, if_pos ⟨privilegedReg_iff.2 (.inl ⟨hlo, hhi⟩), by simp [hp]⟩, State.settle_fault hi ht]
  · exact exec_wrsr_gust hi hu ha (r := 5) (by omega) a
  · exact exec_wrsr_gust hi hu ha (r := 6) (by omega) a
  · exact exec_wrsr_gust hi hu ha (r := 7) (by omega) a
  · exact exec_wrsr_gust hi hu ha (r := 8) (by omega) a
  · exact exec_wrsr_gust hi hu ha (r := 9) (by omega) a
  · intro t
    have hput (x : Context) := Context.put_of_lt hlo hhi x (g.s a)
    rw [exec_wrsr_context hi ha hp hquiet hlo, State.putContext_quiet fun x => .inl (by rw [hput])]
    simp only [hput]
    rfl
  · intro t
    refine ⟨xdbgOf (g.s a), ?_, fun i h => tritI_xdbgOf_low _ h, fun i hlo h => tritI_xdbgOf_high _ hlo h⟩
    have hput (x : Context) : x.put 814 (g.s a) = { x with xdbg := xdbgOf (g.s a) } := rfl
    have hstays (x : Context) : tritI (x.put 814 (g.s a)).xdbg.val 24 ≠ 1 := by
      rw [hput, tritI_xdbgOf_high _ le_rfl (by omega)]
      omega
    rw [exec_wrsr_context hi ha hp hquiet (by omega), State.putContext_quiet fun x => .inr (hstays x)]
    simp only [hput]
    rfl

end

/-- Settles O19: RDSR, and WRSR. -/
theorem systemRegisterForms : Obligations.SystemRegisterForms := ⟨systemRegisterForms_reads, systemRegisterForms_writes⟩

end Sys2Proof.Machine
end

section
/-! O25: the new word of an update of a whole word (R203). -/

namespace Sys2Proof.Machine

/-- A narrowing update of I27 works on the words' values. -/
theorem wordsOp_i27_val (f : ElemFn) (old b : Word) : (wordsOp .i27 f old b b).1.val = wrapT (f old.val b.val b.val).1 27 := by
  simp [wordsOp, ETy.width, ETy.count, packElems, Word.elems_one]

theorem wrapT_idem (x : Int) (n : Nat) : wrapT (wrapT x n) n = wrapT x n := wrapT_of_range (wrapT_range x n).1 (wrapT_range x n).2

theorem wrapT_satT (x : Int) (n : Nat) : wrapT (satT x n) n = satT x n := wrapT_of_range (satT_range x n).1 (satT_range x n).2

/-- A trit-wise combination of two words whose values are trits again. -/
theorem tritI_zipWith_trits {f : Int → Int → Int}
    (hf : ∀ x y, (x = -1 ∨ x = 0 ∨ x = 1) → (y = -1 ∨ y = 0 ∨ y = 1) → f x y = -1 ∨ f x y = 0 ∨ f x y = 1)
    (a b : Word) {i : Nat} (hi : i < 27) :
    tritI (Word.ofInt (ofTrits (List.zipWith f a.trits b.trits))).val i = f (tritI a.val i) (tritI b.val i) := by
  have hlist : List.zipWith f a.trits b.trits = (List.range 27).map fun i => f (tritI a.val i) (tritI b.val i) := by
    simp only [Word.trits, tritsOf_eq, List.zipWith_map, List.zipWith_self]
  have htrit : ∀ t ∈ (List.range 27).map fun i => f (tritI a.val i) (tritI b.val i), t = -1 ∨ t = 0 ∨ t = 1 := by
    intro t ht
    obtain ⟨k, -, rfl⟩ := List.mem_map.1 ht
    exact hf _ _ (tritI_range _ _) (tritI_range _ _)
  have hr := ofTrits_range htrit
  rw [List.length_map, List.length_range] at hr
  rw [hlist, Word.val_ofInt, wrapT_of_range hr.1 hr.2, tritI_ofTrits htrit i (by simpa using hi)]
  simp

/-- The fourth part of O25. -/
theorem localScratchpadForms_results : Claims.UpdateResults := by
  intro old b d
  have hold := old.val_range
  have hb := b.val_range
  refine ⟨rfl, ⟨_, rfl, ?_⟩, ⟨_, rfl, ?_⟩, ⟨_, rfl, ?_⟩, ⟨_, rfl, ?_⟩, ⟨_, rfl, fun i hi => ?_⟩, ⟨_, rfl, fun i hi => ?_⟩, rfl⟩
  · exact (wordsOp_i27_val _ _ _).trans (wrapT_idem _ _)
  · exact (wordsOp_i27_val _ _ _).trans (wrapT_satT _ _)
  · exact (wordsOp_i27_val _ _ _).trans (wrapT_of_range (le_min hold.1 hb.1) (min_le_of_left_le hold.2))
  · exact (wordsOp_i27_val _ _ _).trans (wrapT_of_range (le_max_of_le_left hold.1) (max_le hold.2 hb.2))
  · exact tritI_zipWith_trits (fun x y hx hy => by omega) old b hi
  · exact tritI_zipWith_trits (fun x y hx hy => by omega) old b hi

end Sys2Proof.Machine
end

section
/-! Single lanes of a vector register. -/

namespace Sys2Proof

/-- A vector with words written in single lanes, in turn. -/
def Lanes.puts (v : Lanes) (es : List (Nat × Word)) : Lanes :=
  es.foldl (fun v e => Lanes.tab fun k => if k = e.1 then e.2 else v.get k) v

/-- What a lane holds after such writes, where each lane that is written takes its own word. -/
theorem Lanes.get_puts {es : List (Nat × Word)} {f : Nat → Word} (h : ∀ e ∈ es, e.2 = f e.1) (v : Lanes) {l : Nat} (hl : l < 81) :
    (v.puts es).get l = if l ∈ es.map (·.1) then f l else v.get l := by
  induction es using List.reverseRecOn with
  | nil => rfl
  | append_singleton es e ih =>
    rw [Lanes.puts, List.foldl_concat, Lanes.get_tab _ _ hl, ← Lanes.puts]
    by_cases hel : l = e.1
    · subst hel
      have he := h e (List.mem_append_right _ (List.mem_singleton_self e))
      rw [if_pos rfl, he, if_pos (List.mem_map_of_mem (List.mem_append_right _ (List.mem_singleton_self e)))]
    · have hmem : l ∈ (es ++ [e]).map (·.1) ↔ l ∈ es.map (·.1) := by
        rw [List.map_append, List.mem_append, List.map_singleton, List.mem_singleton, or_iff_left hel]
      rw [if_neg hel, ih fun e' he' => h e' (List.mem_append_left _ he'), if_congr hmem rfl rfl]

end Sys2Proof
end

section
/-! The words of a squall's scratchpad, by the port of its core (R178, R179, R182, R202). -/

namespace Sys2Proof.Machine

/-- Of two replacements of one squall the later stands. -/
theorem State.setSquall_setSquall (s : State) (a b : Squall) (hq : a.q = b.q) : (s.setSquall a).setSquall b = s.setSquall b := by
  unfold State.setSquall
  simp only [List.map_map, State.mk.injEq, true_and, and_true]
  apply List.map_congr_left
  intro x _
  by_cases hx : x.q = b.q <;> simp [hx, hq]

/-- The first record that a search finds after records were replaced, where those replaced are found. -/
theorem find?_map_replaced {α : Type} {P : α → Bool} {f : α → α} {a b : α} {l : List α} (h : l.find? P = some a) (ha : f a = b)
    (hb : P b = true) (hf : ∀ x, f x = x ∨ f x = b) : (l.map f).find? P = some b := by
  induction l with
  | nil => simp at h
  | cons x t ih =>
    rw [List.map_cons, List.find?_cons]
    rcases hf x with hx | hx
    · rw [hx]
      rw [List.find?_cons] at h
      cases hP : P x with
      | true =>
        rw [hP] at h
        have hxa : x = a := Option.some.inj h
        rw [← hx, hxa, ha]
      | false =>
        rw [hP] at h
        exact ih h
    · rw [hx, hb]

/-- A squall's record replaced by one with the same core and allotment holds what the squall held. -/
theorem State.holderOf_setSquall {s : State} {core x : Nat} {base : Bases → Nat} {n : Alloc → Nat} {q b : Squall}
    (h : s.holderOf core base n x = some q) (hq : b.q = q.q) (hc : b.core = q.core) (hb : b.bases = q.bases) (ha : b.alloc = q.alloc) :
    (s.setSquall b).holderOf core base n x = some b := by
  unfold State.holderOf State.squallsOn at h ⊢
  rw [List.find?_filter] at h ⊢
  refine find?_map_replaced (b := b) (f := fun y => if y.q == b.q then b else y) h (by simp [hq]) ?_ fun y => ?_
  · have hp := List.find?_some h
    rwa [hc, hb, ha]
  · by_cases hy : y.q = b.q <;> simp [hy]

/-- The state with a squall's scratchpad replaced, where something has been written to it. -/
def State.withScratch (s : State) (q : Squall) : Option Sparse → State
  | none => s
  | some m => s.setSquall { q with scratch := m }

section
variable {s : State} {q : Squall} {core w : Nat} (h : s.holderOf core Bases.scratch Alloc.scratch w = some q)
include h

theorem State.holderOf_withScratch (o : Option Sparse) :
    (s.withScratch q o).holderOf core Bases.scratch Alloc.scratch w = some { q with scratch := o.getD q.scratch } := by
  cases o with
  | none => exact h
  | some m => exact State.holderOf_setSquall (b := { q with scratch := m }) h rfl rfl rfl rfl

/-- What the port reads of a word of the scratchpad. -/
theorem State.winGet_withScratch (o : Option Sparse) (ctx : Option Nat) :
    (s.withScratch q o).winGet core ctx (.scratch w) = readAt Claims.zeroAt (o.getD q.scratch) (w - q.bases.scratch) := by
  simp only [State.winGet, State.holderOf_withScratch h o]
  rfl

/-- What the port leaves of the scratchpad after a write. -/
theorem State.windowWrite_withScratch (o : Option Sparse) (ctx : Option Nat) (v : Word) :
    (s.withScratch q o).windowWrite core ctx v (.scratch w) =
      s.withScratch q (some (writeAt Claims.zeroAt (o.getD q.scratch) (w - q.bases.scratch) v)) := by
  simp only [State.windowWrite, State.winPut, State.holderOf_withScratch h o]
  cases o with
  | none => rfl
  | some m => exact State.setSquall_setSquall s _ _ rfl
end

@[simp] theorem State.gust?_withScratch (s : State) (q : Squall) (o : Option Sparse) (r : GustRef) :
    (s.withScratch q o).gust? r = s.gust? r := by cases o <;> rfl

/-- The place of word `x` of a squall's own scratchpad. -/
def Squall.ownWord (q : Squall) (x : Nat) : Place := .port q.core (1594323 + (q.bases.scratch + x)) (.scratch (q.bases.scratch + x))

theorem State.placeOf_own (s : State) {q : Squall} {x : Nat} (hx : x < q.alloc.scratch) (priv write : Bool) :
    s.placeOf q priv .p (Int.ofNat x) write = (q.ownWord x, s) := by
  have hpos : Int.ofNat x ≥ 0 := Int.natCast_nonneg x
  have hlt : Int.ofNat x < Int.ofNat q.alloc.scratch := Int.ofNat_lt.2 hx
  simp only [State.placeOf, State.scratchPlace]
  rw [if_pos hpos, if_pos hlt]
  rfl

/-- With none of the gust's accesses on its way none clashes (R274). -/
theorem State.clashes_of_quiet {s : State} {g : Gust} (h : s.ownWords g = []) (ps : List Place) : s.clashes g ps = false := by
  simp [State.clashes, h]

/-! Relaxed accesses of the own core's port, which answers at once (R183). -/

section
variable {s : State} {g : Gust} {q : Squall} {x : Nat} (h : s.holderOf q.core Bases.scratch Alloc.scratch (q.bases.scratch + x) = some q)
include h

theorem State.readPlace_own (sc : Scope) (ev : Int) :
    s.readPlace g q .rlx sc ev (q.ownWord x) = (.ok (readAt Claims.zeroAt q.scratch x), s) := by
  have hv := State.winGet_withScratch h none (some q.ctx)
  rw [Nat.add_sub_cancel_left] at hv
  exact congrArg (fun v => (Except.ok v, s)) hv

theorem State.loadOf_own {m : MOps} (hm : m.ord = .rlx) :
    s.loadOf g q m (q.ownWord x) = (.ok (some (readAt Claims.zeroAt q.scratch x)), s) := by
  have hread := State.readPlace_own (g := g) h m.scope m.ev
  simp only [State.loadOf, Squall.ownWord, hm, Order.acquires, Bool.false_eq_true, if_false, if_true] at hread ⊢
  rw [hread]
  rfl

theorem State.writePlace_own (o : Option Sparse) (sc : Scope) (ev : Int) (v : Word) :
    (s.withScratch q o).writePlace g q .rlx sc ev v (q.ownWord x) =
      (.ok (), s.withScratch q (some (writeAt Claims.zeroAt (o.getD q.scratch) x v))) := by
  have hw := State.windowWrite_withScratch h o (some q.ctx) v
  rw [Nat.add_sub_cancel_left] at hw
  rw [← hw]
  exact if_pos (.inl rfl)

theorem State.updatePlace_own (o : Option Sparse) (od : Order) (sc : Scope) (ev : Int) (f : Word → Option Word) :
    (s.withScratch q o).updatePlace q od sc ev f (q.ownWord x) =
      (.ok (readAt Claims.zeroAt (o.getD q.scratch) x), s.withScratch q (match f (readAt Claims.zeroAt (o.getD q.scratch) x) with
        | some v => some (writeAt Claims.zeroAt (o.getD q.scratch) x v)
        | none => o)) := by
  have hr := State.winGet_withScratch h o (some q.ctx)
  have hw := State.windowWrite_withScratch h o (some q.ctx)
  rw [Nat.add_sub_cancel_left] at hr hw
  simp only [State.updatePlace, Squall.ownWord, hr]
  cases f (readAt Claims.zeroAt (o.getD q.scratch) x) with
  | none => rfl
  | some v => exact congrArg _ (hw v)

end

/-! Lanes of a register of a gust. -/

theorem Gust.withV_beyond {g : Gust} {d : Nat} (hd : g.vreg.length ≤ d) (w : Lanes) : g.withV d w = g := by
  rw [Gust.withV, List.set_eq_of_length_le hd]

/-- Lanes of a register written in turn are one write of the register. -/
theorem Gust.foldl_putLane (g : Gust) (d : Nat) (es : List (Nat × Word)) :
    es.foldl (fun k e => k.putLane d e) g = g.withV d ((g.v d).puts es) := by
  by_cases hd : d < g.vreg.length
  · induction es using List.reverseRecOn with
    | nil => exact (Gust.withV_self hd).symm
    | append_singleton es e ih =>
      rw [List.foldl_concat, ih, Gust.putLane, Gust.withV_withV, Gust.withV_v, if_pos ⟨rfl, hd⟩, Lanes.puts, Lanes.puts, List.foldl_concat]
  · rw [Gust.withV_beyond (by omega)]
    exact List.foldlRecOn es _ (motive := fun k => k = g) rfl fun k hk e _ => by
      rw [hk, Gust.putLane, Gust.withV_beyond (by omega)]

end Sys2Proof.Machine
end

section
/-! The lanes of a relaxed memory form (R178, R202, R204, R252, R274). -/

namespace Sys2Proof.Machine

section
variable {s : State} {g : Gust} {q : Squall} {m : MOps}

/-- The lanes of a form, each with its address and the place that the address has. -/
def laneItems (g : Gust) (m : MOps) (p : Nat → Place) (ls : List Nat) : List (Nat × Int × Place) :=
  ls.map fun l => (l, laneAddr g m l, p l)

/-- The places of lanes whose addresses the state answers at once. -/
theorem State.lanePlaces_eq {p : Nat → Place} {write : Bool} {ls : List Nat}
    (h : ∀ l ∈ ls, s.placeOf q g.priv m.space (laneAddr g m l) write = (p l, s)) :
    s.lanePlaces g q m write ls = (laneItems g m p ls, s) := by
  induction ls with
  | nil => rfl
  | cons l ls ih =>
    rw [List.forall_mem_cons] at h
    simp only [State.lanePlaces, h.1, ih h.2]
    rfl

theorem State.before_rlx (hm : m.ord = .rlx) (s : State) (g : Gust) (d : Nat) : s.before g d m.ord m.scope = some s := by rw [hm]; rfl

theorem State.ticketFor_rlx (hm : m.ord = .rlx) (s : State) (d : Nat) : s.ticketFor d m.ord m.scope = s := by rw [hm]; rfl

/-- A load or store of lanes whose places are known, with none of the gust's accesses on its way. -/
theorem State.laneMemory_eq (hq : s.squall? g.ref.sq = some q) (hm : m.ord = .rlx) (hown : s.ownWords g = []) (c : Ctl) {op : LaneOp}
    (hop : ∀ k, op ≠ .update k) {p : Nat → Place}
    (hp : ∀ l ∈ g.activeLanes c.guard, s.placeOf q g.priv m.space (laneAddr g m l) (op != .load) = (p l, s)) (i : Instr) :
    s.laneMemory g c op i m = State.endLanes (s.doLanes g q op m (laneItems g m p (g.activeLanes c.guard))) g q i m := by
  have hitems := State.lanePlaces_eq hp
  cases op with
  | update k => exact absurd rfl (hop k)
  | load =>
    simp only [State.laneMemory, hq, hitems, State.clashes_of_quiet hown, Bool.false_eq_true, if_false, State.before_rlx hm,
      State.ticketFor_rlx hm, ite_self]
  | store =>
    simp only [State.laneMemory, hq, hitems, State.clashes_of_quiet hown, Bool.false_eq_true, if_false, State.before_rlx hm,
      State.ticketFor_rlx hm, ite_self]

/-- A relaxed form with no lane left to replay and no machine check is done. -/
theorem State.endLanes_done {a : LaneAcc} (hm : m.ord = .rlx) (hc : a.check = none) (hw : a.waits = []) (i : Instr) :
    State.endLanes a g q i m = .done a.st := by
  simp [State.endLanes, hc, hw, hm, Order.acquires, State.ticketFor]

/-- Lanes that have left a state and values, and nothing to come. -/
def State.lanesWith (t : State) (vs : List (Nat × Word)) : LaneAcc :=
  { st := t, vals := vs, pend := [], waits := [], check := none, lease := none }

/-- Lanes that leave values alone, and no place of memory whose span could be asked for. -/
theorem State.doLanes_eq {op : LaneOp} {items : List (Nat × Int × Place)} {t : State} {vs : List (Nat × Word)}
    (h : State.runLanes g.ref (op.lane g q m items) items (s.lanesWith []) = t.lanesWith vs) (hmem : memPlaces items = []) :
    s.doLanes g q op m items = (if op = .store then t else t.putVals g.ref m.d vs).lanesWith vs := by
  have hspan (u u0 : State) (d : Nat) (b : Bool) : u.askSpans u0 d m b [] = u := rfl
  unfold State.lanesWith at h ⊢
  simp only [State.doLanes, h, hmem, hspan, List.isEmpty_nil, if_true, ite_self]

/-- The values that lanes leave in turn, where each answers by a state of `σ`. -/
def laneValues {σ : Type} (out : σ → Nat → Option Word) (next : σ → Nat → σ) : σ → List Nat → List (Nat × Word)
  | _, [] => []
  | u, l :: ls => ((out u l).map fun w => (l, w)).toList ++ laneValues out next (next u l) ls

/-- Lanes that all answer: the states that they leave are the states `S u`, and `u` goes on lane by lane. -/
theorem State.runLanes_values {σ : Type} (S : σ → State) (out : σ → Nat → Option Word) (next : σ → Nat → σ)
    {f : State → Nat → Place → LaneOut × State} {p : Nat → Place} {ls : List Nat}
    (h : ∀ l ∈ ls, ∀ u, f (S u) l (p l) = (.ok (out u l), S (next u l))) (r : GustRef) (u : σ) (vs : List (Nat × Word)) :
    State.runLanes r f (laneItems g m p ls) ((S u).lanesWith vs) =
      (S (ls.foldl next u)).lanesWith (vs ++ laneValues out next u ls) := by
  induction ls generalizing u vs with
  | nil => simp [laneItems, State.runLanes, laneValues]
  | cons l ls ih =>
    rw [List.forall_mem_cons] at h
    have hl := h.1 u
    have hrest := ih h.2 (next u l) (vs ++ ((out u l).map fun w => (l, w)).toList)
    rw [List.append_assoc] at hrest
    rw [List.foldl_cons, laneValues, ← hrest, laneItems, List.map_cons, State.runLanes]
    simp only [State.lanesWith, hl]
    rfl

end

end Sys2Proof.Machine
end

section
/-! O25: LDPS, STPS, LDP, STP and AMOP in the own scratchpad (R179, R202, R203, R204). -/

namespace Sys2Proof.Machine

/-- The first part of O25: the two forms reach one word of the own scratchpad. -/
theorem localScratchpadForms_words : Claims.LocalScratchpadWords := by
  intro c m s g q x hi ha hsp hord hfill hown hx hlt hheld
  have hplace (write : Bool) : s.placeOf q g.priv m.space (baseAddr g m.bc m.a m.off) write = (q.ownWord x, s) := by
    rw [hsp, hx, State.placeOf_own s hlt]
  cases m with | mk ord scope ev bc space d a b off =>
  subst hord
  have access {i : Instr} {store : Bool} (hrule : Claims.scalarAccess i = some (c, _, store)) :=
    (scalarAccessForms i c _ store s g q hrule hi ha hfill).2 (q.ownWord x) s (hplace store) rfl (State.clashes_of_quiet hown _) s rfl
  refine ⟨?_, writeAt Claims.zeroAt q.scratch x (g.s b), ?_, fun hc => ⟨canonical_writeAt hc _ _, fun y => ?_⟩⟩
  · obtain ⟨hmask, hreg, -⟩ := (access (i := .ldps c _) (store := false) rfl).1 rfl
    by_cases hd : 78 ≤ d
    · exact hmask (.inr hd) _ _ (State.readPlace_own hheld scope ev)
    · exact hreg (Nat.lt_of_not_le hd) _ _ (State.loadOf_own hheld rfl)
  · exact (access (i := .stps c _) (store := true) rfl).2 rfl _ (State.writePlace_own hheld none scope ev (g.s b))
  · exact readAt_writeAt ((canonical_iff _ _).1 hc).1 x y (g.s b)

section
variable {s : State} {g : Gust} {q : Squall}

/-- The issuing gust still issues with words of its squall's scratchpad written. -/
theorem State.issuing_withScratch (hi : s.Issuing g q) (o : Option Sparse) :
    (s.withScratch q o).Issuing g { q with scratch := o.getD q.scratch } := by
  obtain ⟨hcur, hg, hq⟩ := hi
  cases o with
  | none => exact ⟨hcur, hg, hq⟩
  | some sc =>
    refine ⟨hcur, hg, ?_⟩
    rw [State.withScratch, State.squall?_setSquall, if_pos (State.squall?_q hq).symm, hq]
    rfl

/-- An instruction that has written words of the scratchpad and lanes of a vector register (R202, R204). -/
theorem State.out_withScratch (hi : s.Issuing g q) (hu : g.Undisturbed q) (o : Option Sparse) (d : Nat) (vs : List (Nat × Word)) :
    Claims.out ((s.withScratch q o).putVals g.ref d vs) g =
      (s.withScratch q o).after g (g.withV d ((g.v d).puts vs)) q (g.pc + 1) := by
  obtain ⟨hlive, hclean, hstill, hcalm⟩ := hu
  have href (k : Gust) (hk : k.ref = g.ref) : (vs.foldl (fun k e => k.putLane d e) k).ref = g.ref := by
    rw [Gust.foldl_putLane]; exact hk
  refine (State.out_onGust (f := fun k => vs.foldl (fun k e => k.putLane d e) k) (State.issuing_withScratch hi o)
    ⟨hlive, hclean, hstill, hcalm⟩ href ?_).trans ?_
  · rw [Gust.foldl_putLane]
    exact .withV ..
  · rw [Gust.foldl_putLane]
    rfl

/-- The same with no register written. -/
theorem State.out_withScratch_only (hi : s.Issuing g q) (hu : g.Undisturbed q) (o : Option Sparse) :
    Claims.out (s.withScratch q o) g = (s.withScratch q o).after g g q (g.pc + 1) := by
  obtain ⟨hlive, hclean, hstill, hcalm⟩ := hu
  exact congrArg (State.keepIssuing · g) (State.complete_self (State.issuing_withScratch hi o) ⟨hlive, hclean, hstill, hcalm⟩ _ 0 0)

/-- The value of a lane's load from the own scratchpad. -/
theorem LaneOp.lane_load_own {s : State} {g : Gust} {q : Squall} {m : MOps} {x : Nat} (hm : m.ord = .rlx)
    (h : s.holderOf q.core Bases.scratch Alloc.scratch (q.bases.scratch + x) = some q) (items : List (Nat × Int × Place)) (l : Nat) :
    LaneOp.load.lane g q m items s l (q.ownWord x) = (.ok (some (readAt Claims.zeroAt q.scratch x)), s) :=
  State.loadOf_own h hm

/-- A lane's store to the own scratchpad, where no higher lane stores to its word. -/
theorem LaneOp.lane_store_own {s : State} {g : Gust} {q : Squall} {m : MOps} {x : Nat} (hm : m.ord = .rlx)
    (h : s.holderOf q.core Bases.scratch Alloc.scratch (q.bases.scratch + x) = some q) (items : List (Nat × Int × Place)) (l : Nat)
    (o : Option Sparse) :
    LaneOp.store.lane g q m items (s.withScratch q o) l (q.ownWord x) = (.ok none, s.withScratch q
      (if lastWriter items l (q.ownWord x) then some (writeAt Claims.zeroAt (o.getD q.scratch) x ((g.v m.b).get l)) else o)) := by
  have hw := State.writePlace_own (g := g) h o m.scope m.ev ((g.v m.b).get l)
  have hlane : LaneOp.store.lane g q m items (s.withScratch q o) l (q.ownWord x) =
      (match (if lastWriter items l (q.ownWord x) then (s.withScratch q o).writePlace g q m.ord m.scope m.ev ((g.v m.b).get l) (q.ownWord x)
        else (.ok (), s.withScratch q o) : Answer Unit) with
      | (.ok _, s) => (.ok none, s)
      | (.error c, s) => (if c > 0 then .fault c else .check c, s)) := rfl
  rw [hlane, hm, hw]
  cases lastWriter items l (q.ownWord x) <;> rfl

/-- A lane's update in the own scratchpad. -/
theorem LaneOp.lane_update_own {s : State} {g : Gust} {q : Squall} {m : MOps} {x : Nat}
    (h : s.holderOf q.core Bases.scratch Alloc.scratch (q.bases.scratch + x) = some q) (k : AtomKind) (items : List (Nat × Int × Place)) (l : Nat)
    (o : Option Sparse) :
    (LaneOp.update k).lane g q m items (s.withScratch q o) l (q.ownWord x) =
      (.ok (some (readAt Claims.zeroAt (o.getD q.scratch) x)), s.withScratch q
        (match k.new (readAt Claims.zeroAt (o.getD q.scratch) x) ((g.v m.b).get l) ((g.v m.d).get l) with
        | some v => some (writeAt Claims.zeroAt (o.getD q.scratch) x v)
        | none => o)) :=
  congrArg laneOutOf (State.updatePlace_own h o m.ord m.scope m.ev fun old => k.new old ((g.v m.b).get l) ((g.v m.d).get l))

theorem memPlaces_own (g : Gust) (m : MOps) (q : Squall) (x : Nat → Nat) (ls : List Nat) :
    memPlaces (laneItems g m (fun l => q.ownWord (x l)) ls) = [] := by
  simp [memPlaces, laneItems, Squall.ownWord]

/-- The places of the lanes of a form in the own scratchpad. -/
theorem State.placeOf_ownScratch {s : State} {g : Gust} {q : Squall} {m : MOps} {x : Nat → Nat} {ls : List Nat}
    (h : Claims.OwnScratch s g q m x ls) (write : Bool) :
    ∀ l ∈ ls, s.placeOf q g.priv m.space (laneAddr g m l) write = (q.ownWord (x l), s) := by
  obtain ⟨hsp, -, -, hl⟩ := h
  intro l hmem
  obtain ⟨haddr, hlt, -⟩ := hl l hmem
  rw [hsp, haddr, State.placeOf_own s hlt]

theorem laneValues_load (v : Nat → Word) (u : Unit) (ls : List Nat) :
    laneValues (fun _ l => some (v l)) (fun u _ => u) u ls = ls.map fun l => (l, v l) := by
  induction ls with
  | nil => rfl
  | cons l ls ih => rw [laneValues, ih]; rfl

theorem laneValues_none {σ : Type} (next : σ → Nat → σ) (u : σ) (ls : List Nat) :
    laneValues (fun _ _ => none) next u ls = [] := by
  induction ls generalizing u with
  | nil => rfl
  | cons l ls ih => rw [laneValues, ih]; rfl

section
variable {s : State} {g : Gust} {q : Squall} {m : MOps} {x : Nat → Nat} {c : Ctl}

/-- LDP in the own scratchpad (R202). -/
theorem exec_ldp_own (hi : s.Issuing g q) (hu : g.Undisturbed q) (h : Claims.OwnScratch s g q m x (g.activeLanes c.guard)) :
    exec (.ldp c m) s = .next (s.after g (g.withV m.d ((g.v m.d).puts
      ((g.activeLanes c.guard).map fun l => (l, readAt Claims.zeroAt q.scratch (x l))))) q (g.pc + 1)) := by
  have hplaces := State.placeOf_ownScratch h
  obtain ⟨-, hm, hown, hl⟩ := h
  have hrun := State.runLanes_values (g := g) (m := m) (fun _ : Unit => s) (fun _ l => some (readAt Claims.zeroAt q.scratch (x l))) (fun u _ => u)
    (f := LaneOp.load.lane g q m (laneItems g m (fun l => q.ownWord (x l)) (g.activeLanes c.guard)))
    (fun l hmem _ => LaneOp.lane_load_own hm (hl l hmem).2.2 _ l) g.ref () []
  rw [laneValues_load, List.nil_append] at hrun
  rw [exec, execLdp, State.performAs_lane hi, State.laneMemory_eq hi.squall hm hown c (by simp) (hplaces _),
    State.doLanes_eq (s := s) hrun (memPlaces_own ..), State.endLanes_done hm rfl rfl]
  exact congrArg _ (State.out_withScratch hi hu none m.d _)

/-- The scratchpad after the lane's store, where the lane is the one that remains. -/
def storeNext (q : Squall) (x : Nat → Nat) (v : Lanes) (keep : Nat → Bool) (o : Option Sparse) (l : Nat) : Option Sparse :=
  if keep l then some (writeAt Claims.zeroAt (o.getD q.scratch) (x l) (v.get l)) else o

/-- No higher lane stores to the lane's word. -/
def highest (x : Nat → Nat) (ls : List Nat) (l : Nat) : Bool := !ls.any fun k => decide (l < k) && x k == x l

theorem lastWriter_own (g : Gust) (m : MOps) (q : Squall) (x : Nat → Nat) (ls : List Nat) (l : Nat) :
    lastWriter (laneItems g m (fun l => q.ownWord (x l)) ls) l (q.ownWord (x l)) = highest x ls l := by
  have hkey (a b : Nat) : ((q.ownWord a).key == (q.ownWord b).key) = (a == b) := by
    rw [Bool.eq_iff_iff, beq_iff_eq, beq_iff_eq]
    simp [Squall.ownWord, Place.key]
  simp only [lastWriter, laneItems, List.any_map, Function.comp_def, hkey, highest]
  rfl

/-- STP in the own scratchpad (R202). -/
theorem exec_stp_own (hi : s.Issuing g q) (hu : g.Undisturbed q) (h : Claims.OwnScratch s g q m x (g.activeLanes c.guard)) :
    exec (.stp c m) s = .next ((s.withScratch q ((g.activeLanes c.guard).foldl
      (storeNext q x (g.v m.b) (highest x (g.activeLanes c.guard))) none)).after g g q (g.pc + 1)) := by
  have hplaces := State.placeOf_ownScratch h
  obtain ⟨-, hm, hown, hl⟩ := h
  have hrun := State.runLanes_values (g := g) (m := m) (fun o => s.withScratch q o) (fun _ _ => none)
    (storeNext q x (g.v m.b) (highest x (g.activeLanes c.guard)))
    (f := LaneOp.store.lane g q m (laneItems g m (fun l => q.ownWord (x l)) (g.activeLanes c.guard)))
    (fun l hmem o => by rw [LaneOp.lane_store_own hm (hl l hmem).2.2, lastWriter_own]; rfl) g.ref none []
  rw [laneValues_none, List.nil_append] at hrun
  rw [exec, execStp, State.performAs_lane hi, State.laneMemory_eq hi.squall hm hown c (by simp) (hplaces _),
    State.doLanes_eq (s := s) hrun (memPlaces_own ..), State.endLanes_done hm rfl rfl]
  exact congrArg _ (State.out_withScratch_only hi hu _)

/-- An AMOP whose lanes all reach the own core's port (R183, R204). -/
theorem State.laneAtom_own (hq : s.squall? g.ref.sq = some q) (h : Claims.OwnScratch s g q m x (g.activeLanes c.guard)) (k : AtomKind) (i : Instr) :
    s.laneAtom g c k i m = State.endLanes
      (s.doLanes g q (.update k) m (laneItems g m (fun l => q.ownWord (x l)) (g.activeLanes c.guard))) g q i m := by
  have hitems := State.lanePlaces_eq (State.placeOf_ownScratch h true)
  obtain ⟨hsp, hm, hown, -⟩ := h
  have hup : (laneItems g m (fun l => q.ownWord (x l)) (g.activeLanes c.guard)).map (fun y => (y.1, y.2.1,
      if updatable m.space y.2.1 then y.2.2 else .bad 20 0)) = laneItems g m (fun l => q.ownWord (x l)) (g.activeLanes c.guard) := by
    simp [hsp, updatable]
  simp only [State.laneAtom, hq, hitems, hup, State.clashes_of_quiet hown, State.before_rlx hm]
  simp [laneItems, Squall.ownWord]

/-- The scratchpad after a lane's update (R203). -/
def updateNext (q : Squall) (x : Nat → Nat) (op : Rmw) (ty : ETy) (b d : Lanes) (o : Option Sparse) (l : Nat) : Option Sparse :=
  match rmwNew op ty (readAt Claims.zeroAt (o.getD q.scratch) (x l)) (b.get l) (d.get l) with
  | some v => some (writeAt Claims.zeroAt (o.getD q.scratch) (x l) v)
  | none => o

/-- The word that a lane's update finds. -/
def updateFound (q : Squall) (x : Nat → Nat) (o : Option Sparse) (l : Nat) : Option Word :=
  some (readAt Claims.zeroAt (o.getD q.scratch) (x l))

/-- AMOP in the own scratchpad (R203, R204). -/
theorem exec_amop_own (hi : s.Issuing g q) (hu : g.Undisturbed q) (h : Claims.OwnScratch s g q m x (g.activeLanes c.guard)) (op : Rmw) (ty : ETy) :
    exec (.amop c op ty m) s = .next ((s.withScratch q ((g.activeLanes c.guard).foldl (updateNext q x op ty (g.v m.b) (g.v m.d)) none)).after g
      (g.withV m.d ((g.v m.d).puts (laneValues (updateFound q x) (updateNext q x op ty (g.v m.b) (g.v m.d)) none (g.activeLanes c.guard))))
      q (g.pc + 1)) := by
  have hatom := State.laneAtom_own hi.squall h (.rmw op ty) (.amop c op ty m)
  obtain ⟨-, hm, -, hl⟩ := h
  have hrun := State.runLanes_values (g := g) (m := m) (fun o => s.withScratch q o) (updateFound q x)
    (updateNext q x op ty (g.v m.b) (g.v m.d))
    (f := (LaneOp.update (.rmw op ty)).lane g q m (laneItems g m (fun l => q.ownWord (x l)) (g.activeLanes c.guard)))
    (fun l hmem o => LaneOp.lane_update_own (hl l hmem).2.2 _ _ l o) g.ref none []
  rw [List.nil_append] at hrun
  rw [exec, execAmop, State.performAs_lane hi, hatom, State.doLanes_eq (s := s) hrun (memPlaces_own ..), State.endLanes_done hm rfl rfl]
  exact congrArg _ (State.out_withScratch hi hu _ m.d _)

/-- The lanes' updates in turn are those of `Claims.updates`. -/
theorem updates_fst (q : Squall) (op : Rmw) (ty : ETy) (x : Nat → Nat) (b d : Lanes) (ls : List Nat) (o : Option Sparse) :
    (Claims.updates op ty x b d ls (o.getD q.scratch)).1 = (ls.foldl (updateNext q x op ty b d) o).getD q.scratch := by
  induction ls generalizing o with
  | nil => rfl
  | cons l ls ih =>
    rw [List.foldl_cons, ← ih, Claims.updates, updateNext]
    cases rmwNew op ty (readAt Claims.zeroAt (o.getD q.scratch) (x l)) (b.get l) (d.get l) <;> rfl

/-- A lane outside the list updates nothing. -/
theorem updates_snd_none {op : Rmw} {ty : ETy} {x : Nat → Nat} {b d : Lanes} {ls : List Nat} {k : Nat} (hk : k ∉ ls) (m : Sparse) :
    (Claims.updates op ty x b d ls m).2 k = none := by
  induction ls generalizing m with
  | nil => rfl
  | cons l ls ih =>
    rw [List.mem_cons, not_or] at hk
    rw [Claims.updates]
    simp only [hk.1, if_false]
    exact ih hk.2 _

/-- What the lanes found, each in its own lane. -/
theorem updates_snd (q : Squall) (op : Rmw) (ty : ETy) (x : Nat → Nat) (b d : Lanes) {ls : List Nat} (hnd : ls.Nodup) (o : Option Sparse) :
    (∀ e ∈ laneValues (updateFound q x) (updateNext q x op ty b d) o ls, (Claims.updates op ty x b d ls (o.getD q.scratch)).2 e.1 = some e.2) ∧
      (laneValues (updateFound q x) (updateNext q x op ty b d) o ls).map (·.1) = ls := by
  induction ls generalizing o with
  | nil => simp [laneValues]
  | cons l ls ih =>
    obtain ⟨hl, hnd⟩ := List.nodup_cons.1 hnd
    obtain ⟨hfound, hkeys⟩ := ih hnd (updateNext q x op ty b d o l)
    have hnext : (updateNext q x op ty b d o l).getD q.scratch =
        match rmwNew op ty (readAt Claims.zeroAt (o.getD q.scratch) (x l)) (b.get l) (d.get l) with
        | some v => writeAt Claims.zeroAt (o.getD q.scratch) (x l) v
        | none => o.getD q.scratch := by
      rw [updateNext]
      cases rmwNew op ty (readAt Claims.zeroAt (o.getD q.scratch) (x l)) (b.get l) (d.get l) <;> rfl
    refine ⟨fun e he => ?_, by rw [laneValues, List.map_append, hkeys]; rfl⟩
    rw [laneValues, List.mem_append] at he
    rw [Claims.updates]
    rcases he with he | he
    · obtain rfl : e = (l, readAt Claims.zeroAt (o.getD q.scratch) (x l)) := by simpa [updateFound] using he
      simp
    · have hne : e.1 ≠ l := fun h => hl (h ▸ hkeys ▸ List.mem_map_of_mem he)
      have hrest := hfound e he
      rw [hnext] at hrest
      simp only [hne, if_false]
      exact hrest

/-- The third part of O25. -/
theorem localScratchpadForms_updates : Claims.LocalScratchpadUpdates := by
  intro c op ty m x s g q hi hu h r
  have hfst : r.1 = _ := updates_fst q op ty x (g.v m.b) (g.v m.d) (g.activeLanes c.guard) none
  have hnd : (g.activeLanes c.guard).Nodup := List.nodup_range.filter _
  obtain ⟨hfound, hkeys⟩ := updates_snd q op ty x (g.v m.b) (g.v m.d) hnd none
  refine ⟨_, _, ?_, exec_amop_own hi hu h op ty, fun l hl => ?_⟩
  · rw [hfst]
    cases (g.activeLanes c.guard).foldl (updateNext q x op ty (g.v m.b) (g.v m.d)) none with
    | none => exact .inr ⟨rfl, rfl⟩
    | some sc => exact .inl rfl
  · rw [Lanes.get_puts (f := fun l => (r.2 l).getD ((g.v m.d).get l)) (fun e he => by rw [show r.2 e.1 = some e.2 from hfound e he]; rfl) _ hl, hkeys]
    split
    · rfl
    · next hout => rw [show r.2 l = none from updates_snd_none hout _]; rfl

end

/-! What the stores of the lanes leave (R202). -/

/-- Where every lane of a list stores, in turn, the last that stores to a word remains; here for the lanes of a list that are kept. -/
theorem readAt_foldl_storeNext {q : Squall} {v : Lanes} {keep : Nat → Bool} (hc : canonical Claims.zeroAt q.scratch = true) (ls : List Nat) :
    canonical Claims.zeroAt ((ls.foldl (storeNext q x v keep) none).getD q.scratch) = true ∧
      ∀ y, readAt Claims.zeroAt ((ls.foldl (storeNext q x v keep) none).getD q.scratch) y =
        (((ls.filter keep).filter fun l => x l == y).getLast?.map v.get).getD (readAt Claims.zeroAt q.scratch y) := by
  induction ls using List.reverseRecOn with
  | nil => exact ⟨hc, fun y => rfl⟩
  | append_singleton ls l ih =>
    obtain ⟨hcan, hread⟩ := ih
    rw [List.foldl_concat, storeNext]
    cases hk : keep l with
    | false =>
      have hsame : (ls ++ [l]).filter keep = ls.filter keep := by simp [hk]
      rw [if_neg (by simp), hsame]
      exact ⟨hcan, hread⟩
    | true =>
      refine ⟨canonical_writeAt hcan _ _, fun y => ?_⟩
      rw [if_pos rfl, Option.getD_some, readAt_writeAt ((canonical_iff _ _).1 hcan).1, hread]
      by_cases hy : y = x l
      · simp [hk, hy]
      · simp [hk, hy, Ne.symm hy]

theorem le_last_of_ascending {init : List Nat} {z : Nat} (h : (init ++ [z]).Pairwise (· < ·)) : ∀ k ∈ init ++ [z], k ≤ z := by
  intro k hk
  rcases List.mem_append.1 hk with hk | hk
  · exact ((List.pairwise_append.1 h).2.2 k hk z (List.mem_singleton_self z)).le
  · exact (List.mem_singleton.1 hk).le

/-- Of lanes in ascending order, the last that stores to a word is the one that no higher lane follows. -/
theorem getLast?_filter_highest {ls : List Nat} (hlt : ls.Pairwise (· < ·)) (x : Nat → Nat) (y : Nat) :
    ((ls.filter (highest x ls)).filter fun l => x l == y).getLast? = (ls.filter fun l => x l == y).getLast? := by
  have hswap : (ls.filter (highest x ls)).filter (fun l => x l == y) =
      (ls.filter fun l => x l == y).filter fun l => !(ls.filter fun l => x l == y).any fun k => decide (l < k) := by
    rw [List.filter_filter, List.filter_filter]
    refine List.filter_congr fun l _ => ?_
    by_cases hl : x l = y
    · subst hl
      simp [highest, List.any_filter, Bool.and_comm]
    · rw [beq_eq_false_iff_ne.2 hl, Bool.false_and, Bool.and_false]
  have hsub := hlt.filter fun l => x l == y
  rw [hswap]
  rcases List.eq_nil_or_concat' (ls.filter fun l => x l == y) with hnil | ⟨init, z, hz⟩
  · rw [hnil]; rfl
  · rw [hz] at hsub ⊢
    have hkeep : (!(init ++ [z]).any fun k => decide (z < k)) = true := by
      simpa using fun k hk => le_last_of_ascending hsub k (List.mem_append_left _ hk)
    rw [List.filter_append, List.filter_singleton, hkeep]
    simp

/-- Where some lane stores, something is written. -/
theorem foldl_storeNext_isSome {q : Squall} {v : Lanes} {ls : List Nat} (hlt : ls.Pairwise (· < ·)) (hne : ls ≠ []) :
    (ls.foldl (storeNext q x v (highest x ls)) none).isSome = true := by
  obtain ⟨init, z, hz⟩ := (List.eq_nil_or_concat' ls).resolve_left hne
  have htop : highest x ls z = true := by
    have hle := le_last_of_ascending (hz ▸ hlt)
    rw [← hz] at hle
    simpa [highest] using fun k hk hzk => absurd (hle k hk) (by omega)
  have hlast := congrArg (List.foldl (storeNext q x v (highest x ls)) none) hz
  rw [hlast, List.foldl_concat, storeNext, if_pos htop]
  rfl

/-- The second part of O25. -/
theorem localScratchpadForms_lanes : Claims.LocalScratchpadLanes := by
  intro c m x s g q hi hu h
  have hlt : (g.activeLanes c.guard).Pairwise (· < ·) := List.pairwise_lt_range.filter _
  refine ⟨⟨_, exec_ldp_own hi hu h, fun l hl => ?_⟩, fun hnil => ?_, fun hne => ?_⟩
  · rw [Lanes.get_puts (f := fun l => readAt Claims.zeroAt q.scratch (x l)) (by simp) _ hl]
    simp
  · rw [exec_stp_own hi hu h, hnil]
    rfl
  · obtain ⟨sc, hsc⟩ := Option.isSome_iff_exists.1 (foldl_storeNext_isSome (x := x) (q := q) (v := g.v m.b) hlt hne)
    refine ⟨sc, by rw [exec_stp_own hi hu h, hsc]; rfl, fun hc => ?_⟩
    obtain ⟨hcan, hread⟩ := readAt_foldl_storeNext (x := x) (v := g.v m.b) (keep := highest x (g.activeLanes c.guard)) hc (g.activeLanes c.guard)
    rw [hsc] at hcan hread
    refine ⟨hcan, fun y => (hread y).trans ?_⟩
    rw [getLast?_filter_highest hlt]
    cases ((g.activeLanes c.guard).filter fun l => x l == y).getLast? <;> rfl

end

/-- Settles O25: one word, the lanes of loads and stores, the lanes of updates, and what an update gives. -/
theorem localScratchpadForms : Obligations.LocalScratchpadForms :=
  ⟨localScratchpadForms_words, localScratchpadForms_lanes, localScratchpadForms_updates, localScratchpadForms_results⟩

end Sys2Proof.Machine
end

section
/-! O27: the caches' own writes leave every gust's atomics on their way (R239, R243, R276): of the gusts they change the counts of
unacknowledged writes alone. -/

namespace Sys2Proof.Machine

/-- The atomics of the gusts that are on their way. -/
def State.sentAtoms (s : State) : List (GustRef × List PendAtom) := s.gusts.map fun g => (g.ref, g.atoms)

/-- A part of the state that every act of a row keeps is kept by the row. -/
theorem State.each_part {α β : Type} (part : State → β) {f : State → α → State} (hf : ∀ t x, part (f t x) = part t) (s : State)
    (xs : List α) : part (s.each xs f) = part s :=
  List.foldlRecOn xs f (motive := fun t => part t = part s) rfl fun t ht x _ => (hf t x).trans ht

theorem sentAtoms_acked (s : State) (r) : (s.acked r).sentAtoms = s.sentAtoms := by
  unfold State.acked
  split
  · simp only [State.sentAtoms, State.onGust, List.map_map]
    refine List.map_congr_left fun g _ => ?_
    dsimp only [Function.comp]
    split <;> rfl
  · rfl

theorem sentAtoms_poisonBad (s : State) (loc w v) : (s.poisonBad loc w v).sentAtoms = s.sentAtoms := by
  have hport : ∀ q, (s.addPortPoison loc q).sentAtoms = s.sentAtoms := fun q => by
    unfold State.addPortPoison
    split <;> rfl
  unfold State.poisonBad
  split
  · rfl
  · split
    · rfl
    · rfl
    · exact hport _

theorem sentAtoms_stamp (s : State) (d) : (s.stamp d).2.sentAtoms = s.sentAtoms := by
  unfold State.stamp
  split <;> rfl

theorem sentAtoms_overtake (s : State) (d p ws) : (s.overtake d p ws).sentAtoms = s.sentAtoms := by
  unfold State.overtake
  refine State.each_part State.sentAtoms (fun t i => ?_) s _
  split
  · exact sentAtoms_acked _ _
  · rfl

theorem sentAtoms_applyToHome (s : State) (d st p ws) : (s.applyToHome d st p ws).sentAtoms = s.sentAtoms := by
  have hsends (t : State) (targets : List (Nat × Nat)) :
      (t.each targets fun s e => s.send (.invalidation e.1 p e.2 st)).sentAtoms = t.sentAtoms := by
    refine State.each_part State.sentAtoms (fun _ _ => ?_) t _
    rfl
  have happly : (s.applyWords d st p ws).sentAtoms = s.sentAtoms := by
    unfold State.applyWords
    split
    · rfl
    · dsimp only
      split
      · exact hsends _ _
      · refine (State.each_part State.sentAtoms (fun _ _ => ?_) _ _).trans (hsends _ _)
        rfl
  exact happly

theorem sentAtoms_zargenAck (s : State) (seq) : (s.zargenAck seq).sentAtoms = s.sentAtoms := by
  unfold State.zargenAck
  split
  · exact sentAtoms_acked _ _
  · rfl

theorem sentAtoms_ackWrite (s : State) (m) : (s.ackWrite m).sentAtoms = s.sentAtoms := by
  unfold State.ackWrite
  split
  · split
    · rfl
    · exact sentAtoms_acked _ _
  · split
    · exact sentAtoms_zargenAck _ _
    · exact sentAtoms_acked _ _
  · exact sentAtoms_acked _ _

theorem sentAtoms_setPortLine (s : State) (loc bs) : (s.setPortLine loc bs).sentAtoms = s.sentAtoms := by
  unfold State.setPortLine
  split <;> rfl

theorem sentAtoms_endWrite_landPort (s : State) (m) : (State.endWrite m (s.landPort m)).sentAtoms = s.sentAtoms := by
  unfold State.endWrite
  refine (sentAtoms_ackWrite _ _).trans ?_
  unfold State.landPort
  cases s.portWords m.loc [sectorOf m.word] with
  | ok old => exact sentAtoms_setPortLine _ _ _
  | error c =>
    dsimp only
    split <;> rfl

theorem sentAtoms_flushPort (s : State) (d loc) : (s.flushPort d loc).sentAtoms = s.sentAtoms := by
  unfold State.flushPort
  refine (State.each_part State.sentAtoms (fun t i => ?_) _ _).trans rfl
  split
  · exact sentAtoms_endWrite_landPort _ _
  · rfl

/-- A write-back of words of a device line. -/
theorem sentAtoms_writeBackWords (s : State) (d loc ws ctx) : (s.writeBackWords d loc ws ctx).sentAtoms = s.sentAtoms := by
  unfold State.writeBackWords
  split
  · rfl
  · split
    · have hsent := fun p => (sentAtoms_stamp (s.overtake d p (ws.map (·.1))) d).trans (sentAtoms_overtake s d p (ws.map (·.1)))
      dsimp only
      split
      · exact (sentAtoms_applyToHome _ _ _ _ _).trans (hsent _)
      · split
        · split
          · exact hsent _
          · refine (State.each_part State.sentAtoms (fun _ _ => ?_) _ _).trans (hsent _)
            rfl
        · exact hsent _
        · exact hsent _
    · rfl
    · have hsent := (sentAtoms_stamp (s.flushPort d loc) d).trans (sentAtoms_flushPort s d loc)
      dsimp only
      split
      · exact (sentAtoms_setPortLine _ _ _).trans hsent
      · split <;> exact hsent

theorem sentAtoms_writeBackOne (s : State) (d loc w v) : (s.writeBackOne d loc w v).sentAtoms = s.sentAtoms := by
  have hpoison : ((s.onL1 d loc fun x => x.clean [w]).poisonBad loc w v).sentAtoms = s.sentAtoms := sentAtoms_poisonBad _ _ _ _
  have hwords : (if v.bad then (s.onL1 d loc fun x => x.clean [w]).poisonBad loc w v
      else ((s.onL1 d loc fun x => x.clean [w]).poisonBad loc w v).writeBackWords d loc [(w, v.val)] v.by_).sentAtoms = s.sentAtoms := by
    split
    · exact hpoison
    · exact (sentAtoms_writeBackWords _ _ _ _ _).trans hpoison
  unfold State.writeBackOne
  dsimp only
  split
  · split
    · exact hwords
    · exact hwords
  · exact hwords

theorem sentAtoms_writeBack (s : State) (d loc q) : (s.writeBack d loc q).sentAtoms = s.sentAtoms := by
  unfold State.writeBack
  split
  · rfl
  · dsimp only
    split
    · rfl
    · have holder (t : State) (xs : List (Nat × Loc × Nat × CWord)) :
          (t.each xs fun s t => s.writeBackOne d t.2.1 t.2.2.1 t.2.2.2).sentAtoms = t.sentAtoms :=
        State.each_part State.sentAtoms (fun _ _ => sentAtoms_writeBackOne _ _ _ _ _) t _
      have hpoison (t : State) (xs : List (Nat × CWord)) : (t.each xs fun s t => s.poisonBad loc t.1 t.2).sentAtoms = t.sentAtoms :=
        State.each_part State.sentAtoms (fun _ _ => sentAtoms_poisonBad _ _ _ _) t _
      split <;> exact (sentAtoms_writeBackWords _ _ _ _ _).trans ((hpoison _ _).trans (holder _ _))

theorem sentAtoms_publish (s : State) (d p q) : (s.publish d p q).sentAtoms = s.sentAtoms := by
  unfold State.publish
  split
  · rfl
  · have hback (t : State) (ds : List Nat) : (t.each ds fun s k => s.writeBack k (.dev p) q).sentAtoms = t.sentAtoms :=
      State.each_part State.sentAtoms (fun _ _ => sentAtoms_writeBack _ _ _ _) t _
    dsimp only
    split <;> exact hback _ _

/-- A gust has the same atomics on their way in two states that list the same. -/
theorem State.atoms_of_sentAtoms {s t : State} (h : t.sentAtoms = s.sentAtoms) (r : GustRef) :
    (t.gust? r).map (·.atoms) = (s.gust? r).map (·.atoms) := by
  have hlist (u : State) : (u.gust? r).map (·.atoms) = (u.sentAtoms.find? fun x => x.1 == r).map (·.2) := by
    rw [State.sentAtoms, List.find?_map, State.gust?, Option.map_map]
    rfl
  rw [hlist, hlist, h]

end Sys2Proof.Machine
end

section
/-! O27: atomics of a scratchpad word, at its port and on their way to it (R183, R187, R248, R249). -/

namespace Sys2Proof.Machine

/-- Only the scratchpad region of a core's window holds scratchpad words (R185). -/
theorem winReg_scratch_range {isD : Bool} {u y : Nat} (h : winReg isD u = some (.scratch y)) : 1594323 ≤ u ∧ u < 2125764 := by
  by_contra hout
  have hlo : u < 1594323 ∨ 2125764 ≤ u := by omega
  unfold winReg at h
  rcases hlo with hlo | hhi
  · rw [if_pos hlo] at h
    simp at h
  · rw [if_neg (by omega), if_neg (by omega)] at h
    dsimp only at h
    split_ifs at h <;> simp at h

theorem winPlace_range {x : Int} {e : Nat × Nat} (h : winPlace x = some e) : -1162261467 ≤ x ∧ x ≤ -1 := by
  by_contra hout
  rw [winPlace, if_pos (by omega)] at h
  exact Option.some_ne_none _ h.symm

/-- In window space the scratchpad region takes updates (R187). -/
theorem updatable_window {x : Int} {core u : Nat} (h : winPlace x = some (core, u)) :
    updatable .w x = decide (1594323 ≤ u ∧ u < 2125764) := by
  simp only [updatable, h, Option.any_some]

section
variable {s : State} {q b : Squall} {core u y : Nat}

/-- The place of a window address of a scratchpad word that a squall of the context holds (R179, R184, R186). -/
theorem State.placeOf_scratchWord {x : Int} {priv : Bool} (hpriv : priv = true) (hx : winPlace x = some (core, u))
    (hreg : winReg (coreIsD core) u = some (.scratch y)) (hb : s.holderOf core Bases.scratch Alloc.scratch y = some b) (hctx : b.ctx = q.ctx) (write : Bool) :
    s.placeOf q priv .w x write = (.port core u (.scratch y), s) := by
  subst hpriv
  have hrange := winPlace_range hx
  have hown : s.winOwners core (.scratch y) = [q.ctx] := by simp [State.winOwners, hb, hctx]
  have hfind : s.winFind q.ctx true x = .ok (core, .scratch y) := by
    simp [State.winFind, hx, hreg, hown]
  simp only [State.placeOf, hx, hfind]
  rw [if_neg (by omega)]

/-- What an update at the port of a scratchpad word finds and leaves (R182, R204). -/
theorem State.updatePlace_scratch (hb : s.holderOf core Bases.scratch Alloc.scratch y = some b) (u : Nat) (o : Order) (sc : Scope) (ev : Int)
    (f : Word → Option Word) :
    s.updatePlace q o sc ev f (.port core u (.scratch y)) =
      (.ok (readAt Claims.zeroAt b.scratch (y - b.bases.scratch)),
        s.withScratch b ((f (readAt Claims.zeroAt b.scratch (y - b.bases.scratch))).map fun v =>
          writeAt Claims.zeroAt b.scratch (y - b.bases.scratch) v)) := by
  have hr := State.winGet_withScratch hb none (some q.ctx)
  have hw := State.windowWrite_withScratch hb none (some q.ctx)
  simp only [State.withScratch, Option.getD_none] at hr hw
  simp only [State.updatePlace, hr]
  cases f (readAt Claims.zeroAt b.scratch (y - b.bases.scratch)) with
  | none => rfl
  | some v => exact congrArg _ (hw v)

end

section
variable {s t : State} {g h : Gust} {q : Squall} {m : MOps} {k : AtomKind} {p : Place}

/-- An atomic that does not hold its gust up is on its way, and the gust goes on (R249, R274). -/
theorem State.endAtom_sendAtom {a : PendAtom} (hg : t.gust? g.ref = some h) (hatoms : h.atoms = []) (ha : a.items ≠ []) (ho : a.ord = .rlx)
    (hd : a.scalar = true → a.d < 78) (q : Squall) (sc : Scope) :
    (t.sendAtom g q a).endAtom g q .rlx sc = .done (t.onGust g.ref fun h => { h with atoms := h.atoms ++ [a] }) := by
  have hitems : a.items.isEmpty = false := List.isEmpty_eq_false_iff.2 ha
  have hsend : t.sendAtom g q a = t.onGust g.ref fun h => { h with atoms := h.atoms ++ [a] } := by
    simp [State.sendAtom, hitems, ho]
  have hgoes : a.blocks = false := by
    simp only [PendAtom.blocks, ho, Order.acquires, Bool.false_or, Bool.and_eq_false_imp, decide_eq_false_iff_not, not_le]
    exact hd
  have hfound := State.gust?_onGust_some hg (fun h => { h with atoms := h.atoms ++ [a] }) fun _ h => h
  simp [State.endAtom, hsend, hfound, hatoms, hgoes, Order.acquires]

/-- A scalar atomic as it leaves for its unit (R249). -/
def State.scalarSent (t : State) (g : Gust) (m : MOps) (k : AtomKind) (a : WLoc) (v : Word) (lease : Nat) : PendAtom :=
  { kind := k, d := m.d, scalar := true, ord := m.ord, scope := m.scope, ev := m.ev, lease, sentAt := t.ptime,
    words := t.accessRec g.ref, items := [{ lane := 0, at_ := a, dOld := g.s m.d, b := g.s m.b, seen := v }] }

section
variable (hi : s.Issuing g q) (hf : g.fillFaults = []) (hm : m.ord = .rlx) (hown : s.ownWords g = [])
  (hup : updatable m.space (baseAddr g m.bc m.a m.off) = true)
include hi hf hm hown hup

/-- A scalar atomic at the own core's port applies at once (R183). -/
theorem State.scalarAtom_here {u : Nat} {w : WinReg} {v : Word}
    (hp : s.placeOf q g.priv m.space (baseAddr g m.bc m.a m.off) true = (.port q.core u w, s))
    (hupd : s.updatePlace q m.ord m.scope m.ev (fun old => k.new old (g.s m.b) (g.s m.d)) (.port q.core u w) = (.ok v, t)) :
    s.scalarAtom g k m = .done (t.writeS g.ref m.d v) := by
  have hacq : m.ord.acquires = false := by rw [hm]; rfl
  simp only [State.scalarAtom, hup, State.gustPlace_word hi hf hp rfl (State.clashes_of_quiet hown _), State.before_rlx hm, hupd,
    beq_self_eq_true, if_true, endAccess, State.ticketFor_rlx hm, hacq]
  rfl

/-- Any other goes on its way to its unit (R249). -/
theorem State.scalarAtom_sent {a : WLoc} {v : Word} {lease : Nat}
    (hp : s.placeOf q g.priv m.space (baseAddr g m.bc m.a m.off) true = (p, s)) (hk : p.key.isSome = true)
    (haway : ∀ core u w, p = .port core u w → core ≠ q.core) (hlane : State.atomLane g q k m s 0 p = (.pend a v lease, t))
    (hg : t.gust? g.ref = some h) (hatoms : h.atoms = []) (hd : m.d < 78) :
    s.scalarAtom g k m = .done (t.onGust g.ref fun h => { h with atoms := h.atoms ++ [t.scalarSent g m k a v lease] }) := by
  have hsent : s.scalarAtom g k m = (t.sendAtom g q (t.scalarSent g m k a v lease)).endAtom g q m.ord m.scope := by
    simp only [State.scalarAtom, hup, State.gustPlace_word hi hf hp hk (State.clashes_of_quiet hown _), State.before_rlx hm, hlane]
    cases p with
    | port core u w =>
      simp only [beq_eq_false_iff_ne.2 (haway core u w rfl)]
      rfl
    | mem a' lease' => rfl
    | bad c x => nomatch hk
    | page e => nomatch hk
  rw [hsent, hm]
  exact State.endAtom_sendAtom hg hatoms (by simp [State.scalarSent]) hm (fun _ => hd) q m.scope

end

theorem State.sent_scalarSent (hm : m.ord = .rlx) (t : State) (g : Gust) (k : AtomKind) (a : WLoc) (v : Word) (lease : Nat) :
    Claims.Sent (t.scalarSent g m k a v lease) m k true [{ lane := 0, at_ := a, dOld := g.s m.d, b := g.s m.b, seen := v }] :=
  ⟨rfl, rfl, rfl, hm, rfl, rfl, rfl, rfl⟩

end

end Sys2Proof.Machine
end

section
/-! O27: what the requests of atomics of global memory meet (R238, R241, R248, R249, R284). -/

namespace Sys2Proof.Machine

/-- An address that translates to a word of memory has that place. -/
theorem State.placeOf_at {s : State} {g : Gust} {q : Squall} {x : Int} {write : Bool} {a : WLoc} (h : Claims.At s g q x write a) :
    s.placeOf q g.priv .g x write = (.mem a (s.leaseOf q.core q.ctx x), s) := by
  obtain ⟨hlo, hhi, e, hfind, hcheck, rfl⟩ := h
  have hmax : x ≤ 3812798742493 := hhi
  have htr : s.translate q.core q.ctx x write g.priv true = (.ok (leafPlace e.w0 e.w1 x), s) := by
    simp only [State.translate, State.translateBy, Core.copies, hfind, hcheck]
  simp only [State.placeOf, htr]
  rw [if_neg (by omega)]

/-- Only the home lines' priorities and last uses, and the count of identities, have changed. -/
structure HomesTouched (s t : State) : Prop where
  rest : t = { s with homes := t.homes, serial := t.serial }
  lines : ∀ p, (t.home? p).map (fun h => (h.words, h.bad)) = (s.home? p).map fun h => (h.words, h.bad)

theorem HomesTouched.refl (s : State) : HomesTouched s s := ⟨rfl, fun _ => rfl⟩

theorem HomesTouched.trans {s t u : State} (h : HomesTouched s t) (k : HomesTouched t u) : HomesTouched s u := by
  obtain ⟨hst, hl⟩ := h
  obtain ⟨htu, kl⟩ := k
  exact ⟨by rw [htu, hst], fun p => (kl p).trans (hl p)⟩

theorem HomesTouched.used {s t : State} (h : HomesTouched s t) : Claims.HomesUsed s t := by
  refine ⟨h.rest, fun p => ?_⟩
  have hl := congrArg (Option.map Prod.fst) (h.lines p)
  simpa [Option.map_map, Function.comp_def] using hl

theorem HomesTouched.flight {s t : State} (h : HomesTouched s t) : t.flight = s.flight := by rw [h.rest]

theorem HomesTouched.gusts {s t : State} (h : HomesTouched s t) : t.gusts = s.gusts := by rw [h.rest]

theorem HomesTouched.l1Hit {s t : State} (h : HomesTouched s t) (d : Nat) (a : WLoc) : t.l1Hit d a = s.l1Hit d a := by rw [h.rest]; rfl

theorem HomesTouched.poisoned {s t : State} (h : HomesTouched s t) (p q : Nat) : t.poisoned p q = s.poisoned p q := by rw [h.rest]; rfl

theorem HomesTouched.portWords {s t : State} (h : HomesTouched s t) (loc : Loc) (qs : List Nat) :
    t.portWords loc qs = s.portWords loc qs := by rw [h.rest]; rfl

/-- A home line that is found there answers the fill, and is used (R238, R245). -/
theorem State.homeFill_found {s : State} {p : Nat} {h : HomeLine} (hh : s.home? p = some h) (ev : Int) :
    ∃ t, s.homeFill p ev = (.ok h.words, t) ∧ HomesTouched s t := by
  refine ⟨s.fresh.2.onHome p fun h => { h with prio := max h.prio (l2Prio ev), used := s.serial }, by simp only [State.homeFill, hh]; rfl,
    rfl, fun j => ?_⟩
  rw [State.home?_onHome _ _ _ (fun h => { h with prio := max h.prio (l2Prio ev), used := s.serial }) fun x hx => hx]
  by_cases hj : j = p
  · rw [if_pos hj, Option.map_map]
    rfl
  · rw [if_neg hj]
    rfl

/-- A request that comes behind no write of its die sends none ahead (R260, R424). -/
theorem State.flushLoc_none {s : State} {d : Nat} {loc : Loc} (h : ∀ i ∈ s.flight, behind d loc i = false) : s.flushLoc d loc = s := by
  have hall : (s.flight.filter fun i => !behind d loc i) = s.flight := List.filter_eq_self.2 fun i hi => by simp [h i hi]
  have hnone : s.flight.filter (behind d loc) = [] := List.filter_eq_nil_iff.2 fun i hi => by simp [h i hi]
  cases loc with
  | dev p =>
    simp only [State.flushLoc, hall, hnone]
    rfl
  | _ =>
    simp only [State.flushLoc, State.flushPort, hall, hnone]
    rfl

section
variable {s t : State} {d : Nat} {a : WLoc} {v : Word}

/-- A request at the home or the owning port that meets nothing wrong. -/
theorem State.reachHome_asked (h : Claims.Asked s d true a v) (ev : Int) :
    ∃ t, s.reachHome d a ev false = (.ok v, t) ∧ HomesTouched s t := by
  obtain ⟨loc, w⟩ := a
  obtain ⟨hbehind, hfound⟩ := h
  have hflush := State.flushLoc_none hbehind
  cases loc with
  | dev p =>
    obtain ⟨hpoison, h, hh, hbad, rfl⟩ := hfound
    obtain ⟨t, hfill, ht⟩ := State.homeFill_found hh ev
    have hsound : t.homeBad p w = false := by
      have hline := ht.lines p
      rw [hh] at hline
      cases hk : t.home? p with
      | none => simp [hk] at hline
      | some k =>
        rw [hk] at hline
        simp only [Option.map_some, Option.some.injEq, Prod.mk.injEq] at hline
        simpa [State.homeBad, hk, hline.2] using hbad
    refine ⟨t, ?_, ht⟩
    simp [State.reachHome, hflush, hpoison, hfill, hsound]
  | win n => exact hfound.elim
  | host p =>
    obtain ⟨ws, hws, rfl⟩ := hfound
    exact ⟨s, by simp only [State.reachHome, hflush, hws], .refl s⟩
  | remote dev p =>
    obtain ⟨ws, hws, rfl⟩ := hfound
    exact ⟨s, by simp only [State.reachHome, hflush, hws], .refl s⟩

/-- What other requests find does not change with the use of home lines. -/
theorem HomesTouched.asked {wide : Bool} (ht : HomesTouched s t) (h : Claims.Asked s d wide a v) : Claims.Asked t d wide a v := by
  cases wide with
  | false =>
    obtain ⟨w, hw, hrest⟩ := h
    exact ⟨w, (ht.l1Hit d a).trans hw, hrest⟩
  | true =>
    obtain ⟨loc, n⟩ := a
    obtain ⟨hbehind, hfound⟩ := h
    refine ⟨fun i hi => hbehind i (ht.flight ▸ hi), ?_⟩
    cases loc with
    | dev p =>
      obtain ⟨hpoison, h, hh, hbad, rfl⟩ := hfound
      have hline := ht.lines p
      rw [hh] at hline
      obtain ⟨k, hk, hkeq⟩ := Option.map_eq_some_iff.1 hline
      simp only [Prod.mk.injEq] at hkeq
      exact ⟨(ht.poisoned p _).trans hpoison, k, hk, by rw [hkeq.2]; exact hbad, by rw [hkeq.1]⟩
    | win n => exact hfound.elim
    | host p =>
      obtain ⟨ws, hws, rfl⟩ := hfound
      exact ⟨ws, (ht.portWords _ _).trans hws, rfl⟩
    | remote dev p =>
      obtain ⟨ws, hws, rfl⟩ := hfound
      exact ⟨ws, (ht.portWords _ _).trans hws, rfl⟩

/-- A lane of an atomic whose request meets nothing wrong is on its way to its unit, with the word that the request found. -/
theorem State.atomLane_asked {q : Squall} {m : MOps} (h : Claims.Asked s (dieOf q.core) m.scope.wide a v) (g : Gust) (k : AtomKind)
    (l lease : Nat) : ∃ t, State.atomLane g q k m s l (.mem a lease) = (.pend a v lease, t) ∧ HomesTouched s t := by
  cases hwide : m.scope.wide with
  | true =>
    rw [hwide] at h
    obtain ⟨t, hreach, ht⟩ := State.reachHome_asked h m.ev
    exact ⟨t, by simp only [State.atomLane, hwide, if_true, hreach], ht⟩
  | false =>
    rw [hwide] at h
    obtain ⟨w, hw, hbad, rfl⟩ := h
    exact ⟨s, by simp [State.atomLane, hwide, hw, hbad], .refl s⟩

end

end Sys2Proof.Machine
end

section
/-! O27: ATOM and CAS (R187, R249, R253, R254). -/

namespace Sys2Proof.Machine

section
variable {s t : State} {g h : Gust} {q : Squall} {m : MOps} {k : AtomKind}

/-- Lanes that are all on their way, in a state. -/
def State.lanesPend (t : State) (ps : List (Nat × WLoc × Word)) (lease : Option Nat) : LaneAcc :=
  { st := t, vals := [], pend := ps, waits := [], check := none, lease := lease }

/-- The lanes of an atomic that are all on their way to their units. Each leaves the state so that `I` holds of it. -/
theorem State.runLanes_pend (I : State → Prop) {f : State → Nat → Place → LaneOut × State} {p : Nat → Place} {a : Nat → WLoc} {v : Nat → Word}
    {ls : List Nat} (hf : ∀ l ∈ ls, ∀ t, I t → ∃ t' e, f t l (p l) = (.pend (a l) (v l) e, t') ∧ I t') (r : GustRef) (ht : I t)
    (ps : List (Nat × WLoc × Word)) (lease : Option Nat) :
    ∃ t' e, I t' ∧ State.runLanes r f (laneItems g m p ls) (t.lanesPend ps lease) =
      t'.lanesPend (ps ++ ls.map fun l => (l, a l, v l)) e := by
  induction ls generalizing t ps lease with
  | nil => exact ⟨t, lease, ht, by simp [laneItems, State.runLanes]⟩
  | cons l ls ih =>
    rw [List.forall_mem_cons] at hf
    obtain ⟨t1, e, hl, ht1⟩ := hf.1 t ht
    obtain ⟨t', e', ht', hrest⟩ := ih hf.2 ht1 (ps ++ [(l, a l, v l)]) (capMin lease e)
    refine ⟨t', e', ht', ?_⟩
    rw [List.append_assoc] at hrest
    refine Eq.trans ?_ hrest
    rw [laneItems, List.map_cons, State.runLanes]
    simp only [State.lanesPend, hl]
    rfl

theorem State.putVals_nil (s : State) (r : GustRef) (d : Nat) : s.putVals r d [] = s := by
  simp [State.putVals, State.onGust]

/-- The spans of a relaxed atomic (R241): at cluster scope L1 serves every lane and nothing is asked for; a wide one has the rest of
its spans published. -/
theorem State.askSpans_atomic {s0 : State} (hm : m.ord = .rlx) {d : Nat} {ps : List WLoc}
    (h : m.scope.wide = false → ∀ a ∈ ps, (s0.l1Hit d a).isSome = true) (t : State) :
    t.askSpans s0 d m m.scope.wide ps = Claims.gapsPublished t d m.scope.wide ps := by
  cases hwide : m.scope.wide with
  | true => rfl
  | false =>
    have hserved : ∀ a ∈ ps, s0.asksFor d m.ord.acquires a.loc (fun l => (l.get? a.word).isSome) (sectorOf a.word) = false := by
      intro a ha
      have hit := h hwide a ha
      cases hl : s0.l1? d a.loc with
      | none => simp [State.l1Hit, hl] at hit
      | some x =>
        have hword : (x.get? a.word).isSome = true := by simpa [State.l1Hit, hl] using hit
        simp [State.asksFor, hl, hword, hm, Order.acquires]
    unfold State.askSpans Claims.gapsPublished
    refine State.each_fixed fun x _ => ?_
    have hnone : (ps.any fun a => a.loc == x.1 && s0.asksFor d m.ord.acquires a.loc (fun l => (l.get? a.word).isSome) (sectorOf a.word)) = false := by
      rw [List.any_eq_false]
      intro a ha
      simp [hserved a ha]
    simp [hnone]

/-- The gusts' atomics do not change with the publishing of spans. -/
theorem sentAtoms_gapsPublished (t : State) (d : Nat) (wide : Bool) (ps : List WLoc) :
    (Claims.gapsPublished t d wide ps).sentAtoms = t.sentAtoms := by
  unfold Claims.gapsPublished
  split
  · refine State.each_part State.sentAtoms (fun t x => ?_) t _
    split
    · exact sentAtoms_publish _ _ _ _
    · rfl
  · rfl

/-- An atomic of class 0 whose lanes are all on their way goes on its way (R249). -/
theorem State.atomLanes_sent {items : List (Nat × Int × Place)} {ps : List (Nat × WLoc × Word)} {e : Option Nat} {u : State} (hm : m.ord = .rlx)
    (hrun : State.runLanes g.ref (State.atomLane g q k m) items (s.lanesPend [] none) = t.lanesPend ps e) (hps : ps ≠ [])
    (hspan : t.askSpans s (dieOf q.core) m m.scope.wide (memPlaces items) = u) (hg : u.gust? g.ref = some h) (hatoms : h.atoms = []) (i : Instr) :
    s.atomLanes g q k i m items =
      .done (u.onGust g.ref fun h => { h with atoms := h.atoms ++ [atomOf g m k (t.lanesPend ps e)] }) := by
  have hitems : (atomOf g m k (t.lanesPend ps e)).items ≠ [] := by simpa [atomOf, State.lanesPend] using hps
  have hgoes := State.endAtom_sendAtom hg hatoms hitems hm (fun hs => nomatch hs) q m.scope
  have hacc : State.runLanes g.ref (State.atomLane g q k m) items
      { st := s, vals := [], pend := [], waits := [], check := none, lease := none } = t.lanesPend ps e := hrun
  simp only [State.atomLanes, hacc]
  rw [hm]
  refine Eq.trans ?_ hgoes
  subst hspan
  simp only [State.lanesPend, State.putVals_nil, List.isEmpty_nil, if_true]

theorem memPlaces_mem (g : Gust) (m : MOps) (a : Nat → WLoc) (lease : Nat → Nat) (ls : List Nat) :
    memPlaces (laneItems g m (fun l => .mem (a l) (lease l)) ls) = ls.map a := by
  simp [memPlaces, laneItems]

/-- An atomic of class 0 in global space. -/
theorem State.laneAtom_mem (hq : s.squall? g.ref.sq = some q) (hm : m.ord = .rlx) (hown : s.ownWords g = []) (hsp : m.space = .g) {c : Ctl}
    (hne : g.activeLanes c.guard ≠ []) {a : Nat → WLoc} {lease : Nat → Nat}
    (hp : ∀ l ∈ g.activeLanes c.guard, s.placeOf q g.priv m.space (laneAddr g m l) true = (.mem (a l) (lease l), s)) (k : AtomKind) (i : Instr) :
    s.laneAtom g c k i m =
      s.atomLanes g q k i m (laneItems g m (fun l => .mem (a l) (lease l)) (g.activeLanes c.guard)) := by
  have hitems := State.lanePlaces_eq hp
  obtain ⟨l0, hl0⟩ := List.exists_mem_of_ne_nil _ hne
  have hup : (laneItems g m (fun l => .mem (a l) (lease l)) (g.activeLanes c.guard)).map (fun y => (y.1, y.2.1,
      if updatable m.space y.2.1 then y.2.2 else .bad 20 0)) = laneItems g m (fun l => .mem (a l) (lease l)) (g.activeLanes c.guard) := by
    simp [hsp, updatable]
  simp only [State.laneAtom, hq, hitems, hup, State.clashes_of_quiet hown, State.before_rlx hm]
  rw [if_neg (by simp), if_neg]
  rw [Bool.not_eq_true, List.all_eq_false]
  exact ⟨_, List.mem_map_of_mem hl0, by simp⟩

/-- An atomic of class 0 whose lanes reach words of global memory, each with nothing wrong there, is on its way (R249). -/
theorem State.laneAtom_global (hi : s.Issuing g q) (hm : m.ord = .rlx) (hown : s.ownWords g = []) (hatoms : g.atoms = []) (hsp : m.space = .g)
    {c : Ctl} (hne : g.activeLanes c.guard ≠ []) {a : Nat → WLoc} {v : Nat → Word}
    (hl : ∀ l ∈ g.activeLanes c.guard, Claims.At s g q (laneAddr g m l) true (a l) ∧ Claims.Asked s (dieOf q.core) m.scope.wide (a l) (v l))
    (k : AtomKind) (i : Instr) :
    ∃ t p, HomesTouched s t ∧ Claims.Sent p m k false ((g.activeLanes c.guard).map fun l =>
        { lane := l, at_ := a l, dOld := (g.v m.d).get l, b := (g.v m.b).get l, seen := v l }) ∧
      s.laneAtom g c k i m = .done ((Claims.gapsPublished t (dieOf q.core) m.scope.wide ((g.activeLanes c.guard).map a)).onGust g.ref
        fun h => { h with atoms := h.atoms ++ [p] }) := by
  have hplaces : ∀ l ∈ g.activeLanes c.guard, s.placeOf q g.priv m.space (laneAddr g m l) true =
      (.mem (a l) (s.leaseOf q.core q.ctx (laneAddr g m l)), s) := fun l hmem => by rw [hsp, State.placeOf_at (hl l hmem).1]
  obtain ⟨t, e, ht, hrun⟩ := State.runLanes_pend (g := g) (m := m) (HomesTouched s)
    (f := State.atomLane g q k m) (p := fun l => .mem (a l) (s.leaseOf q.core q.ctx (laneAddr g m l))) (a := a) (v := v)
    (fun l hmem t ht => by
      obtain ⟨t', hlane, ht'⟩ := State.atomLane_asked (ht.asked (hl l hmem).2) g k l (s.leaseOf q.core q.ctx (laneAddr g m l))
      exact ⟨t', _, hlane, ht.trans ht'⟩) g.ref (.refl s) [] none
  rw [List.nil_append] at hrun
  have hspan : t.askSpans s (dieOf q.core) m m.scope.wide
      (memPlaces (laneItems g m (fun l => .mem (a l) (s.leaseOf q.core q.ctx (laneAddr g m l))) (g.activeLanes c.guard))) =
      Claims.gapsPublished t (dieOf q.core) m.scope.wide ((g.activeLanes c.guard).map a) := by
    rw [memPlaces_mem]
    refine State.askSpans_atomic hm (fun hnarrow x hx => ?_) t
    obtain ⟨l, hmem, rfl⟩ := List.mem_map.1 hx
    have hasked := (hl l hmem).2
    rw [hnarrow] at hasked
    obtain ⟨w, hw, -⟩ := hasked
    rw [hw]
    rfl
  have hkept : (Claims.gapsPublished t (dieOf q.core) m.scope.wide ((g.activeLanes c.guard).map a)).sentAtoms = s.sentAtoms :=
    (sentAtoms_gapsPublished _ _ _ _).trans (by rw [State.sentAtoms, ht.gusts]; rfl)
  have hsame := State.atoms_of_sentAtoms hkept g.ref
  rw [hi.gust] at hsame
  obtain ⟨h, hg, hh⟩ := Option.map_eq_some_iff.1 hsame
  refine ⟨t, _, ht, ?_, (State.laneAtom_mem hi.squall hm hown hsp hne hplaces k i).trans
    (State.atomLanes_sent hm hrun (by simpa using hne) hspan hg (hh.trans hatoms) i)⟩
  refine ⟨rfl, rfl, rfl, hm, rfl, rfl, ?_, rfl⟩
  simp [atomOf, State.lanesPend]

/-- An atomic of class 0 that no lane participates in does nothing (R67). -/
theorem State.laneAtom_none (hq : s.squall? g.ref.sq = some q) (hm : m.ord = .rlx) (hown : s.ownWords g = []) {c : Ctl}
    (hnil : g.activeLanes c.guard = []) (k : AtomKind) (i : Instr) : s.laneAtom g c k i m = .done s := by
  have hlanes := State.doLanes_eq (s := s) (g := g) (q := q) (m := m) (op := .update k) (items := []) (t := s) (vs := []) rfl rfl
  simp only [State.laneAtom, hq, hnil, State.lanePlaces, List.map_nil, State.clashes_of_quiet hown, State.before_rlx hm, hlanes]
  rw [if_neg (by simp), if_pos (by rfl), State.endLanes_done hm rfl rfl]
  exact congrArg _ (State.putVals_nil s _ _)

/-- The four forms of atomics, of one word and of a word in each lane. -/
theorem exec_atomRule {i : Instr} {c : Ctl} {scalar : Bool} (hi : Claims.atomRule i = some (c, m, scalar, k)) (s : State) :
    exec i s = if scalar then s.performGust c fun g => s.scalarAtom g k m else s.performAs c true fun g => s.laneAtom g c k i m := by
  unfold Claims.atomRule at hi
  split at hi <;> cases hi <;> rfl

end

/-- The first part of O27. -/
theorem atomicForms_forms : Claims.AtomicForms := by
  intro i c m scalar k s g q b core u y a v hrule hi hf hm hown hatoms x goesOn
  have hscalar (hs : scalar = true) (ha : g.acts c.guard = true) :
      exec i s = .next (((s.scalarAtom g k m).settle g s.op).keepIssuing g) := by
    rw [exec_atomRule hrule, if_pos hs, State.performGust_acts hi c ha]
  have hlane (hs : scalar = false) : exec i s = .next (((s.laneAtom g c k i m).settle g s.op).keepIssuing g) := by
    rw [exec_atomRule hrule, if_neg (by simp [hs]), State.performAs_lane hi]
  have window (hsp : m.space = .w) (hx : winPlace x = some (core, u)) (hreg : winReg (coreIsD core) u = some (.scratch y)) :
      updatable m.space x = true := by
    rw [hsp, updatable_window hx]
    exact decide_eq_true (winReg_scratch_range hreg)
  refine ⟨fun hs ha hsp hpriv hx hreg hb hctx => ⟨fun hcore => ?_, fun hcore hd => ?_⟩, fun hs ha hsp hx hout ht => ?_,
    fun hs ha hsp hd hat hasked => ?_, fun hs hsp hne hl => ?_, fun hs hnil => ?_⟩
  · have hplace := State.placeOf_scratchWord hpriv hx hreg hb hctx true
    rw [← hsp] at hplace
    subst hcore
    rw [hscalar hs ha, State.scalarAtom_here hi hf hm hown (window hsp hx hreg) hplace (State.updatePlace_scratch hb u ..)]
    cases hnew : k.new (readAt Claims.zeroAt b.scratch (y - b.bases.scratch)) (g.s m.b) (g.s m.d) <;> rfl
  · have hplace := State.placeOf_scratchWord hpriv hx hreg hb hctx true
    rw [← hsp] at hplace
    have hold := State.winGet_withScratch hb none (some q.ctx)
    have hpend : State.atomLane g q k m s 0 (.port core u (.scratch y)) =
        (.pend ⟨.win core, u⟩ (readAt Claims.zeroAt b.scratch (y - b.bases.scratch)) noLease, s) := by
      simp only [State.atomLane]
      rw [if_neg hcore]
      exact congrArg (fun v => (LaneOut.pend ⟨.win core, u⟩ v noLease, s)) hold
    refine ⟨_, State.sent_scalarSent hm s g k _ _ noLease, ?_⟩
    rw [hscalar hs ha, State.scalarAtom_sent hi hf hm hown (window hsp hx hreg) hplace rfl (fun c' u' w' h => by cases h; exact hcore)
      hpend hi.gust hatoms hd]
    rfl
  · have hrefused : updatable m.space x = false := by
      rw [hsp, updatable_window hx, decide_eq_false_iff_not]
      omega
    have hfault : s.scalarAtom g k m = .fault s 20 x := by
      simp only [State.scalarAtom, x] at hrefused ⊢
      simp only [hrefused]
      rfl
    rw [hscalar hs ha, hfault, State.settle_fault hi ht]
  · have hplace := State.placeOf_at hat
    rw [← hsp] at hplace
    obtain ⟨t, hpend, ht⟩ := State.atomLane_asked hasked g k 0 (s.leaseOf q.core q.ctx x)
    have hg : t.gust? g.ref = some g := by rw [State.gust?, ht.gusts]; exact hi.gust
    refine ⟨t, _, ht.used, State.sent_scalarSent hm t g k _ _ (s.leaseOf q.core q.ctx x), ?_⟩
    rw [hscalar hs ha, State.scalarAtom_sent hi hf hm hown (by rw [hsp]; rfl) hplace rfl (fun _ _ _ h => nomatch h) hpend hg hatoms hd]
    rfl
  · obtain ⟨t, p, ht, hsent, heff⟩ := State.laneAtom_global hi hm hown hatoms hsp hne hl k i
    refine ⟨t, p, ht.used, hsent, ?_⟩
    rw [hlane hs, heff]
    rfl
  · rw [hlane hs, State.laneAtom_none hi.squall hm hown hnil]
    rfl

end Sys2Proof.Machine
end

section
/-! The words of an L1 slice, as its reads and writes leave them (R238, R239, R242, R245). -/

namespace Sys2Proof.Machine

theorem mem_of_lookupAt {α : Type} {m : List (Nat × α)} {k : Nat} {v : α} (h : lookupAt m k = some v) : (k, v) ∈ m := by
  induction m with
  | nil => simp [lookupAt] at h
  | cons e t ih =>
    obtain ⟨a, b⟩ := e
    rw [lookupAt] at h
    by_cases ha : a = k
    · rw [if_pos ha, Option.some.injEq] at h
      simp [ha, h]
    · rw [if_neg ha] at h
      exact List.mem_cons_of_mem _ (ih h)

section
variable {s t u : State} {d : Nat} {a : WLoc} {w : CWord}

/-- A die that serves a word is there. -/
theorem State.lt_of_l1Hit (h : s.l1Hit d a = some w) : d < s.dies.length := by
  by_contra hd
  rw [State.l1Hit_none (Nat.le_of_not_lt hd)] at h
  exact Option.some_ne_none _ h.symm

/-- A line of a die after one of its lines was changed. -/
theorem State.l1?_onL1 (hd : d < s.dies.length) {loc : Loc} {f : L1Line → L1Line} (hf : ∀ x, x.loc = loc → (f x).loc = loc) (k : Nat)
    (j : Loc) : (s.onL1 d loc f).l1? k j = if k = d ∧ j = loc then (s.l1? k j).map f else s.l1? k j := by
  have hk : (s.onL1 d loc f).die k = if k = d then { s.die k with l1 := (s.die k).l1.map fun h => if h.loc == loc then f h else h } else s.die k := by
    by_cases hlt : k < s.dies.length
    · exact State.die_onDie s d k (fun x => { x with l1 := x.l1.map fun h => if h.loc == loc then f h else h }) hlt
    · rw [if_neg (by omega)]
      simp [State.die, State.onL1, State.onDie, List.getD_eq_getElem?_getD, hlt]
  simp only [State.l1?, hk]
  by_cases hkd : k = d
  · simp only [hkd, true_and, if_true]
    exact find?_map_if L1Line.loc f loc j hf _
  · simp [hkd]

/-- The words of a die after the words of one of its lines were changed by `f`. -/
theorem State.l1Hit_onL1 (hd : d < s.dies.length) {loc : Loc} {f : L1Line → L1Line} (hf : ∀ x, x.loc = loc → (f x).loc = loc) (k : Nat)
    (b : WLoc) : (s.onL1 d loc f).l1Hit k b =
      if k = d ∧ b.loc = loc then (s.l1? k b.loc).bind fun x => (f x).get? b.word else s.l1Hit k b := by
  rw [State.l1Hit, State.l1?_onL1 hd hf]
  split
  · rw [Option.bind_map]; rfl
  · rfl

/-- A use of the caches that writes nothing, and then one that writes words. -/
theorem cached_trans {ws : List (WLoc × Word)} (h : Claims.Cached s t d []) (k : Claims.Cached t u d ws) : Claims.Cached s u d ws := by
  obtain ⟨hst, hother, -, hhomes⟩ := h
  obtain ⟨htu, kother, kwords, khomes⟩ := k
  refine ⟨by rw [htu, hst], fun k b hb => (kother k b hb).trans (hother k b (.inr (by simp))), kwords, fun p => (khomes p).trans (hhomes p)⟩

/-- The use of a line that L1 holds (R245). -/
theorem cached_l1Touch (h : s.l1Hit d a = some w) (ev : Int) : Claims.Cached s (s.l1Touch d a.loc ev) d [] := by
  obtain ⟨x, hx, -⟩ := Option.bind_eq_some_iff.1 h
  have htouch : s.l1Touch d a.loc ev = s.fresh.2.onL1 d a.loc fun x => { x with prio := hitPrio x.prio ev, used := s.serial } := by
    have hx' : s.fresh.2.l1? d a.loc = some x := hx
    simp only [State.l1Touch, hx']
    rfl
  rw [htouch]
  refine ⟨rfl, fun k b _ => ?_, fun _ he => absurd he (by simp), fun _ => rfl⟩
  rw [State.l1Hit_onL1 (s := s.fresh.2) (f := fun x => { x with prio := hitPrio x.prio ev, used := s.serial }) (State.lt_of_l1Hit h)
    fun x hx => hx]
  split <;> rfl

theorem State.l1HoldsSector_of_hit (h : s.l1Hit d a = some w) : s.l1HoldsSector d a = true := by
  obtain ⟨x, hx, hw⟩ := Option.bind_eq_some_iff.1 h
  simp only [State.l1HoldsSector, hx, Option.any_some, L1Line.hasSector, List.any_eq_true]
  exact ⟨_, mem_of_lookupAt hw, by simp⟩

/-- A write of a word whose sector L1 holds, and whose line stands at its home, asks for nothing (R239). -/
theorem State.storeMiss_held (hheld : s.l1HoldsSector d a = true) (hh : Claims.AtHome s a.loc) (hw : ∀ k, a.loc ≠ .win k) (ev : Int) :
    s.storeMiss d a ev = (.ok (), s) := by
  obtain ⟨loc, n⟩ := a
  cases loc with
  | dev p =>
    have hhome : (s.home? p).isSome = true := hh
    simp [State.storeMiss, hheld, hhome]
  | win k => exact absurd rfl (hw k)
  | host p => simp [State.storeMiss, hheld]
  | remote dev p => simp [State.storeMiss, hheld]

/-- A word put into a line of L1 in the place of one it holds, dirty (R239). -/
theorem cached_onL1_insertAt (h : s.l1Hit d a = some w) {n : CWord} (hdirty : n.dirty.isSome = true) (hbad : n.bad = false) :
    Claims.Cached s (s.onL1 d a.loc fun x => { x with words := insertAt x.words a.word n }) d [(a, n.val)] := by
  have hwords := State.l1Hit_onL1 (loc := a.loc) (f := fun x => { x with words := insertAt x.words a.word n }) (State.lt_of_l1Hit h)
    fun x hx => hx
  obtain ⟨x, hx, -⟩ := Option.bind_eq_some_iff.1 h
  refine ⟨rfl, fun k b hb => ?_, fun e he => ?_, fun _ => rfl⟩
  · rw [hwords]
    split
    · next hin =>
      obtain ⟨rfl, hloc⟩ := hin
      have hne : b.word ≠ a.word := fun hword => by
        have hba : a = b := by cases a; cases b; simp_all
        simp [hba] at hb
      simp [State.l1Hit, L1Line.get?, lookupAt_insertAt, hne]
    · rfl
  · obtain rfl := List.mem_singleton.1 he
    exact ⟨n, by simp [hwords, hx, L1Line.get?, lookupAt_insertAt], hdirty, hbad, by simp⟩

/-- The notes and the holders of a home line are no words (R239, R280). -/
theorem cached_onHome {ws : List (WLoc × Word)} (h : Claims.Cached s t d ws) (p : Nat) {f : HomeLine → HomeLine}
    (hline : ∀ x, (f x).line = x.line) (hwords : ∀ x, (f x).words = x.words) : Claims.Cached s (t.onHome p f) d ws := by
  obtain ⟨hst, hother, hin, hhomes⟩ := h
  refine ⟨by rw [State.onHome, hst], hother, hin, fun n => ?_⟩
  rw [State.home?_onHome t p n f fun x hx => (hline x).trans hx, ← hhomes n]
  split
  · simp [Option.map_map, Function.comp_def, hwords]
  · rfl

theorem cached_note {ws : List (WLoc × Word)} (h : Claims.Cached s t d ws) (p sec : Nat) (on : Bool) :
    Claims.Cached s (t.note d p sec on) d ws :=
  cached_onHome h p (fun _ => rfl) fun _ => rfl

theorem cached_addHolder {ws : List (WLoc × Word)} (h : Claims.Cached s t d ws) (p sec : Nat) :
    Claims.Cached s (t.addHolder d p sec) d ws :=
  cached_onHome h p (fun _ => rfl) fun _ => rfl

/-- A word written over one that L1 holds (R239, R242, R278). -/
theorem State.writeL1_hit (h : s.l1Hit d a = some w) (hh : Claims.AtHome s a.loc) (hw : ∀ k, a.loc ≠ .win k) (ctx : Nat) (v : Word)
    (ev : Int) : ∃ t, s.writeL1 ctx d a v ev = (.ok (), t) ∧ Claims.Cached s t d [(a, v)] := by
  have hmiss := State.storeMiss_held (State.l1HoldsSector_of_hit h) hh hw ev
  have htouched := cached_l1Touch h ev
  have hhit : (s.l1Touch d a.loc ev).l1Hit d a = some w := (htouched.2.1 d a (.inr (by simp))).trans h
  have hput := cached_trans htouched (cached_onL1_insertAt hhit
    (n := { val := v, dirty := some ((s.l1Touch d a.loc ev).die d).epoch, by_ := ctx }) rfl rfl)
  simp only [State.writeL1, hmiss]
  split
  · exact ⟨_, rfl, cached_addHolder (cached_note hput _ _ _) _ _⟩
  · exact ⟨_, rfl, hput⟩

/-- The line of a word stands at its home as long as the words of the home slices do. -/
theorem atHome_of_words (hhomes : ∀ p, (t.home? p).map (·.words) = (s.home? p).map (·.words)) {loc : Loc} (h : Claims.AtHome s loc) :
    Claims.AtHome t loc := by
  cases loc with
  | dev p => simpa [Claims.AtHome] using (congrArg Option.isSome (hhomes p)).trans (by simpa [Claims.AtHome] using h)
  | _ => trivial

/-- An update of a word that L1 holds reads it and writes the new word, where there is one, over it (R248, R249). -/
theorem State.updateL1_hit (h : s.l1Hit d a = some w) (hbad : w.bad = false) (hh : Claims.AtHome s a.loc) (hw : ∀ k, a.loc ≠ .win k)
    {ev : Int} (hev : ev ≠ -4) (ctx : Nat) (f : Word → Option Word) :
    ∃ t, s.updateL1 ctx d a ev f = (.ok w.val, t) ∧ Claims.Cached s t d ((f w.val).map fun v => (a, v)).toList := by
  have htouched := cached_l1Touch h ev
  have hread : s.readRelaxed d a ev = (.ok w.val, s.l1Touch d a.loc ev) := by
    simp [State.readRelaxed, hev, h, hbad]
  simp only [State.updateL1, hread]
  cases f w.val with
  | none => exact ⟨_, rfl, htouched⟩
  | some v =>
    have ⟨_, hother, _, hhomes⟩ := htouched
    obtain ⟨t, hwrite, hcached⟩ := State.writeL1_hit ((hother d a (.inr (by simp))).trans h) (atHome_of_words hhomes hh) hw ctx v ev
    exact ⟨t, by simp [hwrite, hev], cached_trans htouched hcached⟩

end

section
variable {s : State} {g : Gust} {q : Squall} {a : PendAtom} {it : AtomItem} {old : CWord}

/-- The last lane of a cluster-scope atomic applies at the word that its die's L1 holds (R248, R249). -/
theorem State.atomAt_hit (hw : ∀ k, it.at_.loc ≠ .win k) (htook : it.took = false) (hord : a.ord = .rlx) (hwide : a.scope.wide = false)
    (hev : a.ev ≠ -4) (hhit : s.l1Hit (dieOf q.core) it.at_ = some old) (hbad : old.bad = false) (hhome : Claims.AtHome s it.at_.loc) :
    ∃ t, s.atomAt q a it = (old.val, t) ∧
      Claims.Cached s t (dieOf q.core) ((a.kind.new old.val it.b it.dOld).map fun v => (it.at_, v)).toList := by
  obtain ⟨t, hupd, hcached⟩ := State.updateL1_hit hhit hbad hhome hw hev q.ctx fun o => a.kind.new o it.b it.dOld
  refine ⟨t, ?_, hcached⟩
  simp [State.atomAt, htook, State.updatePlace, hwide, hord, Order.acquires, hupd]

/-- Nothing is chosen where one thing is open. -/
theorem State.pick_one (s : State) : s.pick 1 = (0, s) := rfl

/-- A gust's one lane of its one atomic, which the gust does not stay at, applies (R182, R248, R249). -/
theorem State.atomicApply_last (hg : s.gust? g.ref = some g) (hq : s.squall? g.ref.sq = some q) (hgoes : ∀ op, g.status ≠ .waiting op .atomic)
    (hatoms : g.atoms = [a]) (hitems : a.items = [it]) (hcan : s.atomCan (dieOf q.core) a it = true) :
    s.atomicApply g.ref = (s.onGust g.ref fun h => { h with atoms := [] }).atomStep g.ref q a it := by
  have hnext : a.next (a.unit it) = [it] := by
    have hits : (a.items.filter fun x => a.unit x == a.unit it) = [it] := by simp [hitems]
    simp only [PendAtom.next, hits]
    split <;> rfl
  have hopen : ((List.range 1).filter fun k => (([a] : List PendAtom)[k]?).any fun a => a.items.any (s.atomCan (dieOf q.core) a)) = [0] := by
    simp [hitems, hcan, List.range_succ]
  have hunits : ((a.items.filter (s.atomCan (dieOf q.core) a)).map a.unit).eraseDups = [a.unit it] := by
    simp [hitems, hcan, List.eraseDups_cons]
  simp only [State.atomicApply, hg, hq, hatoms, List.length_singleton, hopen, State.pick_one, List.getD_cons_zero, List.getElem?_cons_zero,
    hunits, hnext]
  simp [hitems, State.each]

/-- What the apply step reaches of another gust, and of the caches, does not depend on the gusts. -/
theorem cached_gusts {s t : State} {d : Nat} {ws : List (WLoc × Word)} {f : List Gust → List Gust}
    (h : Claims.Cached { s with gusts := f s.gusts } t d ws) : Claims.Cached s { t with gusts := s.gusts } d ws := by
  obtain ⟨hst, hother, hin, hhomes⟩ := h
  exact ⟨by rw [hst], hother, hin, hhomes⟩

/-- ATOMIC_APPLY of the last lane of a gust's one atomic, at a word that L1 holds (R248, R249, R254). -/
theorem atomicForms_applyStep : Claims.AtomicApplyStep := by
  intro s g q a it old hg hq hgoes hatoms hitems hscalar hord hwide hd hlost htook hjoined hev hwin hhit hbad hhome
  have hcan : s.atomCan (dieOf q.core) a it = true := by
    simp only [State.atomCan, hlost, hjoined, hwide]
    split <;> rfl
  have hleft : ∀ h : Gust, h.ref = g.ref → ({ h with atoms := [] } : Gust).ref = g.ref := fun _ h => h
  have hlands : ∀ h : Gust, h.ref = g.ref → (h.withS a.d old.val).ref = g.ref := fun _ h => h
  obtain ⟨t, hat, hcached⟩ := State.atomAt_hit (s := s.onGust g.ref fun h => { h with atoms := [] }) hwin htook hord hwide hev hhit hbad hhome
  have hfind : ∀ r, t.gust? r = (s.onGust g.ref fun h => { h with atoms := [] }).gust? r := fun r => by
    rw [hcached.1]
    rfl
  refine ⟨{ t with gusts := s.gusts }, t.onGust g.ref fun h => h.withS a.d old.val, cached_gusts hcached, ?_, rfl, ?_, fun r hr => ?_⟩
  · have hland : a.land t g.ref it.lane old.val = t.onGust g.ref fun h => h.withS a.d old.val := by
      rw [PendAtom.land, if_pos hscalar, State.writeS, if_neg (by omega)]
    have happly : s.atomicApply g.ref = t.onGust g.ref fun h => h.withS a.d old.val := by
      rw [State.atomicApply_last hg hq hgoes hatoms hitems hcan, State.atomStep, hat]
      exact hland
    exact congrArg Host.Outcome.next happly
  · rw [State.gust?_onGust _ _ _ _ hlands, if_pos rfl, hfind, State.gust?_onGust _ _ _ _ hleft, if_pos rfl, hg]
    rfl
  · rw [State.gust?_onGust _ _ _ _ hlands, if_neg hr, hfind, State.gust?_onGust _ _ _ _ hleft, if_neg hr]

end

/-- Settles O27, by the place of the word: at a port an atomic applies as it is issued, elsewhere it is on its way and applies at the word
that L1 holds. -/
theorem atomicForms : Obligations.AtomicForms := ⟨atomicForms_forms, atomicForms_applyStep⟩

end Sys2Proof.Machine
end

section
/-! What memory traffic and trace packets leave of the gusts, the squalls and the op of the instruction at work (R276, R440 to R442, R480):
everything but the gusts' counts of unacknowledged writes and their trace flags. One lemma `course_f` for each operation `f` of the caches,
the walker and the trace. -/

namespace Sys2Proof.Machine

/-- A gust but for its count of unacknowledged writes and its trace flags. -/
def Gust.course (g : Gust) : Gust := { g with unacked := 0, traceSync := false, traceCount := 0, traceLost := false }

/-- A state's gusts so far, its squalls and the op of the instruction at work, from their fields. -/
def courseOf (gs : List Gust) (qs : List Squall) (op : Int) : List Gust × List Squall × Int := (gs.map Gust.course, qs, op)

/-- What memory traffic and trace packets leave of a state as it is. -/
def State.course (s : State) : List Gust × List Squall × Int := courseOf s.gusts s.squalls s.op

/-- The course looks at the gusts, the squalls and the op alone: an update of other fields leaves it as it is. -/
theorem State.course_eq (s : State) : s.course = courseOf s.gusts s.squalls s.op := rfl

theorem course_onGust {s : State} {r : GustRef} {f : Gust → Gust} (hf : ∀ g, (f g).course = g.course) : (s.onGust r f).course = s.course := by
  simp only [State.course, courseOf, State.onGust, List.map_map, Prod.mk.injEq, and_true]
  refine List.map_congr_left fun g _ => ?_
  dsimp only [Function.comp]
  split
  · exact hf g
  · rfl

/-- The state that an answer leaves. -/
theorem course_of_eq {α : Type} {x : α × State} {v : α} {t : State} {c : List Gust × List Squall × Int} (he : x = (v, t))
    (h : x.2.course = c) : t.course = c := by
  rw [← h, he]

theorem course_each {α : Type} {f : State → α → State} (hf : ∀ t x, (f t x).course = t.course) (s : State) (xs : List α) :
    (s.each xs f).course = s.course := State.each_part State.course hf s xs

theorem course_onHome (s : State) (p f) : (s.onHome p f).course = s.course := rfl

theorem course_onDie (s : State) (d f) : (s.onDie d f).course = s.course := rfl

theorem course_onL1 (s : State) (d loc f) : (s.onL1 d loc f).course = s.course := rfl

theorem course_send (s : State) (i) : (s.send i).course = s.course := rfl

theorem course_raiseClocks (s : State) (p qs st) : (s.raiseClocks p qs st).course = s.course := rfl

theorem course_addHolder (s : State) (d p q) : (s.addHolder d p q).course = s.course := rfl

theorem course_settleHolders (s : State) (d) : (s.settleHolders d).course = s.course := rfl

theorem course_setHbmLine (s : State) (p bs) : (s.setHbmLine p bs).course = s.course := rfl

theorem course_applyInvalidation (s : State) (d p q) : (s.applyInvalidation d p q).course = s.course := by
  unfold State.applyInvalidation
  dsimp only
  split <;> simp [course_onL1, course_onDie, course_onHome]

theorem course_deliver (s : State) (d clk) : (s.deliver d clk).course = s.course := by
  unfold State.deliver
  grind [course_each, course_applyInvalidation, State.course_eq]

theorem course_receive (s : State) (d clk) : (s.receive d clk).course = s.course := by
  unfold State.receive
  split
  · exact (course_onDie _ _ _).trans (course_deliver _ _ _)
  · rfl

theorem course_stamp (s : State) (d) : (s.stamp d).2.course = s.course := by
  unfold State.stamp
  split <;> simp [State.course_eq]

theorem course_takeWords (s : State) (d p ws) : (s.takeWords d p ws).course = s.course := by
  unfold State.takeWords
  simp [course_onDie, course_onL1]

theorem course_applyWords (s : State) (d st p ws) : (s.applyWords d st p ws).course = s.course := by
  unfold State.applyWords
  grind [course_raiseClocks, course_onHome, course_each, course_send, course_onL1]

theorem course_applyToHome (s : State) (d st p ws) : (s.applyToHome d st p ws).course = s.course :=
  (course_takeWords _ _ _ _).trans (course_applyWords _ _ _ _ _)

theorem course_addPoison (s : State) (line qs) : (s.addPoison line qs).course = s.course := rfl

theorem course_addPortPoison (s : State) (loc q) : (s.addPortPoison loc q).course = s.course := by
  unfold State.addPortPoison
  split <;> rfl

theorem course_poisonBad (s : State) (loc w v) : (s.poisonBad loc w v).course = s.course := by
  unfold State.poisonBad
  repeat' split
  all_goals simp [course_addPoison, course_addPortPoison]

theorem course_dropHome (s : State) (p) : (s.dropHome p).course = s.course := by
  unfold State.dropHome
  grind [course_each, course_applyInvalidation, course_deliver, course_setHbmLine, course_addPoison, State.course_eq]

theorem course_acked (s : State) (r) : (s.acked r).course = s.course := by
  unfold State.acked
  split
  · exact course_onGust fun _ => rfl
  · rfl

theorem course_zargenAck (s : State) (seq) : (s.zargenAck seq).course = s.course := by
  unfold State.zargenAck
  grind [course_acked, State.course_eq]

theorem course_ackWrite (s : State) (m) : (s.ackWrite m).course = s.course := by
  unfold State.ackWrite
  repeat' split
  all_goals simp [course_send, course_acked, course_zargenAck]

theorem course_endWrite (x : Answer Unit) (m) : (State.endWrite m x).course = x.2.course := by
  unfold State.endWrite
  repeat' split
  all_goals simp [course_ackWrite, course_send]

theorem course_setPortLine (s : State) (loc bs) : (s.setPortLine loc bs).course = s.course := by
  unfold State.setPortLine
  split <;> rfl

theorem course_landPort (s : State) (m) : (s.landPort m).2.course = s.course := by
  unfold State.landPort
  split <;> simp [course_setPortLine]

theorem course_flushPort (s : State) (d loc) : (s.flushPort d loc).course = s.course := by
  unfold State.flushPort
  grind [course_each, course_endWrite, course_landPort, State.course_eq]

theorem course_overtake (s : State) (d p ws) : (s.overtake d p ws).course = s.course := by
  unfold State.overtake
  grind [course_each, course_acked, State.course_eq]

theorem course_writeBackWords (s : State) (d loc ws ctx) : (s.writeBackWords d loc ws ctx).course = s.course := by
  unfold State.writeBackWords
  grind [course_overtake, course_stamp, course_applyToHome, course_raiseClocks, course_setHbmLine, course_each, course_onL1, course_send,
    course_flushPort, course_setPortLine]

theorem course_writeBackOne (s : State) (d loc w v) : (s.writeBackOne d loc w v).course = s.course := by
  unfold State.writeBackOne State.note
  dsimp only
  repeat' split
  all_goals simp [course_poisonBad, course_onL1, course_writeBackWords, course_onHome]

theorem course_writeBack (s : State) (d loc q) : (s.writeBack d loc q).course = s.course := by
  unfold State.writeBack State.note
  dsimp only
  repeat' split
  all_goals simp [course_each, course_writeBackOne, course_poisonBad, course_onL1, course_writeBackWords, course_onHome]

theorem course_publish (s : State) (d p q) : (s.publish d p q).course = s.course := by
  unfold State.publish
  dsimp only
  repeat' split
  all_goals simp [course_each, course_writeBack, course_onDie]

theorem course_recall (s : State) (p) : (s.recall p).course = s.course := by
  unfold State.recall
  split <;> simp [course_dropHome, course_each, course_publish]

theorem course_l2Room (s : State) (k) : (s.l2Room k).course = s.course := by
  unfold State.l2Room
  dsimp only
  repeat' split
  all_goals simp [course_recall, course_settleHolders, course_onDie]

theorem course_homeFill (s : State) (p ev) : (s.homeFill p ev).2.course = s.course := by
  unfold State.homeFill
  split
  · rfl
  · split
    · exact (State.course_eq _).trans (course_l2Room _ _)
    · rfl
    · rfl

theorem course_evictL1 (s : State) (d loc) : (s.evictL1 d loc).course = s.course := by
  unfold State.evictL1
  simp [course_each, course_writeBack, course_settleHolders, course_onDie]

theorem course_nearInstall (s : State) (d p q ws ev) : (s.nearInstall d p q ws ev).course = s.course := by
  unfold State.nearInstall
  dsimp only
  split
  · rfl
  · exact (course_onDie _ _ _).trans ((course_l2Room _ _).trans rfl)

theorem course_nearHit (s : State) (d p ev) : (s.nearHit d p ev).course = s.course := rfl

theorem course_landWrite (s : State) (m) : (s.landWrite m).2.course = s.course := by
  unfold State.landWrite
  split
  · split
    · rfl
    · split
      · next he => exact (course_applyWords _ _ _ _ _).trans (course_of_eq he (course_homeFill _ _ _))
      · next he => exact course_of_eq he (course_homeFill _ _ _)
  · rfl
  · exact course_landPort _ _

theorem course_flushLoc (s : State) (d loc) : (s.flushLoc d loc).course = s.course := by
  unfold State.flushLoc State.finishWrite
  grind [course_each, course_endWrite, course_landWrite, course_flushPort, State.course_eq]

theorem course_fetchSector (s : State) (d p q ev) : (s.fetchSector d p q ev).2.course = s.course := by
  unfold State.fetchSector
  grind [course_nearHit, course_flushLoc, course_homeFill, course_receive, course_nearInstall, course_addHolder]

theorem course_belowL1 (s : State) (d loc q ev) : (s.belowL1 d loc q ev).2.course = s.course := by
  unfold State.belowL1
  dsimp only
  repeat' split
  all_goals simp [course_fetchSector, course_flushLoc]

theorem course_readBelow (s : State) (d a ev) : (s.readBelow d a ev).2.course = s.course := by
  unfold State.readBelow
  split
  · rfl
  · split
    · next he => exact course_of_eq he (course_belowL1 _ _ _ _ _)
    · next he => exact course_of_eq he (course_belowL1 _ _ _ _ _)

theorem course_readWide (s : State) (d a ev) : (s.readWide d a ev).2.course = s.course := by
  unfold State.readWide
  grind [course_flushLoc, course_homeFill, course_publish, course_receive, course_readBelow]

theorem course_writeAtHome (s : State) (d a v ev) : (s.writeAtHome d a v ev).2.course = s.course := by
  unfold State.writeAtHome
  grind [course_flushLoc, course_homeFill, course_stamp, course_applyToHome, course_setPortLine]

theorem course_writeBackOlder (s : State) (d) : (s.writeBackOlder d).course = s.course := by
  unfold State.writeBackOlder
  simp [course_each, course_writeBackOne]

theorem course_updateHome (s : State) (d a ev f) : (s.updateHome d a ev f).2.course = s.course := by
  unfold State.updateHome
  extract_lets q s1 s2
  have h1 : s1.course = s.course := by
    unfold s1
    split
    · exact (course_settleHolders _ _).trans ((course_onDie _ _ _).trans ((course_onL1 _ _ _ _).trans
        ((course_writeBack _ _ _ _).trans (course_writeBackOlder _ _))))
    · rfl
  have h2 : s2.course = s.course := (course_flushLoc _ _ _).trans h1
  clear_value s2
  split <;> grind [course_homeFill, course_publish, course_receive, course_stamp, course_applyToHome, course_setPortLine]

theorem course_walkFrom (s : State) (d ctx line n k x) : (s.walkFrom d ctx line n k x).2.course = s.course := by
  induction n generalizing s d ctx line k x with
  | zero => rfl
  | succ n ih =>
    unfold State.walkFrom
    grind [course_readWide, course_onDie]

theorem course_walk (s : State) (d ctx x) : (s.walk d ctx x).2.course = s.course := by
  unfold State.walk
  dsimp only
  split <;> simp [course_walkFrom]

theorem course_queuePageIn (s : State) (ctx record entry) : (s.queuePageIn ctx record entry).course = s.course := by
  unfold State.queuePageIn State.fresh
  dsimp only
  split <;> simp [State.course_eq]

theorem course_startFill (s : State) (d core ctx entry w0 w1 x) : (s.startFill d core ctx entry w0 w1 x).course = s.course := by
  unfold State.startFill
  split
  · rfl
  · split
    · next he => exact course_of_eq he (course_updateHome _ _ _ _ _)
    · next he =>
      have ht := course_of_eq he (course_updateHome _ _ _ _ _)
      split
      · exact (course_queuePageIn _ _ _ _).trans ht
      · exact (course_send _ _).trans ht

theorem course_sysTranslate (s : State) (ctx x write) : (s.sysTranslate ctx x write).2.course = s.course := by
  unfold State.sysTranslate
  grind [course_walk, course_startFill, State.course_eq]

theorem course_sysRead (s : State) (ctx x) : (s.sysRead ctx x).2.course = s.course := by
  unfold State.sysRead
  split
  · next he => exact course_of_eq he (course_sysTranslate _ _ _ _)
  · next he => exact course_of_eq he (course_sysTranslate _ _ _ _)
  · next he =>
    have ht := course_of_eq he (course_sysTranslate _ _ _ _)
    split
    · next hr => exact course_of_eq hr ((course_readWide _ _ _ _).trans ht)
    · next hr => exact course_of_eq hr ((course_readWide _ _ _ _).trans ht)

theorem course_sysWrite (s : State) (ctx x v) : (s.sysWrite ctx x v).2.course = s.course := by
  unfold State.sysWrite
  split
  · next he => exact course_of_eq he (course_sysTranslate _ _ _ _)
  · next he => exact course_of_eq he (course_sysTranslate _ _ _ _)
  · next he =>
    have ht := course_of_eq he (course_sysTranslate _ _ _ _)
    split
    · next hw => exact course_of_eq hw ((course_writeAtHome _ _ _ _ _).trans ht)
    · next hw => exact course_of_eq hw ((course_writeAtHome _ _ _ _ _).trans ht)

theorem course_sysReads (s : State) (ctx x n) : (s.sysReads ctx x n).2.course = s.course := by
  induction n generalizing s ctx x with
  | zero => rfl
  | succ n ih =>
    unfold State.sysReads
    grind [course_sysRead]

theorem course_sysPuts (s : State) (ctx xs) : (s.sysPuts ctx xs).2.course = s.course := by
  induction xs generalizing s ctx with
  | nil => rfl
  | cons x xs ih =>
    unfold State.sysPuts
    grind [course_sysWrite]

theorem course_under {α : Type} {f : State → α × State} (hf : ∀ t, (f t).2.course = t.course) (s : State) (who) :
    (s.under who f).2.course = s.course := (hf { s with hand := who }).trans rfl

theorem course_packetTry (s : State) (ctx r packet) : (s.packetTry ctx r packet).2.course = s.course := by
  unfold State.packetTry
  grind [course_onGust, Gust.course, course_sysReads, course_sysPuts, course_sysWrite]

theorem course_keep (s : State) (n d) : (s.keep n d).course = s.course := rfl

theorem course_putPacket (s : State) (ctx r packet) : (s.putPacket ctx r packet).course = s.course := by
  unfold State.putPacket State.putPacketAs
  grind [course_keep, course_under, course_packetTry]

theorem course_packet (s : State) (ctx core r kind word7) : (s.packet ctx core r kind word7).course = s.course := by
  unfold State.packet
  split
  · rfl
  · exact (course_putPacket _ _ _ _).trans (course_onGust fun _ => rfl)

/-- A trace event leaves the course of a state (R440 to R442). -/
theorem course_trace (s : State) (r kind word7) : (s.trace r kind word7).course = s.course := by
  unfold State.trace
  dsimp only
  repeat' split
  all_goals simp [course_packet]

section
variable {s t : State}

theorem op_of_course (h : t.course = s.course) : t.op = s.op := (Prod.ext_iff.1 (Prod.ext_iff.1 h).2).2

theorem squall?_of_course (h : t.course = s.course) (q : SqRef) : t.squall? q = s.squall? q := by
  have hq : t.squalls = s.squalls := (Prod.ext_iff.1 (Prod.ext_iff.1 h).2).1
  rw [State.squall?, hq]
  rfl

/-- A gust of a state of the same course. -/
theorem gust?_of_course (h : t.course = s.course) (r : GustRef) : (t.gust? r).map Gust.course = (s.gust? r).map Gust.course := by
  have hfind (u : State) : (u.gust? r).map Gust.course = (u.gusts.map Gust.course).find? fun g => g.ref == r := by
    rw [List.find?_map]
    rfl
  have hg : t.gusts.map Gust.course = s.gusts.map Gust.course := (Prod.ext_iff.1 h).1
  rw [hfind, hfind, hg]

/-- A gust traced is the gust but for its trace flags and its count of unacknowledged writes. -/
theorem exists_gust_of_course (h : t.course = s.course) {r : GustRef} {g : Gust} (hg : s.gust? r = some g) :
    ∃ k, t.gust? r = some k ∧ k.course = g.course := by
  simpa [hg, Option.map_eq_some_iff] using gust?_of_course h r

end

end Sys2Proof.Machine
end

section
/-! O34: GANG and PPOINT (R217, R219, R231), and gusts at the rendezvous latch (R220). -/

namespace Sys2Proof.Machine

theorem Gust.atLatch_none {g : Gust} (h : ∀ op i, g.status ≠ .waiting op (.gang i)) : g.atLatch = none := by
  unfold Gust.atLatch
  split
  · next hw => exact absurd hw (h _ _)
  · rfl

/-- With no gust of the squall at the latch no group is broken (R220). -/
theorem State.breakGangs_unlatched {s : State} {r : GustRef} (h : ∀ k ∈ s.gustsOf r.sq, ∀ op i, k.status ≠ .waiting op (.gang i)) :
    s.breakGangs r = s :=
  State.each_filter_none (fun k hk => by simp [Gust.atLatch_none (h k hk)]) s _

section
variable {s : State} {g : Gust} {q : Squall}

/-! GANG. -/

/-- A gang that the gust of `g` may form: it is a member, and every member exists (R219). -/
def Gust.MayGang (g : Gust) (q : Squall) (map : Int) : Prop :=
  g.ref.gust ∈ gangOf (Word.ofInt map) ∧ ∀ k ∈ gangOf (Word.ofInt map), k < q.count

/-- GANG, by the membership that it checks. -/
theorem exec_gang (hi : s.Issuing g q) {c : Ctl} (ha : g.acts c.guard = true) (rows : Nat) (map : Int) [Decidable (g.MayGang q map)] :
    exec (.gang c rows map) s = .next (((if g.MayGang q map then
        .done ((s.breakGangs g.ref).onGust g.ref fun h => { h with gangRows := rows, gangMap := Word.ofInt map })
      else .fault s 51 0 : Eff).settle g s.op).keepIssuing g) := by
  have hbad : (!(gangOf (Word.ofInt map)).contains g.ref.gust || (gangOf (Word.ofInt map)).any fun m => decide (m ≥ q.count)) = true ↔
      ¬ g.MayGang q map := by
    simp [Gust.MayGang, imp_iff_not_or]
  show execGang c rows map s = _
  rw [execGang, State.performGust_acts hi c ha]
  simp only [hi.squall, hbad, ite_not]

/-! PPOINT. -/

/-- Where a gust is, and the live set it has recorded. -/
def State.livePoint (s : State) (r : GustRef) : Option (Int × (Nat × Nat) × (Nat × Nat)) :=
  (s.gust? r).map fun h => (h.pc, h.liveTiles, h.liveSlots)

theorem livePoint_of_course {t : State} (h : t.course = s.course) (r : GustRef) : t.livePoint r = s.livePoint r := by
  have hpoint (u : State) : u.livePoint r = ((u.gust? r).map Gust.course).map fun h => (h.pc, h.liveTiles, h.liveSlots) := by
    rw [Option.map_map]
    rfl
  rw [hpoint, hpoint, gust?_of_course h]

theorem livePoint_onGust (r : GustRef) {f : Gust → Gust} (href : ∀ k, (f k).ref = k.ref)
    (hf : ∀ k, ((f k).pc, (f k).liveTiles, (f k).liveSlots) = (k.pc, k.liveTiles, k.liveSlots)) :
    (s.onGust r f).livePoint r = s.livePoint r := by
  rw [State.livePoint, State.gust?_onGust _ _ _ _ fun k hk => (href k).trans hk, if_pos rfl, Option.map_map]
  exact congrArg (Option.map · _) (funext hf)

theorem livePoint_stopGust (r : GustRef) (why : Int) : (s.stopGust r why).livePoint r = s.livePoint r :=
  (livePoint_of_course (course_trace _ _ _ _) r).trans (livePoint_onGust r (fun _ => rfl) fun _ => rfl)

/-- What stands at a gust's instruction boundary moves it nowhere (R409, R437). -/
theorem livePoint_boundary (r : GustRef) : (s.boundary r).livePoint r = s.livePoint r := by
  have hshut : (s.shutterStop r).livePoint r = s.livePoint r := by
    unfold State.shutterStop
    split
    · exact livePoint_onGust r (fun _ => rfl) fun _ => rfl
    · rfl
  rw [← hshut, State.boundary, State.stopOrdered]
  split
  · rfl
  · split
    · exact (livePoint_stopGust r 3).trans (livePoint_onGust r (fun _ => rfl) fun _ => rfl)
    · rfl

/-- The state after an instruction of gust `old` that left it as `g`, with the trace packet of a mask write (R441). -/
def State.marked (s : State) (old g : Gust) (pc : Int) : State :=
  if g.maskWrote then (s.setGust (Gust.completed old g (s.gustIsD old.ref) pc)).trace old.ref 2 old.pc
  else s.setGust (Gust.completed old g (s.gustIsD old.ref) pc)

theorem livePoint_marked {old : Gust} (hg : s.gust? old.ref = some g) (pc : Int) :
    (s.marked old g pc).livePoint old.ref = some (pc, g.liveTiles, g.liveSlots) := by
  have href : old.ref = (Gust.completed old g (s.gustIsD old.ref) pc).ref := (State.gust?_ref hg).symm
  have hset : (s.setGust (Gust.completed old g (s.gustIsD old.ref) pc)).livePoint old.ref = some (pc, g.liveTiles, g.liveSlots) := by
    rw [State.livePoint, State.gust?_setGust, if_pos href, hg]
    rfl
  unfold State.marked
  split
  · exact (livePoint_of_course (course_trace _ _ _ _) _).trans hset
  · exact hset

/-- An instruction that leaves some lane plus, with no lane parked or faulted and no step bit, goes on to `pc`, whatever its squall is
asked for. -/
theorem livePoint_complete {old : Gust} (hg : s.gust? old.ref = some g) (hm : g.mask.has 1 = true) (hrec : g.laneRec = [])
    (hstep : g.stepBit = false) (hfault : g.laneFaulted = []) (pc : Int) :
    (s.complete old pc 0 0 false).livePoint old.ref = some (pc, g.liveTiles, g.liveSlots) := by
  have hend : s.complete old pc 0 0 false =
      if (s.squall? old.ref.sq).any (fun q => q.shutter.isSome) || g.cmdCode == 1 then (s.marked old g pc).boundary old.ref
      else s.marked old g pc := by
    simp [State.complete, State.marked, Gust.completed, hg, hm, hrec, hstep, hfault]
  rw [hend, ← livePoint_marked hg pc]
  split
  · exact livePoint_boundary _
  · rfl

/-- A halted gust does not go on issuing. -/
theorem State.keepIssuing_halted (h : ∀ k, s.gust? g.ref = some k → k.halted = true) : s.keepIssuing g = { s with cur := none } := by
  unfold State.keepIssuing
  cases hg : s.gust? g.ref with
  | none => simp
  | some k => simp [h k hg]

/-- The gust with its live set recorded (R231). -/
def Gust.recordLive (tiles slots : Nat × Nat) (h : Gust) : Gust := { h with liveTiles := tiles, liveSlots := slots }

/-- The gust stopped for a shutter request (R409). -/
def Gust.halt (h : Gust) : Gust := { h with halted := true }

/-- PPOINT, by the shutter request of its squall. -/
theorem exec_ppoint (hi : s.Issuing g q) (c : Ctl) (t n o m : Nat) :
    exec (.ppoint c t n o m) s = .next (((if q.shutter.isSome then
        .over (((s.onGust g.ref (Gust.recordLive (t, n) (o, m))).complete g (g.pc + 1) 0 0 false).onGust g.ref Gust.halt)
      else .done (s.onGust g.ref (Gust.recordLive (t, n) (o, m))) : Eff).settle g s.op).keepIssuing g) := by
  show execPpoint c t n o m s = _
  rw [execPpoint, State.perform_issuing hi]
  simp only [State.squall?_onGust, hi.squall, Option.any_some]
  rfl

/-- PPOINT under a shutter request (R231, R409). -/
theorem exec_ppoint_leaving (hi : s.Issuing g q) (hs : q.shutter ≠ none) (c : Ctl) (t n o m : Nat) :
    ∃ u : State, exec (.ppoint c t n o m) s = .next u ∧ u.cur = none ∧ (∀ h, u.gust? g.ref = some h → h.halted = true) ∧
      (g.mask.has 1 = true → g.laneRec = [] → g.stepBit = false → g.laneFaulted = [] → ∃ h, u.gust? g.ref = some h ∧
        h.pc = g.pc + 1 ∧ h.liveTiles = (t, n) ∧ h.liveSlots = (o, m)) := by
  generalize hv : (s.onGust g.ref (Gust.recordLive (t, n) (o, m))).complete g (g.pc + 1) 0 0 false = v
  have hhalt : ∀ k, (v.onGust g.ref Gust.halt).gust? g.ref = some k → k.halted = true := fun k hk => by
    rw [State.gust?_onGust _ _ _ Gust.halt fun _ h => h, if_pos rfl, Option.map_eq_some_iff] at hk
    obtain ⟨_, -, rfl⟩ := hk
    rfl
  refine ⟨{ v.onGust g.ref Gust.halt with cur := none }, ?_, rfl, hhalt, fun hm hrec hstep hfault => ?_⟩
  · rw [exec_ppoint hi, if_pos (Option.isSome_iff_ne_none.2 hs), Eff.settle, hv, State.keepIssuing_halted hhalt]
  · have hlive : (v.onGust g.ref Gust.halt).livePoint g.ref = some (g.pc + 1, (t, n), (o, m)) := by
      rw [livePoint_onGust (f := Gust.halt) g.ref (fun _ => rfl) fun _ => rfl, ← hv]
      exact livePoint_complete (g := g.recordLive (t, n) (o, m)) (State.gust?_onGust_some hi.gust _ fun _ h => h) hm hrec hstep hfault _
    obtain ⟨k, hk, hpoint⟩ := Option.map_eq_some_iff.1 hlive
    simp only [Prod.mk.injEq] at hpoint
    exact ⟨k, hk, hpoint⟩

end

/-- Settles O34: GANG of a member and of another gust, and PPOINT without and under a shutter request. -/
theorem gangAndPointForms : Obligations.GangAndPointForms := by
  classical
  unfold Obligations.GangAndPointForms
  intro c rows t n o m map s g q hi members
  refine ⟨fun ha hin hall hu hlatch => ?_, fun ha hbad ht => ?_, fun hs hu => ?_, fun hs => exec_ppoint_leaving hi hs c t n o m⟩
  · rw [exec_gang hi ha, if_pos ⟨hin, hall⟩, State.breakGangs_unlatched hlatch]
    exact congrArg _ (State.out_onGust (f := fun h => { h with gangRows := rows, gangMap := Word.ofInt map }) hi hu (fun _ h => h)
      ⟨rfl, rfl, rfl, rfl, rfl, rfl, rfl, rfl, rfl⟩)
  · have hno : ¬ g.MayGang q map := fun ⟨hin, hall⟩ => hbad.elim (· hin) fun ⟨k, hk, hle⟩ => Nat.not_lt.2 hle (hall k hk)
    rw [exec_gang hi ha, if_neg hno, State.settle_fault hi ht]
  · rw [exec_ppoint hi, if_neg (by simp [hs])]
    exact congrArg _ (State.out_onGust hi hu (fun _ h => h) ⟨rfl, rfl, rfl, rfl, rfl, rfl, rfl, rfl, rfl⟩)

end Sys2Proof.Machine
end

section
/-! Runs of tiles and slots: who owns one (R208, R209), and the forms that need one owned. -/

namespace Sys2Proof.Machine

/-- A predicate of every member of a run, over the run's numbers. -/
theorem all_run {n first : Nat} {p : Nat → Bool} :
    ((List.range n).all fun k => p (first + k)) = true ↔ ∀ k, first ≤ k → k < first + n → p k = true := by
  simp only [List.all_eq_true, List.mem_range]
  refine ⟨fun h k hlo hhi => ?_, fun h k hk => h _ (by omega) (by omega)⟩
  have := h (k - first) (by omega)
  rwa [Nat.add_sub_cancel' hlo] at this

theorem Squall.owns_iff {q : Squall} {tiles : Bool} {first n gust : Nat} :
    q.owns tiles first n gust = true ↔ ∀ k, first ≤ k → k < first + n → q.owner tiles k = some gust := by
  rw [Squall.owns, all_run (p := fun k => q.owner tiles k == some gust)]
  simp only [beq_iff_eq]

theorem Squall.free_iff {q : Squall} {tiles : Bool} {first n gust : Nat} :
    q.free tiles first n gust = true ↔ ∀ k, first ≤ k → k < first + n → q.owner tiles k = none ∨ q.owner tiles k = some gust := by
  have hmember : ∀ o : Option Nat, (o.all fun o => o == gust) = true ↔ o = none ∨ o = some gust := fun o => by cases o <;> simp
  rw [Squall.free, all_run (p := fun k => (q.owner tiles k).all fun o => o == gust)]
  simp only [hmember]

section
variable {s : State} {g : Gust} {q : Squall} {c : Ctl} {tiles : Bool} {first n : Nat}

/-- A form on a run that its gust owns (R208). -/
theorem State.ownedForm_owned (hi : s.Issuing g q) (ha : g.acts c.guard = true)
    (ho : ∀ k, first ≤ k → k < first + n → q.owner tiles k = some g.ref.gust) (body : Gust → Squall → Eff) :
    s.ownedForm c tiles first n body = .next (((body g q).settle g s.op).keepIssuing g) := by
  rw [State.ownedForm, State.performGust_acts hi c ha]
  simp only [hi.squall, Squall.owns_iff.2 ho, if_true]

/-- A form on a run with a member that its gust does not own (R208). -/
theorem State.ownedForm_fault (hi : s.Issuing g q) (ha : g.acts c.guard = true) (ht : Claims.Handles g q)
    (ho : ∃ k, first ≤ k ∧ k < first + n ∧ q.owner tiles k ≠ some g.ref.gust) (body : Gust → Squall → Eff) :
    s.ownedForm c tiles first n body = .next (Claims.faulted s g 50 0 0) := by
  obtain ⟨k, hlo, hhi, hk⟩ := ho
  have hno : ¬ q.owns tiles first n g.ref.gust = true := fun h => hk (Squall.owns_iff.1 h k hlo hhi)
  rw [State.ownedForm, State.performGust_acts hi c ha]
  simp only [hi.squall]
  rw [if_neg hno, State.settle_fault hi ht]

end

/-! Changes of one squall by name. -/

theorem State.onSquall_self (s : State) (r : SqRef) : s.onSquall r (fun b => b) = s := by simp [State.onSquall]

/-- A squall found in the state is the one that an update by name changes, where the name is its own alone. -/
theorem State.onSquall_eq_setSquall {s : State} {q : Squall} (hu : ∀ x ∈ s.squalls, x.q = q.q → x = q) {f : Squall → Squall}
    (hf : (f q).q = q.q) : s.onSquall q.q f = s.setSquall (f q) := by
  unfold State.onSquall State.setSquall
  simp only [State.mk.injEq, true_and, and_true, hf]
  apply List.map_congr_left
  intro x hx
  by_cases hq : x.q = q.q
  · simp [hu x hx hq]
  · simp [hq]

/-- Updates of one squall in a row. -/
theorem State.each_onSquall {α : Type} {r : SqRef} {f : α → Squall → Squall} (hf : ∀ x b, (f x b).q = b.q) (s : State) (xs : List α) :
    (s.each xs fun t x => t.onSquall r (f x)) = s.onSquall r fun b => xs.foldl (fun b x => f x b) b := by
  induction xs generalizing s with
  | nil => exact (s.onSquall_self r).symm
  | cons x xs ih =>
    refine (ih (s.onSquall r (f x))).trans ?_
    unfold State.onSquall
    simp only [List.map_map, State.mk.injEq, true_and, and_true]
    apply List.map_congr_left
    intro b _
    by_cases hb : b.q = r <;> simp [hb, hf]

end Sys2Proof.Machine
end

section
/-! O37, O38: OFENCE (R208, R214, R215). -/

namespace Sys2Proof.Machine

/-- The first member of a run at which a search succeeds. -/
theorem findSome?_run {α : Type} {n o k : Nat} {f : Nat → Option α} {x : α} (hlo : o ≤ k) (hhi : k < o + n)
    (hbelow : ∀ j, o ≤ j → j < k → f j = none) (hk : f k = some x) : ((List.range n).map (· + o)).findSome? f = some x := by
  have hrun : (List.range n).map (· + o) = List.range' o n := by simp [List.range'_eq_map_range, Nat.add_comm]
  rw [hrun]
  clear hrun
  induction n generalizing o with
  | zero => omega
  | succ n ih =>
    rw [List.range'_succ, List.findSome?_cons]
    by_cases h : o = k
    · rw [h, hk]
    · rw [hbelow o le_rfl (by omega)]
      exact ih (by omega) (by omega) fun j hj => hbelow j (by omega)

/-- A squall with the fill state of a slot set, and its fault gone (R214, R215). -/
def Squall.setFill (b : Squall) (k : Nat) (st : FillState) : Squall :=
  { b with slots := b.slots.modify k fun x => { x with fill := st, fault := none } }

theorem Squall.setFill_slots (b : Squall) (k : Nat) (st : FillState) (j : Nat) :
    (b.setFill k st).slots[j]? = b.slots[j]?.map fun x => if j = k then { x with fill := st, fault := none } else x := by
  rw [Squall.setFill, List.getElem?_modify]
  by_cases h : k = j
  · simp [h]
  · simp [h, Ne.symm h]

/-- Of squall `b`, some slots that `q` has not ready made ready (R214). -/
def Squall.makeReady (q b : Squall) (ks : List Nat) : Squall :=
  ks.foldl (fun b k => if (q.slot k).fill = .ready then b else b.setFill k .ready) b

theorem Squall.makeReady_same (q b : Squall) (ks : List Nat) : q.makeReady b ks = { b with slots := (q.makeReady b ks).slots } := by
  induction ks generalizing b with
  | nil => rfl
  | cons k ks ih =>
    rw [Squall.makeReady, List.foldl_cons, ← Squall.makeReady, ih]
    split <;> rfl

theorem Squall.makeReady_slots (q b : Squall) (ks : List Nat) (j : Nat) : (q.makeReady b ks).slots[j]? =
    b.slots[j]?.map fun x => if j ∈ ks ∧ (q.slot j).fill ≠ .ready then { x with fill := .ready, fault := none } else x := by
  induction ks generalizing b with
  | nil => simp [Squall.makeReady]
  | cons k ks ih =>
    rw [Squall.makeReady, List.foldl_cons, ← Squall.makeReady, ih]
    by_cases hk : (q.slot k).fill = .ready
    · rw [if_pos hk]
      grind
    · rw [if_neg hk, Squall.setFill_slots, Option.map_map]
      refine congrArg (Option.map · _) (funext fun x => ?_)
      grind

section
variable {s : State} {g : Gust} {q : Squall} {c : Ctl} {o n : Nat}

theorem State.unreported_iff {f : CmdFault} : s.unreported q.q f = true ↔ Claims.Unreported s q f := by
  simp [State.unreported, Claims.Unreported]

/-- The fault of a slot that OFENCE reports: one that no report has taken (log entry 43). -/
def State.slotReport (s : State) (q : Squall) (k : Nat) : Option (Nat × CmdFault) :=
  ((q.slot k).fault.filter fun f => s.unreported q.q f).map fun f => (k, f)

theorem State.slotReport_none {k : Nat} (h : ∀ x, (q.slot k).fault = some x → ¬ Claims.Unreported s q x) : s.slotReport q k = none := by
  have hnone : (q.slot k).fault.filter (fun f => s.unreported q.q f) = none := by
    rw [Option.filter_eq_none_iff]
    exact fun x hx => by simpa [State.unreported_iff] using h x hx
  rw [State.slotReport, hnone]
  rfl

theorem State.slotReport_some {k : Nat} {f : CmdFault} (hf : (q.slot k).fault = some f) (h : Claims.Unreported s q f) :
    s.slotReport q k = some (k, f) := by
  rw [State.slotReport, hf, Option.filter_some_pos (by exact State.unreported_iff.2 h)]
  rfl

/-- The slots of a run. -/
def runOf (o n : Nat) : List Nat := (List.range n).map (· + o)

theorem mem_runOf {k : Nat} : k ∈ runOf o n ↔ o ≤ k ∧ k < o + n := by
  simp only [runOf, List.mem_map, List.mem_range]
  exact ⟨fun ⟨j, hj, h⟩ => by omega, fun h => ⟨k - o, by omega, by omega⟩⟩

/-- OFENCE of an owned run with a slot pending waits (R214). -/
theorem exec_ofence_pending (hi : s.Issuing g q) (ha : g.acts c.guard = true)
    (ho : ∀ k, o ≤ k → k < o + n → (q.slot k).owner = some g.ref.gust) (hp : ∃ k, o ≤ k ∧ k < o + n ∧ (q.slot k).fill = .pending) :
    exec (.ofence c o n) s = .next (Claims.waits s g s.op (.fence o n)) := by
  have hany : ((runOf o n).any fun k => (q.slot k).fill == .pending) = true := by
    obtain ⟨k, hlo, hhi, hk⟩ := hp
    exact List.any_eq_true.2 ⟨k, mem_runOf.2 ⟨hlo, hhi⟩, by simp [hk]⟩
  show execOfence c o n s = _
  rw [execOfence, State.ownedForm_owned (tiles := false) hi ha ho]
  exact congrArg (fun e : Eff => Host.Outcome.next ((e.settle g s.op).keepIssuing g)) (if_pos hany)

/-- OFENCE of an owned run with no slot pending: it reports the lowest slot with a fault to report, or makes the run ready (R214). -/
theorem exec_ofence_filled (hi : s.Issuing g q) (ha : g.acts c.guard = true)
    (ho : ∀ k, o ≤ k → k < o + n → (q.slot k).owner = some g.ref.gust ∧ (q.slot k).fill ≠ .pending) :
    exec (.ofence c o n) s = .next (((((runOf o n).findSome? (s.slotReport q)).elim
      (Eff.done (s.each (runOf o n) fun t k => if (q.slot k).fill = .ready then t else t.onSquall q.q fun b => b.setFill k .ready))
      fun e => Eff.over ((s.onSquall q.q fun b => b.setFill e.1 .unfenced).reportFault g.ref e.2)).settle g s.op).keepIssuing g) := by
  have hany : ((runOf o n).any fun k => (q.slot k).fill == .pending) = false := by
    simp only [List.any_eq_false, mem_runOf, beq_iff_eq]
    exact fun k hk => (ho k hk.1 hk.2).2
  show execOfence c o n s = _
  rw [execOfence, State.ownedForm_owned (tiles := false) hi ha fun k hlo hhi => (ho k hlo hhi).1]
  dsimp only
  rw [if_neg (by exact Bool.eq_false_iff.1 hany)]
  split
  · next k f hf =>
    have hfound : (runOf o n).findSome? (s.slotReport q) = some (k, f) := hf
    rw [hfound]
    rfl
  · next hf =>
    have hnone : (runOf o n).findSome? (s.slotReport q) = none := hf
    rw [hnone]
    rfl

/-- A gust of the squall of `r` without the fault that is reported (R324). -/
def Gust.reported (r : GustRef) (f : CmdFault) (h : Gust) : Gust :=
  if h.ref.sq == r.sq then { h with faults := h.faults.filter fun x => x.serial != f.serial } else h

theorem Gust.reported_ref (r : GustRef) (f : CmdFault) (h : Gust) : (h.reported r f).ref = h.ref := by
  unfold Gust.reported
  split <;> rfl

/-- A reported fault leaves its gust in its handler with the fault's record, and the squalls as they were (R324, R400). -/
theorem State.reportFault_enters (hg : s.gust? g.ref = some g) (hq : s.squall? g.ref.sq = some q) (ht : Claims.Handles g q) (f : CmdFault) :
    (∃ h, (s.reportFault g.ref f).gust? g.ref = some h ∧ h.trapActive = true ∧ h.pc = g.tvec.val ∧ h.gfr = f.words ∧
      h.tpc = Word.ofInt g.pc) ∧ (s.reportFault g.ref f).squall? g.ref.sq = some q := by
  obtain ⟨hact, hlo, hmod⟩ := ht
  let t : State := { s with gusts := s.gusts.map (Gust.reported g.ref f) }
  let g' : Gust := { g with faults := g.faults.filter fun x => x.serial != f.serial }
  have hgust : t.gust? g.ref = some g' := by
    have hself : g.reported g.ref f = g' := if_pos (by simp)
    have hfind : s.gusts.find? ((fun h => h.ref == g.ref) ∘ Gust.reported g.ref f) = some g := by
      rw [← hg, State.gust?]
      exact congrArg (List.find? · _) (funext fun h => by simp [Gust.reported_ref])
    show (s.gusts.map (Gust.reported g.ref f)).find? _ = _
    rw [List.find?_map, hfind, Option.map_some, hself]
  have henters : s.reportFault g.ref f =
      (t.setGust (Claims.trappedGust g' (some f.words) g.pc)).trace g.ref 3 (fld (f.words.getD 0 Word.zero).val 23 18) := by
    simp only [State.reportFault, hg]
    exact State.trapEntry_enters (g := g') hgust hq hact hlo hmod _ [f.words] true g.pc g.pc
  rw [henters]
  refine ⟨?_, (squall?_of_course (course_trace _ _ _ _) _).trans hq⟩
  obtain ⟨h, hh, hcourse⟩ := exists_gust_of_course (course_trace _ g.ref 3 (fld (f.words.getD 0 Word.zero).val 23 18))
    (State.gust?_setGust_of (g := g') (h := Claims.trappedGust g' (some f.words) g.pc) hgust (by rfl))
  exact ⟨h, hh, congrArg Gust.trapActive hcourse, congrArg Gust.pc hcourse, congrArg Gust.gfr hcourse, congrArg Gust.tpc hcourse⟩

end

theorem State.gust?_keepIssuing (s : State) (g : Gust) (r : GustRef) : (s.keepIssuing g).gust? r = s.gust? r := by
  unfold State.keepIssuing
  dsimp only
  split_ifs <;> rfl

theorem State.squall?_keepIssuing (s : State) (g : Gust) (r : SqRef) : (s.keepIssuing g).squall? r = s.squall? r := by
  unfold State.keepIssuing
  dsimp only
  split_ifs <;> rfl

/-- Settles O37: OFENCE of a run that is not the gust's, of one with a slot pending, and of one with a fault to report. -/
theorem fillFenceForm : Obligations.FillFenceForm := by
  unfold Obligations.FillFenceForm
  intro c o n s g q hi ha
  refine ⟨fun ho ht => State.ownedForm_fault (tiles := false) hi ha ht ho _, fun ho hp => exec_ofence_pending hi ha ho hp,
    fun k f ho hlo hhi hbelow hf hlen hun ht => ?_⟩
  have hfound : (runOf o n).findSome? (s.slotReport q) = some (k, f) :=
    findSome?_run hlo hhi (fun j hj hjk => State.slotReport_none fun x => hbelow j x hj hjk) (State.slotReport_some hf hun)
  have hq : q.q = g.ref.sq := State.squall?_q hi.squall
  let t := s.onSquall q.q fun b => b.setFill k .unfenced
  have hsquall : t.squall? g.ref.sq = some (q.setFill k .unfenced) := by
    rw [State.squall?_onSquall _ _ _ (fun b => b.setFill k .unfenced) fun _ h => h, if_pos hq.symm, hi.squall]
    rfl
  obtain ⟨⟨h, hh, hfields⟩, hb⟩ := State.reportFault_enters (s := t) (g := g) hi.gust hsquall ht f
  obtain ⟨hact, hpc, hgfr, htpc⟩ := hfields
  refine ⟨(t.reportFault g.ref f).keepIssuing g, h, q.setFill k .unfenced, ?_, (State.gust?_keepIssuing _ _ _).trans hh, hact, hpc, hgfr, htpc,
    (State.squall?_keepIssuing _ _ _).trans hb, fun j x hj => ?_⟩
  · rw [exec_ofence_filled hi ha ho, hfound]
    rfl
  · rw [Squall.setFill_slots, hj, Option.map_some]

/-- Settles O38: the slots of the run that are not ready become ready, one after the other. -/
theorem fillFenceCompletion : Obligations.FillFenceCompletion := by
  unfold Obligations.FillFenceCompletion
  intro c o n s g q hi ha hrun hu
  have hnone : (runOf o n).findSome? (s.slotReport q) = none := by
    refine List.findSome?_eq_none_iff.2 fun k hk => State.slotReport_none fun f hf => ?_
    obtain ⟨-, -, -, hno⟩ := hrun k (mem_runOf.1 hk).1 (mem_runOf.1 hk).2
    exact hno f hf
  have hset : (s.each (runOf o n) fun t k => if (q.slot k).fill = .ready then t else t.onSquall q.q fun b => b.setFill k .ready) =
      s.setSquall (q.makeReady q (runOf o n)) := by
    have hstep : (fun (t : State) k => if (q.slot k).fill = .ready then t else t.onSquall q.q fun b => b.setFill k .ready) =
        fun t k => t.onSquall q.q fun b => if (q.slot k).fill = .ready then b else b.setFill k .ready := by
      funext t k
      split
      · exact (t.onSquall_self _).symm
      · rfl
    rw [hstep, State.each_onSquall (f := fun k b => if (q.slot k).fill = .ready then b else b.setFill k .ready) fun k b => by split <;> rfl]
    exact State.onSquall_eq_setSquall hu (f := fun b => q.makeReady b (runOf o n)) (by rw [Squall.makeReady_same])
  refine ⟨q.makeReady q (runOf o n), ?_, q.makeReady_same q _, fun k x hx => ?_⟩
  · rw [exec_ofence_filled hi ha fun k hlo hhi => ⟨(hrun k hlo hhi).1, (hrun k hlo hhi).2.2.1⟩, hnone, Option.elim_none, hset]
    rfl
  · have hfill : (q.slot k).fill = x.fill := by simp [Squall.slot, List.getD_eq_getElem?_getD, hx]
    rw [Squall.makeReady_slots, hx, Option.map_some]
    simp only [mem_runOf, hfill, and_assoc, ne_eq]

end Sys2Proof.Machine
end

section
/-! O36: MMA of a gust without a gang, and of a member whose gang is not complete (R208, R216, R220 to R222). -/

namespace Sys2Proof.Machine

theorem bSlots_eq (f : MFmt) (b : Nat) : f.bSlots b = if f.isW1 then [b, b + 1, b + 2] else [b] := by cases f <;> rfl

/-- The gust owns the tile and the slots of an MMA of its own (R208). -/
def Squall.OwnsMma (q : Squall) (gust t : Nat) (slots : List Nat) : Prop :=
  (q.tile t).owner = some gust ∧ ∀ o ∈ slots, (q.slot o).owner = some gust

/-- The checks of R221 for a gust alone: it must own what it names. -/
theorem gangFault_lone (q : Squall) (r : GustRef) (f : MFmt) (t a b third : Nat) [Decidable (q.OwnsMma r.gust t (a :: f.bSlots b))] :
    gangFault q 1 [(r, f, t, a, b, third)] = if q.OwnsMma r.gust t (a :: f.bSlots b) then none else some 50 := by
  have howned : (q.owner true t == some r.gust && (a :: f.bSlots b).all fun o => (q.owner false o).any fun w => [r.gust].contains w) = true ↔
      q.OwnsMma r.gust t (a :: f.bSlots b) := by
    have hslot : ∀ o : Option Nat, (o.any fun w => [r.gust].contains w) = true ↔ o = some r.gust := fun o => by cases o <;> simp
    simp only [Bool.and_eq_true, beq_iff_eq, List.all_eq_true, hslot]
    rfl
  have hnodup : [t].Nodup := List.nodup_singleton t
  simp only [gangFault, List.length_singleton, List.map_cons, List.map_nil, List.range_one, List.zip_cons_cons, List.zip_nil_left]
  by_cases h : q.OwnsMma r.gust t (a :: f.bSlots b)
  · rw [if_pos h]
    have := howned.2 h
    simp_all
  · rw [if_neg h]
    have := mt howned.1 h
    simp_all

section
variable {s : State} {g : Gust} {q : Squall} {c : Ctl} {f : MFmt} {t a b third : Nat}

/-! A refused MMA. -/

/-- A fault that a step gives the issuing gust, which does not wait, is the gust's own fault. -/
theorem State.faultFor_issuing (hi : s.Issuing g q) (hrun : g.status = .running) (ht : Claims.Handles g q) (cause detail : Int) :
    s.faultFor g.ref cause detail = s.gustFault g.ref cause 0 detail := by
  obtain ⟨hact, hlo, hmod⟩ := ht
  have hop : (s.gustFault g.ref cause 0 detail).op = s.op := by
    simp only [State.gustFault, hi.gust]
    rw [State.trapEntry_enters hi.gust hi.squall hact hlo hmod]
    exact (op_of_course (course_trace _ _ _ _)).trans rfl
  have hfault : s.faultFor g.ref cause detail = { s.gustFault g.ref cause 0 detail with op := s.op } := by
    simp only [State.faultFor, hi.gust, Option.map_some, hrun]
  rw [hfault, ← hop]

/-! An accepted MMA. -/

/-- A gust that has a command of tile `t` in its open batch (R216, R323). -/
def Gust.joins (t batch : Nat) (h : Gust) : Gust := { h with opened := true, touched := h.touched ++ [(t, batch)] }

/-- The command of an MMA of a gust alone, before it is accepted. -/
def State.loneMma (s : State) (g : Gust) (q : Squall) (i : Instr) (t a b : Nat) : Cmd :=
  { s.mkCmd { g with gangRows := 1 } q i [] [] with members := [{ who := g.ref, tile := t, a, b, batch := 0, early := false }] }

/-- The command of an MMA of a gust alone, as it enters the queue. -/
def State.loneMmaQueued (s : State) (g : Gust) (q : Squall) (i : Instr) (t a b : Nat) : Cmd :=
  { s.loneMma g q i t a b with id := s.serial, batch := g.bnum + 1,
                               members := [{ who := g.ref, tile := t, a, b, batch := g.bnum + 1, early := false }] }

/-- An MMA of a gust alone enters the matrix queue, and the open batch of its gust (R222, R323). -/
theorem State.acceptCmd_loneMma (hg : s.gust? g.ref = some g) (q : Squall) (t a b : Nat) :
    s.acceptCmd (s.loneMma g q (.mma c f t a b third) t a b) =
      (s.fresh.2.onCore q.core fun k => { k with matrixQ := k.matrixQ ++ [s.loneMmaQueued g q (.mma c f t a b third) t a b] }).onGust g.ref
        (Gust.joins t (g.bnum + 1)) := by
  have hbatch : ((s.fresh.2.gust? g.ref).elim 0 Gust.bnum) = g.bnum := by
    rw [show s.fresh.2.gust? g.ref = some g from hg]
    rfl
  refine Eq.trans ?_ (State.onGust_onGust _ _ (f := fun h => { h with touched := h.touched ++ [(t, g.bnum + 1)] }) (fun _ h => h)
    fun h => { h with opened := true })
  simp only [State.acceptCmd, State.loneMma, State.mkCmd, List.map_cons, List.map_nil, List.isEmpty_cons, Bool.false_eq_true, if_false, hbatch]
  rfl

/-- The same of the check for early touches, where every slot is ready (R216). -/
theorem State.acceptMma_lone (hi : s.Issuing g q) (hr : ∀ o ∈ a :: f.bSlots b, (q.slot o).fill = .ready) :
    s.acceptMma (s.loneMma g q (.mma c f t a b third) t a b) (some g.ref) = s.acceptCmd (s.loneMma g q (.mma c f t a b third) t a b) := by
  have hready : ((a :: f.bSlots b).any fun o => q.unready o) = false := by
    simp only [List.any_eq_false, Squall.unready]
    exact fun o ho => by simp [hr o ho]
  have hq : s.squall? (s.loneMma g q (.mma c f t a b third) t a b).who.sq = some q := hi.squall
  simp only [State.acceptMma, hq]
  have hearly : (s.loneMma g q (.mma c f t a b third) t a b).members.any (fun m =>
      (m.a :: ((mmaOf (s.loneMma g q (.mma c f t a b third) t a b).instr).elim MFmt.i9 (·.1)).bSlots m.b).any fun o => q.unready o) = false := by
    show (((a :: f.bSlots b).any fun o => q.unready o) || false) = false
    rw [hready]
    rfl
  rw [hearly, Bool.false_and, if_neg Bool.false_ne_true]
  have hsame : (s.loneMma g q (.mma c f t a b third) t a b).members.map (fun m => { m with early :=
      (m.a :: ((mmaOf (s.loneMma g q (.mma c f t a b third) t a b).instr).elim MFmt.i9 (·.1)).bSlots m.b).any fun o => q.unready o }) =
      (s.loneMma g q (.mma c f t a b third) t a b).members := by
    show [({ who := g.ref, tile := t, a, b, batch := 0, early := (a :: f.bSlots b).any fun o => q.unready o } : MmaMember)] = _
    rw [hready]
    rfl
  rw [hsame]
  exact State.each_filter_none (by simp [State.loneMma]) _ _

/-- There is room for an MMA in a matrix queue of fewer than 27 commands, none waiting for it (R222). -/
theorem State.roomFor_loneMma (ha : ∀ x ∈ (s.core q.core).acceptQ, cmdQ x.instr ≠ .matrix) (hl : (s.core q.core).matrixQ.length < 27) :
    s.roomFor (s.loneMma g q (.mma c f t a b third) t a b) = true := by
  have hnone : ((s.core q.core).acceptQ.any fun x => cmdQ x.instr == .matrix) = false := by simpa using ha
  show (decide ((s.core q.core).matrixQ.length < 27) && !((s.core q.core).acceptQ.any fun x => cmdQ x.instr == .matrix) && true) = true
  rw [decide_eq_true hl, hnone]
  rfl

/-- The operands that an MMA of a gust alone fires with. -/
theorem filterMap_mmaOf_lone (r : GustRef) :
    ([(r, Instr.mma c f t a b third)].filterMap fun m => (mmaOf m.2).map fun o => (m.1, o)) = [(r, f, t, a, b, third)] := rfl

/-- What an MMA of a gust alone does (R208, R220, R221). -/
theorem exec_mma_lone (hi : s.Issuing g q) (hk : (gangOf g.gangMap).length ≤ 1) :
    exec (.mma c f t a b third) s = .next (((s.fire { g with gangRows := 1 } q (.mma c f t a b third)
      [(g.ref, .mma c f t a b third)]).settle g s.op).keepIssuing g) := by
  show execMma c f t a b third s = _
  rw [execMma, State.perform_issuing hi]
  simp only [hi.squall, if_pos hk]

/-- An MMA of what the gust does not own is refused (R221). -/
theorem exec_mma_unowned (hi : s.Issuing g q) (hrun : g.status = .running) (hk : (gangOf g.gangMap).length ≤ 1) (ht : Claims.Handles g q)
    (ho : ¬ q.OwnsMma g.ref.gust t (a :: f.bSlots b)) :
    exec (.mma c f t a b third) s = .next (Claims.faulted s g 50 0 0) := by
  classical
  have hfault : s.fire { g with gangRows := 1 } q (.mma c f t a b third) [(g.ref, .mma c f t a b third)] =
      .over (s.faultFor g.ref 50 0) := by
    simp only [State.fire, filterMap_mmaOf_lone, gangFault_lone, if_neg ho]
    rfl
  rw [exec_mma_lone hi hk, hfault, State.faultFor_issuing hi hrun ht, ← State.settle_fault hi ht 50 0 s.op]
  rfl

/-- An MMA of owned and ready slots enters the matrix queue (R216, R221, R222). -/
theorem exec_mma_owned (hi : s.Issuing g q) (hk : (gangOf g.gangMap).length ≤ 1) (ho : q.OwnsMma g.ref.gust t (a :: f.bSlots b))
    (hr : ∀ o ∈ a :: f.bSlots b, (q.slot o).fill = .ready)
    (ha : ∀ x ∈ (s.core q.core).acceptQ, cmdQ x.instr ≠ .matrix) (hl : (s.core q.core).matrixQ.length < 27) :
    exec (.mma c f t a b third) s = .next (Claims.out (s.acceptCmd (s.loneMma g q (.mma c f t a b third) t a b)) g) := by
  classical
  have hsame : ((s.acceptCmd (s.loneMma g q (.mma c f t a b third) t a b)).gust? g.ref).any
      (fun h => h.pc == g.pc && h.trapActive == g.trapActive) = true := by
    rw [State.acceptCmd_loneMma hi.gust,
      State.gust?_onGust_some (s := s.fresh.2.onCore ..) hi.gust (Gust.joins t (g.bnum + 1)) fun _ h => h]
    simp [Gust.joins]
  have hfire : s.fire { g with gangRows := 1 } q (.mma c f t a b third) [(g.ref, .mma c f t a b third)] =
      .done (s.acceptCmd (s.loneMma g q (.mma c f t a b third) t a b)) := by
    have hroom : s.roomFor (s.loneMma g q (.mma c f t a b third) t a b) = true := State.roomFor_loneMma ha hl
    have haccept := State.acceptMma_lone (c := c) (third := third) (t := t) hi hr
    simp only [State.fire, filterMap_mmaOf_lone, gangFault_lone, if_pos ho, List.map_cons, List.map_nil]
    exact (if_pos hroom).trans ((if_pos (by rw [← hsame, ← haccept]; rfl)).trans (congrArg Eff.done haccept))
  rw [exec_mma_lone hi hk, hfire]
  rfl

/-- An MMA of a member of a gang waits while no other is at the latch (R220). -/
theorem exec_mma_first (hi : s.Issuing g q) (hk : 2 ≤ (gangOf g.gangMap).length)
    (hl : ∀ h ∈ s.gustsOf g.ref.sq, ∀ op j, h.status ≠ .waiting op (.gang j)) :
    exec (.mma c f t a b third) s = .next (Claims.waits s g s.op (.gang (.mma c f t a b third))) := by
  have hnone : (s.gustsOf g.ref.sq).filter (fun h => h.ref != g.ref && !h.halted && h.atLatch.isSome) = [] :=
    List.filter_eq_nil_iff.2 fun h hh => by simp [Gust.atLatch_none (hl h hh)]
  show execMma c f t a b third s = _
  rw [execMma, State.perform_issuing hi]
  simp only [hi.squall, if_neg (Nat.not_le.2 hk), hnone, List.filter_nil, List.isEmpty_nil, Bool.not_true, Bool.false_eq_true, if_false,
    List.length_nil, if_pos (Nat.lt_of_lt_of_le Nat.one_lt_two hk)]
  rfl

end

/-- Settles O36: MMA of a gust alone that owns what it names, of one that does not, and of the first member of a gang. -/
theorem matrixMultiplyForm : Obligations.MatrixMultiplyForm := by
  unfold Obligations.MatrixMultiplyForm
  intro c f t a b third s g q hi hrun i slots size
  have hslots : slots = a :: f.bSlots b := by rw [bSlots_eq]
  refine ⟨fun hk ht ho hc ha hl => ?_, fun hk hno ht => ?_, fun hk hl => exec_mma_first hi hk hl⟩
  · rw [hslots] at ho
    refine ⟨s.acceptCmd (s.loneMma g q i t a b), s.loneMmaQueued g q i t a b,
      exec_mma_owned hi hk ⟨ht, fun o h => (ho o h).1⟩ (fun o h => (ho o h).2) ha hl, rfl, rfl, rfl, rfl, ?_, ?_⟩
    · rw [State.acceptCmd_loneMma hi.gust]
      exact congrArg Core.matrixQ ((State.core_onCore s.fresh.2 q.core q.core _ hc).trans (if_pos rfl))
    · rw [State.acceptCmd_loneMma hi.gust]
      exact State.gust?_onGust_some (s := s.fresh.2.onCore ..) hi.gust _ fun _ h => h
  · rw [hslots] at hno
    refine exec_mma_unowned hi hrun hk ht fun ⟨hown, hall⟩ => ?_
    obtain h | ⟨o, hmem, h⟩ := hno
    · exact h hown
    · exact h (hall o hmem)

end Sys2Proof.Machine
end

section
/-! O39: claims and releases of runs of tiles and slots (R208 to R210). -/

namespace Sys2Proof.Machine

/-! The members of a run changed. -/

section
variable (q : Squall) (tiles : Bool) (first n : Nat) (o : Option Nat → Bool → Option Nat × Bool)

theorem Squall.sameButRuns_onRun : q.SameButRuns (q.onRun tiles first n o) := by
  unfold Squall.SameButRuns Squall.onRun
  cases tiles <;> rfl

theorem Squall.onRun_tiles (k : Nat) : (q.onRun tiles first n o).tiles[k]? = q.tiles[k]?.map fun x =>
    if tiles = true ∧ first ≤ k ∧ k < first + n then { x with owner := (o x.owner x.releasing).1, releasing := (o x.owner x.releasing).2 }
    else x := by
  cases tiles with
  | true => simp only [Squall.onRun, if_true, getElem?_zip_range_map, decide_eq_true_eq, true_and]
  | false => simp [Squall.onRun]

theorem Squall.onRun_slots (k : Nat) : (q.onRun tiles first n o).slots[k]? = q.slots[k]?.map fun x =>
    if tiles = false ∧ first ≤ k ∧ k < first + n then { x with owner := (o x.owner x.releasing).1, releasing := (o x.owner x.releasing).2 }
    else x := by
  cases tiles with
  | true => simp [Squall.onRun]
  | false => simp only [Squall.onRun, Bool.false_eq_true, if_false, getElem?_zip_range_map, decide_eq_true_eq, true_and]

end

theorem length_eq_of_getElem?_map {α : Type} {l l' : List α} {f : Nat → α → α} (h : ∀ k, l'[k]? = l[k]?.map (f k)) :
    l'.length = l.length := by
  have hnone : ∀ k, l'.length ≤ k ↔ l.length ≤ k := fun k => by
    rw [← List.getElem?_eq_none_iff, ← List.getElem?_eq_none_iff, h, Option.map_eq_none_iff]
  have h1 := hnone l.length
  have h2 := hnone l'.length
  omega

/-- A squall whose run has new owners, by what it holds at each place. -/
theorem Squall.reowned_of_places {q b : Squall} {tiles : Bool} {first n : Nat} {who : Option Nat} (hs : q.SameButRuns b)
    (ht : ∀ k, b.tiles[k]? = q.tiles[k]?.map fun x =>
      if tiles = true ∧ first ≤ k ∧ k < first + n then { x with owner := who, releasing := false } else x)
    (hl : ∀ k, b.slots[k]? = q.slots[k]?.map fun x =>
      if tiles = false ∧ first ≤ k ∧ k < first + n then { x with owner := who, releasing := false } else x) :
    Claims.Reowned q b tiles first n who :=
  ⟨hs, length_eq_of_getElem?_map ht, length_eq_of_getElem?_map hl, fun k x hx => by rw [ht, hx, Option.map_some],
    fun k x hx => by rw [hl, hx, Option.map_some]⟩

theorem Squall.reowned_claim (q : Squall) (tiles : Bool) (first n gust : Nat) :
    Claims.Reowned q (q.claim tiles first n gust) tiles first n (some gust) :=
  Squall.reowned_of_places (q.sameButRuns_onRun ..) (q.onRun_tiles tiles first n _) (q.onRun_slots tiles first n _)

/-! What a release that takes effect frees (R210). -/

section
variable {s : State} {q : Squall}

theorem State.freeRun_tiles (k : Nat) : (s.freeRun q).tiles[k]? = q.tiles[k]?.map fun x =>
    if x.releasing && !s.needed q true k then { x with owner := none, releasing := false } else x :=
  getElem?_zip_range_map _ _ k

theorem State.freeRun_slots (k : Nat) : (s.freeRun q).slots[k]? = q.slots[k]?.map fun x =>
    if x.releasing && !s.needed q false k then { x with owner := none, releasing := false } else x :=
  getElem?_zip_range_map _ _ k

/-- A squall that no command's window snapshot names is reached by none through window space. -/
theorem State.not_reached (hc : ∀ c ∈ s.allCmds, ∀ p ∈ c.snap, p.q ≠ q.q) (at_ : Placed → Nat) (n : Nat) :
    (s.allCmds.any fun c => reaches c q.q at_ n) = false := by
  simp only [List.any_eq_false, reaches, List.any_eq_true, Bool.and_eq_true, beq_iff_eq, not_exists, not_and]
  exact fun c hcmd p hp hpq => absurd hpq (hc c hcmd p hp)

theorem State.not_needed_tile_iff (hc : ∀ c ∈ s.allCmds, ∀ p ∈ c.snap, p.q ≠ q.q) (k : Nat) :
    s.needed q true k = false ↔ ∀ c ∈ (s.core q.core).matrixQ, c.who.sq = q.q → k ∉ c.tiles := by
  simp only [State.needed, State.not_reached hc]
  simp

theorem State.not_needed_slot_iff (hc : ∀ c ∈ s.allCmds, ∀ p ∈ c.snap, p.q ≠ q.q) (k : Nat) :
    s.needed q false k = false ↔
      (q.slot k).fill ≠ .pending ∧ ∀ c ∈ (s.core q.core).matrixQ, c.who.sq = q.q → k ∉ c.reads := by
  simp only [State.needed, State.not_reached hc]
  simp

/-- With no gust of the squall waiting for a run, a release that takes effect grants no claim. -/
theorem State.releaseEffect_unclaimed {r : SqRef} (h : ∀ k ∈ s.gustsOf r, ∀ op t f n w, k.status ≠ .waiting op (.claim t f n w)) :
    s.releaseEffect r = s.onSquall r fun b => s.freeRun b := by
  have hclaims : (s.onSquall r fun b => s.freeRun b).claims r = [] := by
    have hnone : ((s.gustsOf r).filterMap fun g => match g.status with
        | .waiting _ (.claim t f n since) => if g.halted then none else some (since, g.ref, t, f, n)
        | _ => none) = [] := by
      refine List.filterMap_eq_nil_iff.2 fun k hk => ?_
      split
      · next hw => exact absurd hw (h k hk _ _ _ _ _)
      · rfl
    exact congrArg (List.insertionSort _) hnone
  unfold State.releaseEffect
  dsimp only
  rw [hclaims]
  rfl

/-- With one gust in the squall, waiting for a run, its claim is the one to be granted (R209). -/
theorem State.claims_single {r : SqRef} {h : Gust} {op : Int} {tiles : Bool} {first n since : Nat} (hg : s.gustsOf r = [h])
    (hw : h.status = .waiting op (.claim tiles first n since)) (hh : h.halted = false) :
    s.claims r = [(since, h.ref, tiles, first, n)] := by
  simp [State.claims, hg, hw, hh]

/-- A squall put in the state and then changed by its name. -/
theorem State.onSquall_setSquall (s : State) (a : Squall) {f : Squall → Squall} (hf : (f a).q = a.q) :
    (s.setSquall a).onSquall a.q f = s.setSquall (f a) := by
  unfold State.setSquall State.onSquall
  simp only [List.map_map, State.mk.injEq, true_and, and_true]
  apply List.map_congr_left
  intro x _
  by_cases hx : x.q = a.q <;> simp [hx, hf]

/-! The release of an owned run that nothing uses. -/

/-- The squall with a run released, its release in effect. -/
def State.runReleased (s : State) (q : Squall) (tiles : Bool) (first n : Nat) : Squall :=
  (s.setSquall (q.release tiles first n)).freeRun (q.release tiles first n)

theorem State.reowned_runReleased (hm : (s.core q.core).matrixQ = []) (htiles : ∀ x ∈ q.tiles, x.releasing = false)
    (hslots : ∀ x ∈ q.slots, x.releasing = false ∧ x.fill ≠ .pending) (hc : ∀ c ∈ s.allCmds, ∀ p ∈ c.snap, p.q ≠ q.q)
    (tiles : Bool) (first n : Nat) : Claims.Reowned q (s.runReleased q tiles first n) tiles first n none := by
  have hsame : q.SameButRuns (q.release tiles first n) := q.sameButRuns_release tiles first n
  have hname : (q.release tiles first n).q = q.q := by rw [hsame]
  have hcmds : ∀ c ∈ (s.setSquall (q.release tiles first n)).allCmds, ∀ p ∈ c.snap, p.q ≠ (q.release tiles first n).q := by
    rw [hname]
    exact hc
  have hqueue : ((s.setSquall (q.release tiles first n)).core (q.release tiles first n).core).matrixQ = [] := by
    rw [hsame]
    exact hm
  refine Squall.reowned_of_places (hsame.trans (State.sameButRuns_freeRun _ _)) (fun k => ?_) fun k => ?_
  · have hfree : (s.setSquall (q.release tiles first n)).needed (q.release tiles first n) true k = false :=
      State.not_needed hqueue hcmds true fun h => nomatch h
    rw [State.runReleased, State.freeRun_tiles, hfree, Squall.release, Squall.onRun_tiles, Option.map_map]
    refine Option.map_congr fun x hx => ?_
    have hno := htiles x (List.mem_of_getElem? hx)
    grind
  · rw [State.runReleased, State.freeRun_slots, Squall.release, Squall.onRun_slots, Option.map_map]
    refine Option.map_congr fun x hx => ?_
    obtain ⟨hno, hfill⟩ := hslots x (List.mem_of_getElem? hx)
    have hfree : (s.setSquall (q.release tiles first n)).needed (q.release tiles first n) false k = false := by
      refine State.not_needed hqueue hcmds false fun _ => ?_
      rw [Squall.slot, List.getD_eq_getElem?_getD, Squall.release, Squall.onRun_slots, hx, Option.map_some, Option.getD_some]
      split <;> exact hfill
    grind [Squall.release]

theorem State.releaseEffect_release (hu : ∀ k ∈ s.gustsOf q.q, ∀ op t f j w, k.status ≠ .waiting op (.claim t f j w))
    (tiles : Bool) (first n : Nat) :
    (s.setSquall (q.release tiles first n)).releaseEffect q.q = s.setSquall (s.runReleased q tiles first n) := by
  have hname : (q.release tiles first n).q = q.q := by rw [q.sameButRuns_release tiles first n]
  rw [State.releaseEffect_unclaimed (s := s.setSquall (q.release tiles first n)) hu, ← hname]
  exact s.onSquall_setSquall _ (f := fun b => (s.setSquall (q.release tiles first n)).freeRun b) rfl

end

/-! The forms. -/

section
variable {s : State} {g : Gust} {q : Squall} {i : Instr} {c : Ctl} {tiles : Bool} {first n : Nat}

theorem exec_claim (hr : Claims.claimRule i = some (c, true, tiles, first, n)) : exec i s = s.claimForm c tiles first n := by
  unfold Claims.claimRule at hr
  split at hr
  case h_1 | h_2 =>
    cases hr
    rfl
  all_goals exact nomatch hr

theorem exec_release (hr : Claims.claimRule i = some (c, false, tiles, first, n)) : exec i s = s.releaseForm c tiles first n := by
  unfold Claims.claimRule at hr
  split at hr
  case h_3 | h_4 =>
    cases hr
    rfl
  all_goals exact nomatch hr

theorem State.claimForm_free (hi : s.Issuing g q) (ha : g.acts c.guard = true)
    (ho : ∀ k, first ≤ k → k < first + n → q.owner tiles k = none ∨ q.owner tiles k = some g.ref.gust) :
    s.claimForm c tiles first n = .next (Claims.out (s.setSquall (q.claim tiles first n g.ref.gust)) g) := by
  rw [State.claimForm, State.performGust_acts hi c ha]
  simp only [hi.squall, Squall.free_iff.2 ho, if_true]
  rfl

theorem State.claimForm_taken (hi : s.Issuing g q) (ha : g.acts c.guard = true)
    (ho : ∃ k, first ≤ k ∧ k < first + n ∧ ∃ o, q.owner tiles k = some o ∧ o ≠ g.ref.gust) :
    s.claimForm c tiles first n = .next (Claims.waits { s with serial := s.serial + 1 } g s.op (.claim tiles first n s.serial)) := by
  have hno : ¬ q.free tiles first n g.ref.gust = true := fun h => by
    obtain ⟨k, hlo, hhi, o, hown, hne⟩ := ho
    obtain hnone | hsome := Squall.free_iff.1 h k hlo hhi
    · exact absurd (hown.symm.trans hnone) (by simp)
    · exact hne (Option.some.inj (hown.symm.trans hsome))
  rw [State.claimForm, State.performGust_acts hi c ha]
  simp only [hi.squall]
  rw [if_neg hno]
  rfl

theorem State.releaseForm_owned (hi : s.Issuing g q) (ha : g.acts c.guard = true)
    (ho : ∀ k, first ≤ k → k < first + n → q.owner tiles k = some g.ref.gust) :
    s.releaseForm c tiles first n = .next (Claims.out ((s.setSquall (q.release tiles first n)).releaseEffect q.q) g) := by
  rw [State.releaseForm, State.performGust_acts hi c ha]
  simp only [hi.squall, Squall.owns_iff.2 ho, if_true]
  rfl

theorem State.releaseForm_fault (hi : s.Issuing g q) (ha : g.acts c.guard = true) (ht : Claims.Handles g q)
    (ho : ∃ k, first ≤ k ∧ k < first + n ∧ q.owner tiles k ≠ some g.ref.gust) :
    s.releaseForm c tiles first n = .next (Claims.faulted s g 50 0 0) := by
  obtain ⟨k, hlo, hhi, hk⟩ := ho
  have hno : ¬ q.owns tiles first n g.ref.gust = true := fun h => hk (Squall.owns_iff.1 h k hlo hhi)
  rw [State.releaseForm, State.performGust_acts hi c ha]
  simp only [hi.squall]
  rw [if_neg hno, State.settle_fault hi ht]

end

/-- The first part of O39: claims and releases by their gust. -/
theorem claimForms_forms : Claims.ClaimForms := by
  intro i c claim tiles first n s g q hr hi ha owner
  have hq : q.q = g.ref.sq := State.squall?_q hi.squall
  refine ⟨fun hc ho => ?_, fun hc ho => ?_, fun hc ho ht => ?_, fun hc ho hm htiles hslots hw hcmds => ?_⟩
  · subst hc
    exact ⟨_, q.reowned_claim tiles first n g.ref.gust, (exec_claim hr).trans (State.claimForm_free hi ha ho)⟩
  · subst hc
    exact (exec_claim hr).trans (State.claimForm_taken hi ha ho)
  · subst hc
    exact (exec_release hr).trans (State.releaseForm_fault hi ha ht ho)
  · subst hc
    rw [← hq] at hw hcmds
    refine ⟨_, State.reowned_runReleased hm htiles hslots hcmds tiles first n, ?_⟩
    rw [exec_release hr, State.releaseForm_owned hi ha ho, State.releaseEffect_release hw]

/-- The second part of O39: accepted releases take effect, and the claim that waits is granted. -/
theorem claimForms_releaseEffect : Claims.ReleaseEffectStep := by
  intro s q h op tiles first n since hf hu hc
  have hset : s.onSquall q.q (fun b => s.freeRun b) = s.setSquall (s.freeRun q) := State.onSquall_eq_setSquall hu rfl
  refine ⟨s.freeRun q, rfl, fun k x hx => ?_, fun k x hx => ?_, fun hw => ?_, fun hg hw hh ho => ?_⟩
  · rw [State.freeRun_tiles, hx, Option.map_some]
    simp only [Bool.and_eq_true, Bool.not_eq_true', State.not_needed_tile_iff hc]
  · have hfill : (q.slot k).fill = x.fill := by simp [Squall.slot, List.getD_eq_getElem?_getD, hx]
    rw [State.freeRun_slots, hx, Option.map_some]
    simp only [Bool.and_eq_true, Bool.not_eq_true', State.not_needed_slot_iff hc, hfill]
  · show Host.Outcome.next (s.releaseEffect q.q) = _
    rw [State.releaseEffect_unclaimed hw, hset]
  · refine ⟨(s.freeRun q).claim tiles first n h.ref.gust, Squall.reowned_claim .., ?_⟩
    have hname : ((s.freeRun q).claim tiles first n h.ref.gust).q = q.q := by
      rw [Squall.claim, (s.freeRun q).sameButRuns_onRun]
      rfl
    have hclaims : (s.setSquall (s.freeRun q)).claims q.q = [(since, h.ref, tiles, first, n)] := State.claims_single hg hw hh
    have hsquall : (s.setSquall (s.freeRun q)).squall? q.q = some (s.freeRun q) := by
      rw [State.squall?_setSquall, if_pos (by rfl), hf]
      rfl
    show Host.Outcome.next (s.releaseEffect q.q) = _
    unfold State.releaseEffect
    simp only [hset, hclaims, State.each, List.foldl_cons, List.foldl_nil, hsquall, Squall.free_iff.2 ho, if_true]
    rw [State.setSquall_setSquall _ (s.freeRun q) _ hname.symm]

/-- Settles O39. -/
theorem claimForms : Obligations.ClaimForms := ⟨claimForms_forms, claimForms_releaseEffect⟩

end Sys2Proof.Machine
end

section
/-! O40: AST of a tile that no command is on, and RWAIT (R216, R225, R228, R230). -/

namespace Sys2Proof.Machine

theorem Gust.withVs_ref (g : Gust) (d : Nat) (ws : List Lanes) : (Claims.withVs g d ws).ref = g.ref := by
  induction ws generalizing g d with
  | nil => rfl
  | cons w ws ih => exact ih _ _

/-- Vector registers written in turn are one update of the gust. -/
theorem State.each_writeV (s : State) (r : GustRef) (d : Nat) (f : Nat → Lanes) (n : Nat) :
    (s.each (List.range n) fun s k => s.writeV r (d + k) (f k)) = s.onGust r fun k => Claims.withVs k d ((List.range n).map f) := by
  induction n with
  | zero => simp [State.each, Claims.withVs, State.onGust]
  | succ n ih =>
    have hlast : (s.each (List.range (n + 1)) fun s k => s.writeV r (d + k) (f k)) =
        (s.each (List.range n) fun s k => s.writeV r (d + k) (f k)).writeV r (d + n) (f n) := by
      simp [State.each, List.range_succ]
    have hregs : ∀ k, Claims.withVs k d ((List.range (n + 1)).map f) = (Claims.withVs k d ((List.range n).map f)).withV (d + n) (f n) := by
      intro k
      simp [List.range_succ, Gust.withVs_concat]
    rw [hlast, ih, State.writeV, State.onGust_onGust _ _ (f := fun k => Claims.withVs k d ((List.range n).map f)) fun k hk => by
      rw [Gust.withVs_ref, hk]]
    simp only [hregs]

/-! AST. -/

section
variable {s : State} {g : Gust} {q : Squall} {c : Ctl} {t : Nat}

/-- A tile that no command is on, and that no command of an open batch of the gust has touched, is not touched early (R216). -/
theorem State.not_early (hm : ∀ x ∈ (s.core q.core).matrixQ, x.who.sq = q.q → t ∉ x.tiles)
    (ht : ∀ x ∈ g.touched, x.1 = t → x.2 ≤ g.waited) :
    s.early (some g) q t = false := by
  have hbusy : s.tileBusy q t = false := by simpa [State.tileBusy] using hm
  have htouched : (g.touched.any fun x => x.1 == t && decide (x.2 > g.waited)) = false := by simpa using fun a b h => ht (a, b) h
  simp [State.early, hbusy, htouched]

/-- The words of a tile in the nine registers of AST (R225). -/
def Squall.tileRegs (q : Squall) (t : Nat) : List Lanes :=
  (List.range 9).map fun k => Lanes.ofList ((((List.range 729).map (q.tileWord t)).drop (81 * k)).take 81)

theorem Squall.get_tileRegs (q : Squall) (t : Nat) {k l : Nat} (hk : k < 9) (hl : l < 81) :
    ((q.tileRegs t).getD k (Lanes.splat Word.zero)).get l = q.tileWord t (81 * k + l) := by
  have hreg : (q.tileRegs t).getD k (Lanes.splat Word.zero) =
      Lanes.ofList ((((List.range 729).map (q.tileWord t)).drop (81 * k)).take 81) := by
    simp [Squall.tileRegs, List.getD_eq_getElem?_getD, hk]
  have hin : 81 * k + l < 729 := by omega
  rw [hreg, Lanes.ofList, Lanes.get_tab _ _ hl]
  simp [List.getD_eq_getElem?_getD, hl, hin]

theorem exec_ast_vector (hi : s.Issuing g q) (hu : g.Undisturbed q) (ha : g.acts c.guard = true)
    (ho : ∀ k, t ≤ k → k < t + 1 → q.owner true k = some g.ref.gust) (he : s.early (some g) q t = false) (d : Nat) :
    exec (.ast c d t false) s = .next (s.after g (Claims.withVs g d (q.tileRegs t)) q (g.pc + 1)) := by
  show execAst c d t false s = _
  rw [execAst, State.ownedForm_owned hi ha ho]
  simp only [he, Bool.false_and, Bool.false_eq_true, if_false, State.each_writeV]
  exact congrArg _ (State.out_onGust (f := fun k => Claims.withVs k d (q.tileRegs t)) hi hu (fun k hk => by rw [Gust.withVs_ref, hk])
    (Gust.SameCourse.withVs ..))

theorem exec_ast_status (hi : s.Issuing g q) (ha : g.acts c.guard = true)
    (ho : ∀ k, t ≤ k → k < t + 1 → q.owner true k = some g.ref.gust) (he : s.early (some g) q t = false) (d : Nat) :
    exec (.ast c d t true) s = .next (Claims.out (s.writeS g.ref d (Word.ofTrit (q.tile t).status)) g) := by
  show execAst c d t true s = _
  rw [execAst, State.ownedForm_owned hi ha ho]
  simp only [he, Bool.false_and, Bool.false_eq_true, if_false, if_true]
  rfl

end

/-- The first part of O40. -/
theorem tileStoreAndCounterForms_ast : Claims.TileStoreForm := by
  intro c d t s g q hi hu ha hown hm ht
  have ho : ∀ k, t ≤ k → k < t + 1 → q.owner true k = some g.ref.gust := fun k hlo hhi => by
    obtain rfl : k = t := by omega
    exact hown
  have he := State.not_early (s := s) hm ht
  refine ⟨⟨q.tileRegs t, by simp [Squall.tileRegs], exec_ast_vector hi hu ha ho he d, fun k l hk hl => q.get_tileRegs t hk hl⟩,
    exec_ast_status hi ha ho he d, fun hd => ?_⟩
  have hw : s.writeS g.ref d (Word.ofTrit (q.tile t).status) = s.onGust g.ref fun k => k.withS d (Word.ofTrit (q.tile t).status) :=
    if_neg (by omega)
  rw [exec_ast_status hi ha ho he d, hw]
  exact congrArg _ (State.out_onGust hi hu (fun _ h => h) (Gust.SameCourse.withS g hd _))

/-! RWAIT. -/

section
variable {s : State} {g : Gust} {q : Squall} {c : Ctl} {a : Nat} {sp : Space} {off : Int} {scope : Scope} {core u : Nat} {w : WinReg}

/-- The state without the counters of a window or scratchpad word (R230). -/
def State.dropCounters (s : State) (core u : Nat) : State := { s with counters := s.counters.filter fun x => x.key != counterPort core u }

theorem exec_rwait_none (hi : s.Issuing g q) (ha : g.acts c.guard = true) (hf : g.fillFaults = []) (hw : s.ownWords g = [])
    (hp : s.placeOf q g.priv sp ((g.s a).val + off) false = (.port core u w, s))
    (hn : (s.counters.find? fun k => k.key == counterPort core u && k.ready) = none) (clr : Bool) :
    exec (.rwait c a sp off scope clr) s = .next (Claims.waits s g s.op (.counter ((g.s a).val + off) (counterPort core u))) := by
  show execRwait c a sp off scope clr s = _
  rw [execRwait, State.performGust_acts hi c ha, State.gustPlace_word hi hf hp rfl (State.clashes_of_quiet hw _)]
  simp only [hn]
  rfl

theorem exec_rwait_ready (hi : s.Issuing g q) (ha : g.acts c.guard = true) (hf : g.fillFaults = []) (hw : s.ownWords g = [])
    (hp : s.placeOf q g.priv sp ((g.s a).val + off) false = (.port core u w, s)) {k : Counter}
    (hk : (s.counters.find? fun k => k.key == counterPort core u && k.ready) = some k) :
    exec (.rwait c a sp off scope false) s = .next (Claims.out (s.orderedAfter (dieOf q.core) k.scope) g) := by
  show execRwait c a sp off scope false s = _
  rw [execRwait, State.performGust_acts hi c ha, State.gustPlace_word hi hf hp rfl (State.clashes_of_quiet hw _)]
  simp only [hk]
  rfl

/-- With .clr the counter is gone; with no other gust at it none goes on. -/
theorem exec_rwait_clear (hi : s.Issuing g q) (ha : g.acts c.guard = true) (hf : g.fillFaults = []) (hw : s.ownWords g = [])
    (hp : s.placeOf q g.priv sp ((g.s a).val + off) false = (.port core u w, s)) {k : Counter}
    (hk : (s.counters.find? fun k => k.key == counterPort core u && k.ready) = some k)
    (ho : ∀ h ∈ s.gusts, h.ref ≠ g.ref → ∀ op x, h.status ≠ .waiting op (.counter x (counterPort core u))) :
    exec (.rwait c a sp off scope true) s = .next (Claims.out ((s.dropCounters core u).orderedAfter (dieOf q.core) k.scope) g) := by
  show execRwait c a sp off scope true s = _
  rw [execRwait, State.performGust_acts hi c ha, State.gustPlace_word hi hf hp rfl (State.clashes_of_quiet hw _)]
  simp only [hk]
  rw [State.each_filter_none]
  · rfl
  · intro h hh
    by_cases hr : h.ref = g.ref
    · simp [hr]
    · split
      · next op x key hs =>
        have hne : key ≠ counterPort core u := fun he => ho h hh hr op x (he ▸ hs)
        simp [hne]
      · simp

end

/-- The second part of O40. -/
theorem tileStoreAndCounterForms_rwait : Claims.CounterWaitForm := by
  intro c a sp off scope s g q core u w hi ha hf hw hp
  refine ⟨fun hn clr => exec_rwait_none hi ha hf hw hp ?_ clr,
    fun k hk => ⟨exec_rwait_ready hi ha hf hw hp hk, fun ho => exec_rwait_clear hi ha hf hw hp hk ho⟩⟩
  simpa [counterPort] using hn

/-- Settles O40. -/
theorem tileStoreAndCounterForms : Obligations.TileStoreAndCounterForms := ⟨tileStoreAndCounterForms_ast, tileStoreAndCounterForms_rwait⟩

end Sys2Proof.Machine
end

section
/-! O41: runs of words in a sparse store, and the tiles and slots that they are (R205, R225). -/

namespace Sys2Proof.Machine

theorem readAt_writeAt_of_canonical {m : Sparse} (h : canonical Claims.zeroAt m = true) (k j : Nat) (v : Word) :
    readAt Claims.zeroAt (writeAt Claims.zeroAt m k v) j = if j = k then v else readAt Claims.zeroAt m j :=
  readAt_writeAt ((canonical_iff _ _).1 h).1 k j v

theorem canonical_putWords {m : Sparse} (h : canonical Claims.zeroAt m = true) (a : Nat) (ws : List Word) :
    canonical Claims.zeroAt (putWords m a ws) = true := by
  induction ws generalizing m a with
  | nil => exact h
  | cons w ws ih => exact ih (canonical_writeAt h a w) (a + 1)

/-- A run of words written reads as the run, and leaves the rest. -/
theorem readAt_putWords {m : Sparse} (h : canonical Claims.zeroAt m = true) (a : Nat) (ws : List Word) (j : Nat) :
    readAt Claims.zeroAt (putWords m a ws) j =
      if a ≤ j ∧ j < a + ws.length then ws.getD (j - a) Word.zero else readAt Claims.zeroAt m j := by
  induction ws generalizing m a with
  | nil => exact (if_neg (by simp)).symm
  | cons w ws ih =>
    refine (ih (canonical_writeAt h a w) (a + 1)).trans ?_
    rw [readAt_writeAt_of_canonical h, List.length_cons]
    by_cases hj : j = a
    · rw [if_neg (by omega), if_pos hj, if_pos (by omega), hj, Nat.sub_self, List.getD_cons_zero]
    · rw [if_neg hj]
      by_cases hin : a + 1 ≤ j ∧ j < a + 1 + ws.length
      · rw [if_pos hin, if_pos (by omega), show j - a = j - (a + 1) + 1 by omega, List.getD_cons_succ]
      · rw [if_neg hin, if_neg (by omega)]

/-! Tiles. -/

section
variable {q : Squall} (h : canonical Claims.zeroAt q.tileWords = true) (t : Nat) {ws : List Word} (st : Trit)

theorem Squall.tiles_setTile (k : Nat) :
    (q.setTile t ws st).tiles[k]? = q.tiles[k]?.map fun x => if k = t then { x with status := st } else x := by
  rw [Squall.setTile, List.getElem?_modify]
  by_cases hk : t = k
  · simp [hk]
  · simp [hk, Ne.symm hk]

include h

theorem Squall.canonical_setTile : canonical Claims.zeroAt (q.setTile t ws st).tileWords = true := canonical_putWords h _ _

theorem Squall.tileWord_setTile (hl : ws.length = 729) {k w : Nat} (hw : w < 729) :
    (q.setTile t ws st).tileWord k w = if k = t then ws.getD w Word.zero else q.tileWord k w := by
  refine (readAt_putWords h (729 * t) ws (729 * k + w)).trans ?_
  by_cases hk : k = t
  · rw [if_pos (by omega), if_pos hk, hk, Nat.add_sub_cancel_left]
  · rw [if_neg (by omega), if_neg hk]
    rfl

end

/-- A squall that differs in its tiles alone. -/
def Squall.SameButTiles (q d : Squall) : Prop := d = { q with tileWords := d.tileWords, tiles := d.tiles }

theorem Squall.SameButTiles.trans {q b d : Squall} (h : q.SameButTiles b) (h' : b.SameButTiles d) : q.SameButTiles d := by
  unfold Squall.SameButTiles at *
  rw [h', h]

theorem Squall.sameButTiles_setTile (q : Squall) (t : Nat) (ws : List Word) (st : Trit) : q.SameButTiles (q.setTile t ws st) := rfl

/-- Squall `d` is squall `q` with `n` tiles from `t` on replaced, each by the words `ws` with status `st`. -/
structure Squall.Retiled (q d : Squall) (t n : Nat) (ws : Nat → Word) (st : Trit) : Prop where
  same : q.SameButTiles d
  other : ∀ k w, w < 729 → k < t ∨ t + n ≤ k → d.tileWord k w = q.tileWord k w ∧ d.tiles[k]? = q.tiles[k]?
  given : ∀ k w, w < 729 → k < n → t + k < q.tiles.length → d.tileWord (t + k) w = ws w ∧ (d.tile (t + k)).status = st

theorem Squall.retiled_setTile {q : Squall} (h : canonical Claims.zeroAt q.tileWords = true) (t : Nat) {ws : List Word} (hl : ws.length = 729)
    (st : Trit) : q.Retiled (q.setTile t ws st) t 1 (fun w => ws.getD w Word.zero) st where
  same := q.sameButTiles_setTile t ws st
  other k w hw hk := by
    have hne : k ≠ t := by omega
    rw [Squall.tileWord_setTile h t st hl hw, if_neg hne, Squall.tiles_setTile]
    simp [hne]
  given k w hw hk hlt := by
    obtain rfl : k = 0 := by omega
    rw [Nat.add_zero] at hlt ⊢
    refine ⟨by rw [Squall.tileWord_setTile h t st hl hw, if_pos rfl], ?_⟩
    rw [Squall.tile, List.getD_eq_getElem?_getD, Squall.tiles_setTile, List.getElem?_eq_getElem hlt]
    simp

/-- A squall with `n` tiles from `t` on zeroed (R225). -/
def Squall.zeroTiles (q : Squall) (t n : Nat) : Squall :=
  (List.range n).foldl (fun q k => q.setTile (t + k) (List.replicate 729 Word.zero) .zero) q

theorem Squall.zeroTiles_succ (q : Squall) (t n : Nat) :
    q.zeroTiles t (n + 1) = (q.zeroTiles t n).setTile (t + n) (List.replicate 729 Word.zero) .zero := by
  rw [Squall.zeroTiles, List.range_succ, List.foldl_append]
  rfl

theorem Squall.canonical_zeroTiles {q : Squall} (h : canonical Claims.zeroAt q.tileWords = true) (t n : Nat) :
    canonical Claims.zeroAt (q.zeroTiles t n).tileWords = true := by
  induction n with
  | zero => exact h
  | succ n ih =>
    rw [Squall.zeroTiles_succ]
    exact Squall.canonical_setTile ih _ _

theorem Squall.sameButTiles_zeroTiles (q : Squall) (t n : Nat) : q.SameButTiles (q.zeroTiles t n) := by
  induction n with
  | zero => rfl
  | succ n ih =>
    rw [Squall.zeroTiles_succ]
    exact ih.trans (Squall.sameButTiles_setTile ..)

theorem Squall.tileWord_zeroTiles {q : Squall} (h : canonical Claims.zeroAt q.tileWords = true) (t n : Nat) {k w : Nat} (hw : w < 729) :
    (q.zeroTiles t n).tileWord k w = if t ≤ k ∧ k < t + n then Word.zero else q.tileWord k w := by
  induction n with
  | zero => exact (if_neg (by omega)).symm
  | succ n ih =>
    rw [Squall.zeroTiles_succ, Squall.tileWord_setTile (Squall.canonical_zeroTiles h t n) _ _ (List.length_replicate ..) hw, ih]
    by_cases hk : k = t + n
    · rw [if_pos hk, if_pos (by omega), List.getD_replicate _ hw]
    · rw [if_neg hk]
      exact if_congr (by omega) rfl rfl

theorem Squall.tiles_zeroTiles (q : Squall) (t n k : Nat) :
    (q.zeroTiles t n).tiles[k]? = q.tiles[k]?.map fun x => if t ≤ k ∧ k < t + n then { x with status := .zero } else x := by
  induction n with
  | zero =>
    have hnone : ¬ (t ≤ k ∧ k < t + 0) := by omega
    show q.tiles[k]? = _
    simp only [hnone, if_false, Option.map_id']
  | succ n ih =>
    rw [Squall.zeroTiles_succ, Squall.tiles_setTile, ih, Option.map_map]
    refine congrArg (Option.map · _) (funext fun x => ?_)
    grind

theorem Squall.retiled_zeroTiles {q : Squall} (h : canonical Claims.zeroAt q.tileWords = true) (t n : Nat) :
    q.Retiled (q.zeroTiles t n) t n (fun _ => Word.zero) .zero where
  same := q.sameButTiles_zeroTiles t n
  other k w hw hk := by
    have hout : ¬ (t ≤ k ∧ k < t + n) := by omega
    rw [Squall.tileWord_zeroTiles h t n hw, Squall.tiles_zeroTiles]
    simp [hout]
  given k w hw hk hlt := by
    have hin : t ≤ t + k ∧ t + k < t + n := by omega
    rw [Squall.tileWord_zeroTiles h t n hw, if_pos hin, Squall.tile, List.getD_eq_getElem?_getD, Squall.tiles_zeroTiles,
      List.getElem?_eq_getElem hlt]
    simp [hk]

/-- An element of a tile after an MMA of one member (R224). -/
def Squall.mmaAt (q : Squall) (f : MFmt) (third : Nat) (m : MmaMember) (w : Nat) : Int × Trit :=
  mmaElement f third (fun i => (q.slotWord m.a i).val) (fun j i => (q.slotWord (m.b + j) i).val) (w / 27) (w % 27)
    (q.tileWord m.tile w).val

theorem Squall.mma_eq (q : Squall) (f : MFmt) (third : Nat) (m : MmaMember) :
    q.mma f third m = q.setTile m.tile ((List.range 729).map fun w => Word.ofInt (q.mmaAt f third m w).1)
      (((List.range 729).map fun v => (q.mmaAt f third m v).2).foldl worse (q.tile m.tile).status) := by
  unfold Squall.mma
  simp only [List.map_map, List.foldl_map]
  rfl

theorem Squall.retiled_mma {q : Squall} (h : canonical Claims.zeroAt q.tileWords = true) (f : MFmt) (third : Nat) (m : MmaMember) :
    q.Retiled (q.mma f third m) m.tile 1 (fun w => ((List.range 729).map fun w => Word.ofInt (q.mmaAt f third m w).1).getD w Word.zero)
      (((List.range 729).map fun v => (q.mmaAt f third m v).2).foldl worse (q.tile m.tile).status) := by
  rw [Squall.mma_eq]
  exact Squall.retiled_setTile h _ (by simp) _

end Sys2Proof.Machine
end

section
/-! O41: the head of a core's command queue runs and leaves (R222, R223). -/

namespace Sys2Proof.Machine

/-- Command `c` is the head of its queue on an existing core, and alone has its number. -/
structure State.Head (s : State) (core : Nat) (c : Cmd) (rest : List Cmd) : Prop where
  exists_ : core < 243
  inRange : core < s.cores.length
  queue : s.queue core (cmdQ c.instr) = c :: rest
  core : c.core = core
  alone : ∀ y ∈ rest, y.id ≠ c.id

theorem State.squall?_onQueue (s : State) (core : Nat) (k : CmdQ) (f : List Cmd → List Cmd) (r : SqRef) :
    (s.onQueue core k f).squall? r = s.squall? r := by cases k <;> rfl

theorem State.queue_onQueue {s : State} {core : Nat} (hc : core < s.cores.length) (k : CmdQ) (f : List Cmd → List Cmd) :
    (s.onQueue core k f).queue core k = f (s.queue core k) := by
  cases k with
  | paging => rfl
  | matrix => exact congrArg Core.matrixQ ((State.core_onCore s core core _ hc).trans (if_pos rfl))
  | fill => exact congrArg Core.fillQ ((State.core_onCore s core core _ hc).trans (if_pos rfl))
  | copy => exact congrArg Core.copyQ ((State.core_onCore s core core _ hc).trans (if_pos rfl))
  | codec => exact congrArg Core.codecQ ((State.core_onCore s core core _ hc).trans (if_pos rfl))

section
variable {s : State} {core : Nat} {c : Cmd} {rest : List Cmd}

/-- The command as its run leaves it (R223). -/
def Cmd.hasRun (c : Cmd) : Cmd := { c with stage := .ran, pageWait := none }

/-- The head's run changes squalls alone. -/
theorem State.Head.onSquall (h : s.Head core c rest) (r : SqRef) (f : Squall → Squall) : (s.onSquall r f).Head core c rest := by
  obtain ⟨hex, hin, hq, hc, hal⟩ := h
  refine ⟨hex, hin, ?_, hc, hal⟩
  rw [← hq]
  cases cmdQ c.instr <;> rfl

theorem State.Head.setSquall (h : s.Head core c rest) (b : Squall) : (s.setSquall b).Head core c rest := by
  obtain ⟨hex, hin, hq, hc, hal⟩ := h
  refine ⟨hex, hin, ?_, hc, hal⟩
  rw [← hq]
  cases cmdQ c.instr <;> rfl

theorem State.Head.queue_setCmd (h : s.Head core c rest) : (s.setCmd c.hasRun).queue core (cmdQ c.instr) = c.hasRun :: rest := by
  obtain ⟨-, hin, hq, hc, hal⟩ := h
  subst hc
  have hrest : rest.map (fun x => if x.id == c.id then c.hasRun else x) = rest :=
    (List.map_congr_left fun y hy => by simp [hal y hy]).trans (List.map_id' _)
  refine (State.queue_onQueue hin _ _).trans ?_
  show (s.queue c.core (cmdQ c.instr)).map _ = _
  rw [hq, List.map_cons]
  exact congrArg₂ List.cons (if_pos (by exact beq_self_eq_true c.id)) hrest

theorem State.Head.setCmd (h : s.Head core c rest) : (s.setCmd c.hasRun).Head core c.hasRun rest where
  exists_ := h.exists_
  inRange := by
    have hlen : (s.setCmd c.hasRun).cores.length = s.cores.length := by
      unfold State.setCmd
      cases cmdQ c.hasRun.instr <;> simp [State.onQueue, State.onCore]
    rw [hlen]
    exact h.inRange
  queue := h.queue_setCmd
  core := h.core
  alone := h.alone

/-- A run without a failure leaves the head run (R223). -/
theorem State.Head.advance {t : State} (h : t.Head core c rest) (hf : c.fillFault = none) {body : State → Ran} (hb : body s = .ok t) :
    s.advance c body = t.setCmd c.hasRun := by
  have hnow : t.cmdNow c = c := by
    rw [State.cmdNow, h.core, h.queue]
    simp
  unfold State.advance
  split
  · next e he =>
    rw [hf] at he
    exact nomatch he
  · rw [hb]
    exact congrArg (fun x : Cmd => t.setCmd x.hasRun) hnow

/-- A command of which nothing is on a slot of a shuttered squall can end (R480). -/
theorem State.fillsReach_of {r : SqRef} {os : List Nat} (h : os = [] ∨ ∃ q, s.squall? r = some q) : s.fillsReach r os = (true, s) := by
  cases os with
  | nil => rfl
  | cons o os =>
    obtain hnil | ⟨q, hq⟩ := h
    · exact nomatch hnil
    · simp [State.fillsReach, hq]

/-- The state once the head, which has no fault, has left its queue (R223, R319). -/
def State.popped (s : State) (c : Cmd) : State :=
  (s.onQueue c.core (cmdQ c.instr) fun l => l.filter fun x => x.id != c.id).refillPaging

theorem State.squall?_popped (s : State) (c : Cmd) (r : SqRef) : (s.popped c).squall? r = s.squall? r :=
  State.squall?_onQueue ..

theorem State.Head.queue_popped (h : s.Head core c rest) (hk : cmdQ c.instr ≠ .paging) :
    (s.popped c).queue core (cmdQ c.instr) = rest := by
  obtain ⟨-, hin, hq, hc, hal⟩ := h
  subst hc
  have hrest : (c :: rest).filter (fun x => x.id != c.id) = rest := by
    rw [List.filter_cons_of_neg (by simp)]
    exact List.filter_eq_self.2 fun y hy => by simpa using hal y hy
  have hrefill : ∀ t : State, t.refillPaging.queue c.core (cmdQ c.instr) = t.queue c.core (cmdQ c.instr) := fun t => by
    revert hk
    cases cmdQ c.instr with
    | paging => exact fun hk => absurd rfl hk
    | _ => exact fun _ => rfl
  rw [State.popped, hrefill, State.queue_onQueue hin, hq, hrest]

theorem State.Head.completeHead {k : CmdQ} (h : s.Head core c rest) (hk : cmdQ c.instr = k) (hr : c.stage = .ran) (hf : c.fault = none)
    (hfills : c.fills = [] ∨ ∃ q, s.squall? c.who.sq = some q) :
    s.completeHead core k = (s.popped c).each c.fills fun s o => s.endFill c.who.sq o none := by
  have hq := h.queue
  rw [hk] at hq
  simp only [State.completeHead, hq, hr, if_true, hf, State.endCmd, State.fillsReach_of hfills]
  rfl

/-! The matrix queue. -/

theorem Cmd.fills_of_matrix (h : cmdQ c.instr = .matrix) : c.fills = [] := by
  unfold Cmd.fills
  split
  · next hi =>
    rw [hi] at h
    exact nomatch h
  · next hi =>
    rw [hi] at h
    exact nomatch h
  · rfl

/-- The head of a matrix queue that is no DRAIN runs (R222). -/
theorem State.Head.exec_matrixCommandRun (h : s.Head core c rest) (hm : cmdQ c.instr = .matrix) (hs : c.stage = .queued)
    (hf : c.fillFault = none) (hd : ∀ x t a b sp off sc ev ty n, c.instr ≠ .drain x t a b sp off sc ev ty n) {F : Squall → Squall}
    (hrun : s.matrixRun c = .ok (s.onSquall c.who.sq F)) :
    exec (.matrixCommandRun core) s = .next ((s.onSquall c.who.sq F).setCmd c.hasRun) := by
  have hq : (s.core core).matrixQ = c :: rest := by
    have := h.queue
    rwa [hm] at this
  have hstep : s.matrixCommandRun core = s.advance c fun s => s.matrixRun c := by
    unfold State.matrixCommandRun
    simp only [hq]
    rw [if_neg (by simp [hs])]
  refine (if_pos (decide_eq_true h.exists_)).trans ?_
  rw [hstep, (h.onSquall _ F).advance hf hrun]

theorem State.Head.exec_matrixCommandComplete (h : s.Head core c rest) (hm : cmdQ c.instr = .matrix) (hr : c.stage = .ran)
    (hf : c.fault = none) : exec (.matrixCommandComplete core) s = .next (s.popped c) := by
  refine (if_pos (decide_eq_true h.exists_)).trans ?_
  rw [h.completeHead hm hr hf (.inl (Cmd.fills_of_matrix hm)), Cmd.fills_of_matrix hm]
  rfl

/-- What a run of the head that replaces tiles leaves, in the terms of O41. -/
theorem State.Head.run_retiles (h : s.Head core c rest) (hm : cmdQ c.instr = .matrix) (hs : c.stage = .queued)
    (hf : c.fillFault = none) {q : Squall} (hq : s.squall? c.who.sq = some q)
    (hd : ∀ x t a b sp off sc ev ty n, c.instr ≠ .drain x t a b sp off sc ev ty n) {F : Squall → Squall}
    (hF : ∀ b, (F b).q = b.q) (hrun : s.matrixRun c = .ok (s.onSquall c.who.sq F)) :
    ∃ u : State, exec (.matrixCommandRun core) s = .next u ∧ (u.core core).matrixQ = c.hasRun :: rest ∧
      u.squall? c.who.sq = some (F q) := by
  refine ⟨_, h.exec_matrixCommandRun hm hs hf hd hrun, ?_, ?_⟩
  · have hleft := (h.onSquall c.who.sq F).queue_setCmd
    rwa [hm] at hleft
  · refine (State.squall?_onQueue _ _ _ _ _).trans ?_
    rw [State.squall?_onSquall _ _ _ _ fun b hb => (hF b).trans hb, if_pos rfl, hq]
    rfl

end

end Sys2Proof.Machine
end

section
/-! O41: AZERO, ALD and MMA run, a filled slot, a drained tile, and the integer elements (R42, R212 to R214, R222 to R226). -/

namespace Sys2Proof.Machine

section
variable {s : State} {core : Nat} {c : Cmd} {rest : List Cmd} {q : Squall} {x : Ctl} {t a b n third : Nat} {f : MFmt} {m : MmaMember}

/-! The matrix queue. -/

theorem State.matrixRun_azero (hi : c.instr = .azero x t n) :
    s.matrixRun c = .ok (s.onSquall c.who.sq fun q => q.zeroTiles t n) := by
  simp only [State.matrixRun, hi]
  rfl

theorem State.matrixRun_ald (hi : c.instr = .ald x t a b .regs) :
    s.matrixRun c = .ok (s.onSquall c.who.sq fun q => q.setTile t c.words .zero) := by
  simp only [State.matrixRun, hi]

theorem State.matrixRun_mma (hi : c.instr = .mma x f t a b third) (hm : c.members = [m]) (he : m.early = false) :
    s.matrixRun c = .ok (s.onSquall c.who.sq fun q => q.mma f third m) := by
  simp only [State.matrixRun, hi, hm, State.each, List.foldl_cons, List.foldl_nil, he, Bool.false_eq_true, if_false]

/-- What the head's run leaves of its squall: the tiles of the command replaced, with the words and the status that its form gives. -/
theorem State.Head.run_tiles (h : s.Head core c rest) (hm : cmdQ c.instr = .matrix) (hs : c.stage = .queued)
    (hf : c.fillFault = none) (hq : s.squall? c.who.sq = some q) (hcan : canonical Claims.zeroAt q.tileWords = true)
    (hi : c.instr = .azero x t n ∨ c.instr = .ald x t a b .regs ∧ c.words.length = 729 ∧ n = 1 ∨
      c.instr = .mma x f t a b third ∧ c.members = [m] ∧ m.early = false ∧ m.tile = t ∧ n = 1) :
    ∃ (u : State) (d : Squall) (ws : Nat → Word) (st : Trit), exec (.matrixCommandRun core) s = .next u ∧
      (u.core core).matrixQ = c.hasRun :: rest ∧ u.squall? c.who.sq = some d ∧ q.Retiled d t n ws st ∧
      (c.instr = .azero x t n → (∀ w, w < 729 → ws w = Word.zero) ∧ st = .zero) ∧
      (c.instr = .ald x t a b .regs → (∀ w, w < 729 → ws w = c.words.getD w Word.zero) ∧ st = .zero) ∧
      (c.instr = .mma x f t a b third → (∀ w, w < 729 → ws w = Word.ofInt (q.mmaAt f third m w).1) ∧
        st = ((List.range 729).map fun v => (q.mmaAt f third m v).2).foldl worse (q.tile m.tile).status) := by
  obtain hi | ⟨hi, hl, rfl⟩ | ⟨hi, hmem, he, rfl, rfl⟩ := hi
  · obtain ⟨u, hu, hleft, hd⟩ := h.run_retiles hm hs hf hq (fun _ _ _ _ _ _ _ _ _ _ hd => by simp [hi] at hd)
      (fun b => by rw [b.sameButTiles_zeroTiles t n]) (State.matrixRun_azero hi)
    exact ⟨u, _, _, _, hu, hleft, hd, Squall.retiled_zeroTiles hcan t n, fun _ => ⟨fun _ _ => rfl, rfl⟩,
      fun hne => by simp [hi] at hne, fun hne => by simp [hi] at hne⟩
  · obtain ⟨u, hu, hleft, hd⟩ := h.run_retiles (F := fun q => q.setTile t c.words .zero) hm hs hf hq
      (fun _ _ _ _ _ _ _ _ _ _ hd => by simp [hi] at hd) (fun _ => rfl) (State.matrixRun_ald hi)
    exact ⟨u, _, _, _, hu, hleft, hd, Squall.retiled_setTile hcan t hl .zero, fun hne => by simp [hi] at hne,
      fun _ => ⟨fun _ _ => rfl, rfl⟩, fun hne => by simp [hi] at hne⟩
  · obtain ⟨u, hu, hleft, hd⟩ := h.run_retiles (F := fun q => q.mma f third m) hm hs hf hq
      (fun _ _ _ _ _ _ _ _ _ _ hd => by simp [hi] at hd) (fun b => by rw [b.mma_eq, b.sameButTiles_setTile])
      (State.matrixRun_mma hi hmem he)
    refine ⟨u, _, _, _, hu, hleft, hd, Squall.retiled_mma hcan f third m, fun hne => by simp [hi] at hne, fun hne => by simp [hi] at hne,
      fun _ => ⟨fun w hw => ?_, rfl⟩⟩
    simp [List.getD_eq_getElem?_getD, hw]

end

/-- The first part of O41: the matrix queue. -/
theorem matrixRuns_matrix : Claims.MatrixRuns := by
  intro s core c rest q x t a b n third f m hex hin hq hc hal hm
  have h : s.Head core c rest := ⟨hex, hin, by rw [hm]; exact hq, hc, hal⟩
  refine ⟨fun hs hf hsq hcan hi => ?_, fun hr hf => ?_, fun hr => ?_⟩
  · obtain ⟨u, d, ws, st, hu, hleft, hd, ⟨hsame, hother, hgiven⟩, hazero, hald, hmma⟩ := h.run_tiles hm hs hf hsq hcan hi
    refine ⟨u, d, hu, hleft, hd, hsame, hother, fun k w hw hk hlt => ?_⟩
    obtain ⟨hword, hstatus⟩ := hgiven k w hw hk hlt
    refine ⟨fun hi' => ?_, fun hi' => ?_, fun hi' => ?_⟩
    · obtain ⟨hws, hst⟩ := hazero hi'
      exact ⟨hword.trans (hws w hw), hstatus.trans hst⟩
    · obtain ⟨hws, hst⟩ := hald hi'
      obtain rfl : k = 0 := by
        have hn : c.words.length = 729 ∧ n = 1 := by simpa [hi'] using hi
        omega
      exact ⟨hword.trans (hws w hw), hstatus.trans hst⟩
    · obtain ⟨hws, hst⟩ := hmma hi'
      have hmem : c.members = [m] ∧ m.early = false ∧ m.tile = t ∧ n = 1 := by simpa [hi'] using hi
      obtain ⟨-, -, htile, hn⟩ := hmem
      obtain rfl : k = 0 := by omega
      subst htile
      exact ⟨hword.trans (hws w hw), hstatus.trans hst⟩
  · refine ⟨_, h.exec_matrixCommandComplete hm hr hf, ?_⟩
    have hleft := h.queue_popped (by simp [hm])
    rwa [hm] at hleft
  · refine (if_pos (decide_eq_true hex)).trans (congrArg _ ?_)
    have hqueue : s.queue core .matrix = c :: rest := hq
    simp only [State.completeHead, hqueue, if_neg hr]

/-! Slots (R213 to R215). -/

section
variable {q : Squall} {o k : Nat} {ws : List Word}

theorem Squall.slotWord_setSlot (h : canonical Claims.zeroAt q.slotWords = true) (hl : ws.length = 243) {w : Nat} (hw : w < 243) :
    (q.setSlot o ws).slotWord k w = if k = o then ws.getD w Word.zero else q.slotWord k w := by
  refine (readAt_putWords h (243 * o) ws (243 * k + w)).trans ?_
  by_cases hk : k = o
  · rw [if_pos (by omega), if_pos hk, hk, Nat.add_sub_cancel_left]
  · rw [if_neg (by omega), if_neg hk]
    rfl

/-- A squall with the state of one slot changed. -/
def Squall.onSlot (q : Squall) (o : Nat) (f : SlotSt → SlotSt) : Squall := { q with slots := q.slots.modify o f }

theorem Squall.slot_onSlot (ho : o < q.slots.length) (f : SlotSt → SlotSt) : (q.onSlot o f).slot o = f (q.slot o) := by
  simp [Squall.slot, Squall.onSlot, List.getD_eq_getElem?_getD, ho]

/-- A fill that no later one has overtaken writes its words into its slot (R215). -/
theorem Squall.fillSlot_eq {issued : Nat} (h : (q.slot o).wrote ≤ issued) :
    q.fillSlot issued o ws = (q.setSlot o ws).onSlot o fun x => { x with wrote := issued } := if_neg (Nat.not_lt.2 h)

theorem Squall.fillSlot_q (q : Squall) (issued o : Nat) (ws : List Word) : (q.fillSlot issued o ws).q = q.q := by
  unfold Squall.fillSlot
  split <;> rfl

/-- The last pending fill of a slot leaves it unfenced (R214). -/
theorem SlotSt.endFill_last {x : SlotSt} (hc : x.count = 1) (hf : x.fault = none) :
    x.endFill none = { x with count := 0, fault := none, fill := .unfenced } := by
  simp [SlotSt.endFill, hc, hf]

end

section
variable {s : State} {core : Nat} {c : Cmd} {q : Squall} {x : Ctl} {o a b : Nat}

/-- With nothing else queued on its core a fill may write its slots (R214, R215). -/
theorem State.slotFree_alone (h : (s.core c.core).fillQ = [c]) (hm : (s.core c.core).matrixQ = []) (hc : (s.core c.core).codecQ = [])
    (ha : (s.core c.core).acceptQ = []) (o : Nat) : s.slotFree c o = true := by
  simp [State.slotFree, h, hm, hc, ha]

theorem State.fillRun_regs (hi : c.instr = .ofill x o a b .regs) :
    s.fillRun c = .ok (s.onSquall c.who.sq fun q => q.fillSlot c.issuedAt o c.words) := by
  simp only [State.fillRun, hi]

theorem State.endFill_bound {r : SqRef} (h : s.squall? r = some q) (o : Nat) (f : Option CmdFault) :
    s.endFill r o f = s.onSquall r fun b => b.onSlot o fun x => x.endFill f := by
  simp only [State.endFill, h]
  rfl

/-- FILL_COMPLETE of an OFILL from registers, alone on its core (R213, R214). -/
theorem State.Head.exec_fillComplete_regs (h : s.Head core c []) (hi : c.instr = .ofill x o a b .regs) (hs : c.stage = .queued)
    (hf : c.fillFault = none) (hfault : c.fault = none) (hfree : s.slotFree c o = true) (hq : s.squall? c.who.sq = some q) :
    exec (.fillComplete core) s = .next
      ((((s.onSquall c.who.sq fun q => q.fillSlot c.issuedAt o c.words).setCmd c.hasRun).popped c.hasRun).onSquall c.who.sq
        fun b => b.onSlot o fun x => x.endFill none) := by
  have hkind : cmdQ c.instr = .fill := by rw [hi]; rfl
  have hfills : c.fills = [o] := by simp only [Cmd.fills, hi]
  have hqueue : (s.core core).fillQ = [c] := by
    have := h.queue
    rwa [hkind] at this
  let u := s.onSquall c.who.sq fun q => q.fillSlot c.issuedAt o c.words
  have hsquall : ∀ v : State, (∀ r, v.squall? r = u.squall? r) → v.squall? c.who.sq = some (q.fillSlot c.issuedAt o c.words) := fun v hv => by
    rw [hv, State.squall?_onSquall _ _ _ _ fun b hb => (b.fillSlot_q ..).trans hb, if_pos rfl, hq]
    rfl
  have hrun : s.advance c (fun s => s.fillRun c) = u.setCmd c.hasRun := (h.onSquall _ _).advance hf (State.fillRun_regs hi)
  have hend := (h.onSquall c.who.sq fun q => q.fillSlot c.issuedAt o c.words).setCmd.completeHead (k := .fill) hkind rfl hfault
    (.inr ⟨_, hsquall _ fun r => State.squall?_onQueue _ _ _ _ r⟩)
  refine (if_pos (decide_eq_true h.exists_)).trans (congrArg _ ?_)
  simp only [State.fillComplete, hqueue, hfills, List.all_cons, List.all_nil, hfree, Bool.and_true, if_true, hs, hrun]
  rw [if_neg (by simp)]
  refine hend.trans ?_
  rw [show c.hasRun.fills = [o] from hfills]
  have hpopped : ((u.setCmd c.hasRun).popped c.hasRun).squall? c.who.sq = some (q.fillSlot c.issuedAt o c.words) :=
    hsquall _ fun r => (State.squall?_popped _ _ r).trans (State.squall?_onQueue _ _ _ _ r)
  exact State.endFill_bound hpopped o none

end

/-! The apply unit of a DRAIN (R226). -/

/-- The scratchpad after the words of tile `t` have gone to the places `p`, in the order of `ws`; none while it is as it was. -/
def Squall.drained (q : Squall) (t : Nat) (p : Nat → Nat) (ws : List Nat) (o : Option Sparse) : Option Sparse :=
  ws.foldl (fun o w => some (writeAt Claims.zeroAt (o.getD q.scratch) (p w) (q.tileWord t w))) o

section
variable {q : Squall} {t : Nat} {p : Nat → Nat} {ws : List Nat} {o : Option Sparse}

theorem Squall.readAt_drained_other (h : canonical Claims.zeroAt (o.getD q.scratch) = true) {y : Nat} (hy : ∀ w ∈ ws, p w ≠ y) :
    readAt Claims.zeroAt ((q.drained t p ws o).getD q.scratch) y = readAt Claims.zeroAt (o.getD q.scratch) y := by
  induction ws generalizing o with
  | nil => rfl
  | cons v ws ih =>
    obtain ⟨hv, hws⟩ := List.forall_mem_cons.1 hy
    refine (ih (o := some _) (canonical_writeAt h _ _) hws).trans ?_
    exact (readAt_writeAt_of_canonical h (p v) y (q.tileWord t v)).trans (if_neg (Ne.symm hv))

theorem Squall.readAt_drained (h : canonical Claims.zeroAt (o.getD q.scratch) = true)
    (hinj : ∀ v ∈ ws, ∀ w ∈ ws, p v = p w → v = w) {w : Nat} (hw : w ∈ ws) :
    readAt Claims.zeroAt ((q.drained t p ws o).getD q.scratch) (p w) = q.tileWord t w := by
  induction ws generalizing o with
  | nil => exact absurd hw (List.not_mem_nil)
  | cons v ws ih =>
    have hcan := canonical_writeAt h (p v) (q.tileWord t v)
    by_cases hin : w ∈ ws
    · exact ih (o := some _) hcan (fun v hv w hw => hinj v (List.mem_cons_of_mem _ hv) w (List.mem_cons_of_mem _ hw)) hin
    · obtain rfl : w = v := (List.mem_cons.1 hw).resolve_right hin
      have hother : ∀ v ∈ ws, p v ≠ p w := fun v hv he => hin (hinj v (List.mem_cons_of_mem _ hv) w hw he ▸ hv)
      refine (Squall.readAt_drained_other (o := some _) hcan hother).trans ?_
      exact (readAt_writeAt_of_canonical h (p w) (p w) (q.tileWord t w)).trans (if_pos rfl)

end

section
variable {s : State} {core : Nat} {c : Cmd} {rest : List Cmd} {q : Squall} {x : Ctl} {t a b : Nat} {off : Int} {sc : Scope} {ev : Int}
  {p : Nat → Nat}

theorem State.squall?_withScratch (h : s.squall? q.q = some q) (o : Option Sparse) :
    (s.withScratch q o).squall? q.q = some { q with scratch := o.getD q.scratch } := by
  cases o with
  | none => exact h
  | some m =>
    rw [State.withScratch, State.squall?_setSquall, if_pos rfl, h]
    rfl

/-- A write of a squall's own scratchpad word by the squall's name of it (R322). -/
theorem State.putSq_withScratch (h : s.squall? q.q = some q) {y : Nat}
    (hold : s.holderOf q.core Bases.scratch Alloc.scratch (q.bases.scratch + y) = some q) (o : Option Sparse) (v : Word) :
    (s.withScratch q o).putSq q.q (.scratch y) v = s.withScratch q (some (writeAt Claims.zeroAt (o.getD q.scratch) y v)) := by
  have hwrite := State.windowWrite_withScratch hold o (some q.ctx) v
  rw [Nat.add_sub_cancel_left] at hwrite
  simp only [State.putSq, State.squall?_withScratch h, State.winOf]
  exact hwrite

/-- Some words of a tile go to the own scratchpad, one after the other. -/
theorem State.each_putSq (h : s.squall? q.q = some q) {ws : List Nat}
    (hold : ∀ w ∈ ws, s.holderOf q.core Bases.scratch Alloc.scratch (q.bases.scratch + p w) = some q) (o : Option Sparse) :
    ((s.withScratch q o).each ws fun s w => s.putSq q.q (.scratch (p w)) (q.tileWord t w)) = s.withScratch q (q.drained t p ws o) := by
  induction ws generalizing o with
  | nil => rfl
  | cons w ws ih =>
    obtain ⟨hw, hws⟩ := List.forall_mem_cons.1 hold
    refine Eq.trans ?_ (ih hws (some _))
    rw [← State.putSq_withScratch h hw]
    rfl

/-- The places of words of the issuing squall's own scratchpad (R179, R322). -/
theorem State.cmdPlaces_own (h : s.squall? c.who.sq = some q) (write : Bool) {ws : List Nat} (hp : ∀ w ∈ ws, p w < q.alloc.scratch) :
    s.cmdPlaces c .p write (ws.map fun w => Int.ofNat (p w)) = (.ok (ws.map fun w => .sq c.who.sq (.scratch (p w))), s) := by
  induction ws with
  | nil => rfl
  | cons w ws ih =>
    obtain ⟨hw, hws⟩ := List.forall_mem_cons.1 hp
    have hplace : s.cmdPlace c .p (Int.ofNat (p w)) write = (.ok (.sq c.who.sq (.scratch (p w))), s) := by
      simp [State.cmdPlace, State.scratchOf, State.reachPlace, h, hw]
    rw [List.map_cons, State.cmdPlaces, hplace]
    simp only [ih hws]
    rfl

/-- Words that are no words of memory are not looked at before a DRAIN's writes (R228). -/
theorem State.drainLook_own (scope : Scope) (r : SqRef) (w : SqWord) : s.drainLook c scope ev (.sq r w) = (.ok (), s) := rfl

/-- A DRAIN without add and counter into the own scratchpad, at its apply unit (R226). -/
theorem State.drainRun_own (hi : c.instr = .drain x t a b .p off sc ev none 0) (hq : s.squall? c.who.sq = some q)
    (haddr : ∀ w, w < 729 → c.scal.getD 0 0 + off + Int.ofNat (w / 27) * c.scal.getD 1 0 + Int.ofNat (w % 27) = Int.ofNat (p w))
    (hp : ∀ w, w < 729 → p w < q.alloc.scratch)
    (hold : ∀ w, w < 729 → s.holderOf q.core Bases.scratch Alloc.scratch (q.bases.scratch + p w) = some q) :
    s.drainRun c = .ok (s.withScratch q (q.drained t p (List.range 729) none)) := by
  have hname : q.q = c.who.sq := State.squall?_q hq
  have haddrs : tileAddrs (c.scal.getD 0 0 + off) (c.scal.getD 1 0) = (List.range 729).map fun w => Int.ofNat (p w) :=
    List.map_congr_left fun w hw => haddr w (List.mem_range.1 hw)
  have hplaces := State.cmdPlaces_own (p := p) hq true (ws := List.range 729) fun w hw => hp w (List.mem_range.1 hw)
  simp only [State.drainRun, hi, hq, haddrs, hplaces, thenXl]
  rw [List.foldl_map, List.foldl_fixed' fun _ => rfl]
  have hzip : (List.range 729).zip ((List.range 729).map fun w => CmdPlace.sq c.who.sq (.scratch (p w))) =
      (List.range 729).map fun w => (w, CmdPlace.sq c.who.sq (.scratch (p w))) := by
    simpa using List.zip_map' (f := id) (g := fun w => CmdPlace.sq c.who.sq (.scratch (p w))) (l := List.range 729)
  have hsquall : s.squall? q.q = some q := hname ▸ hq
  have hwrites := State.each_putSq (t := t) (p := p) (ws := List.range 729) hsquall (fun w hw => hold w (List.mem_range.1 hw)) none
  rw [hname] at hwrites
  simp only [thenRan, hzip]
  refine congrArg Ran.ok (Eq.trans ?_ hwrites)
  unfold State.each
  rw [List.foldl_map]
  rfl

/-- DRAIN_APPLY (R226). -/
theorem State.Head.exec_drainApply {u : State} (h : s.Head core c rest) (hm : cmdQ c.instr = .matrix) (hs : c.stage = .started)
    (hf : c.fillFault = none) (hu : u.Head core c rest) (hrun : s.drainRun c = .ok u) :
    exec (.drainApply core) s = .next (u.setCmd c.hasRun) := by
  have hq : (s.core core).matrixQ = c :: rest := by
    have := h.queue
    rwa [hm] at this
  refine (if_pos (decide_eq_true h.exists_)).trans (congrArg _ ?_)
  simp only [State.drainApply, hq, hs, if_true]
  exact hu.advance hf hrun

end

/-- The second part of O41: a fill from registers, and a DRAIN into the own scratchpad. -/
theorem matrixRuns_fillAndDrain : Claims.FillAndDrainSteps := by
  intro s core c q x o a b t off sc ev p hex hin hc hq hqc hff
  refine ⟨fun hfill hm hco hac hi hs hwrote hf hl hcount hfault ho hcan => ?_, fun hm hi hs hcan hp hinj => ?_⟩
  · have hkind : cmdQ c.instr = .fill := by rw [hi]; rfl
    have h : s.Head core c [] := ⟨hex, hin, by rw [hkind]; exact hfill, hc, fun _ hy => nomatch hy⟩
    have hfree : s.slotFree c o = true := by
      rw [← hc] at hfill hm hco hac
      exact State.slotFree_alone hfill hm hco hac o
    have hslot : ((q.fillSlot c.issuedAt o c.words).onSlot o fun x => x.endFill none).slot o =
        { q.slot o with wrote := c.issuedAt, count := 0, fault := none, fill := .unfenced } := by
      rw [Squall.fillSlot_eq hwrote, Squall.slot_onSlot (by simpa [Squall.onSlot, Squall.setSlot] using ho),
        Squall.slot_onSlot (by exact ho)]
      exact SlotSt.endFill_last hcount hfault
    have hword : ∀ k w, w < 243 → ((q.fillSlot c.issuedAt o c.words).onSlot o fun x => x.endFill none).slotWord k w =
        if k = o then c.words.getD w Word.zero else q.slotWord k w := fun k w hw => by
      rw [Squall.fillSlot_eq hwrote]
      exact Squall.slotWord_setSlot hcan hl hw
    refine ⟨_, (q.fillSlot c.issuedAt o c.words).onSlot o fun x => x.endFill none,
      h.exec_fillComplete_regs hi hs hff hf hfree hq, ?_, ?_, ?_, ?_, fun w hw => ?_, fun k w hk hw => ?_⟩
    · have hleft := ((h.onSquall c.who.sq fun q => q.fillSlot c.issuedAt o c.words).setCmd.queue_popped (by simp [Cmd.hasRun, hkind]))
      rw [show cmdQ c.hasRun.instr = .fill from hkind] at hleft
      exact hleft
    · refine (State.squall?_onSquall _ _ _ (fun b => b.onSlot o fun x => x.endFill none) fun _ h => h).trans ?_
      rw [if_pos rfl, State.squall?_popped, State.setCmd, State.squall?_onQueue,
        State.squall?_onSquall _ _ _ _ fun b hb => (b.fillSlot_q ..).trans hb, if_pos rfl, hq]
      rfl
    · rw [hslot]
    · rw [hslot]
    · rw [hword o w hw, if_pos rfl]
    · rw [hword k w hw, if_neg hk]
  · subst hqc
    have hkind : cmdQ c.instr = .matrix := by rw [hi]; rfl
    have h : s.Head q.core c [] := ⟨hex, hin, by rw [hkind]; exact hm, hc, fun _ hy => nomatch hy⟩
    have hname : q.q = c.who.sq := State.squall?_q hq
    have hrun := State.drainRun_own hi hq (fun w hw => (hp w hw).1) (fun w hw => (hp w hw).2.1) fun w hw => (hp w hw).2.2
    have hread : ∀ w, w < 729 → readAt Claims.zeroAt ((q.drained t p (List.range 729) none).getD q.scratch) (p w) = q.tileWord t w :=
      fun w hw => Squall.readAt_drained (o := none) hcan (fun v hv w hw => hinj v w (List.mem_range.1 hv) (List.mem_range.1 hw))
        (List.mem_range.2 hw)
    have hother : ∀ y, (∀ w, w < 729 → p w ≠ y) →
        readAt Claims.zeroAt ((q.drained t p (List.range 729) none).getD q.scratch) y = readAt Claims.zeroAt q.scratch y :=
      fun y hy => Squall.readAt_drained_other (o := none) hcan fun w hw => hy w (List.mem_range.1 hw)
    generalize q.drained t p (List.range 729) none = m at hrun hread hother
    have hu : (s.withScratch q m).Head q.core c [] := by
      cases m with
      | none => exact h
      | some m => exact h.setSquall _
    refine ⟨_, { q with scratch := m.getD q.scratch }, h.exec_drainApply hkind hs hff hu hrun, ?_, ?_, hread, hother⟩
    · have hleft := hu.queue_setCmd
      rwa [hkind] at hleft
    · rw [← hname] at hq ⊢
      exact (State.squall?_onQueue _ _ _ _ _).trans (State.squall?_withScratch hq _)

/-! Integer elements. -/

/-- A step from status zero: plus where the sum saturates (R42, R44). -/
theorem stepI_zero (ps : List Int) (c : Int) :
    stepI ps (c, .zero) = (satT (c + ps.sum) 27, if satT (c + ps.sum) 27 = c + ps.sum then .zero else .plus) := rfl

/-- The third part of O41: both integer formats reach their depth in one step (R42, R223). -/
theorem matrixRuns_integer : Claims.MatrixIntegerElements := by
  intro t a b x y c i9 w1
  have hone : ∀ (n : Nat) (h : Nat → Int), ((List.range n).map (· + 0 * n)).map h = (List.range n).map h := fun n h => by simp
  refine ⟨?_, ?_⟩
  · exact (congrArg (fun ps => stepI ps (c, .zero)) (hone 27 _)).trans (stepI_zero _ c)
  · exact (congrArg (fun ps => stepI ps (c, .zero)) (hone 81 _)).trans (stepI_zero _ c)

/-- Settles O41. -/
theorem matrixRuns : Obligations.MatrixRuns := ⟨matrixRuns_matrix, matrixRuns_fillAndDrain, matrixRuns_integer⟩

end Sys2Proof.Machine
end

section
/-! O24: PREF and DEMOTE of one address (R245, R255, R256). -/

namespace Sys2Proof.Machine

section
variable {s t u : State} {g : Gust} {q : Squall}

/-- A hint about one address ends as its address does, and the gust goes on where nothing is wrong with it (R255, R256). -/
theorem State.hintForm_done (hi : s.Issuing g q) {c : Ctl} {m : MOps} (ha : g.acts c.guard = true) (hbc : m.bc ≠ .vector)
    {f : Squall → State → Nat → WLoc → LaneOut × State} {p : Place} {v : Option Word}
    (hp : s.placeOf q g.priv m.space (baseAddr g m.bc m.a m.off) false = (p, t)) (hf : dropFailures (f q) t 0 p = (.ok v, u)) :
    s.hintForm c m f = .next (Claims.out u g) := by
  have hone : (m.bc == .vector) = false := beq_eq_false_iff_ne.2 hbc
  simp only [State.hintForm, State.performAs, State.perform_issuing hi, hone, Bool.false_or, ha, if_true, hi.squall, if_neg hbc, hp, hf]
  rfl

/-- A translation that fails is dropped. -/
theorem dropFailures_bad (f : State → Nat → WLoc → LaneOut × State) (l : Nat) {n a : Int} (hpos : 0 < n) (h20 : n ≠ 20) (h21 : n ≠ 21) :
    dropFailures f t l (.bad n a) = (.ok none, t) := by
  simp only [dropFailures]
  rw [if_neg (by omega), if_neg (by omega)]

/-- The uncorrectable words of the home lines do not change with their use. -/
theorem HomesTouched.homeBad (h : HomesTouched s t) (p w : Nat) : t.homeBad p w = s.homeBad p w := by
  have hline := congrArg (Option.map Prod.snd) (h.lines p)
  rw [Option.map_map, Option.map_map] at hline
  have hany (x : State) : x.homeBad p w = (((x.home? p).map (Prod.snd ∘ fun h => (h.words, h.bad))).any fun b => b.contains w) := by
    rw [Option.any_map]
    rfl
  rw [hany, hany, hline]

section
variable {d p w : Nat} {ev : Int} {h : HomeLine}

/-- A request that fills a sector from a sound line of its home (R238). -/
theorem State.reachHome_sound (hh : s.home? p = some h) (hbad : h.bad = []) (hpoison : s.poisoned p (sectorOf w) = false)
    (hflight : ∀ i ∈ s.flight, behind d (.dev p) i = false) :
    s.reachHome d ⟨.dev p, w⟩ ev true = (.ok (h.words.getD w Word.zero), (s.homeFill p ev).2) := by
  obtain ⟨t, hfill, ht⟩ := State.homeFill_found hh ev
  have hsound : ∀ k, t.homeBad p k = false := fun k => by
    rw [ht.homeBad, State.homeBad, hh, Option.any_some, hbad]
    rfl
  simp [State.reachHome, State.flushLoc_none hflight, hpoison, hfill, hsound]

/-- PREF of an address that its home serves sends for the sector, or the line (R255). -/
theorem State.prefetch_home {q : Squall} (hh : s.home? p = some h) (hbad : h.bad = []) (hpoison : s.poisoned p (sectorOf w) = false)
    (hev : ev ≠ -4) (hflight : ∀ i ∈ s.flight, behind (dieOf q.core) (.dev p) i = false)
    (hnear : homeDie p = dieOf q.core ∨ s.near? (dieOf q.core) p = none) (line : Bool) :
    s.prefetch q ev line ⟨.dev p, w⟩ = (.ok none, (s.homeFill p ev).2.send
      (.l1Fill (dieOf q.core) (.dev p) (if line then 0 else sectorOf w) (if line then 9 else 1) ev)) := by
  have hreach : s.reach (dieOf q.core) ⟨.dev p, w⟩ ev = (.ok (h.words.getD w Word.zero), (s.homeFill p ev).2) := by
    rw [← State.reachHome_sound hh hbad hpoison hflight]
    rcases hnear with hd | hn
    · simp [State.reach, hd]
    · simp [State.reach, hn]
  simp [State.prefetch, State.loadRequest, hreach, hev]

end

/-! What DEMOTE leaves of the caches (R245, R256). -/

/-- A change of a die that leaves a part of it alone leaves that part of every die alone. -/
theorem State.die_onDie_part {α : Type} (part : Die → α) (s : State) (d k : Nat) {f : Die → Die} (hf : ∀ x, part (f x) = part x) :
    part ((s.onDie d f).die k) = part (s.die k) := by
  simp only [State.die, State.onDie, List.getD_eq_getElem?_getD, List.getElem?_modify]
  cases s.dies[k]? with
  | none => rfl
  | some x =>
    by_cases h : d = k
    · simp [h, hf]
    · simp [h]

/-- The lines of every L1 slice after a change of a die's other parts. -/
theorem State.l1?_onDie (s : State) (d k : Nat) (loc : Loc) {f : Die → Die} (hf : ∀ x, (f x).l1 = x.l1) :
    (s.onDie d f).l1? k loc = s.l1? k loc :=
  congrArg (List.find? fun x : L1Line => x.loc == loc) (State.die_onDie_part Die.l1 s d k hf)

/-- The lines of every near slice after a change of a die's other parts. -/
theorem State.near?_onDie (s : State) (d k p : Nat) {f : Die → Die} (hf : ∀ x, (f x).near = x.near) :
    (s.onDie d f).near? k p = s.near? k p :=
  congrArg (List.find? fun x : NearLine => x.line == p) (State.die_onDie_part Die.near s d k hf)

/-- A die that holds a line is there. -/
theorem State.lt_of_l1? {d : Nat} {loc : Loc} {x : L1Line} (h : s.l1? d loc = some x) : d < s.dies.length := by
  by_contra hd
  simp [State.l1?, State.die, List.getD_eq_getElem?_getD, List.getElem?_eq_none (Nat.le_of_not_lt hd), Die.init] at h

theorem State.lt_of_near? {d p : Nat} {x : NearLine} (h : s.near? d p = some x) : d < s.dies.length := by
  by_contra hd
  simp [State.near?, State.die, List.getD_eq_getElem?_getD, List.getElem?_eq_none (Nat.le_of_not_lt hd), Die.init] at h

/-- A change of one line of an L1 slice leaves the lines of other places. -/
theorem State.l1?_onL1_other (s : State) (d k : Nat) {loc j : Loc} {f : L1Line → L1Line} (hf : ∀ x, x.loc = loc → (f x).loc = loc)
    (hj : j ≠ loc) : (s.onL1 d loc f).l1? k j = s.l1? k j := by
  by_cases hd : d < s.dies.length
  · rw [State.l1?_onL1 hd hf, if_neg fun h => hj h.2]
  · have hsame : s.onL1 d loc f = s := by
      simp only [State.onL1, State.onDie, List.modify_eq_self (Nat.le_of_not_lt hd)]
    rw [hsame]

/-- A near line after a change of it. -/
theorem State.near?_onNear {d p : Nat} {x : NearLine} (hx : s.near? d p = some x) {f : NearLine → NearLine}
    (hf : ∀ n, n.line = p → (f n).line = p) :
    (s.onDie d fun y => { y with near := y.near.map fun n => if n.line == p then f n else n }).near? d p = some (f x) := by
  rw [State.near?, State.die_onDie s d d _ (State.lt_of_near? hx), if_pos rfl]
  refine (find?_map_if NearLine.line f p p hf (s.die d).near).trans ?_
  rw [if_pos rfl]
  exact congrArg (Option.map f) hx

section
variable {d p : Nat} {ev : Int} (hev : ev ≠ -4)
include hev

/-- DEMOTE of a device line with a code other than −4. -/
theorem State.demote_dev : s.demote d ev (.dev p) =
    ((s.onL1 d (.dev p) fun x => { x with prio := min x.prio ev }).onDie d fun x =>
      { x with near := x.near.map fun n => if n.line == p then { n with prio := min n.prio (max ev (-3)) } else n }).onHome p fun h =>
        { h with prio := min h.prio (max ev (-3)) } := by
  simp only [State.demote, if_neg hev]
  rfl

theorem State.l1?_demote (k : Nat) (loc : Loc) : (s.demote d ev (.dev p)).l1? k loc =
    (s.onL1 d (.dev p) fun x => { x with prio := min x.prio ev }).l1? k loc := by
  rw [State.demote_dev hev]
  exact State.l1?_onDie (s.onL1 d (.dev p) fun x => { x with prio := min x.prio ev }) d k loc
    (f := fun x => { x with near := x.near.map fun n => if n.line == p then { n with prio := min n.prio (max ev (-3)) } else n }) fun _ => rfl

theorem State.near?_demote {x : NearLine} (hx : s.near? d p = some x) :
    (s.demote d ev (.dev p)).near? d p = some { x with prio := min x.prio (max ev (-3)) } := by
  have hline : (s.onL1 d (.dev p) fun x => { x with prio := min x.prio ev }).near? d p = some x := by
    rw [State.onL1, State.near?_onDie _ _ _ _ (by intro; rfl), hx]
  rw [State.demote_dev hev]
  exact State.near?_onNear hline (f := fun n => { n with prio := min n.prio (max ev (-3)) }) fun _ h => h

theorem State.home?_demote {x : HomeLine} (hx : s.home? p = some x) :
    (s.demote d ev (.dev p)).home? p = some { x with prio := min x.prio (max ev (-3)) } := by
  rw [State.demote_dev hev, State.home?_onHome _ _ _ (fun h => { h with prio := min h.prio (max ev (-3)) }) fun _ h => h, if_pos rfl]
  exact congrArg (Option.map _) hx

end
end

/-- Settles O24: PREF by the home that serves it, failures by what drops them, DEMOTE by the copies of the line. -/
theorem cacheHintForms : Obligations.CacheHintForms := by
  unfold Obligations.CacheHintForms
  intro c line m s g q p w h hi ha hbc d place
  refine ⟨fun e hp hh hbad hpoison hev hflight hnear => ?_, fun n a t hp hpos h20 h21 => ⟨?_, ?_⟩, fun e hp hev => ?_⟩
  · exact State.hintForm_done hi ha hbc hp (State.prefetch_home hh hbad hpoison hev hflight hnear line)
  · exact State.hintForm_done hi ha hbc hp (dropFailures_bad _ 0 hpos h20 h21)
  · exact State.hintForm_done hi ha hbc hp (dropFailures_bad _ 0 hpos h20 h21)
  · refine ⟨s.demote d m.ev (.dev p), State.hintForm_done hi ha hbc hp rfl, by rw [State.demote_dev hev]; rfl, fun x hx => ?_,
      fun x hx => State.near?_demote hev hx, fun x hx => State.home?_demote hev hx, fun k loc hloc => ?_⟩
    · rw [State.l1?_demote hev, State.l1?_onL1 (State.lt_of_l1? hx) (by exact fun _ h => h), if_pos ⟨rfl, rfl⟩, hx]
      rfl
    · rw [State.l1?_demote hev, State.l1?_onL1_other _ _ _ (by exact fun _ h => h) hloc]

end Sys2Proof.Machine
end

section
/-! What memory traffic leaves of the gusts, the queue heads, the latch messages on their way and the number of dies (R260, R276): everything
but the gusts' counts of unacknowledged writes. One lemma `still_f` for each operation `f` of the caches, the walker and the fault log. -/

namespace Sys2Proof.Machine

/-- A gust but for its count of unacknowledged writes. -/
def Gust.sansUnacked (g : Gust) : Gust := { g with unacked := 0 }

/-- A message between a latch requester and a home (R260). -/
def latchMsg (i : Instr) : Bool := (latchWho i).isSome

/-- A state's gusts, queue heads, latch messages and number of dies, from their fields. -/
def stillOf (gs : List Gust) (hs : List QHead) (fl : List Instr) (n : Nat) : List Gust × List QHead × List Instr × Nat :=
  (gs.map Gust.sansUnacked, hs, fl.filter latchMsg, n)

/-- What memory traffic leaves of a state as it is. -/
def State.still (s : State) : List Gust × List QHead × List Instr × Nat := stillOf s.gusts s.heads s.flight s.dies.length

theorem State.still_eq (s : State) : s.still = stillOf s.gusts s.heads s.flight s.dies.length := rfl

theorem filter_latchMsg {p : Instr → Bool} (hp : ∀ i, latchMsg i = true → p i = true) (fl : List Instr) :
    (fl.filter p).filter latchMsg = fl.filter latchMsg := by
  rw [List.filter_filter]
  refine List.filter_congr fun i _ => ?_
  cases hi : latchMsg i with
  | false => rfl
  | true => rw [hp i hi]; rfl

theorem latchMsg_cases {i : Instr} (hi : latchMsg i = true) :
    (∃ m, i = .latchRequest m) ∨ (∃ m, i = .latchRelease m) ∨ ∃ m, i = .latchGrant m := by
  unfold latchMsg latchWho at hi
  split at hi
  · exact .inl ⟨_, rfl⟩
  · exact .inr (.inl ⟨_, rfl⟩)
  · exact .inr (.inr ⟨_, rfl⟩)
  · exact absurd hi (by decide)

/-- Messages taken that are no latch messages. -/
theorem still_takeFlight {s t : State} (h : t.still = s.still) {p : Instr → Bool} (hp : ∀ i, latchMsg i = true → p i = true) :
    ({ t with flight := s.flight.filter p } : State).still = s.still := by
  rw [State.still_eq, State.still_eq, stillOf, stillOf, Prod.mk.injEq, Prod.mk.injEq, Prod.mk.injEq] at h ⊢
  obtain ⟨hg, hh, -, hd⟩ := h
  exact ⟨hg, hh, filter_latchMsg hp _, hd⟩

theorem still_each {α : Type} {f : State → α → State} (hf : ∀ t x, (f t x).still = t.still) (s : State) (xs : List α) :
    (s.each xs f).still = s.still := State.each_part State.still hf s xs

/-- The state that an answer leaves. -/
theorem still_of_eq {α : Type} {x : α × State} {v : α} {t : State} {c : List Gust × List QHead × List Instr × Nat} (he : x = (v, t))
    (h : x.2.still = c) : t.still = c := by
  rw [← h, he]

theorem still_onHome (s : State) (p f) : (s.onHome p f).still = s.still := rfl

theorem still_onDie (s : State) (d f) : (s.onDie d f).still = s.still := by
  simp [State.still_eq, State.onDie]

theorem still_onL1 (s : State) (d loc f) : (s.onL1 d loc f).still = s.still := still_onDie _ _ _

theorem still_send (s : State) {i : Instr} (hi : latchMsg i = false) : (s.send i).still = s.still := by
  simp [State.still_eq, State.send, stillOf, hi]

theorem still_note (s : State) (d p q on) : (s.note d p q on).still = s.still := rfl

theorem still_addHolder (s : State) (d p q) : (s.addHolder d p q).still = s.still := rfl

theorem still_settleHolders (s : State) (d) : (s.settleHolders d).still = s.still := rfl

theorem still_applyInvalidation (s : State) (d p q) : (s.applyInvalidation d p q).still = s.still := by
  unfold State.applyInvalidation
  dsimp only
  split <;> simp [still_onL1, still_onDie, still_onHome]

theorem still_deliver (s : State) (d clk) : (s.deliver d clk).still = s.still := by
  unfold State.deliver
  refine still_takeFlight (still_each (fun t i => ?_) s _) fun i hi => ?_
  · split
    · exact still_applyInvalidation _ _ _ _
    · rfl
  · obtain ⟨m, rfl⟩ | ⟨m, rfl⟩ | ⟨m, rfl⟩ := latchMsg_cases hi <;> rfl

theorem still_receive (s : State) (d clk) : (s.receive d clk).still = s.still := by
  unfold State.receive
  split
  · exact (still_onDie _ _ _).trans (still_deliver _ _ _)
  · rfl

theorem still_stamp (s : State) (d) : (s.stamp d).2.still = s.still := by
  unfold State.stamp
  split
  · exact still_onDie _ _ _
  · rfl

theorem still_takeWords (s : State) (d p ws) : (s.takeWords d p ws).still = s.still :=
  (still_onL1 _ _ _ _).trans (still_onDie _ _ _)

theorem still_applyWords (s : State) (d st p ws) : (s.applyWords d st p ws).still = s.still := by
  unfold State.applyWords
  have hsends (t : State) (es : List (Nat × Nat)) : (t.each es fun s e => s.send (.invalidation e.1 p e.2 st)).still = t.still :=
    still_each (fun _ _ => still_send _ rfl) t es
  split
  · rfl
  · dsimp only
    split
    · exact hsends _ _
    · exact (still_each (fun _ _ => still_onL1 _ _ _ _) _ _).trans (hsends _ _)

theorem still_applyToHome (s : State) (d st p ws) : (s.applyToHome d st p ws).still = s.still :=
  (still_takeWords _ _ _ _).trans (still_applyWords _ _ _ _ _)

theorem still_addPoison (s : State) (line qs) : (s.addPoison line qs).still = s.still := still_onDie _ _ _

theorem still_addPortPoison (s : State) (loc q) : (s.addPortPoison loc q).still = s.still := by
  unfold State.addPortPoison
  split <;> rfl

theorem still_poisonBad (s : State) (loc w v) : (s.poisonBad loc w v).still = s.still := by
  unfold State.poisonBad
  repeat' split
  all_goals simp [still_addPoison, still_addPortPoison]

theorem still_dropHome (s : State) (p) : (s.dropHome p).still = s.still := by
  unfold State.dropHome
  have hdrops (t : State) (es : List (Nat × Nat)) :
      (t.each es fun s e => (s.deliver e.1 (s.secClock p e.2)).applyInvalidation e.1 p e.2).still = t.still :=
    still_each (fun _ _ => (still_applyInvalidation _ _ _ _).trans (still_deliver _ _ _)) t es
  have hleaves (t : State) (h : HomeLine) (hs : List HomeLine) :
      ({ (if h.bad.isEmpty then t else t.addPoison p (h.bad.map sectorOf)).setHbmLine p (packedLine h.words) with homes := hs } : State).still =
        t.still := by
    cases h.bad.isEmpty
    · exact still_addPoison t p (h.bad.map sectorOf)
    · rfl
  split
  · rfl
  · exact (hleaves _ _ _).trans (hdrops _ _)

theorem still_acked (s : State) (r) : (s.acked r).still = s.still := by
  unfold State.acked
  split
  · simp only [State.still_eq, stillOf, State.onGust, List.map_map, Prod.mk.injEq, and_true]
    refine List.map_congr_left fun g _ => ?_
    dsimp only [Function.comp]
    split <;> rfl
  · rfl

theorem still_zargenAck (s : State) (seq) : (s.zargenAck seq).still = s.still := by
  unfold State.zargenAck
  split
  · exact still_acked _ _
  · rfl

theorem still_ackWrite (s : State) (m) : (s.ackWrite m).still = s.still := by
  unfold State.ackWrite
  repeat' split
  · exact still_send _ rfl
  · exact still_acked _ _
  · exact still_zargenAck _ _
  · exact still_acked _ _
  · exact still_acked _ _

theorem still_endWrite (x : Answer Unit) (m) : (State.endWrite m x).still = x.2.still := by
  unfold State.endWrite
  refine (still_ackWrite _ _).trans ?_
  obtain ⟨r, t⟩ := x
  cases r with
  | ok => rfl
  | error c =>
    dsimp only
    split
    · exact still_send _ rfl
    · rfl

theorem still_setPortLine (s : State) (loc bs) : (s.setPortLine loc bs).still = s.still := by
  unfold State.setPortLine
  split <;> rfl

theorem still_landPort (s : State) (m) : (s.landPort m).2.still = s.still := by
  unfold State.landPort
  split <;> simp [still_setPortLine]

/-- A write on its way is no latch message. -/
theorem behind_of_latchMsg (d : Nat) (loc : Loc) (i : Instr) (hi : latchMsg i = true) : (!behind d loc i) = true := by
  obtain ⟨m, rfl⟩ | ⟨m, rfl⟩ | ⟨m, rfl⟩ := latchMsg_cases hi <;> rfl

theorem still_flushPort (s : State) (d loc) : (s.flushPort d loc).still = s.still := by
  unfold State.flushPort
  refine (still_each (fun t i => ?_) _ _).trans (still_takeFlight rfl (behind_of_latchMsg d loc))
  split
  · exact (still_endWrite _ _).trans (still_landPort _ _)
  · rfl

theorem still_overtake (s : State) (d p ws) : (s.overtake d p ws).still = s.still := by
  unfold State.overtake
  refine still_takeFlight (still_each (fun t i => ?_) s _) fun i hi => ?_
  · split
    · exact still_acked _ _
    · rfl
  · obtain ⟨m, rfl⟩ | ⟨m, rfl⟩ | ⟨m, rfl⟩ := latchMsg_cases hi <;> rfl

theorem still_writeBackWords (s : State) (d loc ws ctx) : (s.writeBackWords d loc ws ctx).still = s.still := by
  unfold State.writeBackWords
  split
  · rfl
  · split
    · have hsent := fun p => (still_stamp (s.overtake d p (ws.map (·.1))) d).trans (still_overtake s d p (ws.map (·.1)))
      dsimp only
      split
      · exact (still_applyToHome _ _ _ _ _).trans (hsent _)
      · split
        · split
          · exact hsent _
          · exact (still_each (fun _ _ => still_onL1 _ _ _ _) _ _).trans (hsent _)
        · exact hsent _
        · exact (still_send _ rfl).trans (hsent _)
    · rfl
    · have hsent := (still_stamp (s.flushPort d loc) d).trans (still_flushPort s d loc)
      dsimp only
      split
      · exact (still_setPortLine _ _ _).trans hsent
      · split
        · exact (still_send _ rfl).trans hsent
        · exact hsent

theorem still_writeBackOne (s : State) (d loc w v) : (s.writeBackOne d loc w v).still = s.still := by
  unfold State.writeBackOne
  dsimp only
  repeat' split
  all_goals simp [still_poisonBad, still_onL1, still_writeBackWords, still_note]

theorem still_writeBack (s : State) (d loc q) : (s.writeBack d loc q).still = s.still := by
  unfold State.writeBack
  dsimp only
  repeat' split
  all_goals simp [still_each, still_writeBackOne, still_poisonBad, still_onL1, still_writeBackWords, still_note]

theorem still_publish (s : State) (d p q) : (s.publish d p q).still = s.still := by
  unfold State.publish
  dsimp only
  repeat' split
  all_goals simp [still_each, still_writeBack, still_onDie]

theorem still_recall (s : State) (p) : (s.recall p).still = s.still := by
  unfold State.recall
  split <;> simp [still_dropHome, still_each, still_publish]

theorem still_l2Room (s : State) (k) : (s.l2Room k).still = s.still := by
  unfold State.l2Room
  dsimp only
  repeat' split
  all_goals simp [still_recall, still_settleHolders, still_onDie]

theorem still_homeFill (s : State) (p ev) : (s.homeFill p ev).2.still = s.still := by
  unfold State.homeFill
  split
  · rfl
  · split
    · exact (State.still_eq _).trans (still_l2Room _ _)
    · rfl
    · rfl

theorem still_evictL1 (s : State) (d loc) : (s.evictL1 d loc).still = s.still := by
  unfold State.evictL1
  simp [still_each, still_writeBack, still_settleHolders, still_onDie]

theorem still_l1Touch (s : State) (d loc ev) : (s.l1Touch d loc ev).still = s.still := by
  unfold State.l1Touch
  dsimp only
  split
  · exact still_onL1 _ _ _ _
  · refine (still_onDie _ _ _).trans ?_
    repeat' split
    · rfl
    · exact (still_evictL1 _ _ _).trans rfl
    · rfl

theorem still_l1Install (s : State) (d loc q ws ev) : (s.l1Install d loc q ws ev).still = s.still := by
  unfold State.l1Install
  dsimp only
  split
  · exact (still_addHolder _ _ _ _).trans ((still_onL1 _ _ _ _).trans (still_l1Touch _ _ _ _))
  · exact (still_onL1 _ _ _ _).trans (still_l1Touch _ _ _ _)

theorem still_storeMiss (s : State) (d a ev) : (s.storeMiss d a ev).2.still = s.still := by
  unfold State.storeMiss
  grind [still_homeFill]

theorem still_nearInstall (s : State) (d p q ws ev) : (s.nearInstall d p q ws ev).still = s.still := by
  unfold State.nearInstall
  dsimp only
  split
  · exact (still_onDie _ _ _).trans rfl
  · exact (still_onDie _ _ _).trans ((still_l2Room _ _).trans rfl)

theorem still_nearHit (s : State) (d p ev) : (s.nearHit d p ev).still = s.still := (still_onDie _ _ _).trans rfl

theorem still_landWrite (s : State) (m) : (s.landWrite m).2.still = s.still := by
  unfold State.landWrite
  split
  · split
    · rfl
    · split
      · next he => exact (still_applyWords _ _ _ _ _).trans (still_of_eq he (still_homeFill _ _ _))
      · next he => exact still_of_eq he (still_homeFill _ _ _)
  · rfl
  · exact still_landPort _ _

theorem still_flushLoc (s : State) (d loc) : (s.flushLoc d loc).still = s.still := by
  unfold State.flushLoc
  split
  · refine (still_each (fun t i => ?_) _ _).trans (still_takeFlight rfl (behind_of_latchMsg d _))
    split
    · exact (still_endWrite _ _).trans (still_landWrite _ _)
    · rfl
  · exact still_flushPort _ _ _

theorem still_fetchSector (s : State) (d p q ev) : (s.fetchSector d p q ev).2.still = s.still := by
  unfold State.fetchSector
  grind [still_nearHit, still_flushLoc, still_homeFill, still_receive, still_nearInstall, still_addHolder]

theorem still_belowL1 (s : State) (d loc q ev) : (s.belowL1 d loc q ev).2.still = s.still := by
  unfold State.belowL1
  dsimp only
  repeat' split
  all_goals simp [still_fetchSector, still_flushLoc]

theorem still_readBelow (s : State) (d a ev) : (s.readBelow d a ev).2.still = s.still := by
  unfold State.readBelow
  split
  · rfl
  · split
    · next he => exact still_of_eq he (still_belowL1 _ _ _ _ _)
    · next he => exact still_of_eq he (still_belowL1 _ _ _ _ _)

theorem still_readWide (s : State) (d a ev) : (s.readWide d a ev).2.still = s.still := by
  unfold State.readWide
  grind [still_flushLoc, still_homeFill, still_publish, still_receive, still_readBelow]

theorem still_writeAtHome (s : State) (d a v ev) : (s.writeAtHome d a v ev).2.still = s.still := by
  unfold State.writeAtHome
  grind [still_flushLoc, still_homeFill, still_stamp, still_applyToHome, still_setPortLine]

theorem still_writeBackOlder (s : State) (d) : (s.writeBackOlder d).still = s.still := by
  unfold State.writeBackOlder
  simp [still_each, still_writeBackOne]

theorem still_updateHome (s : State) (d a ev f) : (s.updateHome d a ev f).2.still = s.still := by
  unfold State.updateHome
  extract_lets q s1 s2
  have h1 : s1.still = s.still := by
    unfold s1
    split
    · exact (still_settleHolders _ _).trans ((still_onDie _ _ _).trans ((still_onL1 _ _ _ _).trans
        ((still_writeBack _ _ _ _).trans (still_writeBackOlder _ _))))
    · rfl
  have h2 : s2.still = s.still := (still_flushLoc _ _ _).trans h1
  clear_value s2
  split <;> grind [still_homeFill, still_publish, still_receive, still_stamp, still_applyToHome, still_setPortLine]

theorem still_walkFrom (s : State) (d ctx line n k x) : (s.walkFrom d ctx line n k x).2.still = s.still := by
  induction n generalizing s d ctx line k x with
  | zero => rfl
  | succ n ih =>
    unfold State.walkFrom
    grind [still_readWide, still_onDie]

theorem still_walk (s : State) (d ctx x) : (s.walk d ctx x).2.still = s.still := by
  unfold State.walk
  dsimp only
  split <;> simp [still_walkFrom]

theorem still_queuePageIn (s : State) (ctx record entry) : (s.queuePageIn ctx record entry).still = s.still := by
  unfold State.queuePageIn
  dsimp only
  split <;> rfl

theorem still_startFill (s : State) (d core ctx entry w0 w1 x) : (s.startFill d core ctx entry w0 w1 x).still = s.still := by
  unfold State.startFill
  split
  · rfl
  · split
    · next he => exact still_of_eq he (still_updateHome _ _ _ _ _)
    · next he =>
      have ht := still_of_eq he (still_updateHome _ _ _ _ _)
      split
      · exact (still_queuePageIn _ _ _ _).trans ht
      · exact (still_send _ rfl).trans ht

theorem still_sysTranslate (s : State) (ctx x write) : (s.sysTranslate ctx x write).2.still = s.still := by
  unfold State.sysTranslate
  grind [still_walk, still_startFill, State.still_eq]

theorem still_sysRead (s : State) (ctx x) : (s.sysRead ctx x).2.still = s.still := by
  unfold State.sysRead
  grind [still_sysTranslate, still_readWide]

theorem still_sysWrite (s : State) (ctx x v) : (s.sysWrite ctx x v).2.still = s.still := by
  unfold State.sysWrite
  grind [still_sysTranslate, still_writeAtHome]

theorem still_sysReads (s : State) (ctx x n) : (s.sysReads ctx x n).2.still = s.still := by
  induction n generalizing s ctx x with
  | zero => rfl
  | succ n ih =>
    unfold State.sysReads
    grind [still_sysRead]

theorem still_sysPuts (s : State) (ctx xs) : (s.sysPuts ctx xs).2.still = s.still := by
  induction xs generalizing s ctx with
  | nil => rfl
  | cons x xs ih =>
    unfold State.sysPuts
    grind [still_sysWrite]

theorem still_signal (s : State) (ctx v) : (s.signal ctx v).still = s.still := by
  unfold State.signal
  split <;> rfl

theorem still_logTry (s : State) (ctx rec) : (s.logTry ctx rec).2.still = s.still := by
  unfold State.logTry
  grind [still_sysReads, still_sysPuts, still_sysWrite, still_signal]

/-- A record in the fault log (R406 to R408). -/
theorem still_logRecord (s : State) (ctx rec) : (s.logRecord ctx rec).still = s.still := by
  have htry : (s.under [0, s.serial] fun s => s.logTry ctx rec).2.still = s.still :=
    (still_logTry { s with hand := [0, s.serial] } ctx rec).trans rfl
  unfold State.logRecord State.logRecordAs
  split
  · next he => exact still_of_eq he htry
  · next he => exact (still_of_eq he htry : _)

section
variable {s t : State} (h : t.still = s.still)
include h

theorem heads_of_still : t.heads = s.heads := (Prod.ext_iff.1 (Prod.ext_iff.1 h).2).1

theorem dies_of_still : t.dies.length = s.dies.length := (Prod.ext_iff.1 (Prod.ext_iff.1 (Prod.ext_iff.1 h).2).2).2

/-- The latch messages on their way. -/
theorem mem_flight_of_still {i : Instr} (hi : latchMsg i = true) (hs : i ∈ s.flight) : i ∈ t.flight := by
  have hf : t.flight.filter latchMsg = s.flight.filter latchMsg := (Prod.ext_iff.1 (Prod.ext_iff.1 (Prod.ext_iff.1 h).2).2).1
  have hmem : i ∈ t.flight.filter latchMsg := hf ▸ List.mem_filter.2 ⟨hs, hi⟩
  exact (List.mem_filter.1 hmem).1

/-- A gust but for its count of unacknowledged writes. -/
theorem gust?_of_still {r : GustRef} {g : Gust} (hg : s.gust? r = some g) : ∃ n, t.gust? r = some { g with unacked := n } := by
  have hfind (u : State) : (u.gust? r).map Gust.sansUnacked = (u.gusts.map Gust.sansUnacked).find? fun g => g.ref == r := by
    rw [List.find?_map]
    rfl
  have hgusts : t.gusts.map Gust.sansUnacked = s.gusts.map Gust.sansUnacked := (Prod.ext_iff.1 h).1
  have hsame := (hfind t).trans ((congrArg _ hgusts).trans (hfind s).symm)
  rw [hg] at hsame
  obtain ⟨k, hk, hkg⟩ := Option.map_eq_some_iff.1 hsame
  have hback : k = { k.sansUnacked with unacked := k.unacked } := rfl
  exact ⟨k.unacked, by rw [hk, hback, hkg]; rfl⟩

end

end Sys2Proof.Machine
end

section
/-! The accesses of memory by the hardware see neither the stores that are on their way to an L1 slice (R239) nor the gusts: what they do
to a state without these is what they do to the state, and the words they read are the same. One lemma `bare_f` for each operation `f` of
the caches and the walker that a read of the hardware uses (R279, R303, R480). -/

namespace Sys2Proof.Machine

/-- A store on its way to the L1 slice of its die. -/
def narrowStore : Instr → Bool
  | .homeApplyWrite m => m.narrow
  | _ => false

/-- The state without its gusts and without the stores on their way to L1 slices. -/
def State.bare (s : State) : State := { s with gusts := [], flight := s.flight.filter fun i => !narrowStore i }

/-- An answer, and the state after it without its gusts and those stores. -/
def Answer.bare {α : Type} (x : α × State) : α × State := (x.1, x.2.bare)

theorem narrowStore_cases {i : Instr} (hi : narrowStore i = true) : ∃ m, i = .homeApplyWrite m ∧ m.narrow = true := by
  unfold narrowStore at hi
  split at hi
  · exact ⟨_, rfl, hi⟩
  · exact absurd hi (by decide)

theorem behind_narrowStore (d : Nat) (loc : Loc) {i : Instr} (hi : narrowStore i = true) : behind d loc i = false := by
  obtain ⟨m, rfl, hm⟩ := narrowStore_cases hi
  simp [behind, hm]

theorem bare_each {α : Type} {f : State → α → State} (hf : ∀ t x, (f t x).bare = f t.bare x) (s : State) (xs : List α) :
    (s.each xs f).bare = s.bare.each xs f := by
  induction xs generalizing s with
  | nil => rfl
  | cons x xs ih => exact (ih (f s x)).trans (congrArg (State.each · xs f) (hf s x))

section
variable {p : Instr → Bool} (hp : ∀ i, narrowStore i = true → p i = false)
  {f : State → Instr → State} (hf : ∀ t i, (f t i).bare = f t.bare i)
include hp

theorem bare_flight_filter (s : State) : s.bare.flight.filter p = s.flight.filter p := by
  rw [State.bare, List.filter_filter]
  refine List.filter_congr fun i _ => ?_
  cases hi : narrowStore i with
  | false => simp
  | true => simp [hp i hi]

include hf

/-- Messages that are delivered and then taken from the flight. -/
theorem bare_takeAfter (s : State) :
    ({ s.each (s.flight.filter p) f with flight := s.flight.filter fun i => !p i } : State).bare =
      { s.bare.each (s.bare.flight.filter p) f with flight := s.bare.flight.filter fun i => !p i } := by
  rw [bare_flight_filter hp, ← bare_each hf]
  simp only [State.bare, List.filter_filter, Bool.and_comm]

/-- Messages that are taken from the flight and then delivered. -/
theorem bare_takeBefore (s : State) :
    (({ s with flight := s.flight.filter fun i => !p i } : State).each (s.flight.filter p) f).bare =
      ({ s.bare with flight := s.bare.flight.filter fun i => !p i } : State).each (s.bare.flight.filter p) f := by
  rw [bare_flight_filter hp, bare_each hf]
  simp only [State.bare, List.filter_filter, Bool.and_comm]

end

theorem bare_send (s : State) {i : Instr} (hi : narrowStore i = false) : (s.send i).bare = s.bare.send i := by
  simp [State.bare, State.send, hi]

theorem bare_applyInvalidation (s : State) (d p q) : (s.applyInvalidation d p q).bare = s.bare.applyInvalidation d p q :=
  (apply_ite State.bare _ _ _).trans rfl

theorem bare_deliver (s : State) (d clk) : (s.deliver d clk).bare = s.bare.deliver d clk := by
  refine bare_takeAfter (fun i hi => ?_) (fun t i => ?_) s
  · obtain ⟨m, rfl, -⟩ := narrowStore_cases hi
    rfl
  · split
    · exact bare_applyInvalidation _ _ _ _
    · rfl

theorem bare_receive (s : State) (d clk) : (s.receive d clk).bare = s.bare.receive d clk := by
  unfold State.receive
  split
  · rw [← bare_deliver]
    rfl
  · rfl

theorem bare_stamp (s : State) (d) : s.bare.stamp d = Answer.bare (s.stamp d) := by
  unfold State.stamp
  split <;> rfl

theorem bare_applyWords (s : State) (d st p ws) : (s.applyWords d st p ws).bare = s.bare.applyWords d st p ws := by
  have hsends (t : State) (es : List (Nat × Nat)) : (t.each es fun s e => s.send (.invalidation e.1 p e.2 st)).bare =
      t.bare.each es fun s e => s.send (.invalidation e.1 p e.2 st) :=
    bare_each (fun _ _ => bare_send _ rfl) t es
  have hmarks (t : State) (qs : List Nat) : (t.each qs fun s q => s.onL1 (homeDie p) (.dev p) fun x => x.markStale q).bare =
      t.bare.each qs fun s q => s.onL1 (homeDie p) (.dev p) fun x => x.markStale q :=
    bare_each (fun _ _ => rfl) t qs
  unfold State.applyWords
  rw [show s.bare.home? p = s.home? p from rfl]
  cases s.home? p with
  | none => rfl
  | some h =>
    dsimp only
    split
    · exact hsends _ _
    · exact (hmarks _ _).trans (congrArg (State.each · _ _) (hsends _ _))

theorem bare_takeWords (s : State) (d p ws) : (s.takeWords d p ws).bare = s.bare.takeWords d p ws := rfl

theorem bare_applyToHome (s : State) (d st p ws) : (s.applyToHome d st p ws).bare = s.bare.applyToHome d st p ws := by
  rw [State.applyToHome, bare_takeWords, bare_applyWords]
  rfl

theorem bare_poisonBad (s : State) (loc w v) : (s.poisonBad loc w v).bare = s.bare.poisonBad loc w v := by
  have hport (q : Nat) : (s.addPortPoison loc q).bare = s.bare.addPortPoison loc q := (apply_ite State.bare _ _ _).trans rfl
  unfold State.poisonBad
  split
  · rfl
  · split
    · rfl
    · rfl
    · exact hport _

theorem bare_dropHome (s : State) (p) : (s.dropHome p).bare = s.bare.dropHome p := by
  have hdrops (t : State) (es : List (Nat × Nat)) :
      (t.each es fun s e => (s.deliver e.1 (s.secClock p e.2)).applyInvalidation e.1 p e.2).bare =
        t.bare.each es fun s e => (s.deliver e.1 (s.secClock p e.2)).applyInvalidation e.1 p e.2 :=
    bare_each (fun t e => by rw [bare_applyInvalidation, bare_deliver]; rfl) t es
  unfold State.dropHome
  rw [show s.bare.home? p = s.home? p from rfl]
  cases s.home? p with
  | none => rfl
  | some h =>
    dsimp only
    rw [← hdrops]
    split <;> rfl

theorem bare_acked (s : State) (r) : (s.acked r).bare = s.bare.acked r := by
  cases r <;> rfl

theorem bare_zargenAck (s : State) (seq) : (s.zargenAck seq).bare = s.bare.zargenAck seq := by
  unfold State.zargenAck
  rw [show s.bare.outstanding = s.outstanding from rfl]
  split
  · exact bare_acked _ _
  · rfl

theorem bare_ackWrite (s : State) (m) : (s.ackWrite m).bare = s.bare.ackWrite m := by
  have hawaited (dest line : Nat) : s.bare.awaited m.src dest line = s.awaited m.src dest line := rfl
  unfold State.ackWrite
  simp only [hawaited]
  repeat' split
  · exact bare_send _ rfl
  · exact bare_acked _ _
  · exact bare_zargenAck _ _
  · exact bare_acked _ _
  · exact bare_acked _ _

theorem bare_endWrite (x : Answer Unit) (m) : (State.endWrite m x).bare = State.endWrite m (Answer.bare x) := by
  obtain ⟨r, t⟩ := x
  cases r with
  | ok => exact bare_ackWrite t m
  | error c =>
    unfold State.endWrite
    rw [bare_ackWrite]
    dsimp only [Answer.bare]
    split
    · rw [bare_send _ rfl]
    · rfl

theorem bare_setPortLine (s : State) (loc bs) : (s.setPortLine loc bs).bare = s.bare.setPortLine loc bs := by
  cases loc <;> rfl

theorem bare_landPort (s : State) (m) : s.bare.landPort m = Answer.bare (s.landPort m) := by
  unfold State.landPort
  rw [show s.bare.portWords m.loc [sectorOf m.word] = s.portWords m.loc [sectorOf m.word] from rfl]
  split
  · rw [← bare_setPortLine]
    rfl
  · rfl

theorem bare_flushPort (s : State) (d loc) : (s.flushPort d loc).bare = s.bare.flushPort d loc := by
  refine bare_takeBefore (fun i => behind_narrowStore d loc) (fun t i => ?_) s
  split
  · rw [bare_endWrite, bare_landPort]
  · rfl

theorem bare_overtake (s : State) (d p ws) : (s.overtake d p ws).bare = s.bare.overtake d p ws := by
  refine bare_takeAfter (fun i hi => ?_) (fun t i => ?_) s
  · obtain ⟨m, rfl, hm⟩ := narrowStore_cases hi
    simp [hm]
  · split
    · exact bare_acked _ _
    · rfl

theorem bare_writeBackWords (s : State) (d loc ws ctx) : (s.writeBackWords d loc ws ctx).bare = s.bare.writeBackWords d loc ws ctx := by
  unfold State.writeBackWords
  split
  · rfl
  · split
    · next p =>
      rw [← bare_overtake]
      generalize s.overtake d p (ws.map (·.1)) = t
      dsimp only
      rw [bare_stamp]
      dsimp only [Answer.bare]
      rw [show (t.stamp d).2.bare.home? p = (t.stamp d).2.home? p from rfl, show t.bare.poisoned = t.poisoned from rfl,
        show (t.stamp d).2.bare.hbmLine p = (t.stamp d).2.hbmLine p from rfl]
      generalize (t.stamp d).2 = u
      split
      · exact bare_applyToHome _ _ _ _ _
      · split
        · split
          · rfl
          · exact bare_each (fun _ _ => rfl) _ _
        · rfl
        · exact bare_send _ rfl
    · rfl
    · rw [← bare_flushPort]
      generalize s.flushPort d loc = t
      dsimp only
      rw [bare_stamp]
      dsimp only [Answer.bare]
      generalize (t.stamp d).2 = u
      rw [show u.bare.portWords loc [] = u.portWords loc [] from rfl]
      split
      · exact bare_setPortLine _ _ _
      · split
        · exact bare_send _ rfl
        · rfl

theorem bare_writeBackOne (s : State) (d loc w v) : (s.writeBackOne d loc w v).bare = s.bare.writeBackOne d loc w v := by
  have hpoison : ((s.onL1 d loc fun x => x.clean [w]).poisonBad loc w v).bare = (s.bare.onL1 d loc fun x => x.clean [w]).poisonBad loc w v :=
    bare_poisonBad _ _ _ _
  unfold State.writeBackOne
  rw [← hpoison]
  generalize (s.onL1 d loc fun x => x.clean [w]).poisonBad loc w v = t
  have hwords : (if v.bad then t.bare else t.bare.writeBackWords d loc [(w, v.val)] v.by_) =
      (if v.bad then t else t.writeBackWords d loc [(w, v.val)] v.by_).bare := by
    rw [← bare_writeBackWords]
    exact (apply_ite State.bare _ _ _).symm
  dsimp only
  rw [hwords]
  generalize (if v.bad then t else t.writeBackWords d loc [(w, v.val)] v.by_) = u
  rw [show u.bare.l1? d loc = u.l1? d loc from rfl]
  split
  · split <;> rfl
  · rfl

theorem bare_writeBack (s : State) (d loc q) : (s.writeBack d loc q).bare = s.bare.writeBack d loc q := by
  unfold State.writeBack
  rw [show s.bare.l1? d loc = s.l1? d loc from rfl, show s.bare.die = s.die from rfl]
  cases s.l1? d loc with
  | none => rfl
  | some x =>
    dsimp only
    split
    · rfl
    · rw [← bare_each fun t e => bare_writeBackOne t d e.2.1 e.2.2.1 e.2.2.2]
      generalize s.each _ _ = t
      rw [show t.bare.l1? d loc = t.l1? d loc from rfl, ← bare_each fun t e => bare_poisonBad t loc e.1 e.2]
      generalize t.each _ _ = u
      generalize ((t.l1? d loc).elim [] fun x => x.words.filter fun t => sectorOf t.1 == q && t.2.dirty.isSome) = own
      have hwords (ws : List (Nat × Word)) (by_ : Nat) := bare_writeBackWords (u.onL1 d loc fun x => x.clean (own.map (·.1))) d loc ws by_
      split
      · exact congrArg (fun t : State => t.note d _ q false) (hwords _ _)
      · exact hwords _ _

theorem bare_publish (s : State) (d p q) : (s.publish d p q).bare = s.bare.publish d p q := by
  unfold State.publish
  rw [show s.bare.home? p = s.home? p from rfl]
  cases s.home? p with
  | none => rfl
  | some h =>
    dsimp only
    rw [← bare_each fun t k => bare_writeBack t k (.dev p) q]
    exact (apply_ite State.bare _ _ _).trans rfl

theorem bare_recall (s : State) (p) : (s.recall p).bare = s.bare.recall p := by
  unfold State.recall
  rw [show s.bare.home? p = s.home? p from rfl]
  cases s.home? p with
  | none => rfl
  | some h =>
    dsimp only
    rw [bare_dropHome, bare_each fun t q => bare_publish t 99 p q]

theorem bare_l2Room (s : State) (k) : (s.l2Room k).bare = s.bare.l2Room k := by
  unfold State.l2Room
  rw [show s.bare.l2Set k = s.l2Set k from rfl]
  dsimp only
  split
  · rfl
  · split
    · exact bare_recall _ _
    · rfl
    · rfl

theorem bare_homeFill (s : State) (p ev) : s.bare.homeFill p ev = Answer.bare (s.homeFill p ev) := by
  unfold State.homeFill
  rw [show s.bare.home? p = s.home? p from rfl, show s.bare.hbmLine p = s.hbmLine p from rfl]
  cases s.home? p with
  | some h => rfl
  | none =>
    dsimp only
    split
    · rw [← bare_l2Room]
      rfl
    · rfl
    · rfl

theorem bare_landWrite (s : State) (m) : s.bare.landWrite m = Answer.bare (s.landWrite m) := by
  unfold State.landWrite
  split
  · next p hp =>
    rw [show s.bare.poisoned = s.poisoned from rfl, bare_homeFill]
    obtain ⟨r, t⟩ := s.homeFill p m.ev
    dsimp only [Answer.bare]
    split
    · rfl
    · cases r with
      | ok => exact congrArg (Prod.mk _) (bare_applyWords _ _ _ _ _).symm
      | error c => rfl
  · rfl
  · exact bare_landPort _ _

theorem bare_flushLoc (s : State) (d loc) : (s.flushLoc d loc).bare = s.bare.flushLoc d loc := by
  unfold State.flushLoc
  split
  · refine bare_takeBefore (fun i => behind_narrowStore d _) (fun t i => ?_) s
    split
    · rw [State.finishWrite, bare_endWrite, ← bare_landWrite]
      rfl
    · rfl
  · exact bare_flushPort _ _ _

/-- A read of a line behind a rim port by a rim die (R424, R427). -/
theorem bare_readBelow_port (s : State) (d a ev) (ha : ∀ p, a.loc ≠ .dev p) : s.bare.readBelow d a ev = Answer.bare (s.readBelow d a ev) := by
  have hbelow : s.bare.belowL1 d a.loc (sectorOf a.word) ev = Answer.bare (s.belowL1 d a.loc (sectorOf a.word) ev) := by
    unfold State.belowL1
    split
    · next p hp => exact absurd hp (ha p)
    · rfl
    · dsimp only
      rw [← bare_flushLoc]
      generalize s.flushLoc d a.loc = t
      rw [show t.bare.portWords a.loc [sectorOf a.word] = t.portWords a.loc [sectorOf a.word] from rfl]
      split <;> rfl
  unfold State.readBelow
  rw [show s.bare.l1Hit d a = s.l1Hit d a from rfl]
  split
  · rfl
  · rw [hbelow]
    obtain ⟨r, t⟩ := s.belowL1 d a.loc (sectorOf a.word) ev
    cases r <;> rfl

theorem bare_readWide (s : State) (d a ev) : s.bare.readWide d a ev = Answer.bare (s.readWide d a ev) := by
  unfold State.readWide
  split
  · next p hp =>
    dsimp only
    rw [← bare_flushLoc]
    generalize s.flushLoc d (.dev p) = t
    rw [show t.bare.poisoned = t.poisoned from rfl, bare_homeFill]
    split
    · rfl
    · obtain ⟨r, u⟩ := t.homeFill p ev
      cases r with
      | error c => rfl
      | ok ws =>
        dsimp only [Answer.bare]
        rw [← bare_publish]
        generalize u.publish d p (sectorOf a.word) = v
        rw [show v.bare.home? p = v.home? p from rfl, show v.bare.secClock = v.secClock from rfl, ← bare_receive]
        cases v.home? p with
        | none => rfl
        | some h =>
          dsimp only
          generalize v.receive d (v.secClock p (sectorOf a.word)) = z
          rw [show z.bare.l1Hit d a = z.l1Hit d a from rfl]
          split <;> rfl
  · next ha => exact bare_readBelow_port s d a (-4) ha

theorem bare_walkFrom (s : State) (d ctx line n node cap) :
    s.bare.walkFrom d ctx line n node cap = Answer.bare (s.walkFrom d ctx line n node cap) := by
  induction n generalizing s node cap with
  | zero => rfl
  | succ v ih =>
    unfold State.walkFrom
    rw [show s.bare.die = s.die from rfl, show s.bare.ptime = s.ptime from rfl, show s.bare.rawNode = s.rawNode from rfl]
    dsimp only
    split
    · exact ih _ _ _
    · split
      · rfl
      · rw [bare_readWide]
        obtain ⟨r, t⟩ := s.readWide d (physWord (node + 2 * walkIndex line (v + 1))) 0
        cases r with
        | error c => rfl
        | ok w0 =>
          dsimp only [Answer.bare]
          rw [bare_readWide]
          obtain ⟨r, u⟩ := t.readWide d (physWord (node + 2 * walkIndex line (v + 1) + 1)) 0
          cases r with
          | error c => rfl
          | ok w1 =>
            dsimp only [Answer.bare]
            split
            · rfl
            · split
              · exact ih (u.onDie d _) _ _
              · rfl

theorem bare_walk (s : State) (d ctx x) : s.bare.walk d ctx x = Answer.bare (s.walk d ctx x) := by
  unfold State.walk
  dsimp only
  rw [show s.bare.context = s.context from rfl]
  split
  · rfl
  · exact bare_walkFrom _ _ _ _ _ _ _

/-- A translation of the hardware answers the same, and one that gives a place leaves the same state (R480). -/
theorem sysTranslate_bare (s : State) (ctx x write) : (s.bare.sysTranslate ctx x write).1 = (s.sysTranslate ctx x write).1 ∧
    ∀ p, (s.sysTranslate ctx x write).1 = .ok p → (s.bare.sysTranslate ctx x write).2 = (s.sysTranslate ctx x write).2.bare := by
  unfold State.sysTranslate
  split
  · exact ⟨rfl, fun _ _ => rfl⟩
  · rw [bare_walk]
    obtain ⟨r, t⟩ := s.walk 9 ctx x
    cases r with
    | bad => exact ⟨rfl, fun _ _ => rfl⟩
    | leaf v entry w0 w1 cap =>
      dsimp only [Answer.bare]
      rw [show t.bare.sysWaits = t.sysWaits from rfl, show t.bare.hand = t.hand from rfl]
      generalize List.find? _ t.sysWaits = wait
      split
      · exact ⟨rfl, fun _ _ => rfl⟩
      · split
        · cases wait.bind SysWait.cause with
          | some c => exact ⟨rfl, fun _ _ => rfl⟩
          | none => exact ⟨rfl, fun _ h => nomatch h⟩
        · cases leafCheck w0 write true <;> exact ⟨rfl, fun _ _ => rfl⟩

/-- The word that the hardware reads (R480). -/
theorem sysRead_bare (s : State) (ctx x) : (s.bare.sysRead ctx x).1 = (s.sysRead ctx x).1 := by
  obtain ⟨hans, hstate⟩ := sysTranslate_bare s ctx x false
  unfold State.sysRead
  generalize s.bare.sysTranslate ctx x false = x', s.sysTranslate ctx x false = y at hans hstate
  obtain ⟨a, t⟩ := y
  obtain ⟨a', t'⟩ := x'
  obtain rfl : a' = a := hans
  cases a' with
  | fault c d => rfl
  | wait e => rfl
  | ok p =>
    obtain rfl : t' = t.bare := hstate p rfl
    dsimp only
    rw [bare_readWide]
    obtain ⟨r, u⟩ := t.readWide 9 p 0
    cases r <;> rfl

/-- The record of a gust's instruction (R397) is read from the rest of the state. -/
theorem mkRec_bare (s : State) (g cls cause step lane detail) :
    s.bare.mkRec g cls cause step lane detail = s.mkRec g cls cause step lane detail := by
  have hpc : s.bare.otherPc g = s.otherPc g := by
    have hread (ctx : Nat) (x : Int) : ∃ a t u, s.sysRead ctx x = (a, t) ∧ s.bare.sysRead ctx x = (a, u) :=
      ⟨_, _, (s.bare.sysRead ctx x).2, rfl, congrArg (·, (s.bare.sysRead ctx x).2) (sysRead_bare s ctx x)⟩
    unfold State.otherPc
    rw [show s.bare.squall? = s.squall? from rfl, show s.bare.image? = s.image? from rfl]
    split
    · next n q _ _ =>
      cases s.image? q.image with
      | none => rfl
      | some im =>
        dsimp only
        obtain ⟨a, t, u, h1, h2⟩ := hread q.ctx im.dir
        obtain ⟨b, v, w, h3, h4⟩ := hread q.ctx (im.dir + 4 * Int.ofNat n + (if q.isD then 1 else 2))
        rw [h1, h2, h3, h4]
        cases a <;> cases b <;> rfl
    · rfl
  unfold State.mkRec
  rw [hpc]
  rfl

end Sys2Proof.Machine
end

section
/-! O26: a store at its L1 slice (R239, R242, R276, R278). -/

namespace Sys2Proof.Machine

section
variable {s t : State} {d : Nat} {a : WLoc} {x : L1Line}

/-- A line that L1 holds stays there as it is used (R245). -/
theorem State.l1Touch_line {loc : Loc} (hx : s.l1? d loc = some x) (ev : Int) :
    s.l1Touch d loc ev = s.fresh.2.onL1 d loc fun x => { x with prio := hitPrio x.prio ev, used := s.serial } := by
  have hx' : s.fresh.2.l1? d loc = some x := hx
  simp only [State.l1Touch, hx']
  rfl

/-- A line put into an L1 slice is there. -/
theorem State.l1?_append (hd : d < s.dies.length) (y : L1Line) :
    ∃ x, (s.onDie d fun x => { x with l1 := x.l1 ++ [y] }).l1? d y.loc = some x := by
  rw [State.l1?, State.die_onDie s d d _ hd, if_pos rfl]
  exact Option.isSome_iff_exists.1 (List.find?_isSome.2 ⟨y, List.mem_append_right _ (List.mem_singleton.2 rfl), beq_self_eq_true _⟩)

/-- A use of a line of an L1 slice leaves the line there (R236, R245). -/
theorem State.l1?_l1Touch (hd : d < s.dies.length) (loc : Loc) (ev : Int) : ∃ x, (s.l1Touch d loc ev).l1? d loc = some x := by
  have hstill : (s.l1Touch d loc ev).dies.length = s.dies.length := dies_of_still (still_l1Touch s d loc ev)
  cases hx : s.l1? d loc with
  | some x =>
    rw [State.l1Touch_line hx, State.l1?_onL1 (s := s.fresh.2) (f := fun x => { x with prio := hitPrio x.prio ev, used := s.serial }) hd
      fun _ h => h, if_pos ⟨rfl, rfl⟩]
    exact ⟨_, congrArg (Option.map _) hx⟩
  | none =>
    have hx' : s.fresh.2.l1? d loc = none := hx
    simp only [State.l1Touch, hx'] at hstill ⊢
    exact State.l1?_append (by rw [(dies_of_still (still_onDie _ _ _)).symm.trans hstill]; exact hd)
      { loc, words := [], stale := [], prio := ev, used := s.serial }

/-- A word put into the L1 line of its place (R239). -/
def State.setL1Word (s : State) (d : Nat) (a : WLoc) (n : CWord) : State :=
  s.onL1 d a.loc fun x => { x with words := insertAt x.words a.word n }

/-- A word put into a line that L1 holds is what the slice has of it (R239). -/
theorem State.l1Hit_setL1Word (hx : s.l1? d a.loc = some x) (n : CWord) : (s.setL1Word d a n).l1Hit d a = some n := by
  rw [State.setL1Word, State.l1Hit_onL1 (f := fun x => { x with words := insertAt x.words a.word n }) (State.lt_of_l1? hx) (fun _ h => h),
    if_pos ⟨rfl, rfl⟩, hx]
  simp [L1Line.get?, lookupAt_insertAt]

/-- A written word is put into the line that its write used; the rest of the write is at its home (R239, R242, R278). -/
theorem State.writeL1_put {u : State} {ctx : Nat} {v : Word} {ev : Int} {r : Unit} (hmiss : s.storeMiss d a ev = (.ok r, u)) :
    ∃ t, s.writeL1 ctx d a v ev = (.ok (), t) ∧ t.dies = ((u.l1Touch d a.loc ev).setL1Word d a
      { val := v, dirty := some ((u.l1Touch d a.loc ev).die d).epoch, by_ := ctx }).dies := by
  simp only [State.writeL1, hmiss]
  refine ⟨_, rfl, ?_⟩
  split <;> rfl

/-- The third part of O26. -/
theorem cachedAccessForms_readsBack : Claims.CacheWriteReadsBack := by
  intro s t ctx d a v ev hd hwrite
  have hlen := dies_of_still (still_storeMiss s d a ev)
  cases hmiss : s.storeMiss d a ev with | mk r u =>
  rw [hmiss] at hlen
  cases r with
  | error c => simp [State.writeL1, hmiss] at hwrite
  | ok r =>
    obtain ⟨x, hx⟩ := State.l1?_l1Touch (show d < u.dies.length from hlen ▸ hd) a.loc ev
    obtain ⟨t', hput, hdies⟩ := State.writeL1_put (ctx := ctx) (v := v) hmiss
    obtain rfl : t' = t := congrArg Prod.snd (hput.symm.trans hwrite)
    generalize u.l1Touch d a.loc ev = w at hx hdies
    have hepoch : (t'.die d).epoch = (w.die d).epoch := by
      rw [State.die, hdies]
      exact State.die_onDie_part Die.epoch w d d fun _ => rfl
    have hhit : t'.l1Hit d a = some { val := v, dirty := some (t'.die d).epoch, by_ := ctx, bad := false } := by
      rw [hepoch, ← State.l1Hit_setL1Word hx, State.l1Hit, State.l1?, State.die, hdies]
      rfl
    exact ⟨hhit, fun ev' hev => ⟨t'.l1Touch d a.loc ev', by simp [State.readRelaxed, hev, hhit]⟩⟩

theorem State.l1?_of_l1HoldsSector (h : s.l1HoldsSector d a = true) : ∃ x, s.l1? d a.loc = some x := by
  unfold State.l1HoldsSector at h
  cases hx : s.l1? d a.loc with
  | some x => exact ⟨x, rfl⟩
  | none => simp [hx] at h

/-- The use of a line that L1 holds changes no word (R245). -/
theorem cached_l1Touch_line {loc : Loc} (hx : s.l1? d loc = some x) (ev : Int) : Claims.Cached s (s.l1Touch d loc ev) d [] := by
  rw [State.l1Touch_line hx]
  refine ⟨rfl, fun k b _ => ?_, fun _ he => absurd he (by simp), fun _ => rfl⟩
  rw [State.l1Hit_onL1 (s := s.fresh.2) (f := fun x => { x with prio := hitPrio x.prio ev, used := s.serial }) (State.lt_of_l1? hx) fun _ h => h]
  split <;> rfl

/-- A dirty word put into a line that L1 holds changes no other word (R239). -/
theorem cached_setL1Word (hx : s.l1? d a.loc = some x) {n : CWord} (hdirty : n.dirty.isSome = true) (hbad : n.bad = false) :
    Claims.Cached s (s.setL1Word d a n) d [(a, n.val)] := by
  refine ⟨rfl, fun k b hb => ?_, fun e he => ?_, fun _ => rfl⟩
  · rw [State.setL1Word, State.l1Hit_onL1 (f := fun x => { x with words := insertAt x.words a.word n }) (State.lt_of_l1? hx) fun _ h => h]
    split
    · next hin =>
      obtain ⟨rfl, hloc⟩ := hin
      have hne : b.word ≠ a.word := fun hword => by
        have hba : a = b := by cases a; cases b; simp_all
        simp [hba] at hb
      simp [State.l1Hit, L1Line.get?, lookupAt_insertAt, hne]
    · rfl
  · obtain rfl := List.mem_singleton.1 he
    exact ⟨n, State.l1Hit_setL1Word hx n, hdirty, hbad, by simp⟩

/-- A word written into a sector that L1 holds (R239, R242, R278). -/
theorem State.writeL1_held (h : s.l1HoldsSector d a = true) (hh : Claims.AtHome s a.loc) (hw : ∀ k, a.loc ≠ .win k) (ctx : Nat) (v : Word)
    (ev : Int) : ∃ t, s.writeL1 ctx d a v ev = (.ok (), t) ∧ Claims.Cached s t d [(a, v)] := by
  obtain ⟨x, hx⟩ := State.l1?_of_l1HoldsSector h
  obtain ⟨x', hx'⟩ := State.l1?_l1Touch (State.lt_of_l1? hx) a.loc ev
  have hput := cached_trans (cached_l1Touch_line hx ev) (cached_setL1Word hx'
    (n := { val := v, dirty := some ((s.l1Touch d a.loc ev).die d).epoch, by_ := ctx }) rfl rfl)
  simp only [State.writeL1, State.storeMiss_held h hh hw ev]
  split
  · exact ⟨_, rfl, cached_addHolder (cached_note hput _ _ _) _ _⟩
  · exact ⟨_, rfl, hput⟩

/-- The second part of O26. -/
theorem cachedAccessForms_reachesL1 : Claims.StoreReachesL1 := by
  intro s m hnarrow hwin hheld hhome _
  obtain ⟨t, hwrite, hcached⟩ := State.writeL1_held hheld hhome hwin m.ctx m.val m.ev
  refine ⟨t, hcached, congrArg Host.Outcome.next ?_⟩
  simp [State.homeApplyWrite, hnarrow, hwrite]

end

end Sys2Proof.Machine
end

section
/-! O26: LD, ST, LDS and STS of words that an L1 slice holds (R238, R239, R252, R274, R284). -/

namespace Sys2Proof.Machine

section
variable {s : State} {g : Gust} {q : Squall} {m : MOps} {a : Nat → WLoc}

/-- A translated address is no window word (R304). -/
theorem leafPlace_ne_win (w0 w1 : Word) (x : Int) (k : Nat) : (leafPlace w0 w1 x).loc ≠ .win k := by
  unfold leafPlace
  dsimp only
  split
  · exact fun h => nomatch h
  · split <;> exact fun h => nomatch h

theorem Claims.At.ne_win {x : Int} {write : Bool} {w : WLoc} (h : Claims.At s g q x write w) (k : Nat) : w.loc ≠ .win k := by
  obtain ⟨-, -, e, -, -, rfl⟩ := h
  exact leafPlace_ne_win e.w0 e.w1 x k

/-- What the gust waits for is no part of how its instruction ends. -/
theorem Gust.SameCourse.loads (g : Gust) (ps : List PendLoad) : g.SameCourse { g with loads := ps } :=
  ⟨rfl, rfl, rfl, rfl, rfl, rfl, rfl, rfl, rfl⟩

theorem Gust.SameCourse.unacked (g : Gust) (n : Nat) : g.SameCourse { g with unacked := n } :=
  ⟨rfl, rfl, rfl, rfl, rfl, rfl, rfl, rfl, rfl⟩

/-! Loads. -/

/-- A relaxed load of a word that L1 holds is on its way to it (R238, R244). -/
theorem State.loadOf_hit (hm : m.ord = .rlx) (hev : m.ev ≠ -4) {b : WLoc} {v : CWord} (hhit : s.l1Hit (dieOf q.core) b = some v)
    (hbad : v.bad = false) (lease : Nat) : s.loadOf g q m (.mem b lease) = (.pend b v.val lease, s) := by
  have hserves : (m.ev != -4 || v.dirty.isSome) = true := by simp [hev]
  simp [State.loadOf, hm, Order.acquires, hhit, Option.filter, hserves, hbad]

/-- Lanes whose words L1 holds ask for no sector of their spans (R241). -/
theorem State.askSpans_served (hm : m.ord = .rlx) {d : Nat} {ps : List WLoc} (h : ∀ a ∈ ps, (s.l1Hit d a).isSome = true) (t : State) :
    t.askSpans s d m false ps = t :=
  State.askSpans_atomic (m := { m with scope := .gu }) hm (fun _ => h) t

/-- A load of a form as it goes on its way (R244). -/
def comingLoad (s : State) (g : Gust) (m : MOps) (scalar : Bool) (items : List (Nat × WLoc × Word)) (lease : Nat) : PendLoad :=
  { d := m.d, scalar, ev := m.ev, items, lease, words := s.accessRec g.ref, sentAt := s.ptime }

/-- Lanes of a load that are all on their way, and whose spans ask for nothing (R244). -/
theorem State.doLanes_pend {items : List (Nat × Int × Place)} {ps : List (Nat × WLoc × Word)} {e : Option Nat}
    (hrun : State.runLanes g.ref (LaneOp.load.lane g q m items) items (s.lanesPend [] none) = s.lanesPend ps e) (hps : ps ≠ [])
    (hspan : s.askSpans s (dieOf q.core) m (m.ord.acquires && m.scope.wide) (memPlaces items) = s) :
    s.doLanes g q .load m items = (s.onGust g.ref fun h => { h with loads := h.loads ++
      [comingLoad s g m false ps (e.getD s.ptime)] }).lanesPend ps e := by
  have hacc : State.runLanes g.ref (LaneOp.load.lane g q m items) items
      { st := s, vals := [], pend := [], waits := [], check := none, lease := none } = s.lanesPend ps e := hrun
  have hone : ps.isEmpty = false := by simpa using hps
  simp only [State.doLanes, hacc, State.lanesPend, State.putVals_nil, reduceCtorEq, if_false, if_true, hspan, hone, Bool.false_eq_true]
  rfl

/-- LD of words that L1 holds. -/
theorem exec_ld_cached (hi : s.Issuing g q) (hu : g.Undisturbed q) (hsp : m.space = .g) (hm : m.ord = .rlx) (hev : m.ev ≠ -4)
    (hown : s.ownWords g = []) {c : Ctl} {v : Nat → CWord} (hne : g.activeLanes c.guard ≠ [])
    (hl : ∀ l ∈ g.activeLanes c.guard, Claims.At s g q (laneAddr g m l) false (a l) ∧ s.l1Hit (dieOf q.core) (a l) = some (v l) ∧
      (v l).bad = false) :
    ∃ p : PendLoad, Claims.Coming s g m false ((g.activeLanes c.guard).map fun l => (l, a l, (v l).val)) p ∧
      exec (.ld c m) s = .next (s.after g { g with loads := g.loads ++ [p] } q (g.pc + 1)) := by
  have hplaces : ∀ l ∈ g.activeLanes c.guard, s.placeOf q g.priv m.space (laneAddr g m l) (LaneOp.load != .load) =
      (.mem (a l) (s.leaseOf q.core q.ctx (laneAddr g m l)), s) := fun l hmem => by rw [hsp]; exact State.placeOf_at (hl l hmem).1
  obtain ⟨t, e, rfl, hrun⟩ := State.runLanes_pend (g := g) (m := m) (fun t => t = s) (v := fun l => (v l).val)
    (f := LaneOp.load.lane g q m (laneItems g m (fun l => .mem (a l) (s.leaseOf q.core q.ctx (laneAddr g m l))) (g.activeLanes c.guard)))
    (p := fun l => .mem (a l) (s.leaseOf q.core q.ctx (laneAddr g m l))) (a := a)
    (fun l hmem t ht => by
      obtain ⟨-, hhit, hbad⟩ := hl l hmem
      exact ⟨s, _, by rw [ht]; exact State.loadOf_hit hm hev hhit hbad _, rfl⟩) g.ref rfl [] none
  rw [List.nil_append] at hrun
  have hspan : t.askSpans t (dieOf q.core) m (m.ord.acquires && m.scope.wide) ((g.activeLanes c.guard).map a) = t := by
    rw [hm]
    refine State.askSpans_served hm (fun b hb => ?_) t
    obtain ⟨l, hmem, rfl⟩ := List.mem_map.1 hb
    rw [(hl l hmem).2.1]
    rfl
  refine ⟨comingLoad t g m false _ (e.getD t.ptime), rfl, ?_⟩
  rw [exec, execLd, State.performAs_lane hi, State.laneMemory_eq hi.squall hm hown c (by simp) hplaces,
    State.doLanes_pend hrun (by simpa using hne) (by rw [memPlaces_mem]; exact hspan), State.endLanes_done hm rfl rfl]
  exact congrArg _ (State.out_onGust (f := fun h => { h with loads := h.loads ++ [_] }) hi hu (fun _ h => h) (.loads g _))

/-! Stores. -/

/-- The state in which stores to the L1 slice are on their way, counted against their gust (R239, R276). -/
def State.storing (s : State) (g : Gust) (sent : List Instr) : State :=
  ({ s with flight := s.flight ++ sent } : State).onGust g.ref fun h => { h with unacked := h.unacked + sent.length }

/-- A lane's store as it is on its way (R239). -/
def laneStore (s : State) (g : Gust) (q : Squall) (m : MOps) (a : Nat → WLoc) (l : Nat) : Instr :=
  Claims.storeOf s g q m.ev (laneAddr g m l) (a l) ((g.v m.b).get l)

theorem State.storing_nil (s : State) (g : Gust) : s.storing g [] = s := by
  simp [State.storing, State.onGust]

/-- The record that an access carries does not tell of the stores before it. -/
theorem State.accessRec_storing (hg : s.gust? g.ref = some g) {sent : List Instr} (hsent : ∀ i ∈ sent, narrowStore i = true) :
    (s.storing g sent).accessRec g.ref = s.accessRec g.ref := by
  have hbare : (s.storing g sent).bare = s.bare := by
    have hnone : (sent.filter fun i => !narrowStore i) = [] := List.filter_eq_nil_iff.2 fun i hi => by simp [hsent i hi]
    simp [State.bare, State.storing, State.onGust, hnone]
  have hgust := State.gust?_onGust_some (s := { s with flight := s.flight ++ sent }) hg
    (fun h => { h with unacked := h.unacked + sent.length }) fun _ h => h
  have hfind : (s.storing g sent).gust? g.ref = some { g with unacked := g.unacked + sent.length } := hgust
  rw [State.accessRec, hfind, State.accessRec, hg, Option.elim_some, Option.elim_some, ← mkRec_bare, hbare, ← mkRec_bare s]
  rfl

/-- A store of a word whose sector L1 holds is on its way to it (R239, R274). -/
theorem State.writePlace_held (hi : s.Issuing g q) {b : WLoc} {x : Int} {ev : Int} (hev : ev ≠ -4) (sc : Scope) (hwin : ∀ k, b.loc ≠ .win k)
    (hheld : s.l1HoldsSector (dieOf q.core) b = true) (hhome : Claims.AtHome s b.loc) (v : Word) {sent : List Instr}
    (hsent : ∀ i ∈ sent, narrowStore i = true) :
    (s.storing g sent).writePlace g q .rlx sc ev v (.mem b (s.leaseOf q.core q.ctx x)) =
      (.ok (), s.storing g (sent ++ [Claims.storeOf s g q ev x b v])) := by
  have hmiss := State.storeMiss_held (s := s.storing g sent) hheld hhome hwin ev
  have hctx : (s.storing g sent).ctxOf g.ref = q.ctx := by
    have hq : (s.storing g sent).squall? g.ref.sq = some q := hi.squall
    rw [State.ctxOf, hq, Option.elim_some]
  have hsend : (s.storing g sent).sendToL1 g (dieOf q.core) b v ev (s.leaseOf q.core q.ctx x) =
      s.storing g (sent ++ [Claims.storeOf s g q ev x b v]) := by
    rw [State.sendToL1, State.accessRec_storing hi.gust hsent, hctx, State.storing, State.onGust_onGust _ _
      (f := fun h => { h with unacked := h.unacked + sent.length }) fun _ h => h]
    simp [State.send, State.storing, State.onGust, Claims.storeOf, Nat.add_assoc]
  simp [State.writePlace, hev, Order.releases, hmiss, hsend]

/-- The lanes that have stored and whose stores are on their way, after one more lane. -/
def storedNext (keep : Nat → Bool) (ls : List Nat) (l : Nat) : List Nat := if keep l then ls ++ [l] else ls

theorem foldl_storedNext (keep : Nat → Bool) (us ls : List Nat) : ls.foldl (storedNext keep) us = us ++ ls.filter keep := by
  induction ls generalizing us with
  | nil => simp
  | cons l ls ih =>
    rw [List.foldl_cons, ih, storedNext, List.filter_cons]
    split <;> simp

/-- No higher lane stores to the lane's word (R252). -/
theorem lastWriter_mem (g : Gust) (m : MOps) (a : Nat → WLoc) (lease : Nat → Nat) (ls : List Nat) (l : Nat) :
    lastWriter (laneItems g m (fun l => .mem (a l) (lease l)) ls) l (.mem (a l) (lease l)) = ls.all fun k => !(l < k && a k == a l) := by
  have hkey (k : Nat) : ((Place.mem (a k) (lease k)).key == (Place.mem (a l) (lease l)).key) = (a k == a l) := by
    rw [Bool.eq_iff_iff, beq_iff_eq, beq_iff_eq]
    cases a k; cases a l
    simp [Place.key]
  simp only [lastWriter, laneItems, List.any_map, Function.comp_def, hkey, List.not_any_eq_all_not]
  rfl

/-- Lanes of a store that leave nothing to come. -/
theorem State.doLanes_store {items : List (Nat × Int × Place)} {t : State} {vs : List (Nat × Word)}
    (h : State.runLanes g.ref (LaneOp.store.lane g q m items) items (s.lanesWith []) = t.lanesWith vs) :
    s.doLanes g q .store m items = t.lanesWith vs := by
  unfold State.lanesWith at h ⊢
  simp [State.doLanes, h]

theorem narrowStore_laneStores (ls : List Nat) : ∀ i ∈ ls.map (laneStore s g q m a), narrowStore i = true := by
  intro i hi
  obtain ⟨l, -, rfl⟩ := List.mem_map.1 hi
  rfl

/-- A lane of a store to a word whose sector L1 holds: its store is on its way where it is the one that remains (R182, R252). -/
theorem LaneOp.lane_store_held (hi : s.Issuing g q) (hm : m.ord = .rlx) (hev : m.ev ≠ -4) {l : Nat} (hwin : ∀ k, (a l).loc ≠ .win k)
    (hheld : s.l1HoldsSector (dieOf q.core) (a l) = true) (hhome : Claims.AtHome s (a l).loc) (items : List (Nat × Int × Place))
    (sent : List Nat) :
    let p := Place.mem (a l) (s.leaseOf q.core q.ctx (laneAddr g m l))
    LaneOp.store.lane g q m items (s.storing g (sent.map (laneStore s g q m a))) l p =
      (.ok none, s.storing g ((storedNext (fun l => lastWriter items l
        (.mem (a l) (s.leaseOf q.core q.ctx (laneAddr g m l)))) sent l).map (laneStore s g q m a))) := by
  dsimp only
  have hwrite := State.writePlace_held hi (x := laneAddr g m l) hev m.scope hwin hheld hhome ((g.v m.b).get l)
    (narrowStore_laneStores (s := s) (g := g) (q := q) (m := m) (a := a) sent)
  have hmiss := State.storeMiss_held (s := s.storing g (sent.map (laneStore s g q m a))) hheld hhome hwin m.ev
  rw [← hm] at hwrite
  cases hlast : lastWriter items l (.mem (a l) (s.leaseOf q.core q.ctx (laneAddr g m l))) with
  | true => simp [LaneOp.lane, hlast, hwrite, storedNext, laneStore]
  | false => simp [LaneOp.lane, hlast, State.shadowed, hmiss, storedNext]

/-- ST to words whose sectors L1 holds. -/
theorem exec_st_cached (hi : s.Issuing g q) (hu : g.Undisturbed q) (hsp : m.space = .g) (hm : m.ord = .rlx) (hev : m.ev ≠ -4)
    (hown : s.ownWords g = []) {c : Ctl}
    (hl : ∀ l ∈ g.activeLanes c.guard, Claims.At s g q (laneAddr g m l) true (a l) ∧ s.l1HoldsSector (dieOf q.core) (a l) = true ∧
      Claims.AtHome s (a l).loc) :
    let ls := g.activeLanes c.guard
    let sent := (ls.filter fun l => ls.all fun k => !(l < k && a k == a l)).map (laneStore s g q m a)
    exec (.st c m) s = .next (({ s with flight := s.flight ++ sent } : State).after g
      { g with unacked := g.unacked + sent.length } q (g.pc + 1)) := by
  intro ls sent
  have hplaces : ∀ l ∈ ls, s.placeOf q g.priv m.space (laneAddr g m l) (LaneOp.store != LaneOp.load) =
      (.mem (a l) (s.leaseOf q.core q.ctx (laneAddr g m l)), s) := fun l hmem => by rw [hsp]; exact State.placeOf_at (hl l hmem).1
  have hrun := State.runLanes_values (g := g) (m := m) (fun sent => s.storing g (sent.map (laneStore s g q m a))) (fun _ _ => none) _
    (fun l hmem sent => by
      obtain ⟨hat, hheld, hhome⟩ := hl l hmem
      exact LaneOp.lane_store_held hi hm hev (Claims.At.ne_win hat) hheld hhome
        (laneItems g m (fun l => .mem (a l) (s.leaseOf q.core q.ctx (laneAddr g m l))) ls) sent) g.ref [] []
  rw [laneValues_none, List.nil_append, foldl_storedNext, List.nil_append] at hrun
  simp only [lastWriter_mem, List.map_nil, State.storing_nil] at hrun
  rw [exec, execSt, State.performAs_lane hi, State.laneMemory_eq hi.squall hm hown c (by simp) hplaces, State.doLanes_store hrun,
    State.endLanes_done hm rfl rfl]
  have hi' : ({ s with flight := s.flight ++ sent } : State).Issuing g q := ⟨hi.cur, hi.gust, hi.squall⟩
  exact congrArg _ (State.out_onGust (f := fun h => { h with unacked := h.unacked + sent.length }) hi' hu (fun _ h => h)
    (.unacked g _))

section
variable {c : Ctl} (hi : s.Issuing g q) (hu : g.Undisturbed q) (ha : g.acts c.guard = true) (hfill : g.fillFaults = [])
  (hsp : m.space = .g) (hm : m.ord = .rlx) (hev : m.ev ≠ -4) (hown : s.ownWords g = [])
include hi hu ha hfill hsp hm hev hown

/-- LDS of a word that L1 holds. -/
theorem exec_lds_cached {b : WLoc} {v : CWord} (hat : Claims.At s g q (baseAddr g m.bc m.a m.off) false b)
    (hhit : s.l1Hit (dieOf q.core) b = some v) (hbad : v.bad = false) (hd : m.d < 78) :
    ∃ p : PendLoad, Claims.Coming s g m true [(0, b, v.val)] p ∧
      exec (.lds c m) s = .next (s.after g { g with loads := g.loads ++ [p] } q (g.pc + 1)) := by
  have hplace := State.placeOf_at hat
  rw [← hsp] at hplace
  obtain ⟨-, -, hpend⟩ := ((scalarAccessForms (.lds c m) c m false s g q rfl hi ha hfill).2 _ s hplace rfl (State.clashes_of_quiet hown _) s
    (State.before_rlx hm s g _)).1 rfl
  refine ⟨comingLoad s g m true _ (s.leaseOf q.core q.ctx (baseAddr g m.bc m.a m.off)), rfl, ?_⟩
  refine (hpend hd b v.val _ s ?_).trans (congrArg _
    (State.out_onGust (f := fun h => { h with loads := h.loads ++ [_] }) hi hu (fun _ h => h) (.loads g _)))
  rw [State.ticketFor_rlx hm, State.loadOf_hit hm hev hhit hbad]

/-- STS to a word whose sector L1 holds. -/
theorem exec_sts_cached {b : WLoc} (hat : Claims.At s g q (baseAddr g m.bc m.a m.off) true b)
    (hheld : s.l1HoldsSector (dieOf q.core) b = true) (hhome : Claims.AtHome s b.loc) :
    exec (.sts c m) s = .next (({ s with flight := s.flight ++
      [Claims.storeOf s g q m.ev (baseAddr g m.bc m.a m.off) b (g.s m.b)] } : State).after g
        { g with unacked := g.unacked + 1 } q (g.pc + 1)) := by
  have hplace := State.placeOf_at hat
  have hwrite := State.writePlace_held hi (x := baseAddr g m.bc m.a m.off) hev m.scope (Claims.At.ne_win hat) hheld hhome (g.s m.b)
    (sent := []) (by simp)
  rw [State.storing_nil, List.nil_append] at hwrite
  rw [← hsp] at hplace
  rw [← hm] at hwrite
  rw [((scalarAccessForms (.sts c m) c m true s g q rfl hi ha hfill).2 _ s hplace rfl (State.clashes_of_quiet hown _) s
    (State.before_rlx hm s g _)).2 rfl _ hwrite, State.ticketFor_rlx hm, hm]
  have hi' : ({ s with flight := s.flight ++ [Claims.storeOf s g q m.ev (baseAddr g m.bc m.a m.off) b (g.s m.b)] } : State).Issuing g q :=
    ⟨hi.cur, hi.gust, hi.squall⟩
  exact congrArg _ (State.out_onGust (f := fun h => { h with unacked := h.unacked + 1 }) hi' hu (fun _ h => h) (.unacked g _))

end

/-- The first part of O26. -/
theorem cachedAccessForms_forms : Claims.CachedAccessForms := by
  intro c m a v s g q hi hu hsp hm hev hown
  exact ⟨fun hne hl => exec_ld_cached hi hu hsp hm hev hown hne hl, fun hl => exec_st_cached hi hu hsp hm hev hown hl,
    fun ha hfill => ⟨fun hat hhit hbad hd => exec_lds_cached hi hu ha hfill hsp hm hev hown hat hhit hbad hd,
      fun hat hheld hhome => exec_sts_cached hi hu ha hfill hsp hm hev hown hat hheld hhome⟩⟩

end

/-- Settles O26, by what is on its way as an access of words that L1 holds issues, and by the line that the L1 slice holds as its store gets
there. -/
theorem cachedAccessForms : Obligations.CachedAccessForms :=
  ⟨cachedAccessForms_forms, cachedAccessForms_reachesL1, cachedAccessForms_readsBack⟩

end Sys2Proof.Machine
end

section
/-! The queue head of a line, and the choice made at it (R258, R259, R262). -/

namespace Sys2Proof.Machine

section
variable {s t : State} {line : Nat} {h k : QHead} {e : Waiter}

/-- A head with no holder, entry or suspect mark (R258). -/
def QHead.vacant (h : QHead) : Bool := h.holders.isEmpty && h.entries.isEmpty && h.suspect.isEmpty

theorem QHead.vacant_of_entries (he : h.entries = []) : h.vacant = true ↔ h.holders = [] ∧ h.suspect = [] := by
  simp [QHead.vacant, he]

/-- A head after a change of a line's heads is one of those, or another line's. -/
theorem mem_heads_onHead {f : QHead → QHead} (hk : k ∈ (s.onHead line f).heads) :
    k.vacant = false ∧ ((∃ h ∈ s.heads, h.line = line ∧ k = f h) ∨ k ∈ s.heads ∧ k.line ≠ line) := by
  simp only [State.onHead, List.mem_filter, List.mem_map, Bool.not_eq_eq_eq_not, Bool.not_true] at hk
  obtain ⟨⟨h, hh, rfl⟩, hv⟩ := hk
  refine ⟨hv, ?_⟩
  by_cases hl : h.line = line
  · exact .inl ⟨h, hh, hl, by simp [hl]⟩
  · exact .inr (by simpa [hl] using hh)

/-- The changed head is there where the change leaves something on it. -/
theorem onHead_mem_heads {f : QHead → QHead} (hh : h ∈ s.heads) (hl : h.line = line) (hv : (f h).vacant = false) :
    f h ∈ (s.onHead line f).heads := by
  simp only [State.onHead, List.mem_filter, List.mem_map]
  exact ⟨⟨h, hh, by simp [hl]⟩, by rw [← QHead.vacant, hv]; rfl⟩

/-- The head of a line that has one head. -/
theorem State.oneHead_of (hmem : h ∈ s.heads) (hline : h.line = line) (hone : ∀ k ∈ s.heads, k.line = line → k = h) : Claims.OneHead s line h := by
  refine ⟨?_, hone⟩
  obtain ⟨x, hx⟩ := Option.isSome_iff_exists.1 (List.find?_isSome (p := fun h : QHead => h.line == line).2 ⟨h, hmem, beq_iff_eq.2 hline⟩)
  rw [State.head?, hx, hone x (List.mem_of_find?_eq_some hx) (by simpa using List.find?_some hx)]

theorem Claims.OneHead.line_eq (hh : Claims.OneHead s line h) : h.line = line := by
  simpa using List.find?_some hh.1

/-- A line's one head changed, where the change leaves something on it. -/
theorem State.oneHead_onHead (hh : Claims.OneHead s line h) {f : QHead → QHead} (hf : (f h).line = line) (hv : (f h).vacant = false) :
    Claims.OneHead (s.onHead line f) line (f h) := by
  refine State.oneHead_of (onHead_mem_heads (List.mem_of_find?_eq_some hh.1) (Claims.OneHead.line_eq hh) hv) hf fun k hk hkl => ?_
  rcases (mem_heads_onHead hk).2 with ⟨x, hx, hxl, rfl⟩ | ⟨-, hne⟩
  · rw [hh.2 x hx hxl]
  · exact absurd hkl hne

/-- A line's one head with nothing left on it is freed (R258). -/
theorem State.head?_onHead_vacant (hh : Claims.OneHead s line h) {f : QHead → QHead} (hv : (f h).vacant = true) :
    (s.onHead line f).head? line = none := by
  rw [State.head?, List.find?_eq_none]
  intro k hk hkl
  obtain ⟨hkv, ⟨x, hx, hxl, rfl⟩ | ⟨-, hne⟩⟩ := mem_heads_onHead hk
  · rw [hh.2 x hx hxl, hv] at hkv
    exact Bool.noConfusion hkv
  · exact hne (beq_iff_eq.1 hkl)

/-- A line's one head after a change. -/
theorem State.head?_onHead (hh : Claims.OneHead s line h) {f : QHead → QHead} (hf : (f h).line = line) :
    (s.onHead line f).head? line = if (f h).vacant then none else some (f h) := by
  cases hv : (f h).vacant with
  | true => exact State.head?_onHead_vacant hh hv
  | false => exact (State.oneHead_onHead hh hf hv).1

/-- The entry that a head chooses is one of its queued entries (R259). -/
theorem QHead.choose_mem (hc : h.choose = some e) : e ∈ h.entries ∧ e.queued = true := by
  have hfirst (c : Trit) (hfind : (h.entries.find? fun e => e.queued && e.cls == c) = some e) : e ∈ h.entries ∧ e.queued = true :=
    by
    have hp := List.find?_some hfind
    simp only [Bool.and_eq_true] at hp
    exact ⟨List.mem_of_find?_eq_some hfind, hp.1⟩
  unfold QHead.choose at hc
  dsimp only at hc
  split at hc
  · exact hfirst _ hc
  · split at hc
    · exact hfirst _ hc
    · rcases Option.or_eq_some_iff.1 hc with hu | ⟨-, hc⟩
      · exact hfirst _ hu
      · rcases Option.or_eq_some_iff.1 hc with hn | ⟨-, hb⟩
        · exact hfirst _ hn
        · exact hfirst _ hb

/-- No entry leaves for its deadline where none has passed. -/
theorem State.dropExpired_none (hx : ∀ k, s.head? line = some k → ∀ e ∈ k.entries, e.expired s.ptime = false) : s.dropExpired line = s := by
  have hnone : (((s.head? line).elim [] QHead.entries).filter fun e => e.expired s.ptime) = [] := by
    cases hk : s.head? line with
    | none => rfl
    | some k => exact List.filter_eq_nil_iff.2 fun e he => by simp [hx k hk e he]
  rw [State.dropExpired, hnone]
  rfl

/-- A choice changes nothing where no queued entry can be granted. -/
theorem State.chooseLatch_none (hc : ∀ k, s.head? line = some k → ∀ e ∈ k.entries, e.queued = true → k.blocked e.first e.cnt = true) (n : Nat) :
    s.chooseLatch line n = s := by
  cases n with
  | zero => rfl
  | succ n =>
    rw [State.chooseLatch]
    cases hk : s.head? line with
    | none => rfl
    | some k =>
      cases he : k.choose with
      | none => simp [he]
      | some e =>
        obtain ⟨hmem, hq⟩ := QHead.choose_mem he
        simp [he, hc k hk e hmem hq]

theorem State.chooseNext_none (hx : ∀ k, s.head? line = some k → ∀ e ∈ k.entries, e.expired s.ptime = false)
    (hc : ∀ k, s.head? line = some k → ∀ e ∈ k.entries, e.queued = true → k.blocked e.first e.cnt = true) : s.chooseNext line = s := by
  rw [State.chooseNext, State.dropExpired_none hx, State.chooseLatch_none hc]

/-- A choice at a head with no entries. -/
theorem State.chooseNext_empty (he : ∀ k, s.head? line = some k → k.entries = []) : s.chooseNext line = s :=
  State.chooseNext_none (fun k hk e hmem => by simp [he k hk] at hmem) (fun k hk e hmem => by simp [he k hk] at hmem)

/-- The head after a change that leaves no entries. -/
theorem State.entries_head?_onHead (hh : Claims.OneHead s line h) {f : QHead → QHead} (hf : (f h).line = line) (he : (f h).entries = []) :
    ∀ k, (s.onHead line f).head? line = some k → k.entries = [] := by
  intro k hk
  rw [State.head?_onHead hh hf] at hk
  split at hk
  · exact nomatch hk
  · rw [← Option.some_inj.1 hk]
    exact he

end

end Sys2Proof.Machine
end

section
/-! O33: requests, releases, leases and deadlines at a home (R258 to R264, R270, R271). -/

namespace Sys2Proof.Machine

section
variable {s : State} {line : Nat} {h : QHead} {e : Waiter} {m : LatchRel}

/-- An entry whose offer has lapsed (R262). -/
def lapsed (s : State) (e : Waiter) : Waiter := { e with st := .requeued, lost := true, ver := s.serial, probeAt := s.ptime + e.probeAt }

/-- It is no longer offered, so its deadline counts again (R262, R264). -/
theorem expired_lapsed (s : State) (e : Waiter) : (lapsed s e).expired s.ptime = e.deadline.any fun t => decide (t < s.ptime) := rfl

/-- What a release leaves on a head (R260, R271). -/
def latchLeaves (m : LatchRel) (h : QHead) : QHead :=
  { h with holders := h.holders.filter fun x => !(x.who == m.who && x.first == m.first && x.cnt == m.cnt),
           suspect := if m.sus then (h.suspect ++ (List.range m.cnt).map (· + m.first)).eraseDups else h.suspect }

/-- A release at a head with no entries. -/
theorem State.latchRelease_empty (hh : Claims.OneHead s line h) (hm : m.line = line) (he : h.entries = []) :
    s.latchRelease m = (s.raiseClocks line ((List.range m.cnt).map (· + m.first)) m.stamp).onHead line (latchLeaves m) := by
  have hline := Claims.OneHead.line_eq hh
  subst hm
  rw [State.latchRelease]
  exact State.chooseNext_empty (State.entries_head?_onHead (s := s.raiseClocks m.line _ m.stamp) (f := latchLeaves m) hh hline he)

theorem latchQueueSteps_release (hh : Claims.OneHead s line h) (hm : m.line = line) (he : h.entries = []) :
    ∃ t : State, exec (.latchRelease m) s = .next t ∧
      t = { s.raiseClocks line ((List.range m.cnt).map (· + m.first)) m.stamp with heads := t.heads } ∧
      let hs := h.holders.filter fun x => !(x.who == m.who && x.first == m.first && x.cnt == m.cnt)
      (m.sus = false → t.head? line = if hs = [] ∧ h.suspect = [] then none else some { h with holders := hs }) ∧
      (m.sus = true → 0 < m.cnt → ∃ l : List Nat, t.head? line = some { h with holders := hs, suspect := l } ∧
        ∀ k, k ∈ l ↔ k ∈ h.suspect ∨ m.first ≤ k ∧ k < m.first + m.cnt) := by
  have hline := Claims.OneHead.line_eq hh
  have hhead := State.head?_onHead (s := s.raiseClocks line ((List.range m.cnt).map (· + m.first)) m.stamp) (f := latchLeaves m) hh hline
  refine ⟨_, congrArg Host.Outcome.next (State.latchRelease_empty hh hm he), rfl, fun hsus => ?_, fun hsus hcnt => ?_⟩
  · have hleaves : latchLeaves m h = { h with holders := h.holders.filter fun x => !(x.who == m.who && x.first == m.first && x.cnt == m.cnt) } := by
      simp [latchLeaves, hsus]
    rw [hhead, hleaves]
    exact if_congr (QHead.vacant_of_entries he) rfl rfl
  · have hmem (k : Nat) : k ∈ (h.suspect ++ (List.range m.cnt).map (· + m.first)).eraseDups ↔
        k ∈ h.suspect ∨ m.first ≤ k ∧ k < m.first + m.cnt := by
      rw [List.mem_eraseDups, List.mem_append, List.mem_map]
      refine or_congr_right ⟨fun ⟨a, ha, hk⟩ => ?_, fun hk => ⟨k - m.first, ?_, by omega⟩⟩
      · rw [List.mem_range] at ha
        omega
      · rw [List.mem_range]
        omega
    refine ⟨_, hhead.trans ?_, hmem⟩
    have hnonempty := List.ne_nil_of_mem ((hmem m.first).2 (.inr ⟨le_rfl, by omega⟩))
    have hleaves : (latchLeaves m h).suspect = (h.suspect ++ (List.range m.cnt).map (· + m.first)).eraseDups := by
      simp [latchLeaves, hsus]
    have hv : (latchLeaves m h).vacant = false := by
      rw [QHead.vacant, hleaves, List.isEmpty_eq_false_iff.2 hnonempty, Bool.and_false]
    rw [hv, ← hleaves]
    rfl

/-- The end of a head's one entry, which grants nothing, and the choice after it. -/
theorem State.endEntry_only (hh : Claims.OneHead s line h) (he : h.entries = [e]) (x : Waiter) (hx : x.who = e.who) (status : Int) :
    let u := s.endEntry line x status
    u.chooseLatch line chooseFuel = u ∧ u.chooseNext line = u ∧
      u.head? line = if h.holders = [] ∧ h.suspect = [] then none else some { h with entries := [] } := by
  have hleft : h.entries.filter (fun y => y.who != x.who) = [] := by simp [he, hx]
  have hline := Claims.OneHead.line_eq hh
  have hhead := State.head?_onHead hh (f := fun h => { h with entries := h.entries.filter fun y => y.who != x.who }) hline
  have hempty := State.entries_head?_onHead hh (f := fun h => { h with entries := h.entries.filter fun y => y.who != x.who }) hline hleft
  refine ⟨State.chooseLatch_none (fun k hk y hy => ?_) _, State.chooseNext_empty hempty, hhead.trans ?_⟩
  · rw [hempty k hk] at hy
    exact nomatch hy
  · simp only [hleft]
    exact if_congr (QHead.vacant_of_entries rfl) rfl rfl

section
variable (hh : Claims.OneHead s line h) (he : h.entries = [e])
include hh he

/-- A head's one entry leaves as its deadline has passed (R264). -/
theorem State.dropExpired_only (hx : e.expired s.ptime = true) : s.dropExpired line = s.endEntry line e 0 := by
  simp [State.dropExpired, hh.1, he, hx, State.each]

theorem State.find_only : ((s.head? line).bind fun h => h.entries.find? fun x => x.who == e.who) = some e := by
  rw [hh.1, Option.bind_some, he]
  simp

/-- An offered entry whose lease lapses (R262). -/
theorem State.latchLapse_only {t0 : Nat} (hst : e.st = .offered t0) :
    s.latchLapse line e.who = if t0 + 27000 ≤ s.ptime then
      (s.fresh.2.onHead line fun h => { h with entries := (h.entries.filter fun x => x.who != e.who) ++
        [lapsed s e] }).chooseNext line else s := by
  simp only [State.latchLapse, State.find_only hh he, hst]
  rfl

/-- The head as the lapse of its one entry leaves it, before the choice. -/
theorem State.oneHead_lapsed :
    Claims.OneHead (s.fresh.2.onHead line fun h => { h with entries := (h.entries.filter fun x => x.who != e.who) ++
        [lapsed s e] }) line
      { h with entries := [lapsed s e] } := by
  have hline := Claims.OneHead.line_eq hh
  have hone := State.oneHead_onHead (s := s.fresh.2) hh (f := fun h => { h with entries := (h.entries.filter fun x => x.who != e.who) ++
    [lapsed s e] }) hline
    (by simp [QHead.vacant])
  simpa only [he, List.filter_cons, bne_self_eq_false, Bool.false_eq_true, if_false, List.filter_nil, List.nil_append] using hone

theorem latchQueueSteps_offered {t0 : Nat} (hst : e.st = .offered t0) :
    (t0 + 27000 ≤ s.ptime → (∀ dl, e.deadline = some dl → s.ptime ≤ dl) →
      ∃ t : State, exec (.latchLeaseLapse line e.who) s = .next t ∧
      t = { s with heads := t.heads, serial := s.serial + 1 } ∧
      t.head? line = some { h with entries :=
        [lapsed s e] }) ∧
    (t0 + 27000 ≤ s.ptime → ∀ dl, e.deadline = some dl → dl < s.ptime →
      ∃ t : State, exec (.latchLeaseLapse line e.who) s = .next t ∧
      t = { s with heads := t.heads, serial := s.serial + 1, flight := s.flight ++
        [.latchGrant { who := e.who, line, first := e.first, cnt := e.cnt, status := 0, ev := e.ev, words := [],
                       clk := clockZero }] } ∧
      t.head? line = if h.holders = [] ∧ h.suspect = [] then none else some { h with entries := [] }) ∧
    (s.ptime < t0 + 27000 → exec (.latchLeaseLapse line e.who) s = .next s) ∧
    exec (.latchtDeadline line e.who) s = .next s := by
  have hlapse := State.latchLapse_only hh he hst
  have hone := State.oneHead_lapsed hh he
  refine ⟨fun hlate hdl => ⟨_, congrArg Host.Outcome.next (hlapse.trans (if_pos hlate)), ?_⟩,
    fun hlate dl hdl hpast => ⟨_, congrArg Host.Outcome.next (hlapse.trans (if_pos hlate)), ?_⟩,
    fun hearly => congrArg Host.Outcome.next (hlapse.trans (if_neg (by omega))), congrArg Host.Outcome.next ?_⟩
  · rw [State.chooseNext_none]
    · exact ⟨rfl, hone.1⟩
    · intro k hk x hx
      obtain rfl := Option.some_inj.1 (hone.1.symm.trans hk)
      obtain rfl := List.mem_singleton.1 hx
      exact (expired_lapsed s e).trans ((Option.any_eq_false _ _).2 fun dl hd => by simpa using hdl dl hd)
    · intro k hk x hx hq
      obtain rfl := Option.some_inj.1 (hone.1.symm.trans hk)
      obtain rfl := List.mem_singleton.1 hx
      exact absurd hq (by simp [Waiter.queued, lapsed])
  · obtain ⟨hfix, -, hhead⟩ := State.endEntry_only hone rfl (lapsed s e) rfl 0
    have hexpired : (lapsed s e).expired s.ptime = true := by
      simp [expired_lapsed, hdl, hpast]
    rw [State.chooseNext, State.dropExpired_only hone rfl hexpired, hfix]
    refine ⟨?_, hhead⟩
    simp only [State.endEntry, State.tellLatch, State.send, State.onHead, State.fresh, lapsed]
  · simp only [State.latchDeadline, State.find_only hh he]
    cases e.deadline <;> simp [Waiter.offered, hst]

theorem latchQueueSteps_deadline (dl : Nat) (hdl : e.deadline = some dl) (hoff : e.offered = false) :
    (s.ptime ≤ dl → exec (.latchtDeadline line e.who) s = .next s) ∧
    (dl < s.ptime → ∃ t : State, exec (.latchtDeadline line e.who) s = .next t ∧
      t = { s with heads := t.heads, flight := s.flight ++
        [.latchGrant { who := e.who, line, first := e.first, cnt := e.cnt, status := 0, ev := e.ev, words := [],
                       clk := clockZero }] } ∧
      t.head? line = if h.holders = [] ∧ h.suspect = [] then none else some { h with entries := [] }) := by
  have hfind := State.find_only hh he
  have hdeadline : s.latchDeadline line e.who = if dl < s.ptime then (s.endEntry line e 0).chooseNext line else s := by
    simp only [State.latchDeadline, hfind, hdl, hoff, State.dropEntry]
    simp
  obtain ⟨-, hfix, hhead⟩ := State.endEntry_only hh he e rfl 0
  refine ⟨fun hle => congrArg Host.Outcome.next (hdeadline.trans (if_neg (by omega))), fun hlt =>
    ⟨s.endEntry line e 0, congrArg Host.Outcome.next ((hdeadline.trans (if_pos hlt)).trans hfix), rfl, hhead⟩⟩

end

/-- The second part of O33. -/
theorem latchQueueSteps_queue : Claims.LatchQueueSteps := by
  intro s line h e m t0 hh
  exact ⟨fun hm he => latchQueueSteps_release hh hm he, fun he hst => latchQueueSteps_offered hh he hst,
    fun he dl hdl hoff => latchQueueSteps_deadline hh he dl hdl hoff⟩

end

end Sys2Proof.Machine
end

section
/-! O33: a request at a home (R258 to R261, R270). -/

namespace Sys2Proof.Machine

section
variable {s : State} {m : LatchReq} {h : QHead}

/-- The entry that a request becomes where it has to wait (R258, R265). -/
def waiting (s : State) (m : LatchReq) : Waiter :=
  { who := m.who, ctx := m.ctx, first := m.first, cnt := m.cnt, cls := s.latchClass m.who, entered := s.ptime,
    deadline := if m.timed then some m.deadline else none, st := .queued, lost := false, vaddr := m.vaddr, ev := m.ev,
    probeAt := s.ptime + 729000, ver := s.serial }

/-- A head with nothing on it yet. -/
def newHead (line : Nat) : QHead := { line, holders := [], entries := [], runN := 0, runB := 0, suspect := [] }

/-- The state in which a request has taken a new head and its version (R258). -/
def State.withNewHead (s : State) (line : Nat) : State := { s with serial := s.serial + 1, heads := s.heads ++ [newHead line] }

/-- The new head of a line that had none. -/
theorem State.oneHead_withNewHead {line : Nat} (hnone : s.head? line = none) : Claims.OneHead (s.withNewHead line) line (newHead line) := by
  refine State.oneHead_of (List.mem_append_right _ (List.mem_singleton.2 rfl)) rfl fun k hk hl => ?_
  rcases List.mem_append.1 hk with hk | hk
  · have hother := List.find?_eq_none.1 hnone k hk
    simp [hl] at hother
  · exact List.mem_singleton.1 hk

/-- A head as a grant leaves it (R259, R260). -/
def QHead.granted (h : QHead) (who : GustRef) (ctx first cnt : Nat) (cls : Trit) : QHead :=
  ({ h with entries := h.entries.filter fun e => e.who != who, holders := h.holders ++ [Holder.mk who ctx first cnt],
            suspect := h.suspect.filter fun q => !decide (first ≤ q ∧ q < first + cnt) } : QHead).countGrant cls

/-- The state in which a request waits at its line's head. -/
def State.withWaiting (s : State) (m : LatchReq) : State :=
  { s with serial := s.serial + 1, heads := s.heads.map fun (x : QHead) =>
      if x.line == m.line then { x with entries := x.entries ++ [waiting s m] } else x }

/-- A grant leaves the grantee among the holders, and then the span's words are on their way to it (R260, R284). -/
theorem State.grantLatch_sent {line : Nat} (hh : s.head? line = some h) (who : GustRef) (ctx first cnt : Nat) (cls : Trit) (lost : Bool) (ev : Int) :
    ∃ (u : State) (words : List Word) (clk : List Nat),
      u.still = (s.onHead line fun h => h.granted who ctx first cnt cls).still ∧
      s.grantLatch who ctx line first cnt cls lost ev =
        u.send (.latchGrant { who, line, first, cnt, status := h.grantCode first cnt lost, ev, words, clk }) ∧
      ∀ x, u.home? line = some x → words = (x.words.drop (5 * first)).take (5 * cnt) := by
  simp only [State.grantLatch, hh, State.sendGrant]
  refine ⟨_, _, _, (still_homeFill _ _ _).trans (still_each (fun t q => still_publish t _ _ q) _ _), rfl, fun x hx => ?_⟩
  exact congrArg (fun o : Option HomeLine => o.elim [] fun h => (h.words.drop (5 * first)).take (5 * cnt)) hx

/-- A request at a line with no head and no head free is told +2 (R258). -/
theorem latchRequestStep_full (hnone : s.head? m.line = none) (hfull : 27 ≤ (s.sliceHeads m.line).length) :
    exec (.latchRequest m) s = .next (s.tellLatch m.who m.line m.first m.cnt 2 m.ev) := by
  have hdrop : s.dropExpired m.line = s := State.dropExpired_none fun k hk => by simp [hnone] at hk
  refine congrArg Host.Outcome.next ?_
  simp [State.latchRequest, hdrop, hnone, Config.queueHeads, hfull]

/-- A request at a line with no head is granted at once to a bound gust (R259, R260). -/
theorem latchRequestStep_granted (hnone : s.head? m.line = none) (hroom : (s.sliceHeads m.line).length < 27)
    (hbound : (s.gust? m.who).isSome = true) :
    ∃ (t : State) (words : List Word) (clk : List Nat), exec (.latchRequest m) s = .next t ∧
      t.head? m.line = some { line := m.line, holders := [⟨m.who, m.ctx, m.first, m.cnt⟩], entries := [], runN := 0,
                              runB := 0, suspect := [] } ∧
      t.flight.getLast? = some (.latchGrant { who := m.who, line := m.line, first := m.first, cnt := m.cnt, status := 1,
                                              ev := m.ev, words, clk }) ∧
      ∀ x, t.home? m.line = some x → words = (x.words.drop (5 * m.first)).take (5 * m.cnt) := by
  have hdrop : s.dropExpired m.line = s := State.dropExpired_none fun k hk => by simp [hnone] at hk
  have hone := State.oneHead_withNewHead hnone
  have hrequest : s.latchRequest m = (s.withNewHead m.line).grantLatch m.who m.ctx m.line m.first m.cnt (s.latchClass m.who) false m.ev := by
    have hbound' : (s.fresh.2.gust? m.who).isSome = true := hbound
    have hnone' : s.fresh.2.head? m.line = none := hnone
    have hfull : ((s.head? m.line).isNone && decide ((s.sliceHeads m.line).length ≥ Config.queueHeads)) = false := by
      simp [Config.queueHeads, hroom]
    simp only [State.latchRequest, hdrop, hfull, hbound']
    simp only [hnone, hnone', Option.getD_none]
    rfl
  obtain ⟨t, words, clk, ht, hsent, hwords⟩ := State.grantLatch_sent hone.1 m.who m.ctx m.first m.cnt (s.latchClass m.who) false m.ev
  refine ⟨_, words, clk, congrArg Host.Outcome.next (hrequest.trans hsent), ?_, List.getLast?_concat, hwords⟩
  have hgranted : (newHead m.line).granted m.who m.ctx m.first m.cnt (s.latchClass m.who) =
      { newHead m.line with holders := [⟨m.who, m.ctx, m.first, m.cnt⟩] } := by
    simp [QHead.granted, QHead.countGrant, newHead]
  have hhead := State.head?_onHead hone (f := fun h => h.granted m.who m.ctx m.first m.cnt (s.latchClass m.who)) rfl
  rw [hgranted] at hhead
  exact (congrArg (List.find? fun h : QHead => h.line == m.line) (heads_of_still ht)).trans hhead

section
variable (hh : s.head? m.line = some h) (hstill : ∀ e ∈ h.entries, e.st ≠ .queued ∧ e.expired s.ptime = false)
  (hmeets : ∃ x ∈ h.held, m.first < x.2.1 + x.2.2 ∧ x.2.1 < m.first + m.cnt)
include hh hstill hmeets

/-- A request that conflicts with a held span waits, where it can (R259, R270). -/
theorem State.latchRequest_conflicting :
    s.latchRequest m =
      if m.timed ∧ m.deadline ≤ s.ptime then s.fresh.2.tellLatch m.who m.line m.first m.cnt 0 m.ev
      else if s.fresh.2.noEntry m.line then s.fresh.2.tellLatch m.who m.line m.first m.cnt 2 m.ev
      else (s.withWaiting m).chooseNext m.line := by
  have hdrop : s.dropExpired m.line = s := State.dropExpired_none fun k hk e he => by
    obtain rfl := Option.some_inj.1 (hh.symm.trans hk)
    exact (hstill e he).2
  have hblocked : h.blocked m.first m.cnt = true := by
    obtain ⟨x, hx, hlo, hhi⟩ := hmeets
    exact List.any_eq_true.2 ⟨x, hx, by simp [spansMeet, hlo, hhi]⟩
  have hh' : s.fresh.2.head? m.line = some h := hh
  simp only [State.latchRequest, hdrop, hh, hh', Option.isNone_some, Option.isSome_some, Bool.false_and, Bool.false_eq_true, if_false,
    Option.getD_some, hblocked, Bool.not_true, if_true]
  rfl

/-- The entry of a conflicting request stays where it was put (R259). -/
theorem State.chooseNext_waiting (hdl : m.timed = false ∨ s.ptime < m.deadline) :
    (s.withWaiting m).chooseNext m.line = s.withWaiting m ∧
      (s.withWaiting m).head? m.line = some { h with entries := h.entries ++ [waiting s m] } := by
  have hhead : (s.withWaiting m).head? m.line = some { h with entries := h.entries ++ [waiting s m] } := by
    refine (find?_map_if QHead.line (fun x => { x with entries := x.entries ++ [waiting s m] }) m.line m.line (fun _ hx => hx) s.heads).trans ?_
    rw [if_pos rfl]
    exact congrArg (Option.map _) hh
  refine ⟨State.chooseNext_none (fun k hk e he => ?_) (fun k hk e he hq => ?_), hhead⟩
  · obtain rfl := Option.some_inj.1 (hhead.symm.trans hk)
    rcases List.mem_append.1 he with he | he
    · exact (hstill e he).2
    · obtain rfl := List.mem_singleton.1 he
      have hahead : (waiting s m).expired s.ptime = false := by
        cases ht : m.timed with
        | false => simp [Waiter.expired, waiting, ht]
        | true =>
          have hlt : s.ptime < m.deadline := hdl.resolve_left (by simp [ht])
          simp [Waiter.expired, waiting, ht, Nat.le_of_lt hlt]
      exact hahead
  · obtain rfl := Option.some_inj.1 (hhead.symm.trans hk)
    obtain ⟨x, hx, hlo, hhi⟩ := hmeets
    rcases List.mem_append.1 he with he | he
    · exact absurd (beq_iff_eq.1 hq) (hstill e he).1
    · obtain rfl := List.mem_singleton.1 he
      have hheld : ({ h with entries := h.entries ++ [waiting s m] } : QHead).held = h.held := by
        simp [QHead.held, waiting, Waiter.offered]
      refine List.any_eq_true.2 ⟨x, hheld ▸ hx, ?_⟩
      simp [spansMeet, waiting, hlo, hhi]

end

/-- The first part of O33. -/
theorem latchQueueSteps_request : Claims.LatchRequestStep := by
  intro s m h free u
  have hentries : s.fresh.2.noEntry m.line = true ↔ ¬ free := by
    simp only [State.noEntry, decide_eq_true_eq, Config.waiterEntries, free, not_lt, ge_iff_le]
    rfl
  have ahead (hdl : m.timed = false ∨ s.ptime < m.deadline) : ¬ (m.timed = true ∧ m.deadline ≤ s.ptime) := fun ⟨ht, hle⟩ =>
    hdl.elim (fun hf => by simp [ht] at hf) fun hlt => absurd hle (by omega)
  refine ⟨latchRequestStep_granted, latchRequestStep_full, fun hh hstill hmeets => ?_⟩
  have hrequest := State.latchRequest_conflicting hh hstill hmeets
  refine ⟨fun hlate => ?_, fun hdl hfree => ?_, fun hdl hfree => ?_⟩
  · exact congrArg Host.Outcome.next (hrequest.trans (if_pos hlate))
  · rw [if_neg (ahead hdl), if_pos (hentries.2 hfree)] at hrequest
    exact congrArg Host.Outcome.next hrequest
  · obtain ⟨hfix, hhead⟩ := State.chooseNext_waiting hh hstill hmeets hdl
    rw [if_neg (ahead hdl), if_neg (fun hfull => hentries.1 hfull hfree), hfix] at hrequest
    exact ⟨_, congrArg Host.Outcome.next hrequest, rfl, hhead⟩

end

end Sys2Proof.Machine
end

section
/-! O33: a code, and the words that a grant brings, at the gust's die (R238, R260, R261, R282). -/

namespace Sys2Proof.Machine

/-- A word is served, with a value that only a dirty word of its own stands before (R238). -/
def Serves (ws : List (Nat × CWord)) (w : Nat) (v : Word) : Prop := ∃ c, lookupAt ws w = some c ∧ (c.dirty = none → c.val = v)

/-- One word of a filled sector: a dirty word stays (R238). -/
def fillWord (ws : List (Nat × CWord)) (e : Nat × Word) : List (Nat × CWord) :=
  match lookupAt ws e.1 with
  | some w => if w.dirty.isSome then ws else insertAt ws e.1 { val := e.2, dirty := none, by_ := 0 }
  | none => insertAt ws e.1 { val := e.2, dirty := none, by_ := 0 }

theorem lookupAt_fillWord (ws : List (Nat × CWord)) (e : Nat × Word) {w : Nat} (hw : e.1 ≠ w) : lookupAt (fillWord ws e) w = lookupAt ws w := by
  have hput (c : CWord) : lookupAt (insertAt ws e.1 c) w = lookupAt ws w := by
    rw [lookupAt_insertAt, if_neg (Ne.symm hw)]
  unfold fillWord
  split
  · split
    · rfl
    · exact hput _
  · exact hput _

theorem serves_fillWord (ws : List (Nat × CWord)) (w : Nat) (v : Word) : Serves (fillWord ws (w, v)) w v := by
  have hput : Serves (insertAt ws w { val := v, dirty := none, by_ := 0 }) w v := ⟨_, by rw [lookupAt_insertAt, if_pos rfl], fun _ => rfl⟩
  unfold fillWord
  split
  · next c hc =>
    split
    · next hdirty => exact ⟨c, hc, fun hclean => by simp [hclean] at hdirty⟩
    · exact hput
  · exact hput

/-- The words of a filled sector are served, and the others as before (R238). -/
theorem serves_fill {ws : List (Nat × CWord)} {es : List (Nat × Word)} {w : Nat} {v : Word} (hes : ∀ e ∈ es, e.1 = w → e.2 = v)
    (h : Serves ws w v ∨ ∃ e ∈ es, e.1 = w) : Serves (es.foldl fillWord ws) w v := by
  induction es generalizing ws with
  | nil => simpa using h
  | cons e es ih =>
    rw [List.forall_mem_cons] at hes
    obtain ⟨he, hes⟩ := hes
    refine ih hes ?_
    by_cases hw : e.1 = w
    · left
      rw [← he hw, ← hw]
      exact serves_fillWord ws e.1 e.2
    · rcases h with ⟨c, hc, hcv⟩ | ⟨x, hx, hxw⟩
      · exact .inl ⟨c, (lookupAt_fillWord ws e hw).trans hc, hcv⟩
      · rcases List.mem_cons.1 hx with rfl | hx
        · exact absurd hxw hw
        · exact .inr ⟨x, hx, hxw⟩

section
variable {s t : State} {d : Nat} {loc : Loc}

/-- An L1 slice serves a word, with a value that only a dirty word of its own stands before. -/
def State.ServesAt (s : State) (d : Nat) (loc : Loc) (w : Nat) (v : Word) : Prop := ∃ x, s.l1? d loc = some x ∧ Serves x.words w v

/-- A filled sector is served, and what was served of the line is (R238). -/
theorem State.servesAt_l1Install (hd : d < s.dies.length) {q : Nat} {ws : List Word} {w : Nat} {v : Word} (ev : Int)
    (hes : ∀ e ∈ List.zip (sectorWords q) ws, e.1 = w → e.2 = v) (h : s.ServesAt d loc w v ∨ ∃ e ∈ List.zip (sectorWords q) ws, e.1 = w) :
    (s.l1Install d loc q ws ev).ServesAt d loc w v := by
  have hlen : d < (s.l1Touch d loc ev).dies.length := by rw [dies_of_still (still_l1Touch s d loc ev)]; exact hd
  have htouched : ∃ x, (s.l1Touch d loc ev).l1? d loc = some x ∧ (Serves x.words w v ∨ ∃ e ∈ List.zip (sectorWords q) ws, e.1 = w) := by
    rcases h with ⟨x, hx, hserves⟩ | hnew
    · refine ⟨{ x with prio := hitPrio x.prio ev, used := s.serial }, ?_, .inl hserves⟩
      rw [State.l1Touch_line hx, State.l1?_onL1 (s := s.fresh.2) (f := fun x => { x with prio := hitPrio x.prio ev, used := s.serial }) hd
        fun _ h => h, if_pos ⟨rfl, rfl⟩]
      exact congrArg (Option.map _) hx
    · obtain ⟨x, hx⟩ := State.l1?_l1Touch hd loc ev
      exact ⟨x, hx, .inr hnew⟩
  obtain ⟨x, hx, hcase⟩ := htouched
  have hfilled : ((s.l1Touch d loc ev).onL1 d loc fun x =>
      { x with stale := x.stale.filter (· != q), words := (List.zip (sectorWords q) ws).foldl fillWord x.words }).ServesAt d loc w v := by
    refine ⟨{ x with stale := x.stale.filter (· != q), words := (List.zip (sectorWords q) ws).foldl fillWord x.words }, ?_, serves_fill hes hcase⟩
    rw [State.l1?_onL1 (f := fun x => { x with stale := x.stale.filter (· != q), words := (List.zip (sectorWords q) ws).foldl fillWord x.words }) hlen
        fun _ h => h, if_pos ⟨rfl, rfl⟩, hx]
    rfl
  unfold State.l1Install
  cases loc <;> exact hfilled

theorem L1Line.markStale_words (x : L1Line) (q : Nat) : (x.markStale q).words = x.words := by
  unfold L1Line.markStale
  split <;> rfl

theorem L1Line.markStale_loc (x : L1Line) (q : Nat) : (x.markStale q).loc = x.loc := by
  unfold L1Line.markStale
  split <;> rfl

theorem State.servesAt_markStale {w : Nat} {v : Word} (h : s.ServesAt d loc w v) (q : Nat) :
    (s.onL1 d loc fun x => x.markStale q).ServesAt d loc w v := by
  obtain ⟨x, hx, hserves⟩ := h
  refine ⟨x.markStale q, ?_, by rw [L1Line.markStale_words]; exact hserves⟩
  rw [State.l1?_onL1 (State.lt_of_l1? hx) (f := fun x => x.markStale q) fun x hx => (x.markStale_loc q).trans hx, if_pos ⟨rfl, rfl⟩, hx]
  rfl

/-- One sector of a grant at its die (R260, R282). -/
def installGrant (d : Nat) (m : LatchGrant) (s : State) (k : Nat) : State :=
  if m.ev = -4 then (s.onL1 d (.dev m.line) fun x =>
    { x with words := x.words.filter fun e => sectorOf e.1 != m.first + k || e.2.dirty.isSome }).settleHolders d
  else if clockLe ((s.l1Install d (.dev m.line) (m.first + k) ((m.words.drop (5 * k)).take 5) m.ev).secClock m.line (m.first + k)) m.clk then
    s.l1Install d (.dev m.line) (m.first + k) ((m.words.drop (5 * k)).take 5) m.ev
  else (s.l1Install d (.dev m.line) (m.first + k) ((m.words.drop (5 * k)).take 5) m.ev).onL1 d (.dev m.line) fun x => x.markStale (m.first + k)

theorem still_installGrant (d : Nat) (m : LatchGrant) (s : State) (k : Nat) : (installGrant d m s k).still = s.still := by
  unfold installGrant
  split
  · exact (still_settleHolders _ _).trans (still_onL1 _ _ _ _)
  · split
    · exact still_l1Install _ _ _ _ _ _
    · exact (still_onL1 _ _ _ _).trans (still_l1Install _ _ _ _ _ _)

/-- A granted code reaches its gust after the words have reached its die. -/
theorem State.latchGrant_granted {m : LatchGrant} {q : Squall} (hq : s.squall? m.who.sq = some q) (hm : m.status = 1 ∨ m.status = 3 ∨ m.status = -1) :
    s.latchGrant m = (((s.receive (dieOf q.core) m.clk).each (List.range m.cnt) (installGrant (dieOf q.core) m)).onGust m.who fun g =>
      { g with latchCode := some m.status }) := by
  have hg : (m.status == 1 || m.status == 3 || m.status == -1) = true := by
    rcases hm with h | h | h <;> simp [h]
  simp only [State.latchGrant, hq, hg]
  rfl

theorem State.latchGrant_told {m : LatchGrant} {q : Squall} (hq : s.squall? m.who.sq = some q)
    (hm : ¬ (m.status = 1 ∨ m.status = 3 ∨ m.status = -1)) :
    s.latchGrant m = s.onGust m.who fun g => { g with latchCode := some m.status } := by
  have hg : (m.status == 1 || m.status == 3 || m.status == -1) = false := by
    simpa [not_or, and_assoc] using hm
  simp only [State.latchGrant, hq, hg]
  rfl

/-- The words that a grant brings for its sector `k`, each with its place in the line. -/
theorem grantSector_eq {m : LatchGrant} (hwords : m.words.length = 5 * m.cnt) {k : Nat} (hk : k < m.cnt) :
    List.zip (sectorWords (m.first + k)) ((m.words.drop (5 * k)).take 5) =
      (List.range 5).map fun i => (5 * (m.first + k) + i, m.words.getD (5 * k + i) Word.zero) := by
  have hsector : sectorWords (m.first + k) = (List.range 5).map fun i => 5 * (m.first + k) + i := rfl
  have hbrought : (m.words.drop (5 * k)).take 5 = (List.range 5).map fun i => m.words.getD (5 * k + i) Word.zero := by
    refine List.ext_getElem (by simp; omega) fun i hi _ => ?_
    have hin : 5 * k + i < m.words.length := by
      simp only [List.length_take, List.length_drop] at hi
      omega
    simp [List.getD_eq_getElem?_getD, hin]
  rw [hsector, hbrought, List.zip_map']

/-- The first sectors of a grant, as their installing leaves them at the die (R238, R260). -/
theorem servesAt_installGrant {m : LatchGrant} {w : Nat} (hd : d < s.dies.length) (hev : m.ev ≠ -4) (hwords : m.words.length = 5 * m.cnt)
    {k : Nat} (hk : k < m.cnt)
    (h : s.ServesAt d (.dev m.line) w (m.words.getD (w - 5 * m.first) Word.zero) ∨ w / 5 = m.first + k) :
    (installGrant d m s k).ServesAt d (.dev m.line) w (m.words.getD (w - 5 * m.first) Word.zero) := by
  have hfill : (s.l1Install d (.dev m.line) (m.first + k) ((m.words.drop (5 * k)).take 5) m.ev).ServesAt d (.dev m.line) w
      (m.words.getD (w - 5 * m.first) Word.zero) := by
    refine State.servesAt_l1Install hd m.ev ?_ (h.imp_right fun hw => ?_)
    · rw [grantSector_eq hwords hk]
      intro e he hew
      obtain ⟨i, -, rfl⟩ := List.mem_map.1 he
      exact congrArg (m.words.getD · Word.zero) (by dsimp only at hew; omega)
    · rw [grantSector_eq hwords hk]
      exact ⟨_, List.mem_map_of_mem (List.mem_range.2 (Nat.mod_lt w (by decide))), by dsimp only; omega⟩
  unfold installGrant
  rw [if_neg hev]
  split
  · exact hfill
  · exact State.servesAt_markStale hfill _

theorem servesAt_installGrants {m : LatchGrant} {w : Nat} (hd : d < s.dies.length) (hev : m.ev ≠ -4) (hwords : m.words.length = 5 * m.cnt)
    {ks : List Nat} (hks : ∀ k ∈ ks, k < m.cnt)
    (h : s.ServesAt d (.dev m.line) w (m.words.getD (w - 5 * m.first) Word.zero) ∨ ∃ k ∈ ks, w / 5 = m.first + k) :
    (s.each ks (installGrant d m)).ServesAt d (.dev m.line) w (m.words.getD (w - 5 * m.first) Word.zero) := by
  induction ks generalizing s with
  | nil => simpa [State.each] using h
  | cons k ks ih =>
    rw [List.forall_mem_cons] at hks
    obtain ⟨hk, hks⟩ := hks
    refine ih (s := installGrant d m s k) (by rw [dies_of_still (still_installGrant d m s k)]; exact hd) hks ?_
    rcases h with h | ⟨j, hj, hw⟩
    · exact .inl (servesAt_installGrant hd hev hwords hk (.inl h))
    · rcases List.mem_cons.1 hj with rfl | hj
      · exact .inl (servesAt_installGrant hd hev hwords hk (.inr hw))
      · exact .inr ⟨j, hj, hw⟩

end

/-- The third part of O33. -/
theorem latchQueueSteps_grant : Claims.LatchGrantStep := by
  intro s m g q hg hq
  have hcode : ∀ k : Gust, k.ref = m.who → ({ k with latchCode := some m.status } : Gust).ref = m.who := fun _ h => h
  by_cases hm : m.status = 1 ∨ m.status = 3 ∨ m.status = -1
  · have hstill : ((s.receive (dieOf q.core) m.clk).each (List.range m.cnt) (installGrant (dieOf q.core) m)).still = s.still :=
      (still_each (still_installGrant _ m) _ _).trans (still_receive _ _ _)
    obtain ⟨n, hgust⟩ := gust?_of_still hstill hg
    refine ⟨_, n, congrArg Host.Outcome.next (State.latchGrant_granted hq hm), State.gust?_onGust_some hgust _ hcode,
      fun h1 h3 hn => absurd hm (by simp [h1, h3, hn]), fun _ hev hd hwords _ w hlo hhi => ?_⟩
    obtain ⟨x, hx, c, hc, hval⟩ := servesAt_installGrants (s := s.receive (dieOf q.core) m.clk) (w := w)
      (by rw [dies_of_still (still_receive _ _ _)]; exact hd) hev hwords (ks := List.range m.cnt) (fun k => List.mem_range.1)
      (.inr ⟨w / 5 - m.first, List.mem_range.2 (by omega), by omega⟩)
    refine ⟨c, ?_, hval⟩
    exact (congrArg (fun o : Option L1Line => o.bind fun x => x.get? w) hx).trans hc
  · refine ⟨_, g.unacked, congrArg Host.Outcome.next (State.latchGrant_told hq hm), State.gust?_onGust_some hg _ hcode,
      fun _ _ _ => rfl, fun h => absurd h hm⟩

end Sys2Proof.Machine
end

section
/-! O33: deadlock probes (R265). -/

namespace Sys2Proof.Machine

section
variable {s : State} {line : Nat} {e : Waiter} {who : GustRef}

/-! A message that is on its way to a gust stays there through what a home does. -/

theorem mem_flight_send {i j : Instr} (h : i ∈ s.flight) : i ∈ (s.send j).flight := List.mem_append_left _ h

theorem mem_flight_endEntry {i : Instr} (h : i ∈ s.flight) (x : Waiter) (status : Int) : i ∈ (s.endEntry line x status).flight :=
  mem_flight_send (s := s.onHead line fun h => { h with entries := h.entries.filter fun y => y.who != x.who }) h

theorem mem_flight_dropExpired {i : Instr} (h : i ∈ s.flight) : i ∈ (s.dropExpired line).flight := by
  unfold State.dropExpired State.each
  exact List.foldlRecOn _ _ (motive := fun t : State => i ∈ t.flight) h fun _ ht x _ => mem_flight_endEntry ht x 0

theorem mem_flight_grantLatch {i : Instr} (hi : latchMsg i = true) (h : i ∈ s.flight) (ctx first cnt : Nat) (cls : Trit) (lost : Bool) (ev : Int) :
    i ∈ (s.grantLatch who ctx line first cnt cls lost ev).flight := by
  cases hh : s.head? line with
  | none => simpa only [State.grantLatch, hh] using h
  | some k =>
    obtain ⟨u, words, clk, hu, hsent, -⟩ := State.grantLatch_sent hh who ctx first cnt cls lost ev
    rw [hsent]
    exact mem_flight_send (mem_flight_of_still hu hi h)

/-- What every change of a choice at a head keeps, the choice keeps (R259). -/
theorem State.chooseLatch_keeps (P : State → Prop)
    (hgrant : ∀ t who ctx first cnt cls lost ev, P t → P (t.grantLatch who ctx line first cnt cls lost ev))
    (hoffer : ∀ t r f cls, (∀ x : Waiter, (f x).who = x.who) → P t → P ((t.onEntry line r f).onHead line fun h => h.countGrant cls))
    (n : Nat) (h : P s) : P (s.chooseLatch line n) := by
  induction n generalizing s with
  | zero => exact h
  | succ n ih =>
    rw [State.chooseLatch]
    split
    · exact h
    · split
      · exact h
      · split
        · exact h
        · split
          · exact ih (hgrant _ _ _ _ _ _ _ _ h)
          · exact ih (hoffer _ _ _ _ (fun _ => rfl) h)

theorem mem_flight_chooseNext {i : Instr} (hi : latchMsg i = true) (h : i ∈ s.flight) : i ∈ (s.chooseNext line).flight :=
  State.chooseLatch_keeps (fun t => i ∈ t.flight) (fun _ _ ctx first cnt cls lost ev ht => mem_flight_grantLatch hi ht ctx first cnt cls lost ev)
    (fun _ _ _ _ _ ht => ht) _ (mem_flight_dropExpired h)

/-! A gust that has left a line's queue is not put back by a choice there. -/

/-- No entry of a line is the gust's. -/
def State.Left (s : State) (line : Nat) (who : GustRef) : Prop := ∀ k ∈ s.heads, k.line = line → ∀ x ∈ k.entries, x.who ≠ who

theorem State.left_of_heads {t : State} (ht : t.heads = s.heads) (h : s.Left line who) : t.Left line who := by
  unfold State.Left
  rw [ht]
  exact h

/-- A change of a line's heads that brings in no entry of another gust. -/
theorem State.left_onHead {f : QHead → QHead} (hf : ∀ k, ∀ x ∈ (f k).entries, ∃ y ∈ k.entries, y.who = x.who) (h : s.Left line who) :
    (s.onHead line f).Left line who := by
  intro k hk hl x hx
  rcases (mem_heads_onHead hk).2 with ⟨j, hj, hjl, rfl⟩ | ⟨hmem, hne⟩
  · obtain ⟨y, hy, hyx⟩ := hf j x hx
    rw [← hyx]
    exact h j hj hjl y hy
  · exact absurd hl hne

theorem State.left_endEntry (h : s.Left line who) (x : Waiter) (status : Int) : (s.endEntry line x status).Left line who :=
  State.left_onHead (f := fun k => { k with entries := k.entries.filter fun y => y.who != x.who })
    (fun _ y hy => ⟨y, (List.mem_filter.1 hy).1, rfl⟩) h

/-- A gust whose entry has left. -/
theorem State.left_of_endEntry (status : Int) : (s.endEntry line e status).Left line e.who := by
  intro k hk hl x hx
  rcases (mem_heads_onHead (f := fun k => { k with entries := k.entries.filter fun y => y.who != e.who }) hk).2 with ⟨j, -, -, rfl⟩ | ⟨-, hne⟩
  · simpa using (List.mem_filter.1 hx).2
  · exact absurd hl hne

theorem State.left_dropExpired (h : s.Left line who) : (s.dropExpired line).Left line who := by
  unfold State.dropExpired State.each
  exact List.foldlRecOn _ _ (motive := fun t : State => t.Left line who) h fun _ ht x _ => State.left_endEntry ht x 0

theorem State.left_grantLatch (h : s.Left line who) (r : GustRef) (ctx first cnt : Nat) (cls : Trit) (lost : Bool) (ev : Int) :
    (s.grantLatch r ctx line first cnt cls lost ev).Left line who := by
  cases hh : s.head? line with
  | none => simpa only [State.grantLatch, hh] using h
  | some k =>
    obtain ⟨u, words, clk, hu, hsent, -⟩ := State.grantLatch_sent hh r ctx first cnt cls lost ev
    rw [hsent]
    refine State.left_of_heads (s := s.onHead line fun k => k.granted r ctx first cnt cls)
      (show u.heads = _ from heads_of_still hu) (State.left_onHead (f := fun k => k.granted r ctx first cnt cls)
      (fun _ y hy => ⟨y, (List.mem_filter.1 hy).1, rfl⟩) h)

theorem State.left_onEntry (h : s.Left line who) (r : GustRef) {f : Waiter → Waiter} (hf : ∀ x, (f x).who = x.who) :
    (s.onEntry line r f).Left line who := by
  refine State.left_onHead (s := s.fresh.2) (f := fun k => { k with entries := k.entries.map fun x =>
    if x.who == r then { f x with ver := s.serial } else x }) (fun k y hy => ?_) h
  obtain ⟨x, hx, rfl⟩ := List.mem_map.1 hy
  refine ⟨x, hx, ?_⟩
  split
  · exact (hf x).symm
  · rfl

theorem State.left_chooseNext (h : s.Left line who) : (s.chooseNext line).Left line who :=
  State.chooseLatch_keeps (fun t => t.Left line who) (fun _ r ctx first cnt cls lost ev ht => State.left_grantLatch ht r ctx first cnt cls lost ev)
    (fun _ _ _ _ hf ht => State.left_onHead (fun _ y hy => ⟨y, hy, rfl⟩) (State.left_onEntry ht _ hf)) _ (State.left_dropExpired h)

/-! Probes. -/

theorem flight_each_send {α : Type} (f : α → Instr) (xs : List α) : (s.each xs fun s x => s.send (f x)).flight = s.flight ++ xs.map f := by
  induction xs generalizing s with
  | nil => simp [State.each]
  | cons x xs ih =>
    refine (ih (s := s.send (f x))).trans ?_
    rw [State.send, List.append_assoc]
    rfl

section
variable (hfind : ((s.head? line).bind fun h => h.entries.find? fun x => x.who == e.who) = some e)
include hfind

/-- A waiter that has been queued long enough sends its probes (R265). -/
theorem deadlockSteps_send (hoff : e.offered = false) :
    (s.ptime < e.probeAt → exec (.deadlockProbeSend line e.who) s = .next s) ∧
    (e.probeAt ≤ s.ptime → ∃ t : State, exec (.deadlockProbeSend line e.who) s = .next t ∧
      t.flight = s.flight ++ (s.conflicts line e).map fun h => .deadlockProbe ⟨[(e.who, line, e.stamp), (h, 0, 0)]⟩) := by
  refine ⟨fun hlt => congrArg Host.Outcome.next ?_, fun hle => ⟨_, rfl, ?_⟩⟩
  · simp [State.probeSend, hfind, hlt]
  · have hready : (e.offered || decide (s.ptime < e.probeAt)) = false := by simp [hoff, hle]
    simp only [State.probeSend, hfind, hready, Bool.false_eq_true, if_false]
    exact flight_each_send (fun h => .deadlockProbe ⟨[(e.who, line, e.stamp), (h, 0, 0)]⟩) _

/-- A waiter that a cycle loses is told so, and its entry has left the line (R265). -/
theorem State.dropEntry_told (status : Int) :
    Instr.latchGrant { who := e.who, line, first := e.first, cnt := e.cnt, status, ev := e.ev, words := [], clk := clockZero } ∈
      (s.dropEntry line e.who status).flight ∧ (s.dropEntry line e.who status).Left line e.who := by
  simp only [State.dropEntry, hfind]
  exact ⟨mem_flight_chooseNext rfl (List.mem_append_right _ (List.mem_singleton.2 rfl)), State.left_chooseNext (State.left_of_endEntry status)⟩

end

/-- The later of two waiters is the one that their cycle loses (R265). -/
theorem youngest_pair {f : Waiter} (hlt : e.entered < f.entered) : youngest [e, f] = some f := by
  have hkey : [e.entered, e.ctx, e.who.front, e.who.lin, e.who.gust] < [f.entered, f.ctx, f.who.front, f.who.lin, f.who.gust] :=
    List.Lex.rel hlt
  simp [youngest, hkey]

/-- The cycle of two that a probe has closed. -/
theorem State.deadlockProbe_pair {f : Waiter} {lf : Nat} {p : Probe}
    (hp : p.path = [(e.who, line, e.stamp), (f.who, lf, f.stamp), (e.who, 0, 0)]) (he : s.waitsAt e.who = some (line, e))
    (hf : s.waitsAt f.who = some (lf, f)) (hoe : e.offered = false) (hof : f.offered = false) (hlt : e.entered < f.entered) :
    (s.deadlockProbe p).still = (s.dropEntry lf f.who (-2)).still := by
  have hmembers : [(e.who, line, e.stamp), (f.who, lf, f.stamp)].filterMap (fun x => s.member x.1) = [e, f] := by
    simp [State.member, he, hf]
  have hunchanged : ([(e.who, line, e.stamp), (f.who, lf, f.stamp)].all fun x =>
      (s.waitsAt x.1).any fun k => k.1 == x.2.1 && k.2.stamp == x.2.2 && !k.2.offered) = true := by
    simp [he, hf, hoe, hof]
  simp only [State.deadlockProbe, hp, List.dropLast, List.head?, List.getLast?, List.getLast, hunchanged, hmembers, youngest_pair hlt, hf]
  rw [if_neg (by decide), if_pos trivial]
  refine (still_each (fun t k => still_logRecord t k _) _ _).trans ?_
  split
  · exact still_onDie _ _ _
  · rfl

/-- A probe on whose path an entry has changed is discarded (R265). -/
theorem State.deadlockProbe_changed {p : Probe} {x : GustRef × Nat × Nat} (hx : x ∈ p.path.dropLast)
    (hchanged : (s.waitsAt x.1).any (fun k => k.1 == x.2.1 && k.2.stamp == x.2.2 && !k.2.offered) = false) : s.deadlockProbe p = s := by
  have hall : (p.path.dropLast.all fun x => (s.waitsAt x.1).any fun k => k.1 == x.2.1 && k.2.stamp == x.2.2 && !k.2.offered) = false :=
    List.all_eq_false.2 ⟨x, hx, by simp [hchanged]⟩
  simp only [State.deadlockProbe, hall]
  split <;> rfl

/-- The fourth part of O33. -/
theorem latchQueueSteps_deadlock : Claims.DeadlockSteps := by
  intro s line e f lf p
  refine ⟨fun hfind hoff => deadlockSteps_send hfind hoff, fun hp he hf hoe hof hlt hfind => ?_,
    fun x hx hchanged => congrArg Host.Outcome.next (State.deadlockProbe_changed hx hchanged)⟩
  have hstill := State.deadlockProbe_pair hp he hf hoe hof hlt
  obtain ⟨htold, hleft⟩ := State.dropEntry_told hfind (-2)
  have hleft' := State.left_of_heads (heads_of_still hstill) hleft
  exact ⟨_, rfl, mem_flight_of_still hstill rfl htold, fun k hk => hleft' k (List.mem_of_find?_eq_some hk) (by simpa using List.find?_some hk)⟩

end

/-- Settles O33: the heads of a line, the grants sent and the L1 slices, as each step of a home leaves them. -/
theorem latchQueueSteps : Obligations.LatchQueueSteps :=
  ⟨latchQueueSteps_request, latchQueueSteps_queue, latchQueueSteps_grant, latchQueueSteps_deadlock⟩

end Sys2Proof.Machine
end

section
/-! O32: the line and span of a latch form (R269). -/

namespace Sys2Proof.Machine

section
variable {s : State} {g : Gust} {q : Squall} {bc : BaseCls} {a n p w : Nat} {off : Int} {write : Bool}

theorem latchAddrs_one (hbc : bc ≠ .vector) (g : Gust) (c : Ctl) (a : Nat) (off : Int) : latchAddrs g c bc a off = [baseAddr g bc a off] := by
  unfold latchAddrs
  split
  · exact absurd rfl hbc
  · rfl

theorem State.latchPlaces_one {e : Nat} {k : WLoc} {x : Int} (hp : s.placeOf q g.priv .g x write = (.mem k e, s)) :
    s.latchPlaces g q write [x] = .ok ([k], s) := by
  simp only [State.latchPlaces, hp]

/-- The first sector of a latch form's span (R269). -/
theorem span_first (x : Int) (n : Nat) : 
    (if n = 0 then 0 else (([x].map fun y => (y % 45).toNat).map sectorOf).foldl min 8) = (Claims.span x n).1 := by
  have hsec : sectorOf (x % 45).toNat ≤ 8 := by
    simp only [sectorOf]
    omega
  unfold Claims.span
  split
  · rfl
  · exact Nat.min_eq_right hsec

theorem span_count (x : Int) (n : Nat) : (if n = 0 then 9 else n) = (Claims.span x n).2 := by
  unfold Claims.span
  split <;> rfl

/-- The sector of a latch form's address lies in its span. -/
theorem mem_span (x : Int) (n : Nat) : (Claims.span x n).1 ≤ sectorOf (x % 45).toNat ∧
    sectorOf (x % 45).toNat < (Claims.span x n).1 + (Claims.span x n).2 := by
  simp only [Claims.span, sectorOf]
  split
  · dsimp only
    omega
  · dsimp only
    omega

/-- One address lies in one line, and in its span (R269). -/
theorem one_line (x : Int) : ([x].any fun y => y / 45 != x / 45) = false := by simp

theorem one_in_span (x : Int) (n : Nat) : (([x].map fun y => (y % 45).toNat).any fun w =>
    !decide ((Claims.span x n).1 ≤ sectorOf w ∧ sectorOf w < (Claims.span x n).1 + (Claims.span x n).2)) = false := by
  simp [mem_span]

theorem span_in_line {x : Int} (h : n = 0 ∨ (x % 45).toNat / 5 + n ≤ 9) : ¬ (Claims.span x n).1 + (Claims.span x n).2 > 9 := by
  unfold Claims.span
  split
  · decide
  · dsimp only
    omega

section
variable {k : WLoc} {e : Nat} {x : Int} (hfill : g.fillFaults = []) (hp : s.placeOf q g.priv .g x write = (.mem k e, s))
include hfill hp

/-- A span that goes beyond its line (R269). -/
theorem State.latchFind_beyond (hn : n ≠ 0) (hspan : 9 < (x % 45).toNat / 5 + n) : s.latchFind g q [x] n write = (.ends (.fault s 61 x), s) := by
  have hbeyond : (Claims.span x n).1 + (Claims.span x n).2 > 9 := by simpa [Claims.span, hn] using hspan
  simp only [State.latchFind, hfill, List.head?_nil, State.latchPlaces_one hp, one_line, span_first, span_count x n, hbeyond, if_true,
    Bool.false_eq_true, if_false]

/-- A line outside HBM4 (R269). -/
theorem State.latchFind_elsewhere (hspan : n = 0 ∨ (x % 45).toNat / 5 + n ≤ 9) (hloc : ∀ p, k.loc ≠ .dev p) :
    s.latchFind g q [x] n write = (.ends (.fault s 62 x), s) := by
  simp only [State.latchFind, hfill, List.head?_nil, State.latchPlaces_one hp, one_line, span_first, span_count x n, span_in_line hspan, one_in_span,
    Bool.false_eq_true, if_false]
  split
  · next hk =>
    rw [List.cons.injEq] at hk
    exact absurd (congrArg WLoc.loc hk.1) (hloc _)
  · rfl

end

/-- A latch form with one address finds its line and its span (R269). -/
theorem State.latchFind_latched (h : Claims.Latched s g q bc a n off write p w) (c : Ctl) :
    s.latchFind g q (latchAddrs g c bc a off) n write =
      (.at_ p (Claims.span (baseAddr g bc a off) n).1 (Claims.span (baseAddr g bc a off) n).2 (baseAddr g bc a off / 45 * 45),
        (s.homeFill p 0).2) := by
  obtain ⟨hbc, hfill, ⟨e, hp⟩, hpoison, hhome, hspan⟩ := h
  obtain ⟨h, hh⟩ := Option.isSome_iff_exists.1 hhome
  obtain ⟨t, hfound, -⟩ := State.homeFill_found hh 0
  simp only [latchAddrs_one hbc, State.latchFind, hfill, List.head?_nil, State.latchPlaces_one hp, one_line, span_first,
    span_count (baseAddr g bc a off) n, span_in_line hspan, one_in_span, hpoison, hfound, Bool.false_eq_true, if_false]

/-- A form with no participating lane has no address (R269). -/
theorem State.latchFind_none {c : Ctl} (hfill : g.fillFaults = []) (hnone : g.activeLanes c.guard = []) :
    s.latchFind g q (latchAddrs g c .vector a off) n true = (.ends (.fault s 60 0), s) := by
  simp [latchAddrs, hnone, State.latchFind, hfill, State.latchPlaces]

/-- The search for a latch form's line uses its home line (R269). -/
theorem latched_touched (h : Claims.Latched s g q bc a n off write p w) : HomesTouched s (s.homeFill p 0).2 := by
  obtain ⟨-, -, -, -, hhome, -⟩ := h
  obtain ⟨h, hh⟩ := Option.isSome_iff_exists.1 hhome
  obtain ⟨t, hfound, ht⟩ := State.homeFill_found hh 0
  rw [hfound]
  exact ht

theorem HomesTouched.issuing {t : State} (h : HomesTouched s t) (hi : s.Issuing g q) : t.Issuing g q := by
  rw [h.rest]
  exact ⟨hi.cur, hi.gust, hi.squall⟩

theorem HomesTouched.latchesOf {t : State} (h : HomesTouched s t) (r : GustRef) : t.latchesOf r = s.latchesOf r := by
  rw [h.rest]
  rfl

theorem HomesTouched.head? {t : State} (h : HomesTouched s t) (line : Nat) : t.head? line = s.head? line := by
  rw [h.rest]
  rfl

theorem HomesTouched.ptime {t : State} (h : HomesTouched s t) : t.ptime = s.ptime := by rw [h.rest]

end

end Sys2Proof.Machine
end

section
/-! O32: LATCH and LATCHT (R260, R261, R264, R269, R270). -/

namespace Sys2Proof.Machine

section
variable {s : State} {g : Gust} {q : Squall} {c : Ctl} {ev : Int} {bc : BaseCls} {d a b n p w : Nat} {off : Int} {timed : Bool}

/-- LATCHT, or LATCH. -/
def latchInstr (timed : Bool) (c : Ctl) (ev : Int) (bc : BaseCls) (d a b n : Nat) (off : Int) : Instr :=
  if timed then .latcht c ev bc d a b n off else .latch c ev bc d a n off

theorem exec_latchInstr (s : State) :
    exec (latchInstr timed c ev bc d a b n off) s = s.latchForm c ev bc d a n off (if timed then some b else none) := by
  cases timed <;> rfl

/-- A latch form of a gust that has not been told a code yet ends as the search for its line does. -/
theorem State.latchForm_ends (hi : s.Issuing g q) (ha : g.acts c.guard = true) (hcode : g.latchCode = none) {e : Eff} {t : State}
    (hfind : s.latchFind g q (latchAddrs g c bc a off) n true = (.ends e, t)) (limit : Option Nat) :
    s.latchForm c ev bc d a n off limit = .next ((e.settle g s.op).keepIssuing g) := by
  rw [State.latchForm, State.performGust_acts hi c ha]
  simp only [hcode, hi.squall, hfind]

/-- The code has come (R261). -/
theorem latchForms_told (hi : s.Issuing g q) (ha : g.acts c.guard = true) {code : Int} (hcode : g.latchCode = some code) :
    let u := s.onGust g.ref fun h => { h with latchCode := none }
    (code = 1 ∨ code = 3 ∨ code = -1 →
      exec (latchInstr timed c ev bc d a b n off) s = .next (Claims.out ((u.acquirePart (dieOf q.core) .dv).writeS g.ref d (Word.ofInt code)) g)) ∧
    (code = 0 ∨ code = 2 ∨ code = -2 →
      exec (latchInstr timed c ev bc d a b n off) s = .next (Claims.out (u.writeS g.ref d (Word.ofInt code)) g)) := by
  intro u
  have hform : exec (latchInstr timed c ev bc d a b n off) s = .next (Claims.out
      ((if code = 0 ∨ code = 2 ∨ code = -2 then u else u.acquirePart (dieOf q.core) .dv).writeS g.ref d (Word.ofInt code)) g) := by
    rw [exec_latchInstr, State.latchForm, State.performGust_acts hi c ha]
    simp only [hcode, hi.squall]
    rfl
  refine ⟨fun hgrant => hform.trans ?_, fun htold => hform.trans ?_⟩
  · rw [if_neg (by omega)]
  · rw [if_pos htold]

/-- A line is found (R270). -/
theorem State.latchForm_found (hi : s.Issuing g q) (ha : g.acts c.guard = true) (hcode : g.latchCode = none)
    (h : Claims.Latched s g q bc a n off true p w) (limit : Option Nat) :
    let x := baseAddr g bc a off
    let t := (s.homeFill p 0).2
    let sp := Claims.span x n
    s.latchForm c ev bc d a n off limit = .next ((Eff.settle g s.op
      (if 9 ≤ (s.latchesOf g.ref).length then .fault t 63 x
      else if (s.latchesOf g.ref).any fun h => h.1 == p && spansMeet h.2.1 h.2.2 sp.1 sp.2 then .fault t 64 x
      else .wait (t.send (.latchRequest
        { who := g.ref, ctx := q.ctx, die := dieOf q.core, line := p, first := sp.1, cnt := sp.2, timed := limit.isSome,
          deadline := s.ptime + (limit.elim 0 fun b => max 0 (g.s b).val).toNat, vaddr := x / 45 * 45, ev,
          lease := t.leaseOf q.core q.ctx (x / 45 * 45), words := t.accessRec g.ref, sentAt := s.ptime })) (.latch x n))).keepIssuing g) := by
  intro x t sp
  have ht := latched_touched h
  have hone : latchAddrs g c bc a off = [x] := latchAddrs_one h.1 g c a off
  have hfind := State.latchFind_latched h c
  rw [hone] at hfind
  rw [State.latchForm, State.performGust_acts hi c ha]
  simp only [hcode, hi.squall, hfind, ht.latchesOf, ht.ptime, hone, List.headD_cons]
  cases limit <;> rfl

theorem spansMeet_iff {f1 n1 f2 n2 : Nat} : spansMeet f1 n1 f2 n2 = true ↔ f1 < f2 + n2 ∧ f2 < f1 + n1 := by
  simp [spansMeet]

section
variable (hi : s.Issuing g q) (ha : g.acts c.guard = true) (hcode : g.latchCode = none)
include hi ha hcode

/-- A tenth latch, one that meets a latch the gust holds, and one that does neither (R260, R269, R270). -/
theorem latchForms_found (h : Claims.Latched s g q bc a n off true p w) :
    let i := latchInstr timed c ev bc d a b n off
    let x := baseAddr g bc a off
    let t := (s.homeFill p 0).2
    let sp := Claims.span x n
    ((∀ h ∈ s.latchesOf g.ref, h.1 ≠ p ∨ h.2.1 + h.2.2 ≤ sp.1 ∨ sp.1 + sp.2 ≤ h.2.1) → (s.latchesOf g.ref).length < 9 →
      exec i s = .next (Claims.waits (t.send (.latchRequest
        { who := g.ref, ctx := q.ctx, die := dieOf q.core, line := p, first := sp.1, cnt := sp.2, timed := timed,
          deadline := s.ptime + (if timed then (max 0 (g.s b).val).toNat else 0), vaddr := x / 45 * 45, ev,
          lease := t.leaseOf q.core q.ctx (x / 45 * 45), words := t.accessRec g.ref, sentAt := s.ptime })) g s.op (.latch x n))) ∧
    (9 ≤ (s.latchesOf g.ref).length → Claims.Handles g q → exec i s = .next (Claims.faulted t g 63 0 x)) ∧
    ((s.latchesOf g.ref).length < 9 → Claims.Handles g q →
      (∃ h ∈ s.latchesOf g.ref, h.1 = p ∧ h.2.1 < sp.1 + sp.2 ∧ sp.1 < h.2.1 + h.2.2) → exec i s = .next (Claims.faulted t g 64 0 x)) := by
  intro i x t sp
  have hform := State.latchForm_found (ev := ev) (d := d) hi ha hcode h (if timed then some b else none)
  have hti := (latched_touched h).issuing hi
  rw [← exec_latchInstr] at hform
  refine ⟨fun hapart hfew => hform.trans ?_, fun hmany hh => hform.trans ?_, fun hfew hh hmeets => hform.trans ?_⟩
  · have hnone : ((s.latchesOf g.ref).any fun h => h.1 == p && spansMeet h.2.1 h.2.2 sp.1 sp.2) = false := by
      refine List.any_eq_false.2 fun k hk => ?_
      rw [Bool.and_eq_true, beq_iff_eq, spansMeet_iff]
      rcases hapart k hk with hne | hlo | hhi
      · exact fun hmeets => hne hmeets.1
      · omega
      · omega
    rw [if_neg (by omega), hnone]
    cases timed <;> rfl
  · rw [if_pos hmany, State.settle_fault hti hh]
  · obtain ⟨k, hk, rfl, hmeets⟩ := hmeets
    have hany : ((s.latchesOf g.ref).any fun h => h.1 == k.1 && spansMeet h.2.1 h.2.2 sp.1 sp.2) = true :=
      List.any_eq_true.2 ⟨k, hk, by rw [Bool.and_eq_true, beq_iff_eq, spansMeet_iff]; exact ⟨rfl, hmeets⟩⟩
    rw [if_neg (by omega), hany, if_pos rfl, State.settle_fault hti hh]

/-- A latch form whose search for its line ends in a fault (R269). -/
theorem latchForms_fault {cause x : Int} (hfind : s.latchFind g q (latchAddrs g c bc a off) n true = (.ends (.fault s cause x), s))
    (hh : Claims.Handles g q) : exec (latchInstr timed c ev bc d a b n off) s = .next (Claims.faulted s g cause 0 x) := by
  rw [exec_latchInstr, State.latchForm_ends hi ha hcode hfind, State.settle_fault hi hh]

end

end

/-- The first part of O32. -/
theorem latchForms_latch : Claims.LatchForms := by
  intro c ev bc d a b n off timed s g q p w hi ha i x place t sp
  refine ⟨fun code hcode => latchForms_told hi ha hcode, fun hcode h hapart => ?_, fun hcode h hfew hh hmeets => ?_,
    fun hcode hbc hfill hh => ⟨?_, ?_⟩, fun hcode hbc hfill hnone hh => ?_⟩
  · obtain ⟨hsent, hmany, -⟩ := latchForms_found (ev := ev) (d := d) (b := b) (timed := timed) hi ha hcode h
    exact ⟨hsent hapart, hmany⟩
  · exact (latchForms_found hi ha hcode h).2.2 hfew hh hmeets
  · rintro ⟨k, e, hp⟩ hn hspan
    refine latchForms_fault hi ha hcode ?_ hh
    rw [latchAddrs_one hbc]
    exact State.latchFind_beyond hfill hp hn hspan
  · intro hspan hp
    refine latchForms_fault hi ha hcode ?_ hh
    rw [latchAddrs_one hbc]
    rcases hp with ⟨k, l, e, hp⟩ | ⟨v, k, l, e, hp⟩
    · exact State.latchFind_elsewhere hfill hp hspan fun _ h => nomatch h
    · exact State.latchFind_elsewhere hfill hp hspan fun _ h => nomatch h
  · subst hbc
    exact latchForms_fault hi ha hcode (State.latchFind_none hfill hnone) hh

end Sys2Proof.Machine
end

section
/-! O32: UNLATCH and LATQ (R260, R269, R271, R272). -/

namespace Sys2Proof.Machine

section
variable {s : State} {g : Gust} {q : Squall} {c : Ctl} {sus : Bool} {bc : BaseCls} {d a n p w : Nat} {off : Int}
  (hi : s.Issuing g q) (ha : g.acts c.guard = true)
include hi ha

/-- UNLATCH that finds its line (R271). -/
theorem exec_unlatch (h : Claims.Latched s g q bc a n off false p w) :
    let x := baseAddr g bc a off
    let t := (s.homeFill p 0).2
    let u := t.releasePart (dieOf q.core) .dv
    let sp := Claims.span x n
    exec (.unlatch c sus bc a n off) s = .next ((Eff.settle g s.op
      (if !(s.latchesOf g.ref).contains (p, sp.1, sp.2) then .fault t 65 x
      else if !g.quiet then .wait t .quiet
      else .done (u.send (.latchRelease ⟨g.ref, dieOf q.core, (u.die (dieOf q.core)).clock, p, sp.1, sp.2, sus⟩)))).keepIssuing g) := by
  intro x t u sp
  have hone : latchAddrs g c bc a off = [x] := latchAddrs_one h.1 g c a off
  have hfind := State.latchFind_latched h c
  rw [hone] at hfind
  rw [exec, execUnlatch, State.performGust_acts hi c ha]
  simp only [hi.squall, hone, hfind, (latched_touched h).latchesOf, List.headD_cons]
  rfl

/-- UNLATCH of a latch the gust holds, and of another span (R260, R271). -/
theorem unlatchForms_unlatch (h : Claims.Latched s g q bc a n off false p w) :
    let x := baseAddr g bc a off
    let t := (s.homeFill p 0).2
    let u := t.releasePart (dieOf q.core) .dv
    let sp := Claims.span x n
    ((p, sp.1, sp.2) ∈ s.latchesOf g.ref → g.quiet = true → exec (.unlatch c sus bc a n off) s =
      .next (Claims.out (u.send (.latchRelease ⟨g.ref, dieOf q.core, (u.die (dieOf q.core)).clock, p, sp.1, sp.2, sus⟩)) g)) ∧
    ((p, sp.1, sp.2) ∈ s.latchesOf g.ref → g.quiet = false →
      exec (.unlatch c sus bc a n off) s = .next (Claims.waits t g s.op .quiet)) ∧
    ((p, sp.1, sp.2) ∉ s.latchesOf g.ref → Claims.Handles g q →
      exec (.unlatch c sus bc a n off) s = .next (Claims.faulted t g 65 0 x)) := by
  intro x t u sp
  have hform := exec_unlatch (sus := sus) hi ha h
  have hti := (latched_touched h).issuing hi
  refine ⟨fun hheld hquiet => hform.trans ?_, fun hheld hquiet => hform.trans ?_, fun hheld hh => hform.trans ?_⟩
  · rw [List.contains_iff_mem.2 hheld, hquiet]
    rfl
  · rw [List.contains_iff_mem.2 hheld, hquiet]
    rfl
  · have hnot : (s.latchesOf g.ref).contains (p, sp.1, sp.2) = false := by simpa using hheld
    rw [hnot, Bool.not_false, if_pos rfl, State.settle_fault hti hh]

/-- LATQ that finds its line (R272). -/
theorem exec_latq (h : Claims.Latched s g q bc a 1 off false p w) :
    let words := latqWords g.ref (s.head? p)
    exec (.latq c bc d a off) s = .next (Claims.out
      (((s.homeFill p 0).2.writeS g.ref d (Word.ofInt words.1)).writeS g.ref (d + 1) (Word.ofInt words.2)) g) := by
  intro words
  have hfind := State.latchFind_latched h c
  rw [exec, execLatq, State.performGust_acts hi c ha]
  simp only [hi.squall, hfind, (latched_touched h).head?]
  rfl

end

/-! The words of LATQ (R272). -/

/-- The trit of LATQ for a sector. -/
def latchTrit (who : GustRef) (h : QHead) (k : Nat) : Int :=
  match h.held.find? fun x => decide (x.2.1 ≤ k ∧ k < x.2.1 + x.2.2) with
  | some x => if h.holders.any fun y => y.who == who && y.first == x.2.1 && x.1 == who then 1 else -1
  | none => 0

theorem latchTrit_values (who : GustRef) (h : QHead) (k : Nat) : latchTrit who h k = -1 ∨ latchTrit who h k = 0 ∨ latchTrit who h k = 1 := by
  unfold latchTrit
  split
  · split <;> simp
  · simp

/-- The trit of a sector is zero where no span that counts as held covers it. -/
theorem latchTrit_eq_zero (who : GustRef) (h : QHead) (k : Nat) :
    latchTrit who h k = 0 ↔ ∀ y ∈ h.held, ¬(y.2.1 ≤ k ∧ k < y.2.1 + y.2.2) := by
  unfold latchTrit
  cases hfind : h.held.find? fun x => decide (x.2.1 ≤ k ∧ k < x.2.1 + x.2.2) with
  | none =>
    have hnone := List.find?_eq_none.1 hfind
    simpa using hnone
  | some x =>
    have hx := List.find?_some hfind
    rw [decide_eq_true_eq] at hx
    refine ⟨fun hzero => ?_, fun hall => absurd hx (hall x (List.mem_of_find?_eq_some hfind))⟩
    dsimp only at hzero
    split at hzero <;> exact absurd hzero (by decide)

/-- Two fields and what stands above them, at the trits where LATQ's first word has them. -/
theorem fld_latqWord0 {l t : Int} (hl : fitsT l 3 = true) :
    fld (Word.ofInt (pow3 18 * t + pow3 15 * l)).val 17 15 = l ∧ fld (Word.ofInt (pow3 18 * t + pow3 15 * l)).val 14 0 = 0 ∧
      ∀ k, k < 9 → tritI (Word.ofInt (pow3 18 * t + pow3 15 * l)).val (18 + k) = tritI t k := by
  have hword : pow3 18 * t + pow3 15 * l = 0 + pow3 15 * (l + pow3 3 * t) := by
    simp only [pow3]
    ring
  rw [Word.val_ofInt, hword]
  refine ⟨?_, ?_, fun k hk => ?_⟩
  · rw [fld_wrapT _ (by decide), fld_cat_high (fitsT_zero 15) _ le_rfl (by decide), fld_cat_low _ _ (by decide)]
    exact fld_fits hl
  · rw [fld_wrapT _ (by decide), fld_cat_low _ _ (by decide)]
    exact fld_fits (fitsT_zero 15)
  · rw [tritI_eq_fld, fld_wrapT _ (by omega), fld_cat_high (fitsT_zero 15) _ (by omega) (by omega), fld_cat_high hl _ (by omega) (by omega),
      tritI_eq_fld]
    congr 1 <;> omega

/-- The four counts of LATQ's second word. -/
theorem fld_latqWord1 {u z m r : Int} (hu : fitsT u 6 = true) (hz : fitsT z 6 = true) (hm : fitsT m 6 = true) (hr : fitsT r 9 = true) :
    let w := Word.ofInt (pow3 21 * u + pow3 15 * z + pow3 9 * m + r)
    fld w.val 26 21 = u ∧ fld w.val 20 15 = z ∧ fld w.val 14 9 = m ∧ fld w.val 8 0 = r := by
  have hword : pow3 21 * u + pow3 15 * z + pow3 9 * m + r = r + pow3 9 * (m + pow3 6 * (z + pow3 6 * u)) := by
    simp only [pow3]
    ring
  intro w
  simp only [w, Word.val_ofInt, hword]
  refine ⟨?_, ?_, ?_, ?_⟩
  · rw [fld_wrapT _ (by decide), fld_cat_high hr _ (by decide) (by decide), fld_cat_high hm _ (by decide) (by decide),
      fld_cat_high hz _ (by decide) (by decide)]
    exact fld_fits hu
  · rw [fld_wrapT _ (by decide), fld_cat_high hr _ (by decide) (by decide), fld_cat_high hm _ (by decide) (by decide), fld_cat_low _ _ (by decide)]
    exact fld_fits hz
  · rw [fld_wrapT _ (by decide), fld_cat_high hr _ (by decide) (by decide), fld_cat_low _ _ (by decide)]
    exact fld_fits hm
  · rw [fld_wrapT _ (by decide), fld_cat_low _ _ (by decide)]
    exact fld_fits hr

/-- The words of LATQ for a head that holds at most 9 holders and 243 entries (R258). -/
theorem latqWords_some (who : GustRef) (h : QHead) (hholders : h.holders.length ≤ 9) (hentries : h.entries.length ≤ 243) :
    let w0 := Word.ofInt (latqWords who (some h)).1
    let w1 := Word.ofInt (latqWords who (some h)).2
    fld w0.val 17 15 = h.holders.length ∧ fld w0.val 14 0 = 0 ∧
    fld w1.val 26 21 = (h.entries.filter fun e => e.cls == .plus && e.st != .requeued).length ∧
    fld w1.val 20 15 = (h.entries.filter fun e => e.cls == .zero && e.st != .requeued).length ∧
    fld w1.val 14 9 = (h.entries.filter fun e => e.cls == .minus && e.st != .requeued).length ∧
    fld w1.val 8 0 = (h.entries.filter fun e => e.st == .requeued).length ∧
    ∀ k, k < 9 → (tritI w0.val (18 + k) = 0 ↔ ∀ y ∈ h.held, ¬(y.2.1 ≤ k ∧ k < y.2.1 + y.2.2)) := by
  have hcount (f : Waiter → Bool) {n : Nat} (hn : 243 ≤ (3 ^ n - 1) / 2) : fitsT (Int.ofNat (h.entries.filter f).length) n = true :=
    fitsT_ofNat (((List.length_filter_le f h.entries).trans hentries).trans hn)
  obtain ⟨hlen, hnone, htrits⟩ := fld_latqWord0 (t := ofTrits ((List.range 9).map (latchTrit who h)))
    (fitsT_ofNat (k := 3) (hholders.trans (by decide)))
  obtain ⟨hplus, hzero, hminus, hreq⟩ := fld_latqWord1 (hcount (fun e => e.cls == .plus && e.st != .requeued) (n := 6) (by decide))
    (hcount (fun e => e.cls == .zero && e.st != .requeued) (n := 6) (by decide))
    (hcount (fun e => e.cls == .minus && e.st != .requeued) (n := 6) (by decide)) (hcount (fun e => e.st == .requeued) (n := 9) (by decide))
  refine ⟨hlen, hnone, hplus, hzero, hminus, hreq, fun k hk => ?_⟩
  have htrit := htrits k hk
  rw [tritI_ofTrits (fun t ht => by
    obtain ⟨j, -, rfl⟩ := List.mem_map.1 ht
    exact latchTrit_values who h j) k (by simpa using hk), List.getElem_map, List.getElem_range] at htrit
  rw [← latchTrit_eq_zero who h k, ← htrit]
  rfl

/-- The second part of O32. -/
theorem latchForms_unlatch : Claims.UnlatchForms := by
  intro c sus bc d a n off s g q p w hi ha x t u sp
  refine ⟨fun h => unlatchForms_unlatch hi ha h, fun h => ⟨_, _, exec_latq hi ha h, fun hnone => ?_, fun k hk hholders hentries => ?_⟩⟩
  · rw [hnone]
    exact ⟨rfl, rfl⟩
  · rw [hk]
    exact latqWords_some g.ref k hholders hentries

/-- Settles O32, by the line and the span that the form's address has, or the fault that it raises. -/
theorem latchForms : Obligations.LatchForms := ⟨latchForms_latch, latchForms_unlatch⟩

end Sys2Proof.Machine
end

section
/-! O23. The words that a gust's load brings land by the gust's name (R244), and `State.loadReturn` takes from every gust of that name the
items that have landed, out of its own loads. The statement says that every gust of the name has no loads left. The two agree where a
name stands for one gust; the statement does not ask for that. -/

namespace Sys2Proof.Machine.TwinGusts

/-- A load of lane 0 that waits for word 44 of line 0. -/
def load : PendLoad := { d := 0, scalar := false, ev := 0, items := [(0, ⟨.dev 0, 44⟩, Word.zero)], lease := noLease }

/-- The gust that the name finds: it waits for that load. -/
def gust : Gust := { OverlayRace.gust 0 with loads := [load] }

/-- A gust of the same name, whose load is lost and lands nowhere (R422). -/
def twin : Gust := { gust with loads := [{ load with lost := true }] }

/-- The L1 slice of die 0 holds the word. -/
def state : State :=
  { State.reset with
      gusts := [gust, twin], squalls := [OverlayRace.squall 0],
      dies := State.reset.dies.set 0 { Die.init with
        l1 := [{ loc := .dev 0, words := [(44, { val := Word.ones, dirty := none, by_ := 0 })], stale := [], prio := 0, used := 0 }] } }

theorem readRelaxed_word : (state.readRelaxed 0 ⟨.dev 0, 44⟩ 0).1 = .ok Word.ones := by decide +kernel

/-- The state once the word has been read. -/
def after : State := (state.readRelaxed 0 ⟨.dev 0, 44⟩ 0).2

/-- The twin's lost load stays as the word lands. -/
theorem loads_loadReturn : (state.loadReturn gust.ref 0).gusts.map (·.loads.length) = [0, 1] := by decide +kernel

/-- The statement has it that no gust of the name is left with a load. -/
theorem loads_emptied : ((after.putVals gust.ref 0 [(0, Word.ones)]).onGust gust.ref fun h => { h with loads := [] }).gusts.map (·.loads.length) =
    [0, 0] := by decide +kernel

end Sys2Proof.Machine.TwinGusts

namespace Sys2Proof.Machine

open TwinGusts

/-- Refutes O23 by its second part: where another gust has the name of the gust whose word lands, and a lost load of its own, that load
stays. (With no second gust of the name the statement's two ways to end agree.) -/
theorem not_pendingAccessSteps : ¬ Obligations.PendingAccessSteps := by
  unfold Obligations.PendingAccessSteps
  intro h
  obtain ⟨-, lands, -⟩ := h state gust (OverlayRace.squall 0) 0 load (.dev 0) 8 (by decide +kernel) (by decide +kernel) rfl (by decide +kernel)
  have hread : state.readRelaxed 0 ⟨.dev 0, 44⟩ 0 = (.ok Word.ones, after) := Prod.ext readRelaxed_word rfl
  have hlands := (lands 0 ⟨.dev 0, 44⟩ Word.zero Word.ones 0 after rfl rfl rfl (fun _ h => nomatch h)).1 hread
  have hloads := congrArg (fun s : State => s.gusts.map (·.loads.length)) (Host.Outcome.next.inj hlands)
  exact absurd (loads_loadReturn.symm.trans (hloads.trans loads_emptied)) (by decide)

end Sys2Proof.Machine
end
